-- ==== Sys2Proof/Word.lean ====
section
/-! DEFINITION. The byte, the smallest unit the manual addresses (R7, R10). -/

namespace Sys2Proof

/-- One byte. -/
abbrev Byte := BitVec 8

end Sys2Proof
end

