-- ==== Sys2Proof/Syntax.lean ====
section
/-! DEFINITION. The commands of the block: one constructor per row of spec/opcode_table.json, in the table's order,
with the operands that the command's sender, bus, protocol, pin or timer gives it (log entry 3). Indices that the
hardware decodes into a fixed number of units are bounded by their type; lengths and ranges are WellFormed's. -/

namespace Sys2Proof

/-- A set of the package (0.1). -/
abbrev SetId := Fin 2
/-- A core of a set (R1). -/
abbrev CoreId := Fin 80
/-- A slot of a core (3.2). -/
abbrev SlotId := Fin 8
/-- A stack of a set (Table 0-1). -/
abbrev StackId := Fin 6
/-- A port of a link die (12.1): 0 widdershins, 1 sunwise, 2 XA, 3 XB, 4 Pot. -/
abbrev PortId := Fin 5
/-- A tenant page (13.4). -/
abbrev PageId := Fin 4096
/-- A job context (Table 3-22). -/
abbrev JobId := Fin 4096
/-- A compute die of a set: 0 even-numbered, 1 odd-numbered. -/
abbrev CDie := Fin 2

/-- Symbols that cells of one stored word lose between two commands: the word's set-local address and the pattern that
the 36 symbols b0 to b35 are XORed with (R409, R433). -/
structure Upset where
  addr : Nat
  pat : List Byte
deriving DecidableEq, Repr

/-- One issue event of a core's caller (R62, R63): whether the two sequencers disagree on the descriptor they decoded,
and what the memory cells lost since the last command. -/
structure Issue where
  set : SetId
  core : CoreId
  disagree : Bool
  upsets : List Upset
deriving DecidableEq, Repr

/-- An upset of an array's accumulator in one step (R88): row, column, and the bits flipped. -/
structure CellUpset where
  row : Nat
  col : Nat
  mask : Nat
deriving DecidableEq, Repr

/-- The receiving set's answer to one arriving window write (R137, R148). -/
inductive WinReply where
  | accepted | rejected | unpowered
deriving DecidableEq, Repr

/-- A channel message as it arrives (R314): its sender's (circle, place), core and endpoint, its sequence number and
its body in whole 32-byte units, with the offsets of words that are poisoned. -/
structure ChanMsg where
  place : Nat
  core : Nat
  chan : Nat
  seq : Nat
  body : List Byte
  poisoned : List Nat
deriving DecidableEq, Repr

/-- A stand-in of a fold (R218, R428): the place whose tiles another place injects, that place, and the tiles (half, layer,
owner, tile); none listed means all. -/
structure StandIn where
  lost : Nat
  by_ : Nat
  tiles : List (Nat × Nat × Nat × Nat)
deriving DecidableEq, Repr

/-- What a fold notice names: cut circle links (link j joins places j and j + 1), lost places, places that ask for a stand-in. -/
structure FoldLoss where
  cuts : List Nat
  gone : List Nat
  stand : List StandIn
deriving DecidableEq, Repr

/-- What an OPEN and the MASKs after it say of a session (10.2): its name, AS_PREFIX, the prefix and the positions taken from it, the
most positions, sampling, log-probabilities, drafts, the generator's seed, stop sequences, mask, and the stack it names. -/
structure OpenFacts where
  sid : Nat := 0
  isPrefix : Bool := false
  pfx : Nat := 0xFFFF
  plen : Nat := 0
  maxlen : Nat := 0
  temp : Nat := 0
  topp : Nat := 0
  minp : Nat := 0
  topk : Nat := 0
  nlogp : Nat := 0
  dsrc : Nat := 0
  dmax : Nat := 0
  ngram : Nat := 1
  seed : Nat := 0
  stops : List (List Nat) := []
  maskMode : Nat := 0
  mask : Nat := 0
  want : Option Nat := none
deriving DecidableEq, Repr

/-- What goes with a pass for each of its sessions beside the header (R291, R292; log entry 100): its slot, the commit count of its
previous pass, whether this is its first pass, MAXNEW and the tokens generated for the current INPUT, a status that an earlier
place gave it (0 none), and the facts of its OPEN. -/
structure PassSess where
  slot : Nat
  commit : Nat
  first : Bool
  maxnew : Nat
  gen : Nat
  status : Nat
  facts : OpenFacts
deriving DecidableEq, Repr

/-- What a pass returns of one session (R292): its slot, the commit count, REASON, a status that ends it (0 none), the accepted
tokens, the records that place N − 1 formed, and the drafts for its next pass. -/
structure PassPart where
  slot : Nat
  commit : Nat
  reason : Nat
  status : Nat
  toks : List Nat
  recs : List (List Byte)
  drafts : List Nat
deriving DecidableEq, Repr

/-- What a pass brings back to place 0 (R292): its number, whether it was marked DISCARD (R414), and a part for each session. -/
structure PassRet where
  num : Nat
  discard : Bool
  parts : List PassPart
deriving DecidableEq, Repr

/-- A link end of a set whose retrain can time out: a port's, or the Pot link of a stack (R264). -/
inductive LinkEnd where
  | port (p : PortId)
  | stack (st : StackId)
deriving DecidableEq, Repr

/-- What waits for an answer that does not come within 1 ms (R331, R310): a SEND on an endpoint, the oldest remote SIGNAL of a
slot, a MOVE into a window at a place of the memory queue, or a message of a barrier tree sent by a counter's node. -/
inductive NoAnswer where
  | send (core : CoreId) (chan : Fin 64)
  | signal (core : CoreId) (slot : SlotId)
  | window (core : CoreId) (pos : Nat)
  | barrier (ctr : Nat)
deriving DecidableEq, Repr

/-- How a vendor command arrives (R366, R367, R383): through MCTP or the BAR0 mailbox, inside a secured session or not, and the nonce
and signature it carries. -/
structure Via where
  mctp : Bool
  secured : Bool
  auth : Option (List Byte × List Byte)
deriving DecidableEq, Repr

/-- What a dance card determines and its stated layout does not name (log entry 22): the tile maps of the sets' full and seedling
plans, as 16-byte entries; the tiles (half, layer, owner, tile) of each plan whose streams lie in TIER pieces; each set's fold
reserve: base, size and the largest stored (stage, half) of the revolution, in bytes (R217); and its constants for the step variables
from 6 on (R282). -/
structure CardFacts where
  full0 : List (List Byte) := []
  seed0 : List (List Byte) := []
  full1 : List (List Byte) := []
  seed1 : List (List Byte) := []
  tier0 : List (Nat × Nat × Nat × Nat) := []
  seedTier0 : List (Nat × Nat × Nat × Nat) := []
  tier1 : List (Nat × Nat × Nat × Nat) := []
  seedTier1 : List (Nat × Nat × Nat × Nat) := []
  reserve0 : Nat × Nat × Nat := (0, 0, 0)
  reserve1 : Nat × Nat × Nat := (0, 0, 0)
  consts0 : List Nat := []
  consts1 : List Nat := []
deriving DecidableEq, Repr

/-- A shard of one version (R207): the place that owns it. -/
structure ShardRef where
  owner : Nat
  ver : Nat
deriving DecidableEq, Repr

/-- A catalogue piece of one version (R188). -/
structure PieceRef where
  piece : Nat
  ver : Nat
deriving DecidableEq, Repr

/-- A TIER piece staged at its reader (R213): in the first or the second of the staging region's two revolutions. -/
structure StagedRef where
  piece : Nat
  ver : Nat
  second : Bool
deriving DecidableEq, Repr

/-- A pass that a set's plan starts (R31, R291): how many sessions it puts into it. -/
structure PassPlan where
  set : SetId
  sessions : Nat
deriving DecidableEq, Repr

/-- A repair request (R211): the (circle, place) that asks, and whether it asks the reader for a copy from the host. -/
structure RepairAsk where
  place : Nat
  host : Bool
deriving DecidableEq, Repr

/-- A generic CXL mailbox command (R366): event records of a log, the timestamp, the supported logs, a log's bytes, any other opcode. -/
inductive MboxCmd where
  | getEvents (log : Fin 4)
  | clearEvents (log : Fin 4) (n : Nat)
  | getTimestamp
  | setTimestamp (t : Nat)
  | supportedLogs
  | getLog (off len : Nat)
  | other (op : Nat)
deriving DecidableEq, Repr

/-- An MCTP control request (R367), or the I3C controller's enabling of in-band interrupts (R369). -/
inductive MctpReq where
  | setEid (e : Nat)
  | getEid
  | getTypes
  | ibi (on : Bool)
  | other (cmd : Nat)
deriving DecidableEq, Repr

/-- An SPDM request (R368); NEGOTIATE_ALGORITHMS says for each class whether it offers the supported algorithm. IDE_KM programs a
stream's keys: 0 CXL.io link, 1 selective, 2 CXL.cachemem (R355). -/
inductive SpdmReq where
  | getVersion
  | getCapabilities
  | negotiate (sig hash dhe aead : Bool)
  | getDigests
  | getCertificate (slot off len : Nat)
  | challenge (slot : Nat)
  | keyExchange
  | finish
  | heartbeat
  | keyUpdate
  | endSession
  | keyProg (stream : Fin 3)
  | other (code : Nat)
deriving DecidableEq, Repr

/-- A device access to host memory that failed (R353): of a page's ring or cue, of a session command with its bytes, of the reader's
next piece, of the tier. -/
inductive DmaFail where
  | ring (page : PageId)
  | session (set : SetId) (cmd : List Byte)
  | load (set : SetId)
  | tier (set : SetId)
deriving DecidableEq, Repr

/-- The commands (spec/opcode_table.json). -/
inductive Instr where
  /-- COLD_START (R390): PERST_N deassertion samples the straps, reads the fuses and starts the ROM, which begins the cold-start sequence. -/
  | coldStart (strap : Nat) (nvmOk : Bool)
  /-- PERST_ASSERT (R393): A PERST_N assertion of at least 100 µs resets every die, removes the compute, base-die and DRAM rails and holds the host bridge, I/O and link rails. -/
  | perstAssert (us : Nat)
  /-- VIN_RISE (R480): VIN reaching 10.8 V starts the power die, ramps the host bridge, I/O and link rails and releases PWR_GOOD. -/
  | vinRise (low : Nat) (mv : Nat) (sbAddr : Fin 4)
  /-- VIN_FAULT (R479): VIN outside 10.2 V to 14.0 V for 20 µs removes every rail within 100 µs; the loss is abrupt. -/
  | vinFault (mv : Nat)
  /-- REFCLK_STABLE (R477): REFCLK_SYS has been in tolerance for 1 ms, so the management processor may begin the card checks of step 5. -/
  | refclkStable
  /-- REFCLK_LOSS (R477): REFCLK_SYS out of tolerance for more than 10 µs while the sets run is treated as loss of the package. -/
  | refclkLoss
  /-- CARD_VERIFY (R388): The management processor checks the dance card in order and accepts it, or records a refusal in HB_BOOT. -/
  | cardVerify (facts : CardFacts)
  /-- HBM_TRAIN_DONE (R390): Every stack completes training and zero fill, or is fenced with cause TRAINING. -/
  | hbmTrainDone (failed : List (Fin 12))
  /-- SET_LOCK (R391): Set plans are applied, die-memory segments are filled and both sets pass the set lock point together; slots with RUN start. -/
  | setLock (ms : Nat)
  /-- SEEDLING_START (R395): When every seedling piece is digested clean, the leader starts revolution 1 and the circle enters seedling service. -/
  | seedlingStart (set : SetId) (sec : Nat)
  /-- PROMOTE (R396): At the committed revolution the set kills its jobs, fills the seedling regions, applies the full plan and sends a SWITCH turn. -/
  | promote (set : SetId) (sec : Nat)
  /-- ALIAS_READY (R404): The Alias certificate is issued and signed by the DeviceID key, so SPDM stops answering Busy. -/
  | aliasReady
  /-- POWER_SAMPLE (R43): Every 1 µs the power die measures input power and updates the 1 ms rolling mean. -/
  | powerSample (watts : Nat) (dies : List Nat) (mv : Nat) (deciAmps : Nat)
  /-- ENV_CAP_WRITE (R46): A PD_ENV_CAP write lowers the envelope within 1 ms, is refused with CAP_ERR when out of range, and ends any sprint. -/
  | envCapWrite (v : Nat)
  /-- RAMP_ADMIT (R48): At most every 0.35 µs the ramp limiter admits up to four arrays from the leaving-idle queue. -/
  | rampAdmit (set : SetId) (die : CDie)
  /-- RAMP_RELEASE (R48): At most every 0.35 µs the ramp limiter releases up to four arrays of the entering-idle queue to idle. -/
  | rampRelease (set : SetId) (die : CDie)
  /-- MARK_TIMEOUT (R87): Arrays marking an empty queue reach T_MARK and enter idle. -/
  | markTimeout (set : SetId) (core : CoreId)
  /-- LEND_THRESHOLD (R49): Every slot of a core has waited longer than LEND_US, so the core becomes a lender and its share may raise borrowers' rails. -/
  | lendThreshold (set : SetId) (core : CoreId)
  /-- LEND_RECLAIM (R50): The power manager, notified of a lender's wake, revokes the lent share and lowers the borrowers' rails. -/
  | lendReclaim (set : SetId) (core : CoreId)
  /-- SPRINT_REQUEST (R52): A PD_SPRINT_CTL write with GO grants sprint or records the refusal cause. -/
  | sprintRequest (dur : Nat) (go : Bool)
  /-- SPRINT_DURATION_END (R53): The granted sprint duration elapses; rails return to their range within 2 µs and cooldown begins. -/
  | sprintDurationEnd
  /-- SPRINT_COOLDOWN_END (R54): The sprint cooldown of the longer of 3 × d and 2 s expires. -/
  | sprintCooldownEnd
  /-- JUNCTION_SENSE (R56): A logic-die hot-spot reading is compared with the thermal thresholds. -/
  | junctionSense (die : Fin 20) (temp : Nat) (margin : Nat)
  /-- RAIL_FAULT (R429): A rail monitor detects a failed regulator, raises F_RAIL and loses the set or the package. -/
  | railFault (die : Fin 20)
  /-- FLOOR_BREACH (R57): A replica margin below 1,000 for more than 1 µs sets PD_FLOOR_EVT and raises F_TEMPO_FLOOR with its cause. -/
  | floorBreach (die : Fin 18) (margin : Nat)
  /-- AGEING_STEP (R58): A lowest margin below 1,030 for 10 ms raises V_f by 5 mV, or raises F_TEMPO_FLOOR AGEING at V_class. -/
  | ageingStep (die : Fin 16)
  /-- DESCRIPTOR_FETCH (R68): A slot fetches descriptors from core memory into its prefetch buffer; a bad PC halts it with F_BOUNDS. -/
  | descriptorFetch (set : SetId) (core : CoreId) (slot : SlotId)
  /-- MOVE (R76): MOVE is issued, checked and queued to copy rows locally or into an outgoing window. -/
  | move (ev : Issue)
  /-- COPY (R76): COPY is issued to copy or transpose rows within the compute die's memories. -/
  | copy (ev : Issue)
  /-- FILL (R77): FILL is issued to write a 32-bit pattern through each row. -/
  | fill (ev : Issue)
  /-- GEMM (R78): GEMM is issued, checked, given a scoreboard entry and queued to the arrays. -/
  | gemm (ev : Issue)
  /-- CONV (R79): CONV is issued as a GEMM over input windows. -/
  | conv (ev : Issue)
  /-- VEC (R90): VEC is issued to the vector unit for one elementwise, reduction or conversion operation. -/
  | vec (ev : Issue) (residue : Bool)
  /-- ATTN (R234): ATTN is issued and sent to the stacks named in STACKS. -/
  | attn (ev : Issue)
  /-- SIGNAL (R297): SIGNAL adds n to a local, remote or barrier counter in the caller. -/
  | signal (ev : Issue)
  /-- WAIT (R300): WAIT is satisfied at once or joins the counter's waiter queue, putting the slot in state 4. -/
  | wait (ev : Issue)
  /-- CONSUME (R297): CONSUME subtracts n from a counter at once, faulting on underflow. -/
  | consume (ev : Issue)
  /-- SEND (R314): SEND places a channel message on the send endpoint's route. -/
  | send (ev : Issue)
  /-- FENCE (R82): FENCE holds its slot until the slot's earlier descriptors, and with SCOPE 1 its SENDs and remote signals, are done. -/
  | fence (ev : Issue)
  /-- LOOP (R69): LOOP opens a counted loop from an immediate or clamped step variable and saves the offsets. -/
  | loop (ev : Issue)
  /-- ENDLOOP (R71): ENDLOOP repeats the body with stride additions to the offsets, or exits and restores them. -/
  | endloop (ev : Issue)
  /-- INJECT (R196): INJECT reads a stored stream from the bank in service and sends it as one TILE frame. -/
  | inject (ev : Issue)
  /-- TAKE (R198): TAKE waits for its matching frame, which is expanded into W buffers with check words. -/
  | take (ev : Issue)
  /-- HARVEST (R284): HARVEST scans a logit slice and, with SAMPLE or ACCEPT, finalises rows by filtering, sampling and acceptance. -/
  | harvest (ev : Issue) (residue : Option (Fin 2))
  /-- GRAFT (R181): GRAFT adds x·U·V to a tenant's output rows in two stages, or reuses the graft latch. -/
  | graft (ev : Issue)
  /-- DESCRIPTOR_COMPLETE (R66): A queued descriptor completes, releases its scoreboard entries and adds 1 to DONE when DONE_EN is set. -/
  | descriptorComplete (set : SetId) (core : CoreId) (unit : Fin 5) (pos : Nat)
  /-- ARRAY_STEP (R83): Each cell adds the step's depth-k dot product to its accumulator when its column and row groups have their operands. -/
  | arrayStep (set : SetId) (core : CoreId) (upset : Option CellUpset)
  /-- TILE_DRAIN (R84): At a tile's last step the accumulators move to the drain latches and the check column compares each row. -/
  | tileDrain (set : SetId) (core : CoreId)
  /-- CORE_HEARTBEAT (R67): Every 50 µs of fabric time a core sends a heartbeat to its set fault monitor. -/
  | coreHeartbeat (set : SetId) (core : CoreId)
  /-- HEARTBEAT_TIMEOUT (R421): No heartbeat from a core for 102 µs: the core is declared missing and F_CORE_HEARTBEAT is raised. -/
  | heartbeatTimeout (set : SetId) (core : CoreId)
  /-- LINK_DIE_HEARTBEAT_TIMEOUT (R421): A link die misses its heartbeat to the management processor for 102 µs and its set is lost. -/
  | linkDieHeartbeatTimeout (set : SetId)
  /-- MP_WATCHDOG (R432): The watchdog expires after 100 µs without service; the management processor restarts from staging and F_MP_RESET is raised. -/
  | mpWatchdog
  /-- SEGMENT_POWER_OFF (R138): Clearing a segment's ON bit puts it in draining and sets PENDING. -/
  | segmentPowerOff (set : SetId) (die : CDie) (seg : Fin 9)
  /-- SEGMENT_POWER_ON (R139): Setting a segment's ON bit puts it in powering and starts the zero fill. -/
  | segmentPowerOn (set : SetId) (die : CDie) (seg : Fin 9)
  /-- SEGMENT_DRAIN_END (R138): No earlier descriptor touches the draining segment any longer, so it powers down and its contents are lost. -/
  | segmentDrainEnd (set : SetId) (die : CDie) (seg : Fin 9)
  /-- SEGMENT_READY (R139): A powering segment's fill completes and READY is set. -/
  | segmentReady (set : SetId) (die : CDie) (seg : Fin 9)
  /-- WINDOW_WRITE (R148): A window write arriving from another set is checked against the open windows, entered in the home core's scoreboard, or rejected. -/
  | windowWrite (set : SetId) (sender : Nat) (addr : Nat) (data : List Byte) (poisoned : List Nat)
  /-- WINDOW_WRITE_ACK (R148): The acknowledgement or rejection of a window write returns to the sending MOVE. -/
  | windowWriteAck (set : SetId) (core : CoreId) (pos : Nat) (reply : WinReply)
  /-- CREDIT_GRANT (R146): A window credit grant arrives at the sender and raises its balance, cut at the window size. -/
  | creditGrant (set : SetId) (win : Fin 64) (units : Nat)
  /-- JOB_END (R149): Writing END lets issued descriptors complete and then tears the job down. -/
  | jobEnd (set : SetId) (job : JobId)
  /-- JOB_KILL (R149): Writing KILL stops the job's descriptors at once and starts teardown. -/
  | jobKill (set : SetId) (job : JobId)
  /-- JOB_RELEASE (R152): Writing RELEASE to a HELD job fills its regions and frees it. -/
  | jobRelease (set : SetId) (job : JobId)
  /-- JOB_START (R153): Writing START to a FREE job restores its regions, windows, counters and slots and makes it ACTIVE. -/
  | jobStart (set : SetId) (job : JobId)
  /-- TEARDOWN_SETTLED (R149): Accepted and outgoing window writes settle, so counters are cleared, waiters woken and on-chip regions filled. -/
  | teardownSettled (set : SetId) (job : JobId)
  /-- TEARDOWN_FILL_DONE (R150): The HBM fill of the job's regions completes, and the job becomes FREE or HELD. -/
  | teardownFillDone (set : SetId) (job : JobId)
  /-- SLOT_MAP_WRITE (R179): A CORE_SLOT_MAP write sets SLOT_MAP_PENDING and holds operand-port GEMMs. -/
  | slotMapWrite (set : SetId) (core : CoreId) (v : Nat)
  /-- SLOT_MAP_APPLY (R179): When no operand-port GEMM is queued or executing, the pending mapping comes into force. -/
  | slotMapApply (set : SetId) (core : CoreId)
  /-- TILE_FRAME (R193): An arriving TILE frame is forwarded with HOPS reduced and presented to local TAKEs in canonical order. -/
  | tileFrame (set : SetId) (port : Fin 2) (frame : List Byte) (bad : List Nat)
  /-- TURN_FRAME (R195): An arriving TURN frame is checked for epoch, revolution and version, or discarded as stale. -/
  | turnFrame (set : SetId) (port : Fin 2) (frame : List Byte)
  /-- TURN_SEND (R199): A port sends turn(n) once every frame of revolution n − 1 due on it has been sent. -/
  | turnSend (set : SetId) (port : Fin 2)
  /-- TURN_HANDLE (R200): Both turns delivered and revolution n − 1 consumed and sent, the place takes n into CIRC_REV and begins the step boundary. -/
  | turnHandle (set : SetId)
  /-- CIRC_SWITCH (R203): A CIRC_SWITCH write with GO forwards a version-switch or unfold request to the leader. -/
  | circSwitch (set : SetId) (ver : Nat) (unfold : Bool) (go : Bool)
  /-- CHANGE_REQUEST (R203): The leader receives a change request and queries every place for readiness, or ends it busy or refused. -/
  | changeRequest (set : SetId) (unfold : Bool) (ver : Nat)
  /-- READINESS_QUERY (R203): A place answers whether its new pieces are digested clean or its link retrained. -/
  | readinessQuery (set : SetId) (unfold : Bool) (ver : Nat)
  /-- READINESS_REPLY (R204): The leader receives a readiness answer and, when all are ready, sends COMMIT for S. -/
  | readinessReply (set : SetId) (place : Nat) (ready : Bool)
  /-- READINESS_TIMEOUT (R203): A place is not ready within 1 ms and the request ends with RESULT 3. -/
  | readinessTimeout (set : SetId)
  /-- COMMIT_NOTICE (R204): A place receives COMMIT(S), holds turn(S) and acknowledges. -/
  | commitNotice (set : SetId) (kind : Fin 3) (ver : Nat) (target : Nat) (epoch : Nat)
  /-- COMMIT_ACK (R204): The leader receives a commit acknowledgement and sends CONFIRM when all have arrived. -/
  | commitAck (set : SetId) (place : Nat)
  /-- COMMIT_ACK_TIMEOUT (R204): Not every acknowledgement arrives within 1 ms; the leader sends ABORT with RESULT 2. -/
  | commitAckTimeout (set : SetId)
  /-- CONFIRM (R205): A place receives CONFIRM and releases any held turn(S). -/
  | confirm (set : SetId)
  /-- ABORT (R204): A place receives ABORT and drops the commit. -/
  | abort (set : SetId)
  /-- LOAD_ANNOUNCE (R207): A shard load announcement arrives on the management plane and starts that shard's load timer. -/
  | loadAnnounce (set : SetId) (shard : ShardRef)
  /-- LOAD_FRAME (R208): A LOAD frame is forwarded along the load route and its payload written and digested at the owner or partner. -/
  | loadFrame (set : SetId) (circle : Nat) (frame : List Byte) (bad : List Nat)
  /-- PIECE_REREQUEST (R208): The reader receives a re-request and sends the piece again. -/
  | pieceRerequest (set : SetId) (piece : PieceRef) (repair : Option RepairAsk)
  /-- LOAD_TIMER_EXPIRE (R209): A shard not digested clean when its timer ends is missing. -/
  | loadTimerExpire (set : SetId) (shard : ShardRef)
  /-- WEED_PASS_START (R210): Every WEED_MIN minutes the base dies begin a weeding pass over the set's pieces. -/
  | weedPassStart (set : SetId)
  /-- WEED_PIECE_DONE (R211): A weeded piece's digest is checked; a mismatch raises F_WEED_DIGEST and starts repair. -/
  | weedPieceDone (set : SetId)
  /-- REPAIR_TRANSFER (R211): A repair transfer of a piece arrives, is digested and written in place. -/
  | repairTransfer (set : SetId) (piece : Nat) (ver : Nat) (data : List Byte)
  /-- TIER_PIECE_STAGED (R213): The host bridge finishes staging a TIER piece and signals TIER_CTR. -/
  | tierPieceStaged (set : SetId) (piece : StagedRef) (data : List Byte) (poisoned : List Nat) (lateMs : Nat)
  /-- RESIDENT_SETTLE (R220): A resident piece is copied from HBM to its SRAM address and re-read under the word code. -/
  | residentSettle (set : SetId) (piece : Nat)
  /-- PROMENADE_SWITCH (R221): When every pass in flight has returned, the places settle the new version and place 0 resumes passes. -/
  | promenadeSwitch (set : SetId)
  /-- FOLD_NOTICE (R215): A place's first fold notice of a new epoch stops injecting and taking, discards the step and buffered frames, and acknowledges to the leader. -/
  | foldNotice (set : SetId) (port : Fin 2) (epoch : Nat) (loss : FoldLoss)
  /-- FOLD_ACK (R215): The leader receives fold acknowledgements and, with all of them, sends REFOLD. -/
  | foldAck (set : SetId) (place : Nat) (rev : Nat) (epoch : Nat)
  /-- REFOLD (R215): A place receives REFOLD, sets line mode and stand-ins, restarts its circulation job and sends turn(m). -/
  | refold (set : SetId) (epoch : Nat) (m : Nat) (line : List Nat) (loss : FoldLoss)
  /-- STOP_NOTICE (R214): A stop notice is forwarded, and the place stops, discards its step and ends its sessions with F_CIRC_STOPPED. -/
  | stopNotice (set : SetId) (port : Fin 2)
  /-- ATTN_REQUEST (R236): A stack receives an ATTN request, checks its parameters, performs the appends and deals the attend units. -/
  | attnRequest (set : SetId) (stack : StackId) (core : CoreId)
  /-- ATTN_UNIT_DONE (R242): An engine finishes a unit, combines outstanding blocks and takes or steals the next unit. -/
  | attnUnitDone (set : SetId) (stack : StackId) (engine : Fin 16) (residue : Bool)
  /-- ATTN_SHARE_DONE (R240): The last combination of a stack's share writes the output rows and completes the share. -/
  | attnShareDone (set : SetId) (stack : StackId) (core : CoreId)
  /-- FRAME_SEAL (R247): A fully committed frame's layer block is encoded as a format-2 stream and its seal bit set. -/
  | frameSeal (set : SetId) (stack : StackId) (slot : Nat) (frame : Nat) (layer : Nat) (stream : List Byte)
  /-- STEP_BOUNDARY (R281): With every logit row finalised, the set commits, applies commands, releases and admits sessions, forms drafts and writes shadow bindings. -/
  | stepBoundary (set : SetId)
  /-- EMBEDDING_GATHER_DONE (R246): The next step's embedding gathers complete. -/
  | embeddingGatherDone (set : SetId)
  /-- PASS_START (R291): Place 0 starts a pass for the next ready session and writes its pass header. -/
  | passStart (plan : PassPlan)
  /-- PASS_HEADER (R293): An accepted pass header is copied into the shadow bindings and TURN_CTR is signalled once the previous pass's waits are done. -/
  | passHeader (set : SetId) (bound : List PassSess) (discard : Bool)
  /-- PASS_RETURN (R292): Place 0 receives a pass's accepted tokens, records and commit count and writes the records. -/
  | passReturn (set : SetId) (ret : PassRet)
  /-- STACK_TEMP_READ (R261): Every 100 µs the base die reads its core-die temperatures and enters WARM, HOT or FENCED. -/
  | stackTempRead (set : SetId) (stack : StackId) (temps : List Nat)
  /-- STACK_TEMP_EXIT (R261): Readings at or below a level's exit value for 10 ms leave that level. -/
  | stackTempExit (set : SetId) (stack : StackId)
  /-- STACK_FENCE_WRITE (R264): Writing FENCE in MEM_HBM_CTLs fences the stack with cause OPERATOR. -/
  | stackFenceWrite (set : SetId) (stack : StackId)
  /-- REFRESH (R259): The refresh interval expires and the base die refreshes a bank. -/
  | refresh (set : SetId) (stack : StackId)
  /-- PATROL_PASS_START (R267): Every PATROL_H hours the base die begins a patrol pass over the stack. -/
  | patrolPassStart (set : SetId) (stack : StackId)
  /-- PATROL_READ (R268): A patrol read corrects and writes back a word, raises F_HBM_WORD, or zeroes an uncorrectable line in no region. -/
  | patrolRead (set : SetId) (stack : StackId)
  /-- LOOPBACK_GO (R270): A MEM_HBM_LBs write with GO starts a PRBS loopback run or sets RESULT REFUSED. -/
  | loopbackGo (set : SetId) (stack : StackId) (mode : Fin 4) (chan : Fin 32) (durMs : Nat)
  /-- LOOPBACK_END (R270): After DUR_MS the run ends with RESULT PASS or FAIL. -/
  | loopbackEnd (set : SetId) (stack : StackId) (errors : Nat) (lane : Nat)
  /-- SQ_TAIL_WRITE (R273): A SESS_SQ_PTR.TAIL write makes commands pending, or is ignored and sets SQERR. -/
  | sqTailWrite (page : PageId) (v : Nat)
  /-- SQ_FETCH (R273): The set fetches one command from the next page in round-robin that has a command and CQ room. -/
  | sqFetch (set : SetId) (cmd : List Byte) (data : Option (List Byte))
  /-- CQ_HEAD_WRITE (R274): A SESS_CQ_PTR.HEAD write releases CQ entries, or is ignored and sets CQERR. -/
  | cqHeadWrite (page : PageId) (v : Nat)
  /-- RING_ENABLE (R275): Setting SESS_RING.ENABLE checks VER, sizes and bases, resets the pointers and enables the page. -/
  | ringEnable (page : PageId)
  /-- RING_DISABLE (R275): Clearing ENABLE stops fetching and closes every session of the page at the next boundary. -/
  | ringDisable (page : PageId)
  /-- OPEN (R276): OPEN is accepted into PENDING and reads the stop block, or is refused with an EVENT record. -/
  | openS (set : SetId)
  /-- INPUT (R277): INPUT queues prefill tokens for an IDLE session, waits until it is IDLE, or is refused. -/
  | input (set : SetId)
  /-- DRAFT (R278): DRAFT replaces the session's held host drafts. -/
  | draft (set : SetId)
  /-- MASK (R285): MASK selects a session's mask index and mode. -/
  | mask (set : SetId)
  /-- MASKLOAD (R278): MASKLOAD copies a host bitmap into the mask table at the boundary. -/
  | maskload (set : SetId)
  /-- CLOSE (R278): CLOSE ends generation at the boundary and moves the session to CLOSING. -/
  | close (set : SetId)
  /-- OPEN_TIMEOUT (R276): A PENDING session without a reservation after OPEN_MS ends with F_SESS_NOSPACE. -/
  | openTimeout (set : SetId) (slot : Nat)
  /-- REMOTE_SIGNAL (R304): A remote SIGNAL arrives at the target set and is applied and acknowledged, or returned with REJECT. -/
  | remoteSignal (set : SetId) (sender : Nat) (exp : Fin 4096) (n : Nat)
  /-- REMOTE_SIGNAL_REPLY (R305): An acknowledgement or REJECT reaches the sender; REJECT halts the slot with F_SYNC_REMOTE. -/
  | remoteSignalReply (set : SetId) (core : CoreId) (slot : SlotId) (cause : Nat)
  /-- BARRIER_ARRIVE (R308): A child's combined ARRIVE reaches a node, which forwards or releases when complete. -/
  | barrierArrive (set : SetId) (ctr : Nat) (place : Nat) (cctr : Nat)
  /-- BARRIER_RELEASE (R308): RELEASE resets the node, advances its generation, wakes waiters and goes to its children. -/
  | barrierRelease (set : SetId) (ctr : Nat)
  /-- BARRIER_BROKEN (R310): BROKEN marks the node broken, halts its waiters and is forwarded on. -/
  | barrierBroken (set : SetId) (ctr : Nat) (place : Nat) (fromCtr : Nat)
  /-- HOST_SIGNAL (R311): A SYNC_HSIG write signals a counter of the page's job, or sets HERR. -/
  | hostSignal (page : PageId) (vid : Nat) (n : Nat)
  /-- HOST_WAIT_ARM (R312): A SYNC_HWAITw write with ARM places a host wait in the counter's waiter queue, or sets HERR. -/
  | hostWaitArm (page : PageId) (w : Fin 64) (vid : Nat) (n : Nat) (msix : Bool) (vec : Nat)
  /-- CHAN_MESSAGE (R315): A channel message arrives, is placed in the ring with a record header, signals ARRIVE and is acknowledged, or is NACKed. -/
  | chanMessage (set : SetId) (core : CoreId) (chan : Fin 64) (msg : ChanMsg)
  /-- CHAN_ACK (R314): The acknowledgement of a channel message completes its SEND. -/
  | chanAck (set : SetId) (core : CoreId) (chan : Fin 64)
  /-- CHAN_NACK (R318): A NACK schedules a resend, or halts the slot with F_CHAN_NACK after the last try or NOROUTE. -/
  | chanNack (set : SetId) (core : CoreId) (chan : Fin 64) (reason : Nat)
  /-- CHAN_RETRY (R318): After (BACKOFF + 1) µs of fabric time the NACKed message is sent again. -/
  | chanRetry (set : SetId) (core : CoreId) (chan : Fin 64)
  /-- NOROUTE_TIMEOUT (R331): No acknowledgement or refusal arrives within 1 ms and the originator treats the frame as NOROUTE. -/
  | norouteTimeout (set : SetId) (what : NoAnswer)
  /-- FLIT_RECEIVE (R333): A flit is CRC-checked, accepted in SEQ order or NAKed, and its credits, ACK, time and DOWN fields are applied. -/
  | flitReceive (set : SetId) (port : PortId) (flit : List Byte)
  /-- FEC_ALIGN_LOSS (R325): A bundle's FEC stream loses alignment; a second loss within 1 s excludes the bundle and raises F_LINK_DEGRADED. -/
  | fecAlignLoss (set : SetId) (port : PortId) (bundle : Fin 32)
  /-- CRC_SILENCE (R334): No flit passes its CRC for 2 µs and a retrain is triggered. -/
  | crcSilence (set : SetId) (port : PortId)
  /-- RETRAIN (R334): A triggered retrain realigns and re-equalises the port, then resumes replay from ACK + 1. -/
  | retrain (set : SetId) (port : PortId) (bundles : Nat)
  /-- RETRAIN_TIMEOUT (R335): A retrain not complete 18 µs after its trigger loses the link. -/
  | retrainTimeout (set : SetId) (link : LinkEnd)
  /-- SET_LOSS_CONFIRM (R335): Two neighbours confirm over the control plane that both circle links of a set were lost within 100 µs. -/
  | setLossConfirm (set : SetId) (place : Nat)
  /-- DOWN_END (R335): After sending DOWN for 1 ms, a lost set's link die turns its transmitters off. -/
  | downEnd (set : SetId)
  /-- PORT_DISABLE (R335): Writing DISABLE loses the link and holds the port DISABLED. -/
  | portDisable (set : SetId) (port : PortId)
  /-- PORT_RETRAIN (R334): Writing RETRAIN to an ACTIVE port triggers a retrain. -/
  | portRetrain (set : SetId) (port : PortId)
  /-- PORT_RESCAN (R343): Writing RESCAN to a port that is not ACTIVE retrains it from DETECT and reruns discovery. -/
  | portRescan (set : SetId) (port : PortId)
  /-- PORT_EQUALISE_DONE (R336): Serdes adaptation completes and the port moves to ALIGN. -/
  | portEqualiseDone (set : SetId) (port : PortId) (bundles : Nat)
  /-- PORT_ALIGN_DONE (R336): FEC lock, deskew and flit lock complete and the port moves to IDENT. -/
  | portAlignDone (set : SetId) (port : PortId) (bundles : Nat)
  /-- PORT_MISSING (R338): No signal after DETECT × 10 ms reports the port missing with F_LINK_MISSING. -/
  | portMissing (set : SetId) (port : PortId)
  /-- IDENT_RECORD (R338): The peer's identity record is compared with the port's plan, giving CONFIG, remap or REFUSED with a report. -/
  | identRecord (set : SetId) (port : PortId) (rec : List Byte)
  /-- CONFIG_RECORD (R336): The peer's CONFIG record sets version, features and logical port and the port goes ACTIVE. -/
  | configRecord (set : SetId) (port : PortId) (lp : Fin 8) (remapped : Bool) (tof : Nat)
  /-- PORT_TABLE_REPORT (R340): The lowest place checks a set's port table, raising F_STRAP_DUP or starting the circle degraded. -/
  | portTableReport (set : SetId) (place : Nat) (loc : Nat) (up : Fin 4)
  /-- TIME_SYNC (R344): A child receives a SYNC flit, records t2 and sends DREQ. -/
  | timeSync (set : SetId) (port : PortId) (seq : Nat) (t1 : Nat)
  /-- TIME_DREQ (R344): The parent receives a DREQ and returns DRESP carrying t4. -/
  | timeDreq (set : SetId) (port : PortId) (seq : Nat)
  /-- TIME_DRESP (R345): The child forms delay and offset and steps or slews its fabric time. -/
  | timeDresp (set : SetId) (port : PortId) (seq : Nat) (t4 : Nat)
  /-- TIME_EXCHANGE_TICK (R344): Every 100 µs the parent starts a time exchange with each child. -/
  | timeExchangeTick (set : SetId) (port : PortId)
  /-- TIME_ALT_PARENT (R346): Within 1 ms of holdover the set takes time from its alternate parent. -/
  | timeAltParent (set : SetId) (rootLost : Bool)
  /-- HOLDOVER_REPORT (R346): Each second in holdover without an alternate, F_TIME_HOLDOVER is reported again. -/
  | holdoverReport (set : SetId)
  /-- HOST_LINK_DOWN (R354): A link down, hot reset or Bus Master Enable clear stops host traffic, disables every page and raises F_HOST_LINK. -/
  | hostLinkDown (cause : Fin 3)
  /-- HOST_DMA_FAIL (R353): A failed device access to host memory fails its command, counts a re-request, retries the tier read, or disables the page. -/
  | hostDmaFail (what : DmaFail)
  /-- IDE_STATE_CHANGE (R355): An IDE stream becomes secure or leaves the secure state; with IDE_REQ host traffic is held or released. -/
  | ideStateChange (io : Bool) (cm : Bool)
  /-- HDM_ACCESS (R357): A host access to the HDM window is served with back-invalidation, or poisoned or dropped when the job is not ACTIVE. -/
  | hdmAccess (set : SetId) (off : Nat) (len : Nat) (data : Option (List Byte))
  /-- APERTURE_READ (R361): An aperture read returns the word, zeros with RD_ERR, or poison. -/
  | apertureRead (aper : Fin 4) (off : Nat) (len : Nat)
  /-- APERTURE_WRITE (R361): An aperture write is performed when its region allows it, or dropped with WR_DROP. -/
  | apertureWrite (aper : Fin 4) (off : Nat) (data : List Byte)
  /-- REGISTER_WRITE (R11): A host write to a register without behaviour of its own sets fields under their access codes, or completes UR when badly sized. -/
  | registerWrite (bar : Nat) (addr : Nat) (data : List Byte)
  /-- READ_CLEAR (R456): A BAR0 read covering a read-clear field returns and clears it. -/
  | readClear (bar : Nat) (addr : Nat) (len : Nat)
  /-- TRANSFER_FW (R379): Transfer FW collects and verifies a firmware image and writes the firmware region. -/
  | transferFw (action : Fin 5) (off : Nat) (data : List Byte)
  /-- ACTIVATE_FW (R379): Activate FW accepts activation at the next restart, or in RECOVERY verifies the region and continues the start. -/
  | activateFw (atRestart : Bool)
  /-- GET_FW_INFO (R379): Get FW Info reports the single firmware slot. -/
  | getFwInfo
  /-- IDENTIFY (R378): The mailbox Identify command returns the device identity. -/
  | identify
  /-- GET_BOOT (R407): GET_BOOT returns HB_BOOT, HB_BOOT_T and HB_OWNER. -/
  | getBoot (via : Via)
  /-- NONCE (R383): NONCE issues a single-use nonce valid for 60 s. -/
  | nonce (via : Via)
  /-- NONCE_EXPIRE (R383): A nonce unused after 60 s becomes invalid. -/
  | nonceExpire
  /-- CARD_WRITE (R375): CARD_WRITE writes up to 1 MiB into the dance-card region of NVM. -/
  | cardWrite (via : Via) (off : Nat) (data : List Byte)
  /-- CARD_CHECK (R407): CARD_CHECK runs checks 1 to 6 of R388 on the card in NVM. -/
  | cardCheck (via : Via) (facts : CardFacts)
  /-- SUPP_WRITE (R401): SUPP_WRITE sends a piece of a catalogue supplement. -/
  | suppWrite (via : Via) (off : Nat) (data : List Byte)
  /-- SUPP_COMMIT (R401): SUPP_COMMIT verifies the supplement and writes it to the supplement region, or refuses it. -/
  | suppCommit (via : Via)
  /-- RESTART (R398): RESTART kills every job, writes the almanac, sends DOWN, puts stacks in self-refresh, resets the logic dies and verifies firmware. -/
  | restart (via : Via)
  /-- SHUTDOWN (R400): SHUTDOWN runs the first restart steps and sets STAGE OFF. -/
  | shutdown (via : Via)
  /-- ENROL_BEGIN (R381): ENROL_BEGIN takes a new owner modulus and returns a nonce, pending for 60 s. -/
  | enrolBegin (via : Via) (modulus : List Byte)
  /-- ENROL_CONFIRM (R381): ENROL_CONFIRM verifies the signature, burns the owner hash and rereads the card. -/
  | enrolConfirm (via : Via) (sig : List Byte)
  /-- ENROL_TIMEOUT (R381): A pending enrolment not confirmed within 60 s is cleared. -/
  | enrolTimeout
  /-- OWNER_RELEASE (R382): OWNER_RELEASE burns the revoke bit of the active owner slot. -/
  | ownerRelease (via : Via)
  /-- VENDOR_UNKNOWN (R407): An unlisted vendor opcode answers INPUT. -/
  | vendorUnknown (via : Via) (op : Nat)
  /-- SPDM_REQUEST (R368): An SPDM request over DOE or MCTP is answered as responder with the supported capabilities and algorithms. -/
  | spdmRequest (req : SpdmReq)
  /-- GET_MEASUREMENTS (R405): GET_MEASUREMENTS returns the measurement blocks taken so far. -/
  | getMeasurements (index : Nat)
  /-- MCTP_CONTROL (R367): An MCTP control message is answered by the endpoint. -/
  | mctpControl (binding : Fin 2) (req : MctpReq)
  /-- FAULT_RECORD (R437): A fault record reaching the management processor raises vector 0, posts a CXL event, raises an IBI and is copied to the fault ring. -/
  | faultRecord (set : SetId) (rec : List Byte)
  /-- ALMANAC_SECOND (R442): Each second of fabric time adds to the histogram bins, POWERED_S and CLASS_S. -/
  | almanacSecond
  /-- ALMANAC_INTERVAL (R443): Every INTERVAL minutes an almanac write to the other copy begins. -/
  | almanacInterval
  /-- ALMANAC_WRITE_DONE (R441): An almanac write is read back valid and the other copy is erased. -/
  | almanacWriteDone (ok : Bool)
  /-- ALM_READ (R407): ALM_READ returns up to 1 MiB of the in-memory almanac. -/
  | almRead (via : Via) (off : Nat) (len : Nat)
  /-- ALM_FLUSH (R443): ALM_FLUSH starts an almanac write. -/
  | almFlush (via : Via)
  /-- RING_READ (R446): RING_READ returns up to 256 fault-ring records. -/
  | ringRead (via : Via) (first : Nat) (count : Nat)
  /-- CAL_READ (R448): CAL_READ returns up to 1 MiB of the calibration block. -/
  | calRead (via : Via) (off : Nat) (len : Nat)
  /-- CAL_ARM (R448): CAL_ARM returns a 4-byte code for unlocking the calibration block. -/
  | calArm (via : Via)
  /-- CAL_CONFIRM (R448): CAL_CONFIRM with the code and owner authority unlocks the calibration block for 600 s. -/
  | calConfirm (via : Via) (code : List Byte)
  /-- CAL_WRITE (R448): CAL_WRITE places bytes in the calibration staging copy. -/
  | calWrite (via : Via) (off : Nat) (data : List Byte)
  /-- CAL_COMMIT (R448): CAL_COMMIT checks the staged copy, sets ORIGIN and WRITES, erases and programs the block and sets CAL_OVER. -/
  | calCommit (via : Via)
  /-- CAL_UNLOCK_EXPIRE (R448): The calibration unlock lapses after 600 s. -/
  | calUnlockExpire
  /-- DEBUG_HOLD (R449): Setting HOLD bits in CORE_DBG moves slots into state 7 as their state allows. -/
  | debugHold (set : SetId) (core : CoreId) (slots : Fin 256)
  /-- DEBUG_RELEASE (R450): Clearing HOLD returns a held slot to the state it would otherwise hold. -/
  | debugRelease (set : SetId) (core : CoreId) (slots : Fin 256)
  /-- DEBUG_STEP (R450): Writing STEP issues exactly one descriptor of a held slot and records its TAG. -/
  | debugStep (set : SetId) (core : CoreId) (slots : Fin 256)
  /-- PORT_SIGNAL_DETECT (R338): Signal detected on a bundle moves a port in DETECT to EQUALISE, or keeps an UNUSED port UNUSED and raises F_LINK_EXTRA. -/
  | portSignalDetect (set : SetId) (port : PortId)
  /-- HOST_LINK_UP (R350): The host port completes Flex Bus negotiation and training and sets HB_CAP.MODE and WIDTH, after which host traffic and loading may run. -/
  | hostLinkUp (mode : Fin 6) (width : Nat) (cache : Bool) (mem : Bool) (bme : Bool) (msix : Bool)
  /-- FULL_LOAD_DONE (R396): When the full load is complete at every place in service, the leader starts revolution 1 of a circle without a seedling plan, or requests the promotion itself. -/
  | fullLoadDone (set : SetId) (sec : Nat)
  /-- PIECE_FETCH_DONE (R207): The reader's fetch of a piece from host memory over CXL completes and the piece is sent as LOAD frames to owner and partner, then the next piece in catalogue order is fetched. -/
  | pieceFetchDone (set : SetId) (data : Option (List Byte))
  /-- MP_RESTART_DONE (R432): The management processor restarted from staging resumes, delivers the waiting fault reports in order and accepts vendor commands again. -/
  | mpRestartDone
  /-- TAP_INSTRUCTION (R474): A JTAG TAP operation executes BYPASS, SAMPLE/PRELOAD, EXTEST or IDCODE, EXTEST and SAMPLE/PRELOAD only while PERST_N is asserted. -/
  | tapInstruction (ir : Fin 4) (lands : List Byte)
  /-- CXL_MAILBOX_COMMAND (R366): A CXL generic mailbox command for events, logs or timestamp is executed, such as clearing event records or setting the timestamp. -/
  | cxlMailboxCommand (cmd : MboxCmd)
deriving DecidableEq, Repr

end Sys2Proof
end

