-- ==== Sys2Proof/Machine/Bits.lean ====
section
/-! DEFINITION. Numbers as bit strings and byte lists: fields of a word, little-endian order (R10), sign extension. -/

namespace Sys2Proof

/-- Bits `lo` to `lo + len - 1` of `w`. -/
def bits (w lo len : Nat) : Nat := w / 2 ^ lo % 2 ^ len

/-- Bit `i` of `w`. -/
def bit (w i : Nat) : Bool := w / 2 ^ i % 2 == 1

/-- `w` with bits `lo` to `lo + len - 1` replaced by the low bits of `v`. -/
def putBits (w lo len v : Nat) : Nat :=
  w - bits w lo len * 2 ^ lo + v % 2 ^ len * 2 ^ lo

/-- The number a little-endian byte list spells (R10). -/
def leNat : List Byte → Nat
  | [] => 0
  | b :: t => b.toNat + 256 * leNat t

/-- `n` bytes of `v`, little-endian (R10). -/
def leBytes : Nat → Nat → List Byte
  | 0, _ => []
  | n + 1, v => BitVec.ofNat 8 v :: leBytes n (v / 256)

/-- A number as a Bool's bit. -/
def bitOf (b : Bool) : Nat := if b then 1 else 0

/-- The signed value of the low `n` bits of `v`. -/
def signed (n v : Nat) : Int :=
  let w := v % 2 ^ n
  if w < 2 ^ (n - 1) then (w : Int) else (w : Int) - 2 ^ n

/-- The low `n` bits of a signed value. -/
def unsigned (n : Nat) (v : Int) : Nat := (v % (2 ^ n : Int)).toNat

/-- The first byte is the most significant. -/
def beNat (l : List Byte) : Nat := l.foldl (fun a b => 256 * a + b.toNat) 0

/-- `n` bytes of `v`, the most significant first. -/
def beBytes (n v : Nat) : List Byte := (leBytes n v).reverse

/-- The bytes `lo` to `lo + len - 1` of a list; places past the end read zero. -/
def slice (l : List Byte) (lo len : Nat) : List Byte :=
  let t := (l.drop lo).take len
  t ++ List.replicate (len - t.length) 0

/-- The little-endian number in bytes `lo` to `lo + len - 1`. -/
def leAt (l : List Byte) (lo len : Nat) : Nat := leNat ((l.drop lo).take len)

/-- The bytes of a word of a 32-bit code: text of ASCII characters. -/
def ascii (t : String) : List Byte := t.toList.map fun c => BitVec.ofNat 8 c.toNat

end Sys2Proof
end

