-- ==== Sys2Proof/Machine/Crypto.lean ====
section
/-! DEFINITION. SHA-256, HMAC-SHA-256, HMAC_DRBG (R403), RSASSA-PSS verification (R375) and the CRC-64 of R326. -/

namespace Sys2Proof.Machine

/-! ## SHA-256 -/

/-- A 32-bit word. -/
def w32 (n : Nat) : Nat := n % 4294967296

/-- The sum modulo 2 of a word rotated right by each of some counts. -/
def rotSum (ns : List Nat) (x : Nat) : Nat := ns.foldl (fun a n => a ^^^ (x >>> n) ^^^ w32 (x <<< (32 - n))) 0

/-- Primes below 312, in order: the first 64. -/
def shaPrimes : List Nat := (List.range 312).filter fun p => 2 ≤ p && (List.range 16).all fun d => d + 2 == p || p % (d + 2) != 0

/-- The first 32 bits behind the point of the k-th root of `p`, by its bits from 2^4 down. -/
def rootBits (k p : Nat) : Nat :=
  w32 ((List.range 37).foldl (fun r j => if (r + 2 ^ (36 - j)) ^ k ≤ p * 2 ^ (32 * k) then r + 2 ^ (36 - j) else r) 0)

/-- The round constants of SHA-256: of the cube roots of the first 64 primes. -/
def shaK : List Nat := shaPrimes.map (rootBits 3)

/-- The initial hash value of SHA-256: of the square roots of the first eight primes. -/
def shaH : List Nat := (shaPrimes.take 8).map (rootBits 2)

/-- Cut a list into pieces of `n`, at most `k` of them. -/
def chunks {α : Type} (n : Nat) : Nat → List α → List (List α)
  | 0, _ => []
  | k + 1, l => if l.isEmpty then [] else l.take n :: chunks n k (l.drop n)

/-- Extend the message schedule; the newest word stands first. -/
def shaExtend : Nat → List Nat → List Nat
  | 0, w => w
  | k + 1, w =>
    let (x, y) := (w.getD 14 0, w.getD 1 0)
    let add := (rotSum [7, 18] x ^^^ (x >>> 3)) + (rotSum [17, 19] y ^^^ (y >>> 10))
    shaExtend k (w32 (w.getD 15 0 + w.getD 6 0 + add) :: w)

/-- One round on the working words, of which the first three and the middle three are mixed. -/
def shaRound (v : List Nat) (kw : Nat × Nat) : List Nat :=
  match v with
  | x0 :: x1 :: x2 :: x3 :: [y0, y1, y2, y3] =>
    let pick := y2 ^^^ (y0 &&& (y1 ^^^ y2))
    let most := (x0 &&& x1) ||| (x2 &&& (x0 ||| x1))
    let t := y3 + rotSum [6, 11, 25] y0 + pick + kw.1 + kw.2
    w32 (t + rotSum [2, 13, 22] x0 + most) :: x0 :: x1 :: x2 :: w32 (x3 + t) :: [y0, y1, y2]
  | _ => v

/-- One block of 64 bytes. -/
def shaBlock (h : List Nat) (blk : List Byte) : List Nat :=
  let w := (chunks 4 16 blk).map beNat
  let sched := (shaExtend 48 w.reverse).reverse
  List.zipWith (fun a b => w32 (a + b)) h ((shaK.zip sched).foldl shaRound h)

/-- SHA-256 of a byte string. -/
def sha256 (m : List Byte) : List Byte :=
  let l := m.length
  let pad := m ++ [0x80#8] ++ List.replicate ((119 - l % 64) % 64) 0 ++ beBytes 8 (8 * l)
  let hs := (chunks 64 (pad.length / 64 + 1) pad).foldl shaBlock shaH
  hs.flatMap fun v => beBytes 4 v

/-- HMAC-SHA-256. -/
def hmac (key m : List Byte) : List Byte :=
  let k0 := if key.length > 64 then sha256 key else key
  let k := k0 ++ List.replicate (64 - k0.length) 0
  sha256 (k.map (fun b => b ^^^ 0x5C#8) ++ sha256 (k.map (fun b => b ^^^ 0x36#8) ++ m))

/-- An HMAC_DRBG with SHA-256 (NIST SP 800-90A): its key and its value. -/
structure Drbg where
  key : List Byte
  v : List Byte
deriving DecidableEq, Repr

/-- The generator takes data in. -/
def drbgUpdate (g : Drbg) (data : List Byte) : Drbg :=
  let mix (g : Drbg) (tag : Byte) : Drbg :=
    let k := hmac g.key (g.v ++ [tag] ++ data)
    ⟨k, hmac k g.v⟩
  if data.isEmpty then mix g 0 else mix (mix g 0) 1

/-- A generator seeded with bytes. -/
def drbgSeed (seed : List Byte) : Drbg := drbgUpdate ⟨List.replicate 32 0, List.replicate 32 1⟩ seed

/-- The next `32 × n` bytes of a generator. -/
def drbgBytes : Nat → Drbg → List Byte × Drbg
  | 0, g => ([], drbgUpdate g [])
  | n + 1, g =>
    let v := hmac g.key g.v
    let (l, g) := drbgBytes n ⟨g.key, v⟩
    (v ++ l, g)

/-! ## RSASSA-PSS -/

/-- b^e mod n over the low `k` bits of e. -/
def powMod : Nat → Nat → Nat → Nat → Nat
  | 0, _, _, n => 1 % n
  | k + 1, b, e, n =>
    let r := powMod k (b * b % n) (e / 2) n
    if e % 2 = 1 then r * b % n else r

/-- MGF1 with SHA-256, `n` bytes. -/
def mgf1 (seed : List Byte) (n : Nat) : List Byte :=
  ((List.range ((n + 31) / 32)).flatMap fun c => sha256 (seed ++ beBytes 4 c)).take n

/-- RSASSA-PSS verification with SHA-256, MGF1 of SHA-256, a 32-byte salt and an exponent below 2^32, on a modulus of
`8 * len` bits whose first bit is set. -/
def pssVerify (len modulus expo : Nat) (msg sig : List Byte) : Bool :=
  let sg := beNat sig
  if sig.length != len || modulus ≤ sg then false
  else
    let em := beBytes len (powMod 32 sg expo modulus)
    let dbLen := len - 33
    let masked := em.take dbLen
    let h := (em.drop dbLen).take 32
    let db := (List.zipWith (fun a b => a ^^^ b) masked (mgf1 h dbLen)).mapIdx fun j b => if j = 0 then b &&& 0x7F#8 else b
    let salt := db.drop (dbLen - 32)
    (em.getLast? == some 0xBC#8) && ((em.getD 0 0) &&& 0x80#8 == 0#8) &&
      (db.take (dbLen - 32) == List.replicate (dbLen - 33) 0#8 ++ [0x01#8]) &&
      (sha256 (List.replicate 8 0 ++ sha256 msg ++ salt) == h)

/-! ## CRC-64 (R326) -/

/-- One byte into the reflected CRC register. -/
def crcByte (c : Nat) (b : Byte) : Nat :=
  (List.range 8).foldl (fun a _ => if a % 2 = 1 then (a >>> 1) ^^^ 0xC96C5795D7870F42 else a >>> 1) (c ^^^ b.toNat)

/-- CRC-64 with the polynomial of ECMA-182, reflected, all ones in and out. -/
def crc64 (d : List Byte) : Nat := d.foldl crcByte 0xFFFF_FFFF_FFFF_FFFF ^^^ 0xFFFF_FFFF_FFFF_FFFF

end Sys2Proof.Machine
end

