-- ==== Sys2Proof/Config.lean ====
section
/-! DEFINITION. What an implementation fixes and the manual leaves open: constants without a value. -/

namespace Sys2Proof.Config

/-- The free values (log entry 5): the n-th value the manual does not state. Nothing is known about it. -/
opaque freeValue : Nat → Nat

/-- The words of the configuration header that no rule states, as the vendor and device IDs (R356; log entry 102). -/
opaque cfgHeader : Nat → Nat

/-- The public key of the RSA-3072 pair that a generator of this key and value yields (R403; log entry 103). -/
opaque rsaPublic : List (BitVec 8) → List (BitVec 8) → List (BitVec 8)

/-- The certificate chain of slot 0 in DER (R404; log entry 103): of the DeviceID key, the Alias key, BODY_DIGEST, FWVER and SVN. -/
opaque certChain : List (BitVec 8) → List (BitVec 8) → List (BitVec 8) → Nat → Nat → List (BitVec 8)

/-- How far apart the two revolutions of a tier staging region lie (R213; log entry 88). -/
opaque tierHalf : Nat

end Sys2Proof.Config
end

