-- ==== Sys2Proof/Machine/Regs.lean ====
section
/-! DEFINITION. The registers of the package, one constructor per register of Tables 17-2, 17-3 and 13-5 and one per
field of the register tables, with each field's place, access code (R11) and reset value. Written from the spec's
register tables row by row. Log entries 1 and 2 name the reset values the spec does not give. -/

namespace Sys2Proof.Machine

/-- R11, Table 0-8: access codes. -/
inductive Acc where
  | r | rw | w1c | wo | rh | rwl
deriving DecidableEq, Repr

/-- The three views of 17.1: package registers (BAR0), set registers (an offset in the set's MMIO), tenant pages. -/
inductive View where
  | pkg | set | page
deriving DecidableEq, Repr

/-- Every register of the manual, under the manual's own name. -/
inductive Reg where
  | HB_CAP | HB_HOSTCFG | HB_HOST_STAT | HB_BOOT | HB_BOOT_T | HB_OWNER
  | HB_APERa | HB_HDMs | HB_PAGEt_CFG | PD_CLASS | PD_ENV_CAP | PD_SPRINT_CTL
  | PD_SPRINT_STAT | PD_SPRINT_LIFE | PD_FLOOR_EVT | PD_POWER | PD_SENSE | PD_TEMPOn
  | SEC_STAT | ALM_CFG | ALM_STAT | ALM_HOURS | ARR_MAPm | HB_PAGE_ID
  | HB_PAGE_CAP | HB_PAGE_ERR | HB_PAGE_IRQ | SESS_SQ_BASE | SESS_CQ_BASE | SESS_RING
  | SESS_SQ_PTR | SESS_CQ_PTR | SESS_PAGE_STAT | SYNC_HSIG | SYNC_HPEEK | SYNC_CUE_BASE
  | SYNC_HSTAT | SYNC_HWAITw | SET_FCFG | SET_FSTAT | SET_FLOG_PTR | SET_PRUNE_BASE
  | SET_PRUNED_0 | SET_PRUNED_1 | SET_FLOGe_w | CORE_CAP | CORE_FMT_CAP | CORE_CVT_STAT
  | CORE_SB_STAT | CORE_OPX | CORE_SLOT_MAP | CORE_OPX_STAT | CORE_GRAFT_STAT | CORE_DBG
  | CORE_SLOTn_PC | CORE_SLOTn_CFG | CORE_SLOTn_STAT | CORE_STEPVARn_v | ARR_CHKCFG | ARR_STATp
  | MEM_CAPd | MEM_SEGPWRd | MEM_SRAMERRd | MEM_SRAMERRADDRd | MEM_FILLCFG | MEM_HBM_CAP
  | MEM_HBM_PATROL | MEM_DISTk | MEM_HBM_LBs | MEM_HBM_TEMPs | MEM_HBM_CTLs | MEM_HBM_ERRs
  | MEM_HBM_ERRADDRs | MEM_WINw_0 | MEM_WINw_1 | MEM_OWINw_0 | MEM_OWINw_1 | MEM_JOBj
  | MEM_RGNi_0 | MEM_RGNi_1 | MSE_CAP | MSE_KVCFG | MSE_EMBCFG_0 | MSE_EMBCFG_1
  | MSE_EMBDEST | MSE_ERR | MSE_CVT_STAT | MSE_STRIPE | MSE_STKs_0 | MSE_STKs_1
  | MSE_STKs_2 | MSE_STATs | LINK_CAP | LINK_IDENT | LINK_XP_CAP | LINK_FT
  | LINK_FT_CFG | LINK_FT_STAT | LINK_XP_CNTp | LINK_XP_ERRp | LINK_PORTp_CFG_0 | LINK_PORTp_CFG_1
  | LINK_PORTp_STAT_0 | LINK_PORTp_STAT_1 | LINK_PORTp_CTL | LINK_PORTp_CNT_0 | LINK_PORTp_CNT_1 | LINK_PORTp_EVT
  | LINK_LOADRTi | LINK_RTc | CIRC_CFG | CIRC_BANKOFS | CIRC_REV | CIRC_STAT
  | CIRC_SWITCH | CIRC_SWITCH_STAT | CIRC_LOAD | CIRC_TIMERS | CIRC_WEED_STAT | CIRC_ERR
  | CIRC_AUX | SYNC_CAP | SYNC_LEND | SYNC_JOBj | SYNC_EXPe | SYNC_BNODEi_0
  | SYNC_BNODEi_1 | SYNC_CTRp_0 | SYNC_CTRp_1 | SYNC_CTRp_2 | SYNC_CTRp_3 | CHAN_STAT
  | CHAN_TXk_c_0 | CHAN_TXk_c_1 | CHAN_RXk_c_0 | CHAN_RXk_c_1 | CHAN_RXk_c_2 | SESS_CAP
  | SESS_CFG_0 | SESS_BASE_0 | SESS_BASE_1 | SESS_BASE_2 | SESS_BASE_3 | SESS_BASE_4
  | SESS_BASE_5
deriving DecidableEq, Repr

/-- Every field of every register: the register's name, then the field's. -/
inductive Field where
  | HB_CAP_MODE | HB_CAP_WIDTH | HB_CAP_CACHE | HB_CAP_MEM | HB_CAP_IDE_IO | HB_CAP_IDE_CM | HB_CAP_QVER | HB_CAP_DCVER | HB_CAP_FIGVER | HB_CAP_SVER | HB_CAP_QLPV
  | HB_HOSTCFG_SHARE0 | HB_HOSTCFG_SHARE1 | HB_HOSTCFG_IDE_REQ
  | HB_HOST_STAT_LINK | HB_HOST_STAT_DMA | HB_HOST_STAT_IDE | HB_HOST_STAT_HELD | HB_HOST_STAT_LINKDOWNS | HB_HOST_STAT_DMAERRS
  | HB_BOOT_STAGE | HB_BOOT_CAUSE | HB_BOOT_SECTION | HB_BOOT_INDEX | HB_BOOT_ACT_PENDING
  | HB_BOOT_T_LOCK_MS | HB_BOOT_T_SEED_S | HB_BOOT_T_FULL_S
  | HB_OWNER_SLOT | HB_OWNER_STATE | HB_OWNER_ENROLLED | HB_OWNER_REVOKED | HB_OWNER_SVN_FUSE
  | HB_APERa_BASE | HB_APERa_SET | HB_APERa_EN | HB_APERa_RD_ERR | HB_APERa_WR_DROP | HB_APERa_POISON
  | HB_HDMs_BASE | HB_HDMs_SIZE | HB_HDMs_HDM_ERR
  | HB_PAGEt_CFG_BOUND | HB_PAGEt_CFG_SET | HB_PAGEt_CFG_JOB | HB_PAGEt_CFG_PASID | HB_PAGEt_CFG_PASID_EN | HB_PAGEt_CFG_VEC_FIRST | HB_PAGEt_CFG_VEC_COUNT
  | PD_CLASS_CLASS | PD_CLASS_COOL | PD_CLASS_ENV | PD_CLASS_P_PLAN | PD_CLASS_T_MARK | PD_CLASS_LEND | PD_CLASS_SPRINT_OK | PD_CLASS_ACCEPTED
  | PD_ENV_CAP_CAP | PD_ENV_CAP_CAP_ERR
  | PD_SPRINT_CTL_DUR | PD_SPRINT_CTL_GO
  | PD_SPRINT_STAT_ACTIVE | PD_SPRINT_STAT_LEFT | PD_SPRINT_STAT_END | PD_SPRINT_STAT_REFUSE | PD_SPRINT_STAT_COOL_LEFT
  | PD_SPRINT_LIFE_USED | PD_SPRINT_LIFE_RESERVE | PD_SPRINT_LIFE_EXHAUSTED
  | PD_FLOOR_EVT_ENVELOPE | PD_FLOOR_EVT_THERMAL | PD_FLOOR_EVT_AGEING | PD_FLOOR_EVT_SUPPLY | PD_FLOOR_EVT_UNEXPLAINED | PD_FLOOR_EVT_DIE | PD_FLOOR_EVT_ACTIVE
  | PD_POWER_MEAN_1MS | PD_POWER_PEAK_1US
  | PD_SENSE_VIN | PD_SENSE_IIN | PD_SENSE_TJ_HB | PD_SENSE_TJ_PD
  | PD_TEMPOn_VSET | PD_TEMPOn_VF | PD_TEMPOn_MARGIN | PD_TEMPOn_TJ | PD_TEMPOn_AGE
  | SEC_STAT_ALIAS_READY | SEC_STAT_MEAS | SEC_STAT_HOLD_SEEN | SEC_STAT_CAL_UNLOCK_SEEN | SEC_STAT_SPDM_OPEN | SEC_STAT_IDE_KEYED
  | ALM_CFG_INTERVAL | ALM_CFG_DEBUG_OK
  | ALM_STAT_SEQ | ALM_STAT_SINCE_S | ALM_STAT_LOST | ALM_STAT_WRITE_ERR | ALM_STAT_CAL_BAD | ALM_STAT_CAL_ORIGIN | ALM_STAT_CAL_UNLOCKED
  | ALM_HOURS_POWERED_H | ALM_HOURS_POWER_CYCLES
  | ARR_MAPm_EN
  | HB_PAGE_ID_PAGE | HB_PAGE_ID_SET | HB_PAGE_ID_LOST | HB_PAGE_ID_VECS
  | HB_PAGE_CAP_CAP
  | HB_PAGE_ERR_HOSTERR | HB_PAGE_ERR_LINKDOWN | HB_PAGE_ERR_VEC_DROP
  | HB_PAGE_IRQ_CQ_EN | HB_PAGE_IRQ_CQ_VEC
  | SESS_SQ_BASE_ADDR
  | SESS_CQ_BASE_ADDR
  | SESS_RING_SQ_LOG2 | SESS_RING_CQ_LOG2 | SESS_RING_ENABLE | SESS_RING_VER | SESS_RING_VERR | SESS_RING_CFGERR | SESS_RING_SQERR | SESS_RING_CQERR
  | SESS_SQ_PTR_TAIL | SESS_SQ_PTR_HEAD
  | SESS_CQ_PTR_HEAD | SESS_CQ_PTR_TAIL
  | SESS_PAGE_STAT_OPEN | SESS_PAGE_STAT_HELD | SESS_PAGE_STAT_HELDSTEPS
  | SYNC_HSIG_VID | SYNC_HSIG_N
  | SYNC_HPEEK_VID | SYNC_HPEEK_VALUE
  | SYNC_CUE_BASE_ADDR
  | SYNC_HSTAT_HERR | SYNC_HSTAT_HCAUSE
  | SYNC_HWAITw_VID | SYNC_HWAITw_ARM | SYNC_HWAITw_MSIX | SYNC_HWAITw_VEC | SYNC_HWAITw_N
  | SET_FCFG_VEC_SEV | SET_FCFG_MASKED_LOG
  | SET_FSTAT_MASKED | SET_FSTAT_SESSION | SET_FSTAT_JOB | SET_FSTAT_PRUNE | SET_FSTAT_LOST | SET_FSTAT_LAST | SET_FSTAT_COUNT
  | SET_FLOG_PTR_HEAD | SET_FLOG_PTR_WRAPPED
  | SET_PRUNE_BASE_BASE
  | SET_PRUNED_0_CORES
  | SET_PRUNED_1_CORES | SET_PRUNED_1_HARV0 | SET_PRUNED_1_HARV1
  | SET_FLOGe_w_REC
  | CORE_CAP_WBUF | CORE_CAP_ABUF | CORE_CAP_PBUF | CORE_CAP_CMEM | CORE_CAP_SLOTS | CORE_CAP_ARRAYS | CORE_CAP_DIM | CORE_CAP_FIG_VER | CORE_CAP_VLANES
  | CORE_FMT_CAP_CODES
  | CORE_CVT_STAT_SAT_CNT | CORE_CVT_STAT_NAN0_CNT | CORE_CVT_STAT_SAT | CORE_CVT_STAT_NAN0 | CORE_CVT_STAT_SCALE_NAN
  | CORE_SB_STAT_INUSE | CORE_SB_STAT_PEAK | CORE_SB_STAT_WAITS
  | CORE_OPX_BASE | CORE_OPX_SIZE
  | CORE_SLOT_MAP_MAP0 | CORE_SLOT_MAP_MAP1 | CORE_SLOT_MAP_MAP2 | CORE_SLOT_MAP_MAP3 | CORE_SLOT_MAP_INFORCE | CORE_SLOT_MAP_SLOT_MAP_PENDING
  | CORE_OPX_STAT_BLOCKS | CORE_OPX_STAT_LAG | CORE_OPX_STAT_CAUSE
  | CORE_GRAFT_STAT_HITS | CORE_GRAFT_STAT_MISSES
  | CORE_DBG_HOLD | CORE_DBG_STEP | CORE_DBG_HELD | CORE_DBG_LAST_TAG
  | CORE_SLOTn_PC_PC | CORE_SLOTn_PC_JOB | CORE_SLOTn_PC_RUN
  | CORE_SLOTn_CFG_STEP_CTR | CORE_SLOTn_CFG_STEP_EN
  | CORE_SLOTn_STAT_STATE | CORE_SLOTn_STAT_FCODE | CORE_SLOTn_STAT_TAG | CORE_SLOTn_STAT_DEPTH | CORE_SLOTn_STAT_WCTR
  | CORE_STEPVARn_v_VALUE
  | ARR_CHKCFG_SLACK1 | ARR_CHKCFG_SLACK2 | ARR_CHKCFG_SLACK4 | ARR_CHKCFG_SLACK8
  | ARR_STATp_MISMATCH | ARR_STATp_ROW | ARR_STATp_MARKING | ARR_STATp_IDLE
  | MEM_CAPd_DMEM | MEM_CAPd_BANKS | MEM_CAPd_SEGS | MEM_CAPd_SEGSZ | MEM_CAPd_CLUST | MEM_CAPd_WINS | MEM_CAPd_RGNS | MEM_CAPd_SBE
  | MEM_SEGPWRd_ON | MEM_SEGPWRd_READY | MEM_SEGPWRd_PENDING
  | MEM_SRAMERRd_CORR | MEM_SRAMERRd_UNCORR | MEM_SRAMERRd_ERR
  | MEM_SRAMERRADDRd_ADDR | MEM_SRAMERRADDRd_KIND | MEM_SRAMERRADDRd_POISON
  | MEM_FILLCFG_SHARE
  | MEM_HBM_CAP_DIES | MEM_HBM_CAP_PCH | MEM_HBM_CAP_CAPG | MEM_HBM_CAP_LANES | MEM_HBM_CAP_TREFI
  | MEM_HBM_PATROL_PATROL_H | MEM_HBM_PATROL_LATE | MEM_HBM_PATROL_PASSES
  | MEM_DISTk_CLASS
  | MEM_HBM_LBs_MODE | MEM_HBM_LBs_CHAN | MEM_HBM_LBs_DUR_MS | MEM_HBM_LBs_GO | MEM_HBM_LBs_RESULT | MEM_HBM_LBs_BUSY | MEM_HBM_LBs_ERRCNT | MEM_HBM_LBs_LANE
  | MEM_HBM_TEMPs_TMAX | MEM_HBM_TEMPs_DIE | MEM_HBM_TEMPs_LEVEL | MEM_HBM_TEMPs_DBLREF | MEM_HBM_TEMPs_FENCED | MEM_HBM_TEMPs_PEAK | MEM_HBM_TEMPs_WARM | MEM_HBM_TEMPs_HOT | MEM_HBM_TEMPs_FENCE | MEM_HBM_TEMPs_FCAUSE
  | MEM_HBM_CTLs_FENCE
  | MEM_HBM_ERRs_CORR | MEM_HBM_ERRs_UNCORR | MEM_HBM_ERRs_ERR
  | MEM_HBM_ERRADDRs_ADDR | MEM_HBM_ERRADDRs_KIND
  | MEM_WINw_0_BASE | MEM_WINw_0_JOB | MEM_WINw_0_HOME | MEM_WINw_0_OPEN
  | MEM_WINw_1_SIZE | MEM_WINw_1_SENDER | MEM_WINw_1_RET_CTR
  | MEM_OWINw_0_DEST
  | MEM_OWINw_1_SIZE | MEM_OWINw_1_JOB | MEM_OWINw_1_CREDIT
  | MEM_JOBj_STATE | MEM_JOBj_END | MEM_JOBj_KILL | MEM_JOBj_PM_HOLD | MEM_JOBj_RELEASE | MEM_JOBj_START | MEM_JOBj_HOLD_LATE | MEM_JOBj_FILL_LEFT
  | MEM_RGNi_0_SIZE | MEM_RGNi_0_JOB | MEM_RGNi_0_RD | MEM_RGNi_0_WR | MEM_RGNi_0_KIND | MEM_RGNi_0_SHARED | MEM_RGNi_0_VALID
  | MEM_RGNi_1_BASE
  | MSE_CAP_ENGINES | MSE_CAP_SRAM | MSE_CAP_STACKS | MSE_CAP_DIRMAX | MSE_CAP_KVFMT | MSE_CAP_SEAL
  | MSE_KVCFG_LAYERS | MSE_KVCFG_HKV | MSE_KVCFG_D | MSE_KVCFG_FMT | MSE_KVCFG_DYN | MSE_KVCFG_SEAL | MSE_KVCFG_DIRLEN | MSE_KVCFG_FSIZE
  | MSE_EMBCFG_0_BASE | MSE_EMBCFG_0_COPIES | MSE_EMBCFG_0_ROWSZ
  | MSE_EMBCFG_1_ROWS | MSE_EMBCFG_1_EMB_PITCH
  | MSE_EMBDEST_EMB_DEST
  | MSE_ERR_PARAM | MSE_ERR_HOLE | MSE_ERR_ORDER | MSE_ERR_FULL | MSE_ERR_WORD | MSE_ERR_RESIDUE | MSE_ERR_STACK | MSE_ERR_SLOT | MSE_ERR_LAYER | MSE_ERR_TAG
  | MSE_CVT_STAT_SAT_CNT | MSE_CVT_STAT_NAN0_CNT | MSE_CVT_STAT_SAT | MSE_CVT_STAT_NAN0 | MSE_CVT_STAT_SCALE_NAN
  | MSE_STRIPE_W
  | MSE_STKs_0_KVBASE | MSE_STKs_0_DIRBASE
  | MSE_STKs_1_FRAMES | MSE_STKs_1_UNRSV | MSE_STKs_1_SESS | MSE_STKs_1_HALVED | MSE_STKs_1_FENCED
  | MSE_STKs_2_SESS_ALL
  | MSE_STATs_STEALS | MSE_STATs_PRUNED | MSE_STATs_SEALED
  | LINK_CAP_QLPV | LINK_CAP_CLANES | LINK_CAP_XLANES | LINK_CAP_PLANES | LINK_CAP_FEAT | LINK_CAP_REPLAY
  | LINK_IDENT_STRAP | LINK_IDENT_SET | LINK_IDENT_STRAP_VALID
  | LINK_XP_CAP_DEC | LINK_XP_CAP_VERS | LINK_XP_CAP_RXBUF
  | LINK_FT_TIME
  | LINK_FT_CFG_PARENT | LINK_FT_CFG_ALT | LINK_FT_CFG_RANK | LINK_FT_CFG_DEPTH
  | LINK_FT_STAT_STATE | LINK_FT_STAT_OFFSET | LINK_FT_STAT_DELAY | LINK_FT_STAT_HOLD
  | LINK_XP_CNTp_CODED | LINK_XP_CNTp_HOLD
  | LINK_XP_ERRp_CAUSE | LINK_XP_ERRp_ERR | LINK_XP_ERRp_LAYER | LINK_XP_ERRp_TILE
  | LINK_PORTp_CFG_0_PEER_LOC | LINK_PORTp_CFG_0_PEER_SET | LINK_PORTp_CFG_0_PEER_PORT | LINK_PORTp_CFG_0_PLANNED | LINK_PORTp_CFG_0_ACCEPT_ANY | LINK_PORTp_CFG_0_CLASS | LINK_PORTp_CFG_0_MIN_BUNDLES | LINK_PORTp_CFG_0_PEER_3400 | LINK_PORTp_CFG_0_DATELINE
  | LINK_PORTp_CFG_1_DETECT | LINK_PORTp_CFG_1_TOF_MIN | LINK_PORTp_CFG_1_TOF_MAX
  | LINK_PORTp_STAT_0_STATE | LINK_PORTp_STAT_0_VER | LINK_PORTp_STAT_0_BUNDLES | LINK_PORTp_STAT_0_LPORT | LINK_PORTp_STAT_0_REMAPPED | LINK_PORTp_STAT_0_TOF | LINK_PORTp_STAT_0_MISSING
  | LINK_PORTp_STAT_1_PEER_LOC | LINK_PORTp_STAT_1_PEER_SET | LINK_PORTp_STAT_1_PEER_PORT | LINK_PORTp_STAT_1_FEAT | LINK_PORTp_STAT_1_PEER_FW | LINK_PORTp_STAT_1_PEER_3400
  | LINK_PORTp_CTL_DISABLE | LINK_PORTp_CTL_RETRAIN | LINK_PORTp_CTL_RESCAN
  | LINK_PORTp_CNT_0_FEC_CORR | LINK_PORTp_CNT_0_CRC_FAIL
  | LINK_PORTp_CNT_1_REPLAYS | LINK_PORTp_CNT_1_RETRAINS | LINK_PORTp_CNT_1_WORDS
  | LINK_PORTp_EVT_LOST | LINK_PORTp_EVT_DEGRADED | LINK_PORTp_EVT_WORD | LINK_PORTp_EVT_MISSING | LINK_PORTp_EVT_EXTRA | LINK_PORTp_EVT_CROSSED | LINK_PORTp_EVT_VERSION | LINK_PORTp_EVT_PLAN | LINK_PORTp_EVT_FWMIX | LINK_PORTp_EVT_LENGTH | LINK_PORTp_EVT_DOWN_RX
  | LINK_LOADRTi_READER | LINK_LOADRTi_FWD | LINK_LOADRTi_VALID
  | LINK_RTc_PORT | LINK_RTc_ALT | LINK_RTc_VALID
  | CIRC_CFG_MODE | CIRC_CFG_DOUBLE | CIRC_CFG_FOLD_OK | CIRC_CFG_BANKS | CIRC_CFG_N | CIRC_CFG_PLACE | CIRC_CFG_CIRCLE | CIRC_CFG_TURN_CTR | CIRC_CFG_JOB | CIRC_CFG_TIER_TRUSTED
  | CIRC_BANKOFS_OFS
  | CIRC_REV_REV | CIRC_REV_VERSION
  | CIRC_STAT_STATE | CIRC_STAT_BANK | CIRC_STAT_EPOCH | CIRC_STAT_LEADER | CIRC_STAT_STANDIN | CIRC_STAT_END_A | CIRC_STAT_END_B
  | CIRC_SWITCH_VERSION | CIRC_SWITCH_UNFOLD | CIRC_SWITCH_GO
  | CIRC_SWITCH_STAT_STATE | CIRC_SWITCH_STAT_RESULT | CIRC_SWITCH_STAT_TARGET
  | CIRC_LOAD_PIECES | CIRC_LOAD_DONE | CIRC_LOAD_RETRIES | CIRC_LOAD_MISSING | CIRC_LOAD_ACTIVE
  | CIRC_TIMERS_WEED_MIN | CIRC_TIMERS_LOAD_S
  | CIRC_WEED_STAT_PASSES | CIRC_WEED_STAT_LATE | CIRC_WEED_STAT_BAD | CIRC_WEED_STAT_PIECE | CIRC_WEED_STAT_TIER_BAD
  | CIRC_ERR_SEQ | CIRC_ERR_REVN | CIRC_ERR_VERS | CIRC_ERR_STOPPED | CIRC_ERR_LAYER | CIRC_ERR_TILE | CIRC_ERR_OWNER | CIRC_ERR_LATE_MS
  | CIRC_AUX_TIER_CTR | CIRC_AUX_TIER_EN | CIRC_AUX_PCORE | CIRC_AUX_PCHAN | CIRC_AUX_PASS_EN
  | SYNC_CAP_PHYS | SYNC_CAP_VIDS | SYNC_CAP_EXPORTS | SYNC_CAP_BNODES | SYNC_CAP_HWAITS
  | SYNC_LEND_LEND_US
  | SYNC_JOBj_BASE | SYNC_JOBj_COUNT
  | SYNC_EXPe_CTR | SYNC_EXPe_SENDER | SYNC_EXPe_ANY | SYNC_EXPe_VALID
  | SYNC_BNODEi_0_CTR | SYNC_BNODEi_0_LOCAL | SYNC_BNODEi_0_CHILDREN | SYNC_BNODEi_0_ROOT | SYNC_BNODEi_0_PARENT | SYNC_BNODEi_0_VALID
  | SYNC_BNODEi_1_PCTR | SYNC_BNODEi_1_REPORTED
  | SYNC_CTRp_0_KIND | SYNC_CTRp_0_HOST_OK | SYNC_CTRp_0_RETURN | SYNC_CTRp_0_JOB | SYNC_CTRp_0_INIT
  | SYNC_CTRp_1_VALUE | SYNC_CTRp_1_GEN | SYNC_CTRp_1_WAITERS | SYNC_CTRp_1_BROKEN
  | SYNC_CTRp_2_SRC | SYNC_CTRp_2_CORE | SYNC_CTRp_2_SLOT | SYNC_CTRp_2_PLACE | SYNC_CTRp_2_FW_CORE | SYNC_CTRp_2_FW_SLOT | SYNC_CTRp_2_FW_HOST
  | SYNC_CTRp_3_TIME
  | CHAN_STAT_STATE
  | CHAN_TXk_c_0_DPLACE | CHAN_TXk_c_0_DCORE | CHAN_TXk_c_0_DCHAN | CHAN_TXk_c_0_ROUTE | CHAN_TXk_c_0_FROUTE | CHAN_TXk_c_0_RETRY | CHAN_TXk_c_0_BACKOFF | CHAN_TXk_c_0_VALID
  | CHAN_TXk_c_1_SEQ | CHAN_TXk_c_1_RETRIES | CHAN_TXk_c_1_LASTNACK
  | CHAN_RXk_c_0_BASE | CHAN_RXk_c_0_JOB | CHAN_RXk_c_0_VALID
  | CHAN_RXk_c_1_SIZE | CHAN_RXk_c_1_ARRIVE | CHAN_RXk_c_1_FREE | CHAN_RXk_c_1_SPLACE
  | CHAN_RXk_c_2_SCORE | CHAN_RXk_c_2_SCHAN | CHAN_RXk_c_2_HEAD | CHAN_RXk_c_2_TAIL | CHAN_RXk_c_2_MSGS | CHAN_RXk_c_2_OPEN
  | SESS_CAP_QVER | SESS_CAP_SLOTS | SESS_CAP_ROWMAX | SESS_CAP_DMAX | SESS_CAP_TOPKMAX | SESS_CAP_NLOGP | SESS_CAP_STOPS
  | SESS_CFG_0_ROWS | SESS_CFG_0_PF_MIN | SESS_CFG_0_CHUNK | SESS_CFG_0_HEADS | SESS_CFG_0_VOCAB | SESS_CFG_0_OPEN_MS
  | SESS_BASE_0_ROWBIND | SESS_BASE_0_LROWS
  | SESS_BASE_1_LBASE
  | SESS_BASE_2_HSTATE
  | SESS_BASE_3_HIST
  | SESS_BASE_4_MASKS
  | SESS_BASE_5_HBASE
deriving DecidableEq, Repr

/-- Where a register lies (R452, R458, Tables 17-2, 17-3, 13-5): its view, its first offset, and its index ranges, each
with the stride between instances. -/
structure RegInfo where
  view : View
  base : Nat
  dims : List (Nat × Nat)
deriving DecidableEq, Repr

/-- A field's row in its register table: lowest bit, width, access code, reset value, and whether the Reset column
reads "from dance card" (R387: a record may set it). -/
structure FInfo where
  reg : Reg
  lo : Nat
  len : Nat
  acc : Acc
  rst : Nat
  card : Bool
deriving DecidableEq, Repr

/-- Tables 17-2, 17-3 and 13-5. -/
def Reg.info : Reg → RegInfo
  | .HB_CAP => ⟨.pkg, 0x1000000, []⟩
  | .HB_HOSTCFG => ⟨.pkg, 0x1000008, []⟩
  | .HB_HOST_STAT => ⟨.pkg, 0x1000010, []⟩
  | .HB_BOOT => ⟨.pkg, 0x1000018, []⟩
  | .HB_BOOT_T => ⟨.pkg, 0x1000020, []⟩
  | .HB_OWNER => ⟨.pkg, 0x1000028, []⟩
  | .HB_APERa => ⟨.pkg, 0x1000040, [(4, 0x8)]⟩
  | .HB_HDMs => ⟨.pkg, 0x1000060, [(2, 0x8)]⟩
  | .HB_PAGEt_CFG => ⟨.pkg, 0x1008000, [(4096, 0x8)]⟩
  | .PD_CLASS => ⟨.pkg, 0x1040000, []⟩
  | .PD_ENV_CAP => ⟨.pkg, 0x1040008, []⟩
  | .PD_SPRINT_CTL => ⟨.pkg, 0x1040010, []⟩
  | .PD_SPRINT_STAT => ⟨.pkg, 0x1040018, []⟩
  | .PD_SPRINT_LIFE => ⟨.pkg, 0x1040020, []⟩
  | .PD_FLOOR_EVT => ⟨.pkg, 0x1040028, []⟩
  | .PD_POWER => ⟨.pkg, 0x1040030, []⟩
  | .PD_SENSE => ⟨.pkg, 0x1040038, []⟩
  | .PD_TEMPOn => ⟨.pkg, 0x1040100, [(18, 0x8)]⟩
  | .SEC_STAT => ⟨.pkg, 0x1080000, []⟩
  | .ALM_CFG => ⟨.pkg, 0x10C0000, []⟩
  | .ALM_STAT => ⟨.pkg, 0x10C0008, []⟩
  | .ALM_HOURS => ⟨.pkg, 0x10C0010, []⟩
  | .ARR_MAPm => ⟨.pkg, 0x1100000, [(5, 0x8)]⟩
  | .HB_PAGE_ID => ⟨.page, 0x0, []⟩
  | .HB_PAGE_CAP => ⟨.page, 0x8, []⟩
  | .HB_PAGE_ERR => ⟨.page, 0x10, []⟩
  | .HB_PAGE_IRQ => ⟨.page, 0x18, []⟩
  | .SESS_SQ_BASE => ⟨.page, 0x100, []⟩
  | .SESS_CQ_BASE => ⟨.page, 0x108, []⟩
  | .SESS_RING => ⟨.page, 0x110, []⟩
  | .SESS_SQ_PTR => ⟨.page, 0x118, []⟩
  | .SESS_CQ_PTR => ⟨.page, 0x120, []⟩
  | .SESS_PAGE_STAT => ⟨.page, 0x128, []⟩
  | .SYNC_HSIG => ⟨.page, 0x200, []⟩
  | .SYNC_HPEEK => ⟨.page, 0x208, []⟩
  | .SYNC_CUE_BASE => ⟨.page, 0x210, []⟩
  | .SYNC_HSTAT => ⟨.page, 0x218, []⟩
  | .SYNC_HWAITw => ⟨.page, 0x400, [(64, 0x8)]⟩
  | .SET_FCFG => ⟨.set, 0x0, []⟩
  | .SET_FSTAT => ⟨.set, 0x8, []⟩
  | .SET_FLOG_PTR => ⟨.set, 0x10, []⟩
  | .SET_PRUNE_BASE => ⟨.set, 0x18, []⟩
  | .SET_PRUNED_0 => ⟨.set, 0x20, []⟩
  | .SET_PRUNED_1 => ⟨.set, 0x28, []⟩
  | .SET_FLOGe_w => ⟨.set, 0x1000, [(64, 0x20), (4, 0x8)]⟩
  | .CORE_CAP => ⟨.set, 0x1000000, [(80, 0x10000)]⟩
  | .CORE_FMT_CAP => ⟨.set, 0x1000008, [(80, 0x10000)]⟩
  | .CORE_CVT_STAT => ⟨.set, 0x1000010, [(80, 0x10000)]⟩
  | .CORE_SB_STAT => ⟨.set, 0x1000018, [(80, 0x10000)]⟩
  | .CORE_OPX => ⟨.set, 0x1000020, [(80, 0x10000)]⟩
  | .CORE_SLOT_MAP => ⟨.set, 0x1000028, [(80, 0x10000)]⟩
  | .CORE_OPX_STAT => ⟨.set, 0x1000030, [(80, 0x10000)]⟩
  | .CORE_GRAFT_STAT => ⟨.set, 0x1000038, [(80, 0x10000)]⟩
  | .CORE_DBG => ⟨.set, 0x1000040, [(80, 0x10000)]⟩
  | .CORE_SLOTn_PC => ⟨.set, 0x1000100, [(80, 0x10000), (8, 0x8)]⟩
  | .CORE_SLOTn_CFG => ⟨.set, 0x1000140, [(80, 0x10000), (8, 0x8)]⟩
  | .CORE_SLOTn_STAT => ⟨.set, 0x1000180, [(80, 0x10000), (8, 0x8)]⟩
  | .CORE_STEPVARn_v => ⟨.set, 0x1000400, [(80, 0x10000), (8, 0x80), (16, 0x8)]⟩
  | .ARR_CHKCFG => ⟨.set, 0x1600000, [(80, 0x100)]⟩
  | .ARR_STATp => ⟨.set, 0x1600008, [(80, 0x100), (2, 0x8)]⟩
  | .MEM_CAPd => ⟨.set, 0x2000000, [(2, 0x8)]⟩
  | .MEM_SEGPWRd => ⟨.set, 0x2000010, [(2, 0x8)]⟩
  | .MEM_SRAMERRd => ⟨.set, 0x2000020, [(2, 0x8)]⟩
  | .MEM_SRAMERRADDRd => ⟨.set, 0x2000030, [(2, 0x8)]⟩
  | .MEM_FILLCFG => ⟨.set, 0x2000040, []⟩
  | .MEM_HBM_CAP => ⟨.set, 0x2000048, []⟩
  | .MEM_HBM_PATROL => ⟨.set, 0x2000050, []⟩
  | .MEM_DISTk => ⟨.set, 0x2000100, [(80, 0x8)]⟩
  | .MEM_HBM_LBs => ⟨.set, 0x2000400, [(6, 0x40)]⟩
  | .MEM_HBM_TEMPs => ⟨.set, 0x2000408, [(6, 0x40)]⟩
  | .MEM_HBM_CTLs => ⟨.set, 0x2000410, [(6, 0x40)]⟩
  | .MEM_HBM_ERRs => ⟨.set, 0x2000418, [(6, 0x40)]⟩
  | .MEM_HBM_ERRADDRs => ⟨.set, 0x2000420, [(6, 0x40)]⟩
  | .MEM_WINw_0 => ⟨.set, 0x2000800, [(64, 0x10)]⟩
  | .MEM_WINw_1 => ⟨.set, 0x2000808, [(64, 0x10)]⟩
  | .MEM_OWINw_0 => ⟨.set, 0x2000C00, [(64, 0x10)]⟩
  | .MEM_OWINw_1 => ⟨.set, 0x2000C08, [(64, 0x10)]⟩
  | .MEM_JOBj => ⟨.set, 0x2010000, [(4096, 0x8)]⟩
  | .MEM_RGNi_0 => ⟨.set, 0x2020000, [(8192, 0x10)]⟩
  | .MEM_RGNi_1 => ⟨.set, 0x2020008, [(8192, 0x10)]⟩
  | .MSE_CAP => ⟨.set, 0x2100000, []⟩
  | .MSE_KVCFG => ⟨.set, 0x2100008, []⟩
  | .MSE_EMBCFG_0 => ⟨.set, 0x2100010, []⟩
  | .MSE_EMBCFG_1 => ⟨.set, 0x2100018, []⟩
  | .MSE_EMBDEST => ⟨.set, 0x2100020, []⟩
  | .MSE_ERR => ⟨.set, 0x2100028, []⟩
  | .MSE_CVT_STAT => ⟨.set, 0x2100030, []⟩
  | .MSE_STRIPE => ⟨.set, 0x2100038, []⟩
  | .MSE_STKs_0 => ⟨.set, 0x2100100, [(6, 0x10)]⟩
  | .MSE_STKs_1 => ⟨.set, 0x2100108, [(6, 0x10)]⟩
  | .MSE_STKs_2 => ⟨.set, 0x2100180, [(6, 0x8)]⟩
  | .MSE_STATs => ⟨.set, 0x2100200, [(6, 0x8)]⟩
  | .LINK_CAP => ⟨.set, 0x2200000, []⟩
  | .LINK_IDENT => ⟨.set, 0x2200008, []⟩
  | .LINK_XP_CAP => ⟨.set, 0x2200010, []⟩
  | .LINK_FT => ⟨.set, 0x2200018, []⟩
  | .LINK_FT_CFG => ⟨.set, 0x2200020, []⟩
  | .LINK_FT_STAT => ⟨.set, 0x2200028, []⟩
  | .LINK_XP_CNTp => ⟨.set, 0x2200040, [(2, 0x10)]⟩
  | .LINK_XP_ERRp => ⟨.set, 0x2200048, [(2, 0x10)]⟩
  | .LINK_PORTp_CFG_0 => ⟨.set, 0x2200100, [(5, 0x80)]⟩
  | .LINK_PORTp_CFG_1 => ⟨.set, 0x2200108, [(5, 0x80)]⟩
  | .LINK_PORTp_STAT_0 => ⟨.set, 0x2200110, [(5, 0x80)]⟩
  | .LINK_PORTp_STAT_1 => ⟨.set, 0x2200118, [(5, 0x80)]⟩
  | .LINK_PORTp_CTL => ⟨.set, 0x2200120, [(5, 0x80)]⟩
  | .LINK_PORTp_CNT_0 => ⟨.set, 0x2200128, [(5, 0x80)]⟩
  | .LINK_PORTp_CNT_1 => ⟨.set, 0x2200130, [(5, 0x80)]⟩
  | .LINK_PORTp_EVT => ⟨.set, 0x2200138, [(5, 0x80)]⟩
  | .LINK_LOADRTi => ⟨.set, 0x2200400, [(16, 0x8)]⟩
  | .LINK_RTc => ⟨.set, 0x2201000, [(1024, 0x8)]⟩
  | .CIRC_CFG => ⟨.set, 0x2300000, []⟩
  | .CIRC_BANKOFS => ⟨.set, 0x2300008, []⟩
  | .CIRC_REV => ⟨.set, 0x2300010, []⟩
  | .CIRC_STAT => ⟨.set, 0x2300018, []⟩
  | .CIRC_SWITCH => ⟨.set, 0x2300020, []⟩
  | .CIRC_SWITCH_STAT => ⟨.set, 0x2300028, []⟩
  | .CIRC_LOAD => ⟨.set, 0x2300030, []⟩
  | .CIRC_TIMERS => ⟨.set, 0x2300038, []⟩
  | .CIRC_WEED_STAT => ⟨.set, 0x2300040, []⟩
  | .CIRC_ERR => ⟨.set, 0x2300048, []⟩
  | .CIRC_AUX => ⟨.set, 0x2300050, []⟩
  | .SYNC_CAP => ⟨.set, 0x2400000, []⟩
  | .SYNC_LEND => ⟨.set, 0x2400008, []⟩
  | .SYNC_JOBj => ⟨.set, 0x2410000, [(4096, 0x8)]⟩
  | .SYNC_EXPe => ⟨.set, 0x2420000, [(4096, 0x8)]⟩
  | .SYNC_BNODEi_0 => ⟨.set, 0x2430000, [(1024, 0x10)]⟩
  | .SYNC_BNODEi_1 => ⟨.set, 0x2430008, [(1024, 0x10)]⟩
  | .SYNC_CTRp_0 => ⟨.set, 0x2800000, [(65536, 0x20)]⟩
  | .SYNC_CTRp_1 => ⟨.set, 0x2800008, [(65536, 0x20)]⟩
  | .SYNC_CTRp_2 => ⟨.set, 0x2800010, [(65536, 0x20)]⟩
  | .SYNC_CTRp_3 => ⟨.set, 0x2800018, [(65536, 0x20)]⟩
  | .CHAN_STAT => ⟨.set, 0x3000000, [(80, 0x4000), (2, 0x8)]⟩
  | .CHAN_TXk_c_0 => ⟨.set, 0x3001000, [(80, 0x4000), (64, 0x10)]⟩
  | .CHAN_TXk_c_1 => ⟨.set, 0x3001008, [(80, 0x4000), (64, 0x10)]⟩
  | .CHAN_RXk_c_0 => ⟨.set, 0x3002000, [(80, 0x4000), (64, 0x20)]⟩
  | .CHAN_RXk_c_1 => ⟨.set, 0x3002008, [(80, 0x4000), (64, 0x20)]⟩
  | .CHAN_RXk_c_2 => ⟨.set, 0x3002010, [(80, 0x4000), (64, 0x20)]⟩
  | .SESS_CAP => ⟨.set, 0x3200000, []⟩
  | .SESS_CFG_0 => ⟨.set, 0x3200008, []⟩
  | .SESS_BASE_0 => ⟨.set, 0x3200010, []⟩
  | .SESS_BASE_1 => ⟨.set, 0x3200018, []⟩
  | .SESS_BASE_2 => ⟨.set, 0x3200020, []⟩
  | .SESS_BASE_3 => ⟨.set, 0x3200028, []⟩
  | .SESS_BASE_4 => ⟨.set, 0x3200030, []⟩
  | .SESS_BASE_5 => ⟨.set, 0x3200038, []⟩

/-- The register tables of chapters 0 to 17, in the order of the register's bits. A field whose Reset column gives no number has the reset
value that log entries 1 and 2 name: MEM_DISTk.CLASS, 'fixed per core' (R154), 0. -/
def Field.info : Field → FInfo
  -- HB_CAP: Table 13-8
  | .HB_CAP_MODE => ⟨.HB_CAP, 0, 3, .rh, 0, false⟩
  | .HB_CAP_WIDTH => ⟨.HB_CAP, 3, 5, .rh, 0, false⟩
  | .HB_CAP_CACHE => ⟨.HB_CAP, 8, 1, .rh, 0, false⟩
  | .HB_CAP_MEM => ⟨.HB_CAP, 9, 1, .rh, 0, false⟩
  | .HB_CAP_IDE_IO => ⟨.HB_CAP, 10, 1, .rh, 0, false⟩
  | .HB_CAP_IDE_CM => ⟨.HB_CAP, 11, 1, .rh, 0, false⟩
  | .HB_CAP_QVER => ⟨.HB_CAP, 12, 4, .r, 1, false⟩
  | .HB_CAP_DCVER => ⟨.HB_CAP, 16, 4, .r, 1, false⟩
  | .HB_CAP_FIGVER => ⟨.HB_CAP, 20, 4, .r, 2, false⟩
  | .HB_CAP_SVER => ⟨.HB_CAP, 24, 2, .r, 3, false⟩
  | .HB_CAP_QLPV => ⟨.HB_CAP, 26, 2, .r, 3, false⟩
  -- HB_HOSTCFG: Table 13-9
  | .HB_HOSTCFG_SHARE0 => ⟨.HB_HOSTCFG, 0, 7, .rwl, 0, true⟩
  | .HB_HOSTCFG_SHARE1 => ⟨.HB_HOSTCFG, 7, 7, .rwl, 0, true⟩
  | .HB_HOSTCFG_IDE_REQ => ⟨.HB_HOSTCFG, 14, 1, .rwl, 0, true⟩
  -- HB_HOST_STAT: Table 13-10
  | .HB_HOST_STAT_LINK => ⟨.HB_HOST_STAT, 0, 1, .w1c, 0, false⟩
  | .HB_HOST_STAT_DMA => ⟨.HB_HOST_STAT, 1, 1, .w1c, 0, false⟩
  | .HB_HOST_STAT_IDE => ⟨.HB_HOST_STAT, 2, 1, .w1c, 0, false⟩
  | .HB_HOST_STAT_HELD => ⟨.HB_HOST_STAT, 3, 1, .rh, 0, false⟩
  | .HB_HOST_STAT_LINKDOWNS => ⟨.HB_HOST_STAT, 16, 16, .rh, 0, false⟩
  | .HB_HOST_STAT_DMAERRS => ⟨.HB_HOST_STAT, 32, 32, .rh, 0, false⟩
  -- HB_BOOT: Table 14-13
  | .HB_BOOT_STAGE => ⟨.HB_BOOT, 0, 4, .rh, 0, false⟩
  | .HB_BOOT_CAUSE => ⟨.HB_BOOT, 4, 8, .rh, 0, false⟩
  | .HB_BOOT_SECTION => ⟨.HB_BOOT, 12, 8, .rh, 0, false⟩
  | .HB_BOOT_INDEX => ⟨.HB_BOOT, 20, 24, .rh, 0, false⟩
  | .HB_BOOT_ACT_PENDING => ⟨.HB_BOOT, 44, 1, .rh, 0, false⟩
  -- HB_BOOT_T: Table 14-14
  | .HB_BOOT_T_LOCK_MS => ⟨.HB_BOOT_T, 0, 16, .rh, 0, false⟩
  | .HB_BOOT_T_SEED_S => ⟨.HB_BOOT_T, 16, 20, .rh, 0, false⟩
  | .HB_BOOT_T_FULL_S => ⟨.HB_BOOT_T, 36, 20, .rh, 0, false⟩
  -- HB_OWNER: Table 14-15
  | .HB_OWNER_SLOT => ⟨.HB_OWNER, 0, 2, .rh, 0, false⟩
  | .HB_OWNER_STATE => ⟨.HB_OWNER, 2, 2, .rh, 0, false⟩
  | .HB_OWNER_ENROLLED => ⟨.HB_OWNER, 4, 4, .rh, 0, false⟩
  | .HB_OWNER_REVOKED => ⟨.HB_OWNER, 8, 4, .rh, 0, false⟩
  | .HB_OWNER_SVN_FUSE => ⟨.HB_OWNER, 12, 7, .rh, 0, false⟩
  -- HB_APERa: Table 13-12
  | .HB_APERa_BASE => ⟨.HB_APERa, 0, 18, .rw, 0, false⟩
  | .HB_APERa_SET => ⟨.HB_APERa, 18, 1, .rw, 0, false⟩
  | .HB_APERa_EN => ⟨.HB_APERa, 19, 1, .rw, 0, false⟩
  | .HB_APERa_RD_ERR => ⟨.HB_APERa, 20, 1, .w1c, 0, false⟩
  | .HB_APERa_WR_DROP => ⟨.HB_APERa, 21, 1, .w1c, 0, false⟩
  | .HB_APERa_POISON => ⟨.HB_APERa, 22, 1, .w1c, 0, false⟩
  -- HB_HDMs: Table 13-13
  | .HB_HDMs_BASE => ⟨.HB_HDMs, 0, 18, .rwl, 0, true⟩
  | .HB_HDMs_SIZE => ⟨.HB_HDMs, 18, 9, .rwl, 0, true⟩
  | .HB_HDMs_HDM_ERR => ⟨.HB_HDMs, 27, 1, .w1c, 0, false⟩
  -- HB_PAGEt_CFG: Table 13-11
  | .HB_PAGEt_CFG_BOUND => ⟨.HB_PAGEt_CFG, 0, 1, .rwl, 0, true⟩
  | .HB_PAGEt_CFG_SET => ⟨.HB_PAGEt_CFG, 1, 1, .rwl, 0, true⟩
  | .HB_PAGEt_CFG_JOB => ⟨.HB_PAGEt_CFG, 2, 12, .rwl, 0, true⟩
  | .HB_PAGEt_CFG_PASID => ⟨.HB_PAGEt_CFG, 14, 20, .rwl, 0, true⟩
  | .HB_PAGEt_CFG_PASID_EN => ⟨.HB_PAGEt_CFG, 34, 1, .rwl, 0, true⟩
  | .HB_PAGEt_CFG_VEC_FIRST => ⟨.HB_PAGEt_CFG, 35, 11, .rwl, 0, true⟩
  | .HB_PAGEt_CFG_VEC_COUNT => ⟨.HB_PAGEt_CFG, 46, 7, .rwl, 0, true⟩
  -- PD_CLASS: Table 2-7
  | .PD_CLASS_CLASS => ⟨.PD_CLASS, 0, 1, .r, 0, true⟩
  | .PD_CLASS_COOL => ⟨.PD_CLASS, 1, 4, .r, 0, true⟩
  | .PD_CLASS_ENV => ⟨.PD_CLASS, 5, 9, .r, 0, true⟩
  | .PD_CLASS_P_PLAN => ⟨.PD_CLASS, 14, 9, .r, 0, true⟩
  | .PD_CLASS_T_MARK => ⟨.PD_CLASS, 23, 7, .r, 0, true⟩
  | .PD_CLASS_LEND => ⟨.PD_CLASS, 30, 2, .r, 0, true⟩
  | .PD_CLASS_SPRINT_OK => ⟨.PD_CLASS, 32, 1, .r, 0, true⟩
  | .PD_CLASS_ACCEPTED => ⟨.PD_CLASS, 33, 1, .rh, 0, false⟩
  -- PD_ENV_CAP: Table 2-8
  | .PD_ENV_CAP_CAP => ⟨.PD_ENV_CAP, 0, 9, .rw, 0, false⟩
  | .PD_ENV_CAP_CAP_ERR => ⟨.PD_ENV_CAP, 16, 1, .w1c, 0, false⟩
  -- PD_SPRINT_CTL: Table 2-9
  | .PD_SPRINT_CTL_DUR => ⟨.PD_SPRINT_CTL, 0, 11, .wo, 0, false⟩
  | .PD_SPRINT_CTL_GO => ⟨.PD_SPRINT_CTL, 16, 1, .wo, 0, false⟩
  -- PD_SPRINT_STAT: Table 2-10
  | .PD_SPRINT_STAT_ACTIVE => ⟨.PD_SPRINT_STAT, 0, 1, .rh, 0, false⟩
  | .PD_SPRINT_STAT_LEFT => ⟨.PD_SPRINT_STAT, 1, 11, .rh, 0, false⟩
  | .PD_SPRINT_STAT_END => ⟨.PD_SPRINT_STAT, 12, 3, .rh, 0, false⟩
  | .PD_SPRINT_STAT_REFUSE => ⟨.PD_SPRINT_STAT, 15, 4, .rh, 0, false⟩
  | .PD_SPRINT_STAT_COOL_LEFT => ⟨.PD_SPRINT_STAT, 19, 13, .rh, 0, false⟩
  -- PD_SPRINT_LIFE: Table 2-11
  | .PD_SPRINT_LIFE_USED => ⟨.PD_SPRINT_LIFE, 0, 20, .rh, 0, false⟩
  | .PD_SPRINT_LIFE_RESERVE => ⟨.PD_SPRINT_LIFE, 20, 16, .rh, 0, false⟩
  | .PD_SPRINT_LIFE_EXHAUSTED => ⟨.PD_SPRINT_LIFE, 36, 1, .rh, 0, false⟩
  -- PD_FLOOR_EVT: Table 2-13
  | .PD_FLOOR_EVT_ENVELOPE => ⟨.PD_FLOOR_EVT, 0, 1, .w1c, 0, false⟩
  | .PD_FLOOR_EVT_THERMAL => ⟨.PD_FLOOR_EVT, 1, 1, .w1c, 0, false⟩
  | .PD_FLOOR_EVT_AGEING => ⟨.PD_FLOOR_EVT, 2, 1, .w1c, 0, false⟩
  | .PD_FLOOR_EVT_SUPPLY => ⟨.PD_FLOOR_EVT, 3, 1, .w1c, 0, false⟩
  | .PD_FLOOR_EVT_UNEXPLAINED => ⟨.PD_FLOOR_EVT, 4, 1, .w1c, 0, false⟩
  | .PD_FLOOR_EVT_DIE => ⟨.PD_FLOOR_EVT, 8, 5, .rh, 0, false⟩
  | .PD_FLOOR_EVT_ACTIVE => ⟨.PD_FLOOR_EVT, 13, 1, .rh, 0, false⟩
  -- PD_POWER: Table 2-14
  | .PD_POWER_MEAN_1MS => ⟨.PD_POWER, 0, 13, .rh, 0, false⟩
  | .PD_POWER_PEAK_1US => ⟨.PD_POWER, 13, 13, .rh, 0, false⟩
  -- PD_SENSE: Table 16-8
  | .PD_SENSE_VIN => ⟨.PD_SENSE, 0, 15, .rh, 0, false⟩
  | .PD_SENSE_IIN => ⟨.PD_SENSE, 15, 14, .rh, 0, false⟩
  | .PD_SENSE_TJ_HB => ⟨.PD_SENSE, 29, 8, .rh, 0, false⟩
  | .PD_SENSE_TJ_PD => ⟨.PD_SENSE, 37, 8, .rh, 0, false⟩
  -- PD_TEMPOn: Table 2-12
  | .PD_TEMPOn_VSET => ⟨.PD_TEMPOn, 0, 10, .rh, 780, false⟩
  | .PD_TEMPOn_VF => ⟨.PD_TEMPOn, 10, 10, .rh, 780, false⟩
  | .PD_TEMPOn_MARGIN => ⟨.PD_TEMPOn, 20, 12, .rh, 0, false⟩
  | .PD_TEMPOn_TJ => ⟨.PD_TEMPOn, 32, 8, .rh, 0, false⟩
  | .PD_TEMPOn_AGE => ⟨.PD_TEMPOn, 40, 8, .rh, 0, false⟩
  -- SEC_STAT: Table 17-5
  | .SEC_STAT_ALIAS_READY => ⟨.SEC_STAT, 0, 1, .rh, 0, false⟩
  | .SEC_STAT_MEAS => ⟨.SEC_STAT, 1, 9, .rh, 0, false⟩
  | .SEC_STAT_HOLD_SEEN => ⟨.SEC_STAT, 10, 1, .rh, 0, false⟩
  | .SEC_STAT_CAL_UNLOCK_SEEN => ⟨.SEC_STAT, 11, 1, .rh, 0, false⟩
  | .SEC_STAT_SPDM_OPEN => ⟨.SEC_STAT, 12, 1, .rh, 0, false⟩
  | .SEC_STAT_IDE_KEYED => ⟨.SEC_STAT, 13, 3, .rh, 0, false⟩
  -- ALM_CFG: Table 16-5
  | .ALM_CFG_INTERVAL => ⟨.ALM_CFG, 0, 6, .rw, 10, true⟩
  | .ALM_CFG_DEBUG_OK => ⟨.ALM_CFG, 6, 1, .rwl, 0, true⟩
  -- ALM_STAT: Table 16-6
  | .ALM_STAT_SEQ => ⟨.ALM_STAT, 0, 32, .rh, 0, false⟩
  | .ALM_STAT_SINCE_S => ⟨.ALM_STAT, 32, 12, .rh, 0, false⟩
  | .ALM_STAT_LOST => ⟨.ALM_STAT, 44, 1, .w1c, 0, false⟩
  | .ALM_STAT_WRITE_ERR => ⟨.ALM_STAT, 45, 1, .w1c, 0, false⟩
  | .ALM_STAT_CAL_BAD => ⟨.ALM_STAT, 46, 1, .rh, 0, false⟩
  | .ALM_STAT_CAL_ORIGIN => ⟨.ALM_STAT, 47, 1, .rh, 0, false⟩
  | .ALM_STAT_CAL_UNLOCKED => ⟨.ALM_STAT, 48, 1, .rh, 0, false⟩
  -- ALM_HOURS: Table 16-7
  | .ALM_HOURS_POWERED_H => ⟨.ALM_HOURS, 0, 32, .rh, 0, false⟩
  | .ALM_HOURS_POWER_CYCLES => ⟨.ALM_HOURS, 32, 32, .rh, 0, false⟩
  -- ARR_MAPm: Table 0-3
  | .ARR_MAPm_EN => ⟨.ARR_MAPm, 0, 64, .r, 0xFFFFFFFFFFFFFFFF, false⟩
  -- HB_PAGE_ID: Table 13-14
  | .HB_PAGE_ID_PAGE => ⟨.HB_PAGE_ID, 0, 12, .r, 0, false⟩
  | .HB_PAGE_ID_SET => ⟨.HB_PAGE_ID, 12, 1, .r, 0, true⟩
  | .HB_PAGE_ID_LOST => ⟨.HB_PAGE_ID, 13, 1, .rh, 0, false⟩
  | .HB_PAGE_ID_VECS => ⟨.HB_PAGE_ID, 14, 7, .r, 0, true⟩
  -- HB_PAGE_CAP: Table 13-14
  | .HB_PAGE_CAP_CAP => ⟨.HB_PAGE_CAP, 0, 64, .r, 0, false⟩
  -- HB_PAGE_ERR: Table 13-15
  | .HB_PAGE_ERR_HOSTERR => ⟨.HB_PAGE_ERR, 0, 1, .w1c, 0, false⟩
  | .HB_PAGE_ERR_LINKDOWN => ⟨.HB_PAGE_ERR, 1, 1, .w1c, 0, false⟩
  | .HB_PAGE_ERR_VEC_DROP => ⟨.HB_PAGE_ERR, 2, 1, .w1c, 0, false⟩
  -- HB_PAGE_IRQ: Table 13-15
  | .HB_PAGE_IRQ_CQ_EN => ⟨.HB_PAGE_IRQ, 0, 1, .rw, 0, false⟩
  | .HB_PAGE_IRQ_CQ_VEC => ⟨.HB_PAGE_IRQ, 1, 6, .rw, 0, false⟩
  -- SESS_SQ_BASE: Table 10-9
  | .SESS_SQ_BASE_ADDR => ⟨.SESS_SQ_BASE, 6, 58, .rw, 0, false⟩
  -- SESS_CQ_BASE: Table 10-9
  | .SESS_CQ_BASE_ADDR => ⟨.SESS_CQ_BASE, 6, 58, .rw, 0, false⟩
  -- SESS_RING: Table 10-10
  | .SESS_RING_SQ_LOG2 => ⟨.SESS_RING, 0, 5, .rw, 6, false⟩
  | .SESS_RING_CQ_LOG2 => ⟨.SESS_RING, 5, 5, .rw, 6, false⟩
  | .SESS_RING_ENABLE => ⟨.SESS_RING, 10, 1, .rw, 0, false⟩
  | .SESS_RING_VER => ⟨.SESS_RING, 11, 4, .rw, 1, false⟩
  | .SESS_RING_VERR => ⟨.SESS_RING, 15, 1, .w1c, 0, false⟩
  | .SESS_RING_CFGERR => ⟨.SESS_RING, 16, 1, .w1c, 0, false⟩
  | .SESS_RING_SQERR => ⟨.SESS_RING, 17, 1, .w1c, 0, false⟩
  | .SESS_RING_CQERR => ⟨.SESS_RING, 18, 1, .w1c, 0, false⟩
  -- SESS_SQ_PTR: Table 10-11
  | .SESS_SQ_PTR_TAIL => ⟨.SESS_SQ_PTR, 0, 16, .rw, 0, false⟩
  | .SESS_SQ_PTR_HEAD => ⟨.SESS_SQ_PTR, 32, 16, .rh, 0, false⟩
  -- SESS_CQ_PTR: Table 10-12
  | .SESS_CQ_PTR_HEAD => ⟨.SESS_CQ_PTR, 0, 20, .rw, 0, false⟩
  | .SESS_CQ_PTR_TAIL => ⟨.SESS_CQ_PTR, 32, 20, .rh, 0, false⟩
  -- SESS_PAGE_STAT: Table 10-13
  | .SESS_PAGE_STAT_OPEN => ⟨.SESS_PAGE_STAT, 0, 15, .rh, 0, false⟩
  | .SESS_PAGE_STAT_HELD => ⟨.SESS_PAGE_STAT, 15, 15, .rh, 0, false⟩
  | .SESS_PAGE_STAT_HELDSTEPS => ⟨.SESS_PAGE_STAT, 30, 34, .rh, 0, false⟩
  -- SYNC_HSIG: Table 11-14
  | .SYNC_HSIG_VID => ⟨.SYNC_HSIG, 0, 12, .wo, 0, false⟩
  | .SYNC_HSIG_N => ⟨.SYNC_HSIG, 32, 31, .wo, 0, false⟩
  -- SYNC_HPEEK: Table 11-14
  | .SYNC_HPEEK_VID => ⟨.SYNC_HPEEK, 0, 12, .rw, 0, false⟩
  | .SYNC_HPEEK_VALUE => ⟨.SYNC_HPEEK, 32, 31, .rh, 0, false⟩
  -- SYNC_CUE_BASE: Table 11-15
  | .SYNC_CUE_BASE_ADDR => ⟨.SYNC_CUE_BASE, 10, 54, .rw, 0, false⟩
  -- SYNC_HSTAT: Table 11-15
  | .SYNC_HSTAT_HERR => ⟨.SYNC_HSTAT, 0, 1, .w1c, 0, false⟩
  | .SYNC_HSTAT_HCAUSE => ⟨.SYNC_HSTAT, 1, 3, .rh, 0, false⟩
  -- SYNC_HWAITw: Table 11-16
  | .SYNC_HWAITw_VID => ⟨.SYNC_HWAITw, 0, 12, .rw, 0, false⟩
  | .SYNC_HWAITw_ARM => ⟨.SYNC_HWAITw, 12, 1, .rw, 0, false⟩
  | .SYNC_HWAITw_MSIX => ⟨.SYNC_HWAITw, 13, 1, .rw, 0, false⟩
  | .SYNC_HWAITw_VEC => ⟨.SYNC_HWAITw, 14, 11, .rw, 0, false⟩
  | .SYNC_HWAITw_N => ⟨.SYNC_HWAITw, 32, 31, .rw, 0, false⟩
  -- SET_FCFG: Table 15-11
  | .SET_FCFG_VEC_SEV => ⟨.SET_FCFG, 0, 3, .rw, 1, false⟩
  | .SET_FCFG_MASKED_LOG => ⟨.SET_FCFG, 3, 1, .rw, 1, false⟩
  -- SET_FSTAT: Table 15-12
  | .SET_FSTAT_MASKED => ⟨.SET_FSTAT, 0, 1, .w1c, 0, false⟩
  | .SET_FSTAT_SESSION => ⟨.SET_FSTAT, 1, 1, .w1c, 0, false⟩
  | .SET_FSTAT_JOB => ⟨.SET_FSTAT, 2, 1, .w1c, 0, false⟩
  | .SET_FSTAT_PRUNE => ⟨.SET_FSTAT, 3, 1, .w1c, 0, false⟩
  | .SET_FSTAT_LOST => ⟨.SET_FSTAT, 4, 1, .w1c, 0, false⟩
  | .SET_FSTAT_LAST => ⟨.SET_FSTAT, 8, 8, .rh, 0, false⟩
  | .SET_FSTAT_COUNT => ⟨.SET_FSTAT, 16, 32, .rh, 0, false⟩
  -- SET_FLOG_PTR: Table 15-13
  | .SET_FLOG_PTR_HEAD => ⟨.SET_FLOG_PTR, 0, 6, .rh, 0, false⟩
  | .SET_FLOG_PTR_WRAPPED => ⟨.SET_FLOG_PTR, 6, 1, .rh, 0, false⟩
  -- SET_PRUNE_BASE: Table 15-14
  | .SET_PRUNE_BASE_BASE => ⟨.SET_PRUNE_BASE, 0, 44, .rwl, 0, true⟩
  -- SET_PRUNED_0: Table 15-15
  | .SET_PRUNED_0_CORES => ⟨.SET_PRUNED_0, 0, 64, .rh, 0, false⟩
  -- SET_PRUNED_1: Table 15-15
  | .SET_PRUNED_1_CORES => ⟨.SET_PRUNED_1, 0, 16, .rh, 0, false⟩
  | .SET_PRUNED_1_HARV0 => ⟨.SET_PRUNED_1, 16, 1, .rh, 0, false⟩
  | .SET_PRUNED_1_HARV1 => ⟨.SET_PRUNED_1, 17, 1, .rh, 0, false⟩
  -- SET_FLOGe_w: Table 15-13
  | .SET_FLOGe_w_REC => ⟨.SET_FLOGe_w, 0, 64, .rh, 0, false⟩
  -- CORE_CAP: Table 3-21
  | .CORE_CAP_WBUF => ⟨.CORE_CAP, 0, 10, .r, 256, false⟩
  | .CORE_CAP_ABUF => ⟨.CORE_CAP, 10, 10, .r, 256, false⟩
  | .CORE_CAP_PBUF => ⟨.CORE_CAP, 20, 10, .r, 128, false⟩
  | .CORE_CAP_CMEM => ⟨.CORE_CAP, 30, 8, .r, 24, false⟩
  | .CORE_CAP_SLOTS => ⟨.CORE_CAP, 38, 4, .r, 8, false⟩
  | .CORE_CAP_ARRAYS => ⟨.CORE_CAP, 42, 2, .r, 0, false⟩
  | .CORE_CAP_DIM => ⟨.CORE_CAP, 44, 8, .r, 128, false⟩
  | .CORE_CAP_FIG_VER => ⟨.CORE_CAP, 52, 4, .r, 2, false⟩
  | .CORE_CAP_VLANES => ⟨.CORE_CAP, 56, 8, .r, 32, false⟩
  -- CORE_FMT_CAP: Table 4-7
  | .CORE_FMT_CAP_CODES => ⟨.CORE_FMT_CAP, 0, 64, .r, 12885368639, false⟩
  -- CORE_CVT_STAT: Table 4-8
  | .CORE_CVT_STAT_SAT_CNT => ⟨.CORE_CVT_STAT, 0, 16, .rh, 0, false⟩
  | .CORE_CVT_STAT_NAN0_CNT => ⟨.CORE_CVT_STAT, 16, 16, .rh, 0, false⟩
  | .CORE_CVT_STAT_SAT => ⟨.CORE_CVT_STAT, 32, 1, .w1c, 0, false⟩
  | .CORE_CVT_STAT_NAN0 => ⟨.CORE_CVT_STAT, 33, 1, .w1c, 0, false⟩
  | .CORE_CVT_STAT_SCALE_NAN => ⟨.CORE_CVT_STAT, 34, 1, .w1c, 0, false⟩
  -- CORE_SB_STAT: Table 5-10
  | .CORE_SB_STAT_INUSE => ⟨.CORE_SB_STAT, 0, 7, .rh, 0, false⟩
  | .CORE_SB_STAT_PEAK => ⟨.CORE_SB_STAT, 7, 7, .rh, 0, false⟩
  | .CORE_SB_STAT_WAITS => ⟨.CORE_SB_STAT, 16, 32, .rh, 0, false⟩
  -- CORE_OPX: Table 6-12
  | .CORE_OPX_BASE => ⟨.CORE_OPX, 0, 13, .rwl, 0, true⟩
  | .CORE_OPX_SIZE => ⟨.CORE_OPX, 13, 14, .rwl, 0, true⟩
  -- CORE_SLOT_MAP: Table 6-13
  | .CORE_SLOT_MAP_MAP0 => ⟨.CORE_SLOT_MAP, 0, 4, .rw, 0, true⟩
  | .CORE_SLOT_MAP_MAP1 => ⟨.CORE_SLOT_MAP, 4, 4, .rw, 0, true⟩
  | .CORE_SLOT_MAP_MAP2 => ⟨.CORE_SLOT_MAP, 8, 4, .rw, 0, true⟩
  | .CORE_SLOT_MAP_MAP3 => ⟨.CORE_SLOT_MAP, 12, 4, .rw, 0, true⟩
  | .CORE_SLOT_MAP_INFORCE => ⟨.CORE_SLOT_MAP, 16, 16, .rh, 0, true⟩
  | .CORE_SLOT_MAP_SLOT_MAP_PENDING => ⟨.CORE_SLOT_MAP, 32, 1, .rh, 0, false⟩
  -- CORE_OPX_STAT: Table 6-14
  | .CORE_OPX_STAT_BLOCKS => ⟨.CORE_OPX_STAT, 0, 32, .rh, 0, false⟩
  | .CORE_OPX_STAT_LAG => ⟨.CORE_OPX_STAT, 32, 24, .rh, 0, false⟩
  | .CORE_OPX_STAT_CAUSE => ⟨.CORE_OPX_STAT, 56, 3, .rh, 0, false⟩
  -- CORE_GRAFT_STAT: Table 6-15
  | .CORE_GRAFT_STAT_HITS => ⟨.CORE_GRAFT_STAT, 0, 32, .rh, 0, false⟩
  | .CORE_GRAFT_STAT_MISSES => ⟨.CORE_GRAFT_STAT, 32, 32, .rh, 0, false⟩
  -- CORE_DBG: Table 16-9
  | .CORE_DBG_HOLD => ⟨.CORE_DBG, 0, 8, .rw, 0, false⟩
  | .CORE_DBG_STEP => ⟨.CORE_DBG, 8, 8, .wo, 0, false⟩
  | .CORE_DBG_HELD => ⟨.CORE_DBG, 16, 8, .rh, 0, false⟩
  | .CORE_DBG_LAST_TAG => ⟨.CORE_DBG, 24, 16, .rh, 0, false⟩
  -- CORE_SLOTn_PC: Table 3-22
  | .CORE_SLOTn_PC_PC => ⟨.CORE_SLOTn_PC, 0, 44, .rwl, 0, false⟩
  | .CORE_SLOTn_PC_JOB => ⟨.CORE_SLOTn_PC, 44, 12, .rwl, 0, false⟩
  | .CORE_SLOTn_PC_RUN => ⟨.CORE_SLOTn_PC, 56, 1, .rwl, 0, false⟩
  -- CORE_SLOTn_CFG: Table 3-23
  | .CORE_SLOTn_CFG_STEP_CTR => ⟨.CORE_SLOTn_CFG, 0, 12, .rwl, 0, false⟩
  | .CORE_SLOTn_CFG_STEP_EN => ⟨.CORE_SLOTn_CFG, 12, 1, .rwl, 0, false⟩
  -- CORE_SLOTn_STAT: Table 3-24
  | .CORE_SLOTn_STAT_STATE => ⟨.CORE_SLOTn_STAT, 0, 3, .rh, 0, false⟩
  | .CORE_SLOTn_STAT_FCODE => ⟨.CORE_SLOTn_STAT, 8, 8, .rh, 0, false⟩
  | .CORE_SLOTn_STAT_TAG => ⟨.CORE_SLOTn_STAT, 16, 16, .rh, 0, false⟩
  | .CORE_SLOTn_STAT_DEPTH => ⟨.CORE_SLOTn_STAT, 32, 3, .rh, 0, false⟩
  | .CORE_SLOTn_STAT_WCTR => ⟨.CORE_SLOTn_STAT, 35, 12, .rh, 0, false⟩
  -- CORE_STEPVARn_v: Table 3-25
  | .CORE_STEPVARn_v_VALUE => ⟨.CORE_STEPVARn_v, 0, 32, .rh, 0, false⟩
  -- ARR_CHKCFG: Table 3-26
  | .ARR_CHKCFG_SLACK1 => ⟨.ARR_CHKCFG, 0, 3, .rwl, 0, false⟩
  | .ARR_CHKCFG_SLACK2 => ⟨.ARR_CHKCFG, 3, 3, .rwl, 0, false⟩
  | .ARR_CHKCFG_SLACK4 => ⟨.ARR_CHKCFG, 6, 3, .rwl, 0, false⟩
  | .ARR_CHKCFG_SLACK8 => ⟨.ARR_CHKCFG, 9, 3, .rwl, 0, false⟩
  -- ARR_STATp: Table 3-27
  | .ARR_STATp_MISMATCH => ⟨.ARR_STATp, 0, 32, .rh, 0, false⟩
  | .ARR_STATp_ROW => ⟨.ARR_STATp, 32, 16, .rh, 0, false⟩
  | .ARR_STATp_MARKING => ⟨.ARR_STATp, 48, 1, .rh, 0, false⟩
  | .ARR_STATp_IDLE => ⟨.ARR_STATp, 49, 1, .rh, 1, false⟩
  -- MEM_CAPd: Table 5-7
  | .MEM_CAPd_DMEM => ⟨.MEM_CAPd, 0, 10, .r, 576, false⟩
  | .MEM_CAPd_BANKS => ⟨.MEM_CAPd, 10, 10, .r, 512, false⟩
  | .MEM_CAPd_SEGS => ⟨.MEM_CAPd, 20, 4, .r, 9, false⟩
  | .MEM_CAPd_SEGSZ => ⟨.MEM_CAPd, 24, 8, .r, 64, false⟩
  | .MEM_CAPd_CLUST => ⟨.MEM_CAPd, 32, 5, .r, 16, false⟩
  | .MEM_CAPd_WINS => ⟨.MEM_CAPd, 37, 7, .r, 64, false⟩
  | .MEM_CAPd_RGNS => ⟨.MEM_CAPd, 44, 14, .r, 8192, false⟩
  | .MEM_CAPd_SBE => ⟨.MEM_CAPd, 58, 6, .r, 16, false⟩
  -- MEM_SEGPWRd: Table 5-8
  | .MEM_SEGPWRd_ON => ⟨.MEM_SEGPWRd, 0, 9, .rw, 0, true⟩
  | .MEM_SEGPWRd_READY => ⟨.MEM_SEGPWRd, 9, 9, .rh, 0, false⟩
  | .MEM_SEGPWRd_PENDING => ⟨.MEM_SEGPWRd, 18, 9, .rh, 0, false⟩
  -- MEM_SRAMERRd: Table 15-16
  | .MEM_SRAMERRd_CORR => ⟨.MEM_SRAMERRd, 0, 32, .rh, 0, false⟩
  | .MEM_SRAMERRd_UNCORR => ⟨.MEM_SRAMERRd, 32, 16, .rh, 0, false⟩
  | .MEM_SRAMERRd_ERR => ⟨.MEM_SRAMERRd, 48, 1, .w1c, 0, false⟩
  -- MEM_SRAMERRADDRd: Table 15-16
  | .MEM_SRAMERRADDRd_ADDR => ⟨.MEM_SRAMERRADDRd, 0, 44, .rh, 0, false⟩
  | .MEM_SRAMERRADDRd_KIND => ⟨.MEM_SRAMERRADDRd, 44, 3, .rh, 0, false⟩
  | .MEM_SRAMERRADDRd_POISON => ⟨.MEM_SRAMERRADDRd, 47, 1, .rh, 0, false⟩
  -- MEM_FILLCFG: Table 5-14
  | .MEM_FILLCFG_SHARE => ⟨.MEM_FILLCFG, 0, 7, .rwl, 0, true⟩
  -- MEM_HBM_CAP: Table 9-6
  | .MEM_HBM_CAP_DIES => ⟨.MEM_HBM_CAP, 0, 5, .r, 16, false⟩
  | .MEM_HBM_CAP_PCH => ⟨.MEM_HBM_CAP, 5, 7, .r, 64, false⟩
  | .MEM_HBM_CAP_CAPG => ⟨.MEM_HBM_CAP, 12, 10, .r, 96, false⟩
  | .MEM_HBM_CAP_LANES => ⟨.MEM_HBM_CAP, 22, 7, .r, 96, false⟩
  | .MEM_HBM_CAP_TREFI => ⟨.MEM_HBM_CAP, 32, 16, .r, 0, false⟩
  -- MEM_HBM_PATROL: Table 9-10
  | .MEM_HBM_PATROL_PATROL_H => ⟨.MEM_HBM_PATROL, 0, 8, .rw, 24, false⟩
  | .MEM_HBM_PATROL_LATE => ⟨.MEM_HBM_PATROL, 8, 1, .w1c, 0, false⟩
  | .MEM_HBM_PATROL_PASSES => ⟨.MEM_HBM_PATROL, 16, 32, .rh, 0, false⟩
  -- MEM_DISTk: Table 5-9
  | .MEM_DISTk_CLASS => ⟨.MEM_DISTk, 0, 32, .r, 0, false⟩
  -- MEM_HBM_LBs: Table 9-7
  | .MEM_HBM_LBs_MODE => ⟨.MEM_HBM_LBs, 0, 2, .rw, 0, false⟩
  | .MEM_HBM_LBs_CHAN => ⟨.MEM_HBM_LBs, 2, 5, .rw, 0, false⟩
  | .MEM_HBM_LBs_DUR_MS => ⟨.MEM_HBM_LBs, 7, 14, .rw, 0, false⟩
  | .MEM_HBM_LBs_GO => ⟨.MEM_HBM_LBs, 21, 1, .wo, 0, false⟩
  | .MEM_HBM_LBs_RESULT => ⟨.MEM_HBM_LBs, 22, 2, .rh, 0, false⟩
  | .MEM_HBM_LBs_BUSY => ⟨.MEM_HBM_LBs, 24, 1, .rh, 0, false⟩
  | .MEM_HBM_LBs_ERRCNT => ⟨.MEM_HBM_LBs, 32, 16, .rh, 0, false⟩
  | .MEM_HBM_LBs_LANE => ⟨.MEM_HBM_LBs, 48, 8, .rh, 0, false⟩
  -- MEM_HBM_TEMPs: Table 9-8
  | .MEM_HBM_TEMPs_TMAX => ⟨.MEM_HBM_TEMPs, 0, 8, .rh, 0, false⟩
  | .MEM_HBM_TEMPs_DIE => ⟨.MEM_HBM_TEMPs, 8, 4, .rh, 0, false⟩
  | .MEM_HBM_TEMPs_LEVEL => ⟨.MEM_HBM_TEMPs, 12, 2, .rh, 0, false⟩
  | .MEM_HBM_TEMPs_DBLREF => ⟨.MEM_HBM_TEMPs, 14, 1, .rh, 0, false⟩
  | .MEM_HBM_TEMPs_FENCED => ⟨.MEM_HBM_TEMPs, 15, 1, .rh, 0, false⟩
  | .MEM_HBM_TEMPs_PEAK => ⟨.MEM_HBM_TEMPs, 16, 8, .rh, 0, false⟩
  | .MEM_HBM_TEMPs_WARM => ⟨.MEM_HBM_TEMPs, 24, 1, .w1c, 0, false⟩
  | .MEM_HBM_TEMPs_HOT => ⟨.MEM_HBM_TEMPs, 25, 1, .w1c, 0, false⟩
  | .MEM_HBM_TEMPs_FENCE => ⟨.MEM_HBM_TEMPs, 26, 1, .w1c, 0, false⟩
  | .MEM_HBM_TEMPs_FCAUSE => ⟨.MEM_HBM_TEMPs, 27, 3, .rh, 0, false⟩
  -- MEM_HBM_CTLs: Table 9-9
  | .MEM_HBM_CTLs_FENCE => ⟨.MEM_HBM_CTLs, 0, 1, .wo, 0, false⟩
  -- MEM_HBM_ERRs: Table 9-11
  | .MEM_HBM_ERRs_CORR => ⟨.MEM_HBM_ERRs, 0, 32, .rh, 0, false⟩
  | .MEM_HBM_ERRs_UNCORR => ⟨.MEM_HBM_ERRs, 32, 16, .rh, 0, false⟩
  | .MEM_HBM_ERRs_ERR => ⟨.MEM_HBM_ERRs, 48, 1, .w1c, 0, false⟩
  -- MEM_HBM_ERRADDRs: Table 9-12
  | .MEM_HBM_ERRADDRs_ADDR => ⟨.MEM_HBM_ERRADDRs, 0, 44, .rh, 0, false⟩
  | .MEM_HBM_ERRADDRs_KIND => ⟨.MEM_HBM_ERRADDRs, 44, 3, .rh, 0, false⟩
  -- MEM_WINw_0: Table 5-15
  | .MEM_WINw_0_BASE => ⟨.MEM_WINw_0, 0, 44, .rwl, 0, true⟩
  | .MEM_WINw_0_JOB => ⟨.MEM_WINw_0, 44, 12, .rwl, 0, true⟩
  | .MEM_WINw_0_HOME => ⟨.MEM_WINw_0, 56, 7, .rwl, 0, true⟩
  | .MEM_WINw_0_OPEN => ⟨.MEM_WINw_0, 63, 1, .rh, 0, false⟩
  -- MEM_WINw_1: Table 5-15
  | .MEM_WINw_1_SIZE => ⟨.MEM_WINw_1, 0, 20, .rwl, 0, true⟩
  | .MEM_WINw_1_SENDER => ⟨.MEM_WINw_1, 20, 18, .rwl, 0, true⟩
  | .MEM_WINw_1_RET_CTR => ⟨.MEM_WINw_1, 38, 12, .rwl, 0, true⟩
  -- MEM_OWINw_0: Table 5-16
  | .MEM_OWINw_0_DEST => ⟨.MEM_OWINw_0, 0, 62, .rwl, 0, true⟩
  -- MEM_OWINw_1: Table 5-16
  | .MEM_OWINw_1_SIZE => ⟨.MEM_OWINw_1, 0, 20, .rwl, 0, true⟩
  | .MEM_OWINw_1_JOB => ⟨.MEM_OWINw_1, 20, 12, .rwl, 0, true⟩
  | .MEM_OWINw_1_CREDIT => ⟨.MEM_OWINw_1, 32, 21, .rh, 0, false⟩
  -- MEM_JOBj: Table 5-13
  | .MEM_JOBj_STATE => ⟨.MEM_JOBj, 0, 2, .rh, 0, true⟩
  | .MEM_JOBj_END => ⟨.MEM_JOBj, 2, 1, .wo, 0, false⟩
  | .MEM_JOBj_KILL => ⟨.MEM_JOBj, 3, 1, .wo, 0, false⟩
  | .MEM_JOBj_PM_HOLD => ⟨.MEM_JOBj, 4, 1, .rw, 0, false⟩
  | .MEM_JOBj_RELEASE => ⟨.MEM_JOBj, 5, 1, .wo, 0, false⟩
  | .MEM_JOBj_START => ⟨.MEM_JOBj, 6, 1, .wo, 0, false⟩
  | .MEM_JOBj_HOLD_LATE => ⟨.MEM_JOBj, 7, 1, .w1c, 0, false⟩
  | .MEM_JOBj_FILL_LEFT => ⟨.MEM_JOBj, 32, 16, .rh, 0, false⟩
  -- MEM_RGNi_0: Table 5-11
  | .MEM_RGNi_0_SIZE => ⟨.MEM_RGNi_0, 0, 32, .rwl, 0, true⟩
  | .MEM_RGNi_0_JOB => ⟨.MEM_RGNi_0, 32, 12, .rwl, 0, true⟩
  | .MEM_RGNi_0_RD => ⟨.MEM_RGNi_0, 44, 1, .rwl, 0, true⟩
  | .MEM_RGNi_0_WR => ⟨.MEM_RGNi_0, 45, 1, .rwl, 0, true⟩
  | .MEM_RGNi_0_KIND => ⟨.MEM_RGNi_0, 46, 3, .rwl, 0, true⟩
  | .MEM_RGNi_0_SHARED => ⟨.MEM_RGNi_0, 49, 1, .rwl, 0, true⟩
  | .MEM_RGNi_0_VALID => ⟨.MEM_RGNi_0, 50, 1, .rwl, 0, true⟩
  -- MEM_RGNi_1: Table 5-12
  | .MEM_RGNi_1_BASE => ⟨.MEM_RGNi_1, 0, 32, .rwl, 0, true⟩
  -- MSE_CAP: Table 8-6
  | .MSE_CAP_ENGINES => ⟨.MSE_CAP, 0, 5, .r, 16, false⟩
  | .MSE_CAP_SRAM => ⟨.MSE_CAP, 5, 8, .r, 8, false⟩
  | .MSE_CAP_STACKS => ⟨.MSE_CAP, 13, 3, .r, 6, false⟩
  | .MSE_CAP_DIRMAX => ⟨.MSE_CAP, 16, 11, .r, 1024, false⟩
  | .MSE_CAP_KVFMT => ⟨.MSE_CAP, 27, 4, .r, 15, false⟩
  | .MSE_CAP_SEAL => ⟨.MSE_CAP, 31, 1, .r, 1, false⟩
  -- MSE_KVCFG: Table 8-7
  | .MSE_KVCFG_LAYERS => ⟨.MSE_KVCFG, 0, 8, .rwl, 0, true⟩
  | .MSE_KVCFG_HKV => ⟨.MSE_KVCFG, 8, 8, .rwl, 0, true⟩
  | .MSE_KVCFG_D => ⟨.MSE_KVCFG, 16, 9, .rwl, 0, true⟩
  | .MSE_KVCFG_FMT => ⟨.MSE_KVCFG, 25, 7, .rwl, 0, true⟩
  | .MSE_KVCFG_DYN => ⟨.MSE_KVCFG, 32, 1, .rwl, 0, true⟩
  | .MSE_KVCFG_SEAL => ⟨.MSE_KVCFG, 33, 1, .rwl, 0, true⟩
  | .MSE_KVCFG_DIRLEN => ⟨.MSE_KVCFG, 34, 11, .rwl, 0, true⟩
  | .MSE_KVCFG_FSIZE => ⟨.MSE_KVCFG, 45, 19, .rh, 0, false⟩
  -- MSE_EMBCFG_0: Table 8-9
  | .MSE_EMBCFG_0_BASE => ⟨.MSE_EMBCFG_0, 0, 44, .rwl, 0, true⟩
  | .MSE_EMBCFG_0_COPIES => ⟨.MSE_EMBCFG_0, 44, 6, .rwl, 0, true⟩
  | .MSE_EMBCFG_0_ROWSZ => ⟨.MSE_EMBCFG_0, 50, 14, .rwl, 0, true⟩
  -- MSE_EMBCFG_1: Table 8-9
  | .MSE_EMBCFG_1_ROWS => ⟨.MSE_EMBCFG_1, 0, 24, .rwl, 0, true⟩
  | .MSE_EMBCFG_1_EMB_PITCH => ⟨.MSE_EMBCFG_1, 24, 16, .rwl, 0, true⟩
  -- MSE_EMBDEST: Table 8-10
  | .MSE_EMBDEST_EMB_DEST => ⟨.MSE_EMBDEST, 0, 44, .rwl, 0, true⟩
  -- MSE_ERR: Table 8-12
  | .MSE_ERR_PARAM => ⟨.MSE_ERR, 0, 1, .w1c, 0, false⟩
  | .MSE_ERR_HOLE => ⟨.MSE_ERR, 1, 1, .w1c, 0, false⟩
  | .MSE_ERR_ORDER => ⟨.MSE_ERR, 2, 1, .w1c, 0, false⟩
  | .MSE_ERR_FULL => ⟨.MSE_ERR, 3, 1, .w1c, 0, false⟩
  | .MSE_ERR_WORD => ⟨.MSE_ERR, 4, 1, .w1c, 0, false⟩
  | .MSE_ERR_RESIDUE => ⟨.MSE_ERR, 5, 1, .w1c, 0, false⟩
  | .MSE_ERR_STACK => ⟨.MSE_ERR, 8, 3, .rh, 0, false⟩
  | .MSE_ERR_SLOT => ⟨.MSE_ERR, 16, 14, .rh, 0, false⟩
  | .MSE_ERR_LAYER => ⟨.MSE_ERR, 30, 8, .rh, 0, false⟩
  | .MSE_ERR_TAG => ⟨.MSE_ERR, 38, 16, .rh, 0, false⟩
  -- MSE_CVT_STAT: Table 8-12
  | .MSE_CVT_STAT_SAT_CNT => ⟨.MSE_CVT_STAT, 0, 16, .rh, 0, false⟩
  | .MSE_CVT_STAT_NAN0_CNT => ⟨.MSE_CVT_STAT, 16, 16, .rh, 0, false⟩
  | .MSE_CVT_STAT_SAT => ⟨.MSE_CVT_STAT, 32, 1, .w1c, 0, false⟩
  | .MSE_CVT_STAT_NAN0 => ⟨.MSE_CVT_STAT, 33, 1, .w1c, 0, false⟩
  | .MSE_CVT_STAT_SCALE_NAN => ⟨.MSE_CVT_STAT, 34, 1, .w1c, 0, false⟩
  -- MSE_STRIPE: Table 8-13
  | .MSE_STRIPE_W => ⟨.MSE_STRIPE, 0, 3, .rwl, 1, true⟩
  -- MSE_STKs_0: Table 8-8
  | .MSE_STKs_0_KVBASE => ⟨.MSE_STKs_0, 0, 32, .rwl, 0, true⟩
  | .MSE_STKs_0_DIRBASE => ⟨.MSE_STKs_0, 32, 32, .rwl, 0, true⟩
  -- MSE_STKs_1: Table 8-8
  | .MSE_STKs_1_FRAMES => ⟨.MSE_STKs_1, 0, 24, .rwl, 0, true⟩
  | .MSE_STKs_1_UNRSV => ⟨.MSE_STKs_1, 24, 24, .rh, 0, false⟩
  | .MSE_STKs_1_SESS => ⟨.MSE_STKs_1, 48, 14, .rh, 0, false⟩
  | .MSE_STKs_1_HALVED => ⟨.MSE_STKs_1, 62, 1, .rh, 0, false⟩
  | .MSE_STKs_1_FENCED => ⟨.MSE_STKs_1, 63, 1, .rh, 0, false⟩
  -- MSE_STKs_2: Table 8-8
  | .MSE_STKs_2_SESS_ALL => ⟨.MSE_STKs_2, 0, 15, .rh, 0, false⟩
  -- MSE_STATs: Table 8-11
  | .MSE_STATs_STEALS => ⟨.MSE_STATs, 0, 32, .rh, 0, false⟩
  | .MSE_STATs_PRUNED => ⟨.MSE_STATs, 32, 16, .rh, 0, false⟩
  | .MSE_STATs_SEALED => ⟨.MSE_STATs, 48, 16, .rh, 0, false⟩
  -- LINK_CAP: Table 12-12
  | .LINK_CAP_QLPV => ⟨.LINK_CAP, 0, 2, .r, 3, false⟩
  | .LINK_CAP_CLANES => ⟨.LINK_CAP, 2, 8, .r, 128, false⟩
  | .LINK_CAP_XLANES => ⟨.LINK_CAP, 10, 8, .r, 32, false⟩
  | .LINK_CAP_PLANES => ⟨.LINK_CAP, 18, 13, .r, 4096, false⟩
  | .LINK_CAP_FEAT => ⟨.LINK_CAP, 31, 8, .r, 127, false⟩
  | .LINK_CAP_REPLAY => ⟨.LINK_CAP, 39, 15, .r, 16384, false⟩
  -- LINK_IDENT: Table 12-13
  | .LINK_IDENT_STRAP => ⟨.LINK_IDENT, 0, 18, .r, 0, false⟩
  | .LINK_IDENT_SET => ⟨.LINK_IDENT, 18, 1, .r, 0, false⟩
  | .LINK_IDENT_STRAP_VALID => ⟨.LINK_IDENT, 19, 1, .r, 0, false⟩
  -- LINK_XP_CAP: Table 6-9
  | .LINK_XP_CAP_DEC => ⟨.LINK_XP_CAP, 0, 8, .r, 64, false⟩
  | .LINK_XP_CAP_VERS => ⟨.LINK_XP_CAP, 8, 2, .r, 3, false⟩
  | .LINK_XP_CAP_RXBUF => ⟨.LINK_XP_CAP, 10, 8, .r, 2, false⟩
  -- LINK_FT: Table 12-22
  | .LINK_FT_TIME => ⟨.LINK_FT, 0, 64, .rh, 0, false⟩
  -- LINK_FT_CFG: Table 12-22
  | .LINK_FT_CFG_PARENT => ⟨.LINK_FT_CFG, 0, 3, .rwl, 0, true⟩
  | .LINK_FT_CFG_ALT => ⟨.LINK_FT_CFG, 3, 3, .rwl, 0, true⟩
  | .LINK_FT_CFG_RANK => ⟨.LINK_FT_CFG, 6, 3, .rwl, 0, true⟩
  | .LINK_FT_CFG_DEPTH => ⟨.LINK_FT_CFG, 9, 5, .rwl, 0, true⟩
  -- LINK_FT_STAT: Table 12-22
  | .LINK_FT_STAT_STATE => ⟨.LINK_FT_STAT, 0, 2, .rh, 0, false⟩
  | .LINK_FT_STAT_OFFSET => ⟨.LINK_FT_STAT, 2, 16, .rh, 0, false⟩
  | .LINK_FT_STAT_DELAY => ⟨.LINK_FT_STAT, 18, 12, .rh, 0, false⟩
  | .LINK_FT_STAT_HOLD => ⟨.LINK_FT_STAT, 30, 1, .w1c, 0, false⟩
  -- LINK_XP_CNTp: Table 6-10
  | .LINK_XP_CNTp_CODED => ⟨.LINK_XP_CNTp, 0, 32, .rh, 0, false⟩
  | .LINK_XP_CNTp_HOLD => ⟨.LINK_XP_CNTp, 32, 32, .rh, 0, false⟩
  -- LINK_XP_ERRp: Table 6-11
  | .LINK_XP_ERRp_CAUSE => ⟨.LINK_XP_ERRp, 0, 3, .rh, 0, false⟩
  | .LINK_XP_ERRp_ERR => ⟨.LINK_XP_ERRp, 3, 1, .w1c, 0, false⟩
  | .LINK_XP_ERRp_LAYER => ⟨.LINK_XP_ERRp, 4, 16, .rh, 0, false⟩
  | .LINK_XP_ERRp_TILE => ⟨.LINK_XP_ERRp, 20, 16, .rh, 0, false⟩
  -- LINK_PORTp_CFG_0: Table 12-14
  | .LINK_PORTp_CFG_0_PEER_LOC => ⟨.LINK_PORTp_CFG_0, 0, 18, .rwl, 0, true⟩
  | .LINK_PORTp_CFG_0_PEER_SET => ⟨.LINK_PORTp_CFG_0, 18, 1, .rwl, 0, true⟩
  | .LINK_PORTp_CFG_0_PEER_PORT => ⟨.LINK_PORTp_CFG_0, 19, 3, .rwl, 0, true⟩
  | .LINK_PORTp_CFG_0_PLANNED => ⟨.LINK_PORTp_CFG_0, 22, 1, .rwl, 0, true⟩
  | .LINK_PORTp_CFG_0_ACCEPT_ANY => ⟨.LINK_PORTp_CFG_0, 23, 1, .rwl, 0, true⟩
  | .LINK_PORTp_CFG_0_CLASS => ⟨.LINK_PORTp_CFG_0, 24, 2, .rwl, 0, true⟩
  | .LINK_PORTp_CFG_0_MIN_BUNDLES => ⟨.LINK_PORTp_CFG_0, 26, 6, .rwl, 0, true⟩
  | .LINK_PORTp_CFG_0_PEER_3400 => ⟨.LINK_PORTp_CFG_0, 32, 1, .rwl, 0, true⟩
  | .LINK_PORTp_CFG_0_DATELINE => ⟨.LINK_PORTp_CFG_0, 33, 1, .rwl, 0, true⟩
  -- LINK_PORTp_CFG_1: Table 12-15
  | .LINK_PORTp_CFG_1_DETECT => ⟨.LINK_PORTp_CFG_1, 0, 12, .rwl, 0, true⟩
  | .LINK_PORTp_CFG_1_TOF_MIN => ⟨.LINK_PORTp_CFG_1, 12, 12, .rwl, 0, true⟩
  | .LINK_PORTp_CFG_1_TOF_MAX => ⟨.LINK_PORTp_CFG_1, 24, 12, .rwl, 0, true⟩
  -- LINK_PORTp_STAT_0: Table 12-16
  | .LINK_PORTp_STAT_0_STATE => ⟨.LINK_PORTp_STAT_0, 0, 4, .rh, 0, false⟩
  | .LINK_PORTp_STAT_0_VER => ⟨.LINK_PORTp_STAT_0, 4, 2, .rh, 0, false⟩
  | .LINK_PORTp_STAT_0_BUNDLES => ⟨.LINK_PORTp_STAT_0, 6, 32, .rh, 0, false⟩
  | .LINK_PORTp_STAT_0_LPORT => ⟨.LINK_PORTp_STAT_0, 38, 3, .rh, 0, false⟩
  | .LINK_PORTp_STAT_0_REMAPPED => ⟨.LINK_PORTp_STAT_0, 41, 1, .rh, 0, false⟩
  | .LINK_PORTp_STAT_0_TOF => ⟨.LINK_PORTp_STAT_0, 42, 12, .rh, 0, false⟩
  | .LINK_PORTp_STAT_0_MISSING => ⟨.LINK_PORTp_STAT_0, 54, 1, .rh, 0, false⟩
  -- LINK_PORTp_STAT_1: Table 12-17
  | .LINK_PORTp_STAT_1_PEER_LOC => ⟨.LINK_PORTp_STAT_1, 0, 18, .rh, 0, false⟩
  | .LINK_PORTp_STAT_1_PEER_SET => ⟨.LINK_PORTp_STAT_1, 18, 1, .rh, 0, false⟩
  | .LINK_PORTp_STAT_1_PEER_PORT => ⟨.LINK_PORTp_STAT_1, 19, 3, .rh, 0, false⟩
  | .LINK_PORTp_STAT_1_FEAT => ⟨.LINK_PORTp_STAT_1, 22, 8, .rh, 0, false⟩
  | .LINK_PORTp_STAT_1_PEER_FW => ⟨.LINK_PORTp_STAT_1, 30, 32, .rh, 0, false⟩
  | .LINK_PORTp_STAT_1_PEER_3400 => ⟨.LINK_PORTp_STAT_1, 62, 1, .rh, 0, false⟩
  -- LINK_PORTp_CTL: Table 12-18
  | .LINK_PORTp_CTL_DISABLE => ⟨.LINK_PORTp_CTL, 0, 1, .rw, 0, false⟩
  | .LINK_PORTp_CTL_RETRAIN => ⟨.LINK_PORTp_CTL, 1, 1, .wo, 0, false⟩
  | .LINK_PORTp_CTL_RESCAN => ⟨.LINK_PORTp_CTL, 2, 1, .wo, 0, false⟩
  -- LINK_PORTp_CNT_0: Table 12-19
  | .LINK_PORTp_CNT_0_FEC_CORR => ⟨.LINK_PORTp_CNT_0, 0, 32, .rh, 0, false⟩
  | .LINK_PORTp_CNT_0_CRC_FAIL => ⟨.LINK_PORTp_CNT_0, 32, 32, .rh, 0, false⟩
  -- LINK_PORTp_CNT_1: Table 12-19
  | .LINK_PORTp_CNT_1_REPLAYS => ⟨.LINK_PORTp_CNT_1, 0, 32, .rh, 0, false⟩
  | .LINK_PORTp_CNT_1_RETRAINS => ⟨.LINK_PORTp_CNT_1, 32, 16, .rh, 0, false⟩
  | .LINK_PORTp_CNT_1_WORDS => ⟨.LINK_PORTp_CNT_1, 48, 16, .rh, 0, false⟩
  -- LINK_PORTp_EVT: Table 12-20
  | .LINK_PORTp_EVT_LOST => ⟨.LINK_PORTp_EVT, 0, 1, .w1c, 0, false⟩
  | .LINK_PORTp_EVT_DEGRADED => ⟨.LINK_PORTp_EVT, 1, 1, .w1c, 0, false⟩
  | .LINK_PORTp_EVT_WORD => ⟨.LINK_PORTp_EVT, 2, 1, .w1c, 0, false⟩
  | .LINK_PORTp_EVT_MISSING => ⟨.LINK_PORTp_EVT, 3, 1, .w1c, 0, false⟩
  | .LINK_PORTp_EVT_EXTRA => ⟨.LINK_PORTp_EVT, 4, 1, .w1c, 0, false⟩
  | .LINK_PORTp_EVT_CROSSED => ⟨.LINK_PORTp_EVT, 5, 1, .w1c, 0, false⟩
  | .LINK_PORTp_EVT_VERSION => ⟨.LINK_PORTp_EVT, 6, 1, .w1c, 0, false⟩
  | .LINK_PORTp_EVT_PLAN => ⟨.LINK_PORTp_EVT, 7, 1, .w1c, 0, false⟩
  | .LINK_PORTp_EVT_FWMIX => ⟨.LINK_PORTp_EVT, 8, 1, .w1c, 0, false⟩
  | .LINK_PORTp_EVT_LENGTH => ⟨.LINK_PORTp_EVT, 9, 1, .w1c, 0, false⟩
  | .LINK_PORTp_EVT_DOWN_RX => ⟨.LINK_PORTp_EVT, 10, 1, .w1c, 0, false⟩
  -- LINK_LOADRTi: Table 12-21
  | .LINK_LOADRTi_READER => ⟨.LINK_LOADRTi, 0, 18, .rwl, 0, true⟩
  | .LINK_LOADRTi_FWD => ⟨.LINK_LOADRTi, 18, 5, .rwl, 0, true⟩
  | .LINK_LOADRTi_VALID => ⟨.LINK_LOADRTi, 23, 1, .rwl, 0, true⟩
  -- LINK_RTc: Table 12-21
  | .LINK_RTc_PORT => ⟨.LINK_RTc, 0, 3, .rwl, 0, true⟩
  | .LINK_RTc_ALT => ⟨.LINK_RTc, 3, 3, .rwl, 0, true⟩
  | .LINK_RTc_VALID => ⟨.LINK_RTc, 6, 1, .rwl, 0, true⟩
  -- CIRC_CFG: Table 7-7
  | .CIRC_CFG_MODE => ⟨.CIRC_CFG, 0, 1, .rwl, 0, true⟩
  | .CIRC_CFG_DOUBLE => ⟨.CIRC_CFG, 1, 1, .rwl, 0, true⟩
  | .CIRC_CFG_FOLD_OK => ⟨.CIRC_CFG, 2, 1, .rwl, 0, true⟩
  | .CIRC_CFG_BANKS => ⟨.CIRC_CFG, 3, 1, .rwl, 0, true⟩
  | .CIRC_CFG_N => ⟨.CIRC_CFG, 4, 9, .rwl, 0, true⟩
  | .CIRC_CFG_PLACE => ⟨.CIRC_CFG, 13, 8, .rwl, 0, true⟩
  | .CIRC_CFG_CIRCLE => ⟨.CIRC_CFG, 21, 10, .rwl, 0, true⟩
  | .CIRC_CFG_TURN_CTR => ⟨.CIRC_CFG, 31, 12, .rwl, 0, true⟩
  | .CIRC_CFG_JOB => ⟨.CIRC_CFG, 43, 12, .rwl, 0, true⟩
  | .CIRC_CFG_TIER_TRUSTED => ⟨.CIRC_CFG, 55, 1, .rwl, 0, true⟩
  -- CIRC_BANKOFS: Table 7-8
  | .CIRC_BANKOFS_OFS => ⟨.CIRC_BANKOFS, 12, 32, .rwl, 0, true⟩
  -- CIRC_REV: Table 7-9
  | .CIRC_REV_REV => ⟨.CIRC_REV, 0, 48, .rh, 0, false⟩
  | .CIRC_REV_VERSION => ⟨.CIRC_REV, 48, 16, .rh, 0, true⟩
  -- CIRC_STAT: Table 7-10
  | .CIRC_STAT_STATE => ⟨.CIRC_STAT, 0, 3, .rh, 0, false⟩
  | .CIRC_STAT_BANK => ⟨.CIRC_STAT, 3, 1, .rh, 0, false⟩
  | .CIRC_STAT_EPOCH => ⟨.CIRC_STAT, 4, 16, .rh, 0, false⟩
  | .CIRC_STAT_LEADER => ⟨.CIRC_STAT, 20, 8, .rh, 0, false⟩
  | .CIRC_STAT_STANDIN => ⟨.CIRC_STAT, 28, 1, .rh, 0, false⟩
  | .CIRC_STAT_END_A => ⟨.CIRC_STAT, 29, 8, .rh, 255, false⟩
  | .CIRC_STAT_END_B => ⟨.CIRC_STAT, 37, 8, .rh, 255, false⟩
  -- CIRC_SWITCH: Table 7-11
  | .CIRC_SWITCH_VERSION => ⟨.CIRC_SWITCH, 0, 16, .wo, 0, false⟩
  | .CIRC_SWITCH_UNFOLD => ⟨.CIRC_SWITCH, 16, 1, .wo, 0, false⟩
  | .CIRC_SWITCH_GO => ⟨.CIRC_SWITCH, 17, 1, .wo, 0, false⟩
  -- CIRC_SWITCH_STAT: Table 7-12
  | .CIRC_SWITCH_STAT_STATE => ⟨.CIRC_SWITCH_STAT, 0, 2, .rh, 0, false⟩
  | .CIRC_SWITCH_STAT_RESULT => ⟨.CIRC_SWITCH_STAT, 2, 3, .rh, 0, false⟩
  | .CIRC_SWITCH_STAT_TARGET => ⟨.CIRC_SWITCH_STAT, 16, 48, .rh, 0, false⟩
  -- CIRC_LOAD: Table 7-13
  | .CIRC_LOAD_PIECES => ⟨.CIRC_LOAD, 0, 16, .rh, 0, false⟩
  | .CIRC_LOAD_DONE => ⟨.CIRC_LOAD, 16, 16, .rh, 0, false⟩
  | .CIRC_LOAD_RETRIES => ⟨.CIRC_LOAD, 32, 8, .rh, 0, false⟩
  | .CIRC_LOAD_MISSING => ⟨.CIRC_LOAD, 40, 1, .rh, 0, false⟩
  | .CIRC_LOAD_ACTIVE => ⟨.CIRC_LOAD, 41, 1, .rh, 0, false⟩
  -- CIRC_TIMERS: Table 7-14
  | .CIRC_TIMERS_WEED_MIN => ⟨.CIRC_TIMERS, 0, 11, .rw, 15, true⟩
  | .CIRC_TIMERS_LOAD_S => ⟨.CIRC_TIMERS, 11, 10, .rwl, 30, true⟩
  -- CIRC_WEED_STAT: Table 7-15
  | .CIRC_WEED_STAT_PASSES => ⟨.CIRC_WEED_STAT, 0, 32, .rh, 0, false⟩
  | .CIRC_WEED_STAT_LATE => ⟨.CIRC_WEED_STAT, 32, 1, .w1c, 0, false⟩
  | .CIRC_WEED_STAT_BAD => ⟨.CIRC_WEED_STAT, 33, 1, .w1c, 0, false⟩
  | .CIRC_WEED_STAT_PIECE => ⟨.CIRC_WEED_STAT, 34, 16, .rh, 0, false⟩
  | .CIRC_WEED_STAT_TIER_BAD => ⟨.CIRC_WEED_STAT, 50, 1, .w1c, 0, false⟩
  -- CIRC_ERR: Table 7-16
  | .CIRC_ERR_SEQ => ⟨.CIRC_ERR, 0, 1, .w1c, 0, false⟩
  | .CIRC_ERR_REVN => ⟨.CIRC_ERR, 1, 1, .w1c, 0, false⟩
  | .CIRC_ERR_VERS => ⟨.CIRC_ERR, 2, 1, .w1c, 0, false⟩
  | .CIRC_ERR_STOPPED => ⟨.CIRC_ERR, 3, 1, .w1c, 0, false⟩
  | .CIRC_ERR_LAYER => ⟨.CIRC_ERR, 8, 16, .rh, 0, false⟩
  | .CIRC_ERR_TILE => ⟨.CIRC_ERR, 24, 16, .rh, 0, false⟩
  | .CIRC_ERR_OWNER => ⟨.CIRC_ERR, 40, 8, .rh, 0, false⟩
  | .CIRC_ERR_LATE_MS => ⟨.CIRC_ERR, 48, 16, .rh, 0, false⟩
  -- CIRC_AUX: Table 7-17
  | .CIRC_AUX_TIER_CTR => ⟨.CIRC_AUX, 0, 12, .rwl, 0, true⟩
  | .CIRC_AUX_TIER_EN => ⟨.CIRC_AUX, 12, 1, .rwl, 0, true⟩
  | .CIRC_AUX_PCORE => ⟨.CIRC_AUX, 13, 7, .rwl, 0, true⟩
  | .CIRC_AUX_PCHAN => ⟨.CIRC_AUX, 20, 6, .rwl, 0, true⟩
  | .CIRC_AUX_PASS_EN => ⟨.CIRC_AUX, 26, 1, .rwl, 0, true⟩
  -- SYNC_CAP: Table 11-6
  | .SYNC_CAP_PHYS => ⟨.SYNC_CAP, 0, 17, .r, 65536, false⟩
  | .SYNC_CAP_VIDS => ⟨.SYNC_CAP, 17, 13, .r, 4096, false⟩
  | .SYNC_CAP_EXPORTS => ⟨.SYNC_CAP, 30, 13, .r, 4096, false⟩
  | .SYNC_CAP_BNODES => ⟨.SYNC_CAP, 43, 11, .r, 1024, false⟩
  | .SYNC_CAP_HWAITS => ⟨.SYNC_CAP, 54, 7, .r, 64, false⟩
  -- SYNC_LEND: Table 11-13
  | .SYNC_LEND_LEND_US => ⟨.SYNC_LEND, 0, 10, .rwl, 20, true⟩
  -- SYNC_JOBj: Table 11-7
  | .SYNC_JOBj_BASE => ⟨.SYNC_JOBj, 0, 16, .rwl, 0, true⟩
  | .SYNC_JOBj_COUNT => ⟨.SYNC_JOBj, 16, 13, .rwl, 0, true⟩
  -- SYNC_EXPe: Table 11-11
  | .SYNC_EXPe_CTR => ⟨.SYNC_EXPe, 0, 16, .rwl, 0, true⟩
  | .SYNC_EXPe_SENDER => ⟨.SYNC_EXPe, 16, 18, .rwl, 0, true⟩
  | .SYNC_EXPe_ANY => ⟨.SYNC_EXPe, 34, 1, .rwl, 0, true⟩
  | .SYNC_EXPe_VALID => ⟨.SYNC_EXPe, 35, 1, .rwl, 0, true⟩
  -- SYNC_BNODEi_0: Table 11-12
  | .SYNC_BNODEi_0_CTR => ⟨.SYNC_BNODEi_0, 0, 16, .rwl, 0, true⟩
  | .SYNC_BNODEi_0_LOCAL => ⟨.SYNC_BNODEi_0, 16, 16, .rwl, 0, true⟩
  | .SYNC_BNODEi_0_CHILDREN => ⟨.SYNC_BNODEi_0, 32, 5, .rwl, 0, true⟩
  | .SYNC_BNODEi_0_ROOT => ⟨.SYNC_BNODEi_0, 37, 1, .rwl, 0, true⟩
  | .SYNC_BNODEi_0_PARENT => ⟨.SYNC_BNODEi_0, 38, 18, .rwl, 0, true⟩
  | .SYNC_BNODEi_0_VALID => ⟨.SYNC_BNODEi_0, 56, 1, .rwl, 0, true⟩
  -- SYNC_BNODEi_1: Table 11-12
  | .SYNC_BNODEi_1_PCTR => ⟨.SYNC_BNODEi_1, 0, 16, .rwl, 0, true⟩
  | .SYNC_BNODEi_1_REPORTED => ⟨.SYNC_BNODEi_1, 16, 5, .rh, 0, false⟩
  -- SYNC_CTRp_0: Table 11-8
  | .SYNC_CTRp_0_KIND => ⟨.SYNC_CTRp_0, 0, 2, .rwl, 0, true⟩
  | .SYNC_CTRp_0_HOST_OK => ⟨.SYNC_CTRp_0, 2, 1, .rwl, 0, true⟩
  | .SYNC_CTRp_0_RETURN => ⟨.SYNC_CTRp_0, 3, 1, .rwl, 0, true⟩
  | .SYNC_CTRp_0_JOB => ⟨.SYNC_CTRp_0, 4, 12, .rwl, 0, true⟩
  | .SYNC_CTRp_0_INIT => ⟨.SYNC_CTRp_0, 16, 31, .rwl, 0, true⟩
  -- SYNC_CTRp_1: Table 11-9
  | .SYNC_CTRp_1_VALUE => ⟨.SYNC_CTRp_1, 0, 31, .rh, 0, false⟩
  | .SYNC_CTRp_1_GEN => ⟨.SYNC_CTRp_1, 32, 16, .rh, 0, false⟩
  | .SYNC_CTRp_1_WAITERS => ⟨.SYNC_CTRp_1, 48, 10, .rh, 0, false⟩
  | .SYNC_CTRp_1_BROKEN => ⟨.SYNC_CTRp_1, 58, 1, .rh, 0, false⟩
  -- SYNC_CTRp_2: Table 11-10
  | .SYNC_CTRp_2_SRC => ⟨.SYNC_CTRp_2, 0, 3, .rh, 0, false⟩
  | .SYNC_CTRp_2_CORE => ⟨.SYNC_CTRp_2, 3, 7, .rh, 0, false⟩
  | .SYNC_CTRp_2_SLOT => ⟨.SYNC_CTRp_2, 10, 3, .rh, 0, false⟩
  | .SYNC_CTRp_2_PLACE => ⟨.SYNC_CTRp_2, 13, 18, .rh, 0, false⟩
  | .SYNC_CTRp_2_FW_CORE => ⟨.SYNC_CTRp_2, 31, 7, .rh, 0, false⟩
  | .SYNC_CTRp_2_FW_SLOT => ⟨.SYNC_CTRp_2, 38, 3, .rh, 0, false⟩
  | .SYNC_CTRp_2_FW_HOST => ⟨.SYNC_CTRp_2, 41, 1, .rh, 0, false⟩
  -- SYNC_CTRp_3: Table 11-10
  | .SYNC_CTRp_3_TIME => ⟨.SYNC_CTRp_3, 0, 64, .rh, 0, false⟩
  -- CHAN_STAT: Table 11-19 and R454 (two halves)
  | .CHAN_STAT_STATE => ⟨.CHAN_STAT, 0, 64, .rh, 0, false⟩
  -- CHAN_TXk_c_0: Table 11-17
  | .CHAN_TXk_c_0_DPLACE => ⟨.CHAN_TXk_c_0, 0, 18, .rwl, 0, true⟩
  | .CHAN_TXk_c_0_DCORE => ⟨.CHAN_TXk_c_0, 18, 7, .rwl, 0, true⟩
  | .CHAN_TXk_c_0_DCHAN => ⟨.CHAN_TXk_c_0, 25, 6, .rwl, 0, true⟩
  | .CHAN_TXk_c_0_ROUTE => ⟨.CHAN_TXk_c_0, 31, 3, .rwl, 0, true⟩
  | .CHAN_TXk_c_0_FROUTE => ⟨.CHAN_TXk_c_0, 34, 3, .rwl, 0, true⟩
  | .CHAN_TXk_c_0_RETRY => ⟨.CHAN_TXk_c_0, 37, 4, .rwl, 0, true⟩
  | .CHAN_TXk_c_0_BACKOFF => ⟨.CHAN_TXk_c_0, 41, 4, .rwl, 0, true⟩
  | .CHAN_TXk_c_0_VALID => ⟨.CHAN_TXk_c_0, 45, 1, .rwl, 0, true⟩
  -- CHAN_TXk_c_1: Table 11-17
  | .CHAN_TXk_c_1_SEQ => ⟨.CHAN_TXk_c_1, 0, 32, .rh, 0, false⟩
  | .CHAN_TXk_c_1_RETRIES => ⟨.CHAN_TXk_c_1, 32, 16, .rh, 0, false⟩
  | .CHAN_TXk_c_1_LASTNACK => ⟨.CHAN_TXk_c_1, 48, 3, .rh, 0, false⟩
  -- CHAN_RXk_c_0: Table 11-18
  | .CHAN_RXk_c_0_BASE => ⟨.CHAN_RXk_c_0, 0, 44, .rwl, 0, true⟩
  | .CHAN_RXk_c_0_JOB => ⟨.CHAN_RXk_c_0, 44, 12, .rwl, 0, true⟩
  | .CHAN_RXk_c_0_VALID => ⟨.CHAN_RXk_c_0, 56, 1, .rwl, 0, true⟩
  -- CHAN_RXk_c_1: Table 11-18
  | .CHAN_RXk_c_1_SIZE => ⟨.CHAN_RXk_c_1, 0, 17, .rwl, 0, true⟩
  | .CHAN_RXk_c_1_ARRIVE => ⟨.CHAN_RXk_c_1, 17, 12, .rwl, 0, true⟩
  | .CHAN_RXk_c_1_FREE => ⟨.CHAN_RXk_c_1, 29, 12, .rwl, 0, true⟩
  | .CHAN_RXk_c_1_SPLACE => ⟨.CHAN_RXk_c_1, 41, 18, .rwl, 0, true⟩
  -- CHAN_RXk_c_2: Table 11-19
  | .CHAN_RXk_c_2_SCORE => ⟨.CHAN_RXk_c_2, 0, 7, .rwl, 0, true⟩
  | .CHAN_RXk_c_2_SCHAN => ⟨.CHAN_RXk_c_2, 7, 6, .rwl, 0, true⟩
  | .CHAN_RXk_c_2_HEAD => ⟨.CHAN_RXk_c_2, 13, 17, .rh, 0, false⟩
  | .CHAN_RXk_c_2_TAIL => ⟨.CHAN_RXk_c_2, 30, 17, .rh, 0, false⟩
  | .CHAN_RXk_c_2_MSGS => ⟨.CHAN_RXk_c_2, 47, 16, .rh, 0, false⟩
  | .CHAN_RXk_c_2_OPEN => ⟨.CHAN_RXk_c_2, 63, 1, .rh, 0, false⟩
  -- SESS_CAP: Table 10-14
  | .SESS_CAP_QVER => ⟨.SESS_CAP, 0, 4, .r, 1, false⟩
  | .SESS_CAP_SLOTS => ⟨.SESS_CAP, 4, 15, .r, 16384, false⟩
  | .SESS_CAP_ROWMAX => ⟨.SESS_CAP, 19, 11, .r, 1024, false⟩
  | .SESS_CAP_DMAX => ⟨.SESS_CAP, 30, 5, .r, 16, false⟩
  | .SESS_CAP_TOPKMAX => ⟨.SESS_CAP, 35, 11, .r, 1024, false⟩
  | .SESS_CAP_NLOGP => ⟨.SESS_CAP, 46, 4, .r, 8, false⟩
  | .SESS_CAP_STOPS => ⟨.SESS_CAP, 50, 4, .r, 8, false⟩
  -- SESS_CFG_0: Table 10-15
  | .SESS_CFG_0_ROWS => ⟨.SESS_CFG_0, 0, 11, .rwl, 0, true⟩
  | .SESS_CFG_0_PF_MIN => ⟨.SESS_CFG_0, 11, 11, .rwl, 0, true⟩
  | .SESS_CFG_0_CHUNK => ⟨.SESS_CFG_0, 22, 11, .rwl, 0, true⟩
  | .SESS_CFG_0_HEADS => ⟨.SESS_CFG_0, 33, 4, .rwl, 0, true⟩
  | .SESS_CFG_0_VOCAB => ⟨.SESS_CFG_0, 37, 22, .rwl, 0, true⟩
  | .SESS_CFG_0_OPEN_MS => ⟨.SESS_CFG_0, 59, 5, .rwl, 0, true⟩
  -- SESS_BASE_0: Table 10-16
  | .SESS_BASE_0_ROWBIND => ⟨.SESS_BASE_0, 0, 44, .rwl, 0, true⟩
  | .SESS_BASE_0_LROWS => ⟨.SESS_BASE_0, 44, 11, .rwl, 0, true⟩
  -- SESS_BASE_1: Table 10-16
  | .SESS_BASE_1_LBASE => ⟨.SESS_BASE_1, 0, 44, .rwl, 0, true⟩
  -- SESS_BASE_2: Table 10-16
  | .SESS_BASE_2_HSTATE => ⟨.SESS_BASE_2, 0, 44, .rwl, 0, true⟩
  -- SESS_BASE_3: Table 10-16
  | .SESS_BASE_3_HIST => ⟨.SESS_BASE_3, 0, 44, .rwl, 0, true⟩
  -- SESS_BASE_4: Table 10-16
  | .SESS_BASE_4_MASKS => ⟨.SESS_BASE_4, 0, 44, .rwl, 0, true⟩
  -- SESS_BASE_5: Table 10-16
  | .SESS_BASE_5_HBASE => ⟨.SESS_BASE_5, 0, 44, .rwl, 0, true⟩

/-- The fields of a register, lowest bit first. -/
def Reg.fields : Reg → List Field
  | .HB_CAP => [.HB_CAP_MODE, .HB_CAP_WIDTH, .HB_CAP_CACHE, .HB_CAP_MEM, .HB_CAP_IDE_IO, .HB_CAP_IDE_CM, .HB_CAP_QVER, .HB_CAP_DCVER, .HB_CAP_FIGVER, .HB_CAP_SVER, .HB_CAP_QLPV]
  | .HB_HOSTCFG => [.HB_HOSTCFG_SHARE0, .HB_HOSTCFG_SHARE1, .HB_HOSTCFG_IDE_REQ]
  | .HB_HOST_STAT => [.HB_HOST_STAT_LINK, .HB_HOST_STAT_DMA, .HB_HOST_STAT_IDE, .HB_HOST_STAT_HELD, .HB_HOST_STAT_LINKDOWNS, .HB_HOST_STAT_DMAERRS]
  | .HB_BOOT => [.HB_BOOT_STAGE, .HB_BOOT_CAUSE, .HB_BOOT_SECTION, .HB_BOOT_INDEX, .HB_BOOT_ACT_PENDING]
  | .HB_BOOT_T => [.HB_BOOT_T_LOCK_MS, .HB_BOOT_T_SEED_S, .HB_BOOT_T_FULL_S]
  | .HB_OWNER => [.HB_OWNER_SLOT, .HB_OWNER_STATE, .HB_OWNER_ENROLLED, .HB_OWNER_REVOKED, .HB_OWNER_SVN_FUSE]
  | .HB_APERa => [.HB_APERa_BASE, .HB_APERa_SET, .HB_APERa_EN, .HB_APERa_RD_ERR, .HB_APERa_WR_DROP, .HB_APERa_POISON]
  | .HB_HDMs => [.HB_HDMs_BASE, .HB_HDMs_SIZE, .HB_HDMs_HDM_ERR]
  | .HB_PAGEt_CFG => [.HB_PAGEt_CFG_BOUND, .HB_PAGEt_CFG_SET, .HB_PAGEt_CFG_JOB, .HB_PAGEt_CFG_PASID, .HB_PAGEt_CFG_PASID_EN, .HB_PAGEt_CFG_VEC_FIRST, .HB_PAGEt_CFG_VEC_COUNT]
  | .PD_CLASS => [.PD_CLASS_CLASS, .PD_CLASS_COOL, .PD_CLASS_ENV, .PD_CLASS_P_PLAN, .PD_CLASS_T_MARK, .PD_CLASS_LEND, .PD_CLASS_SPRINT_OK, .PD_CLASS_ACCEPTED]
  | .PD_ENV_CAP => [.PD_ENV_CAP_CAP, .PD_ENV_CAP_CAP_ERR]
  | .PD_SPRINT_CTL => [.PD_SPRINT_CTL_DUR, .PD_SPRINT_CTL_GO]
  | .PD_SPRINT_STAT => [.PD_SPRINT_STAT_ACTIVE, .PD_SPRINT_STAT_LEFT, .PD_SPRINT_STAT_END, .PD_SPRINT_STAT_REFUSE, .PD_SPRINT_STAT_COOL_LEFT]
  | .PD_SPRINT_LIFE => [.PD_SPRINT_LIFE_USED, .PD_SPRINT_LIFE_RESERVE, .PD_SPRINT_LIFE_EXHAUSTED]
  | .PD_FLOOR_EVT => [.PD_FLOOR_EVT_ENVELOPE, .PD_FLOOR_EVT_THERMAL, .PD_FLOOR_EVT_AGEING, .PD_FLOOR_EVT_SUPPLY, .PD_FLOOR_EVT_UNEXPLAINED, .PD_FLOOR_EVT_DIE, .PD_FLOOR_EVT_ACTIVE]
  | .PD_POWER => [.PD_POWER_MEAN_1MS, .PD_POWER_PEAK_1US]
  | .PD_SENSE => [.PD_SENSE_VIN, .PD_SENSE_IIN, .PD_SENSE_TJ_HB, .PD_SENSE_TJ_PD]
  | .PD_TEMPOn => [.PD_TEMPOn_VSET, .PD_TEMPOn_VF, .PD_TEMPOn_MARGIN, .PD_TEMPOn_TJ, .PD_TEMPOn_AGE]
  | .SEC_STAT => [.SEC_STAT_ALIAS_READY, .SEC_STAT_MEAS, .SEC_STAT_HOLD_SEEN, .SEC_STAT_CAL_UNLOCK_SEEN, .SEC_STAT_SPDM_OPEN, .SEC_STAT_IDE_KEYED]
  | .ALM_CFG => [.ALM_CFG_INTERVAL, .ALM_CFG_DEBUG_OK]
  | .ALM_STAT => [.ALM_STAT_SEQ, .ALM_STAT_SINCE_S, .ALM_STAT_LOST, .ALM_STAT_WRITE_ERR, .ALM_STAT_CAL_BAD, .ALM_STAT_CAL_ORIGIN, .ALM_STAT_CAL_UNLOCKED]
  | .ALM_HOURS => [.ALM_HOURS_POWERED_H, .ALM_HOURS_POWER_CYCLES]
  | .ARR_MAPm => [.ARR_MAPm_EN]
  | .HB_PAGE_ID => [.HB_PAGE_ID_PAGE, .HB_PAGE_ID_SET, .HB_PAGE_ID_LOST, .HB_PAGE_ID_VECS]
  | .HB_PAGE_CAP => [.HB_PAGE_CAP_CAP]
  | .HB_PAGE_ERR => [.HB_PAGE_ERR_HOSTERR, .HB_PAGE_ERR_LINKDOWN, .HB_PAGE_ERR_VEC_DROP]
  | .HB_PAGE_IRQ => [.HB_PAGE_IRQ_CQ_EN, .HB_PAGE_IRQ_CQ_VEC]
  | .SESS_SQ_BASE => [.SESS_SQ_BASE_ADDR]
  | .SESS_CQ_BASE => [.SESS_CQ_BASE_ADDR]
  | .SESS_RING => [.SESS_RING_SQ_LOG2, .SESS_RING_CQ_LOG2, .SESS_RING_ENABLE, .SESS_RING_VER, .SESS_RING_VERR, .SESS_RING_CFGERR, .SESS_RING_SQERR, .SESS_RING_CQERR]
  | .SESS_SQ_PTR => [.SESS_SQ_PTR_TAIL, .SESS_SQ_PTR_HEAD]
  | .SESS_CQ_PTR => [.SESS_CQ_PTR_HEAD, .SESS_CQ_PTR_TAIL]
  | .SESS_PAGE_STAT => [.SESS_PAGE_STAT_OPEN, .SESS_PAGE_STAT_HELD, .SESS_PAGE_STAT_HELDSTEPS]
  | .SYNC_HSIG => [.SYNC_HSIG_VID, .SYNC_HSIG_N]
  | .SYNC_HPEEK => [.SYNC_HPEEK_VID, .SYNC_HPEEK_VALUE]
  | .SYNC_CUE_BASE => [.SYNC_CUE_BASE_ADDR]
  | .SYNC_HSTAT => [.SYNC_HSTAT_HERR, .SYNC_HSTAT_HCAUSE]
  | .SYNC_HWAITw => [.SYNC_HWAITw_VID, .SYNC_HWAITw_ARM, .SYNC_HWAITw_MSIX, .SYNC_HWAITw_VEC, .SYNC_HWAITw_N]
  | .SET_FCFG => [.SET_FCFG_VEC_SEV, .SET_FCFG_MASKED_LOG]
  | .SET_FSTAT => [.SET_FSTAT_MASKED, .SET_FSTAT_SESSION, .SET_FSTAT_JOB, .SET_FSTAT_PRUNE, .SET_FSTAT_LOST, .SET_FSTAT_LAST, .SET_FSTAT_COUNT]
  | .SET_FLOG_PTR => [.SET_FLOG_PTR_HEAD, .SET_FLOG_PTR_WRAPPED]
  | .SET_PRUNE_BASE => [.SET_PRUNE_BASE_BASE]
  | .SET_PRUNED_0 => [.SET_PRUNED_0_CORES]
  | .SET_PRUNED_1 => [.SET_PRUNED_1_CORES, .SET_PRUNED_1_HARV0, .SET_PRUNED_1_HARV1]
  | .SET_FLOGe_w => [.SET_FLOGe_w_REC]
  | .CORE_CAP => [.CORE_CAP_WBUF, .CORE_CAP_ABUF, .CORE_CAP_PBUF, .CORE_CAP_CMEM, .CORE_CAP_SLOTS, .CORE_CAP_ARRAYS, .CORE_CAP_DIM, .CORE_CAP_FIG_VER, .CORE_CAP_VLANES]
  | .CORE_FMT_CAP => [.CORE_FMT_CAP_CODES]
  | .CORE_CVT_STAT => [.CORE_CVT_STAT_SAT_CNT, .CORE_CVT_STAT_NAN0_CNT, .CORE_CVT_STAT_SAT, .CORE_CVT_STAT_NAN0, .CORE_CVT_STAT_SCALE_NAN]
  | .CORE_SB_STAT => [.CORE_SB_STAT_INUSE, .CORE_SB_STAT_PEAK, .CORE_SB_STAT_WAITS]
  | .CORE_OPX => [.CORE_OPX_BASE, .CORE_OPX_SIZE]
  | .CORE_SLOT_MAP => [.CORE_SLOT_MAP_MAP0, .CORE_SLOT_MAP_MAP1, .CORE_SLOT_MAP_MAP2, .CORE_SLOT_MAP_MAP3, .CORE_SLOT_MAP_INFORCE, .CORE_SLOT_MAP_SLOT_MAP_PENDING]
  | .CORE_OPX_STAT => [.CORE_OPX_STAT_BLOCKS, .CORE_OPX_STAT_LAG, .CORE_OPX_STAT_CAUSE]
  | .CORE_GRAFT_STAT => [.CORE_GRAFT_STAT_HITS, .CORE_GRAFT_STAT_MISSES]
  | .CORE_DBG => [.CORE_DBG_HOLD, .CORE_DBG_STEP, .CORE_DBG_HELD, .CORE_DBG_LAST_TAG]
  | .CORE_SLOTn_PC => [.CORE_SLOTn_PC_PC, .CORE_SLOTn_PC_JOB, .CORE_SLOTn_PC_RUN]
  | .CORE_SLOTn_CFG => [.CORE_SLOTn_CFG_STEP_CTR, .CORE_SLOTn_CFG_STEP_EN]
  | .CORE_SLOTn_STAT => [.CORE_SLOTn_STAT_STATE, .CORE_SLOTn_STAT_FCODE, .CORE_SLOTn_STAT_TAG, .CORE_SLOTn_STAT_DEPTH, .CORE_SLOTn_STAT_WCTR]
  | .CORE_STEPVARn_v => [.CORE_STEPVARn_v_VALUE]
  | .ARR_CHKCFG => [.ARR_CHKCFG_SLACK1, .ARR_CHKCFG_SLACK2, .ARR_CHKCFG_SLACK4, .ARR_CHKCFG_SLACK8]
  | .ARR_STATp => [.ARR_STATp_MISMATCH, .ARR_STATp_ROW, .ARR_STATp_MARKING, .ARR_STATp_IDLE]
  | .MEM_CAPd => [.MEM_CAPd_DMEM, .MEM_CAPd_BANKS, .MEM_CAPd_SEGS, .MEM_CAPd_SEGSZ, .MEM_CAPd_CLUST, .MEM_CAPd_WINS, .MEM_CAPd_RGNS, .MEM_CAPd_SBE]
  | .MEM_SEGPWRd => [.MEM_SEGPWRd_ON, .MEM_SEGPWRd_READY, .MEM_SEGPWRd_PENDING]
  | .MEM_SRAMERRd => [.MEM_SRAMERRd_CORR, .MEM_SRAMERRd_UNCORR, .MEM_SRAMERRd_ERR]
  | .MEM_SRAMERRADDRd => [.MEM_SRAMERRADDRd_ADDR, .MEM_SRAMERRADDRd_KIND, .MEM_SRAMERRADDRd_POISON]
  | .MEM_FILLCFG => [.MEM_FILLCFG_SHARE]
  | .MEM_HBM_CAP => [.MEM_HBM_CAP_DIES, .MEM_HBM_CAP_PCH, .MEM_HBM_CAP_CAPG, .MEM_HBM_CAP_LANES, .MEM_HBM_CAP_TREFI]
  | .MEM_HBM_PATROL => [.MEM_HBM_PATROL_PATROL_H, .MEM_HBM_PATROL_LATE, .MEM_HBM_PATROL_PASSES]
  | .MEM_DISTk => [.MEM_DISTk_CLASS]
  | .MEM_HBM_LBs => [.MEM_HBM_LBs_MODE, .MEM_HBM_LBs_CHAN, .MEM_HBM_LBs_DUR_MS, .MEM_HBM_LBs_GO, .MEM_HBM_LBs_RESULT, .MEM_HBM_LBs_BUSY, .MEM_HBM_LBs_ERRCNT, .MEM_HBM_LBs_LANE]
  | .MEM_HBM_TEMPs => [.MEM_HBM_TEMPs_TMAX, .MEM_HBM_TEMPs_DIE, .MEM_HBM_TEMPs_LEVEL, .MEM_HBM_TEMPs_DBLREF, .MEM_HBM_TEMPs_FENCED, .MEM_HBM_TEMPs_PEAK, .MEM_HBM_TEMPs_WARM, .MEM_HBM_TEMPs_HOT, .MEM_HBM_TEMPs_FENCE, .MEM_HBM_TEMPs_FCAUSE]
  | .MEM_HBM_CTLs => [.MEM_HBM_CTLs_FENCE]
  | .MEM_HBM_ERRs => [.MEM_HBM_ERRs_CORR, .MEM_HBM_ERRs_UNCORR, .MEM_HBM_ERRs_ERR]
  | .MEM_HBM_ERRADDRs => [.MEM_HBM_ERRADDRs_ADDR, .MEM_HBM_ERRADDRs_KIND]
  | .MEM_WINw_0 => [.MEM_WINw_0_BASE, .MEM_WINw_0_JOB, .MEM_WINw_0_HOME, .MEM_WINw_0_OPEN]
  | .MEM_WINw_1 => [.MEM_WINw_1_SIZE, .MEM_WINw_1_SENDER, .MEM_WINw_1_RET_CTR]
  | .MEM_OWINw_0 => [.MEM_OWINw_0_DEST]
  | .MEM_OWINw_1 => [.MEM_OWINw_1_SIZE, .MEM_OWINw_1_JOB, .MEM_OWINw_1_CREDIT]
  | .MEM_JOBj => [.MEM_JOBj_STATE, .MEM_JOBj_END, .MEM_JOBj_KILL, .MEM_JOBj_PM_HOLD, .MEM_JOBj_RELEASE, .MEM_JOBj_START, .MEM_JOBj_HOLD_LATE, .MEM_JOBj_FILL_LEFT]
  | .MEM_RGNi_0 => [.MEM_RGNi_0_SIZE, .MEM_RGNi_0_JOB, .MEM_RGNi_0_RD, .MEM_RGNi_0_WR, .MEM_RGNi_0_KIND, .MEM_RGNi_0_SHARED, .MEM_RGNi_0_VALID]
  | .MEM_RGNi_1 => [.MEM_RGNi_1_BASE]
  | .MSE_CAP => [.MSE_CAP_ENGINES, .MSE_CAP_SRAM, .MSE_CAP_STACKS, .MSE_CAP_DIRMAX, .MSE_CAP_KVFMT, .MSE_CAP_SEAL]
  | .MSE_KVCFG => [.MSE_KVCFG_LAYERS, .MSE_KVCFG_HKV, .MSE_KVCFG_D, .MSE_KVCFG_FMT, .MSE_KVCFG_DYN, .MSE_KVCFG_SEAL, .MSE_KVCFG_DIRLEN, .MSE_KVCFG_FSIZE]
  | .MSE_EMBCFG_0 => [.MSE_EMBCFG_0_BASE, .MSE_EMBCFG_0_COPIES, .MSE_EMBCFG_0_ROWSZ]
  | .MSE_EMBCFG_1 => [.MSE_EMBCFG_1_ROWS, .MSE_EMBCFG_1_EMB_PITCH]
  | .MSE_EMBDEST => [.MSE_EMBDEST_EMB_DEST]
  | .MSE_ERR => [.MSE_ERR_PARAM, .MSE_ERR_HOLE, .MSE_ERR_ORDER, .MSE_ERR_FULL, .MSE_ERR_WORD, .MSE_ERR_RESIDUE, .MSE_ERR_STACK, .MSE_ERR_SLOT, .MSE_ERR_LAYER, .MSE_ERR_TAG]
  | .MSE_CVT_STAT => [.MSE_CVT_STAT_SAT_CNT, .MSE_CVT_STAT_NAN0_CNT, .MSE_CVT_STAT_SAT, .MSE_CVT_STAT_NAN0, .MSE_CVT_STAT_SCALE_NAN]
  | .MSE_STRIPE => [.MSE_STRIPE_W]
  | .MSE_STKs_0 => [.MSE_STKs_0_KVBASE, .MSE_STKs_0_DIRBASE]
  | .MSE_STKs_1 => [.MSE_STKs_1_FRAMES, .MSE_STKs_1_UNRSV, .MSE_STKs_1_SESS, .MSE_STKs_1_HALVED, .MSE_STKs_1_FENCED]
  | .MSE_STKs_2 => [.MSE_STKs_2_SESS_ALL]
  | .MSE_STATs => [.MSE_STATs_STEALS, .MSE_STATs_PRUNED, .MSE_STATs_SEALED]
  | .LINK_CAP => [.LINK_CAP_QLPV, .LINK_CAP_CLANES, .LINK_CAP_XLANES, .LINK_CAP_PLANES, .LINK_CAP_FEAT, .LINK_CAP_REPLAY]
  | .LINK_IDENT => [.LINK_IDENT_STRAP, .LINK_IDENT_SET, .LINK_IDENT_STRAP_VALID]
  | .LINK_XP_CAP => [.LINK_XP_CAP_DEC, .LINK_XP_CAP_VERS, .LINK_XP_CAP_RXBUF]
  | .LINK_FT => [.LINK_FT_TIME]
  | .LINK_FT_CFG => [.LINK_FT_CFG_PARENT, .LINK_FT_CFG_ALT, .LINK_FT_CFG_RANK, .LINK_FT_CFG_DEPTH]
  | .LINK_FT_STAT => [.LINK_FT_STAT_STATE, .LINK_FT_STAT_OFFSET, .LINK_FT_STAT_DELAY, .LINK_FT_STAT_HOLD]
  | .LINK_XP_CNTp => [.LINK_XP_CNTp_CODED, .LINK_XP_CNTp_HOLD]
  | .LINK_XP_ERRp => [.LINK_XP_ERRp_CAUSE, .LINK_XP_ERRp_ERR, .LINK_XP_ERRp_LAYER, .LINK_XP_ERRp_TILE]
  | .LINK_PORTp_CFG_0 => [.LINK_PORTp_CFG_0_PEER_LOC, .LINK_PORTp_CFG_0_PEER_SET, .LINK_PORTp_CFG_0_PEER_PORT, .LINK_PORTp_CFG_0_PLANNED, .LINK_PORTp_CFG_0_ACCEPT_ANY, .LINK_PORTp_CFG_0_CLASS, .LINK_PORTp_CFG_0_MIN_BUNDLES, .LINK_PORTp_CFG_0_PEER_3400, .LINK_PORTp_CFG_0_DATELINE]
  | .LINK_PORTp_CFG_1 => [.LINK_PORTp_CFG_1_DETECT, .LINK_PORTp_CFG_1_TOF_MIN, .LINK_PORTp_CFG_1_TOF_MAX]
  | .LINK_PORTp_STAT_0 => [.LINK_PORTp_STAT_0_STATE, .LINK_PORTp_STAT_0_VER, .LINK_PORTp_STAT_0_BUNDLES, .LINK_PORTp_STAT_0_LPORT, .LINK_PORTp_STAT_0_REMAPPED, .LINK_PORTp_STAT_0_TOF, .LINK_PORTp_STAT_0_MISSING]
  | .LINK_PORTp_STAT_1 => [.LINK_PORTp_STAT_1_PEER_LOC, .LINK_PORTp_STAT_1_PEER_SET, .LINK_PORTp_STAT_1_PEER_PORT, .LINK_PORTp_STAT_1_FEAT, .LINK_PORTp_STAT_1_PEER_FW, .LINK_PORTp_STAT_1_PEER_3400]
  | .LINK_PORTp_CTL => [.LINK_PORTp_CTL_DISABLE, .LINK_PORTp_CTL_RETRAIN, .LINK_PORTp_CTL_RESCAN]
  | .LINK_PORTp_CNT_0 => [.LINK_PORTp_CNT_0_FEC_CORR, .LINK_PORTp_CNT_0_CRC_FAIL]
  | .LINK_PORTp_CNT_1 => [.LINK_PORTp_CNT_1_REPLAYS, .LINK_PORTp_CNT_1_RETRAINS, .LINK_PORTp_CNT_1_WORDS]
  | .LINK_PORTp_EVT => [.LINK_PORTp_EVT_LOST, .LINK_PORTp_EVT_DEGRADED, .LINK_PORTp_EVT_WORD, .LINK_PORTp_EVT_MISSING, .LINK_PORTp_EVT_EXTRA, .LINK_PORTp_EVT_CROSSED, .LINK_PORTp_EVT_VERSION, .LINK_PORTp_EVT_PLAN, .LINK_PORTp_EVT_FWMIX, .LINK_PORTp_EVT_LENGTH, .LINK_PORTp_EVT_DOWN_RX]
  | .LINK_LOADRTi => [.LINK_LOADRTi_READER, .LINK_LOADRTi_FWD, .LINK_LOADRTi_VALID]
  | .LINK_RTc => [.LINK_RTc_PORT, .LINK_RTc_ALT, .LINK_RTc_VALID]
  | .CIRC_CFG => [.CIRC_CFG_MODE, .CIRC_CFG_DOUBLE, .CIRC_CFG_FOLD_OK, .CIRC_CFG_BANKS, .CIRC_CFG_N, .CIRC_CFG_PLACE, .CIRC_CFG_CIRCLE, .CIRC_CFG_TURN_CTR, .CIRC_CFG_JOB, .CIRC_CFG_TIER_TRUSTED]
  | .CIRC_BANKOFS => [.CIRC_BANKOFS_OFS]
  | .CIRC_REV => [.CIRC_REV_REV, .CIRC_REV_VERSION]
  | .CIRC_STAT => [.CIRC_STAT_STATE, .CIRC_STAT_BANK, .CIRC_STAT_EPOCH, .CIRC_STAT_LEADER, .CIRC_STAT_STANDIN, .CIRC_STAT_END_A, .CIRC_STAT_END_B]
  | .CIRC_SWITCH => [.CIRC_SWITCH_VERSION, .CIRC_SWITCH_UNFOLD, .CIRC_SWITCH_GO]
  | .CIRC_SWITCH_STAT => [.CIRC_SWITCH_STAT_STATE, .CIRC_SWITCH_STAT_RESULT, .CIRC_SWITCH_STAT_TARGET]
  | .CIRC_LOAD => [.CIRC_LOAD_PIECES, .CIRC_LOAD_DONE, .CIRC_LOAD_RETRIES, .CIRC_LOAD_MISSING, .CIRC_LOAD_ACTIVE]
  | .CIRC_TIMERS => [.CIRC_TIMERS_WEED_MIN, .CIRC_TIMERS_LOAD_S]
  | .CIRC_WEED_STAT => [.CIRC_WEED_STAT_PASSES, .CIRC_WEED_STAT_LATE, .CIRC_WEED_STAT_BAD, .CIRC_WEED_STAT_PIECE, .CIRC_WEED_STAT_TIER_BAD]
  | .CIRC_ERR => [.CIRC_ERR_SEQ, .CIRC_ERR_REVN, .CIRC_ERR_VERS, .CIRC_ERR_STOPPED, .CIRC_ERR_LAYER, .CIRC_ERR_TILE, .CIRC_ERR_OWNER, .CIRC_ERR_LATE_MS]
  | .CIRC_AUX => [.CIRC_AUX_TIER_CTR, .CIRC_AUX_TIER_EN, .CIRC_AUX_PCORE, .CIRC_AUX_PCHAN, .CIRC_AUX_PASS_EN]
  | .SYNC_CAP => [.SYNC_CAP_PHYS, .SYNC_CAP_VIDS, .SYNC_CAP_EXPORTS, .SYNC_CAP_BNODES, .SYNC_CAP_HWAITS]
  | .SYNC_LEND => [.SYNC_LEND_LEND_US]
  | .SYNC_JOBj => [.SYNC_JOBj_BASE, .SYNC_JOBj_COUNT]
  | .SYNC_EXPe => [.SYNC_EXPe_CTR, .SYNC_EXPe_SENDER, .SYNC_EXPe_ANY, .SYNC_EXPe_VALID]
  | .SYNC_BNODEi_0 => [.SYNC_BNODEi_0_CTR, .SYNC_BNODEi_0_LOCAL, .SYNC_BNODEi_0_CHILDREN, .SYNC_BNODEi_0_ROOT, .SYNC_BNODEi_0_PARENT, .SYNC_BNODEi_0_VALID]
  | .SYNC_BNODEi_1 => [.SYNC_BNODEi_1_PCTR, .SYNC_BNODEi_1_REPORTED]
  | .SYNC_CTRp_0 => [.SYNC_CTRp_0_KIND, .SYNC_CTRp_0_HOST_OK, .SYNC_CTRp_0_RETURN, .SYNC_CTRp_0_JOB, .SYNC_CTRp_0_INIT]
  | .SYNC_CTRp_1 => [.SYNC_CTRp_1_VALUE, .SYNC_CTRp_1_GEN, .SYNC_CTRp_1_WAITERS, .SYNC_CTRp_1_BROKEN]
  | .SYNC_CTRp_2 => [.SYNC_CTRp_2_SRC, .SYNC_CTRp_2_CORE, .SYNC_CTRp_2_SLOT, .SYNC_CTRp_2_PLACE, .SYNC_CTRp_2_FW_CORE, .SYNC_CTRp_2_FW_SLOT, .SYNC_CTRp_2_FW_HOST]
  | .SYNC_CTRp_3 => [.SYNC_CTRp_3_TIME]
  | .CHAN_STAT => [.CHAN_STAT_STATE]
  | .CHAN_TXk_c_0 => [.CHAN_TXk_c_0_DPLACE, .CHAN_TXk_c_0_DCORE, .CHAN_TXk_c_0_DCHAN, .CHAN_TXk_c_0_ROUTE, .CHAN_TXk_c_0_FROUTE, .CHAN_TXk_c_0_RETRY, .CHAN_TXk_c_0_BACKOFF, .CHAN_TXk_c_0_VALID]
  | .CHAN_TXk_c_1 => [.CHAN_TXk_c_1_SEQ, .CHAN_TXk_c_1_RETRIES, .CHAN_TXk_c_1_LASTNACK]
  | .CHAN_RXk_c_0 => [.CHAN_RXk_c_0_BASE, .CHAN_RXk_c_0_JOB, .CHAN_RXk_c_0_VALID]
  | .CHAN_RXk_c_1 => [.CHAN_RXk_c_1_SIZE, .CHAN_RXk_c_1_ARRIVE, .CHAN_RXk_c_1_FREE, .CHAN_RXk_c_1_SPLACE]
  | .CHAN_RXk_c_2 => [.CHAN_RXk_c_2_SCORE, .CHAN_RXk_c_2_SCHAN, .CHAN_RXk_c_2_HEAD, .CHAN_RXk_c_2_TAIL, .CHAN_RXk_c_2_MSGS, .CHAN_RXk_c_2_OPEN]
  | .SESS_CAP => [.SESS_CAP_QVER, .SESS_CAP_SLOTS, .SESS_CAP_ROWMAX, .SESS_CAP_DMAX, .SESS_CAP_TOPKMAX, .SESS_CAP_NLOGP, .SESS_CAP_STOPS]
  | .SESS_CFG_0 => [.SESS_CFG_0_ROWS, .SESS_CFG_0_PF_MIN, .SESS_CFG_0_CHUNK, .SESS_CFG_0_HEADS, .SESS_CFG_0_VOCAB, .SESS_CFG_0_OPEN_MS]
  | .SESS_BASE_0 => [.SESS_BASE_0_ROWBIND, .SESS_BASE_0_LROWS]
  | .SESS_BASE_1 => [.SESS_BASE_1_LBASE]
  | .SESS_BASE_2 => [.SESS_BASE_2_HSTATE]
  | .SESS_BASE_3 => [.SESS_BASE_3_HIST]
  | .SESS_BASE_4 => [.SESS_BASE_4_MASKS]
  | .SESS_BASE_5 => [.SESS_BASE_5_HBASE]

/-- Every register. -/
def Reg.all : List Reg :=
  [.HB_CAP, .HB_HOSTCFG, .HB_HOST_STAT, .HB_BOOT, .HB_BOOT_T, .HB_OWNER, .HB_APERa, .HB_HDMs, .HB_PAGEt_CFG, .PD_CLASS, .PD_ENV_CAP, .PD_SPRINT_CTL, .PD_SPRINT_STAT, .PD_SPRINT_LIFE, .PD_FLOOR_EVT, .PD_POWER, .PD_SENSE, .PD_TEMPOn, .SEC_STAT, .ALM_CFG, .ALM_STAT, .ALM_HOURS, .ARR_MAPm, .HB_PAGE_ID] ++
  [.HB_PAGE_CAP, .HB_PAGE_ERR, .HB_PAGE_IRQ, .SESS_SQ_BASE, .SESS_CQ_BASE, .SESS_RING, .SESS_SQ_PTR, .SESS_CQ_PTR, .SESS_PAGE_STAT, .SYNC_HSIG, .SYNC_HPEEK, .SYNC_CUE_BASE, .SYNC_HSTAT, .SYNC_HWAITw, .SET_FCFG, .SET_FSTAT, .SET_FLOG_PTR, .SET_PRUNE_BASE, .SET_PRUNED_0, .SET_PRUNED_1, .SET_FLOGe_w, .CORE_CAP, .CORE_FMT_CAP, .CORE_CVT_STAT] ++
  [.CORE_SB_STAT, .CORE_OPX, .CORE_SLOT_MAP, .CORE_OPX_STAT, .CORE_GRAFT_STAT, .CORE_DBG, .CORE_SLOTn_PC, .CORE_SLOTn_CFG, .CORE_SLOTn_STAT, .CORE_STEPVARn_v, .ARR_CHKCFG, .ARR_STATp, .MEM_CAPd, .MEM_SEGPWRd, .MEM_SRAMERRd, .MEM_SRAMERRADDRd, .MEM_FILLCFG, .MEM_HBM_CAP, .MEM_HBM_PATROL, .MEM_DISTk, .MEM_HBM_LBs, .MEM_HBM_TEMPs, .MEM_HBM_CTLs, .MEM_HBM_ERRs] ++
  [.MEM_HBM_ERRADDRs, .MEM_WINw_0, .MEM_WINw_1, .MEM_OWINw_0, .MEM_OWINw_1, .MEM_JOBj, .MEM_RGNi_0, .MEM_RGNi_1, .MSE_CAP, .MSE_KVCFG, .MSE_EMBCFG_0, .MSE_EMBCFG_1, .MSE_EMBDEST, .MSE_ERR, .MSE_CVT_STAT, .MSE_STRIPE, .MSE_STKs_0, .MSE_STKs_1, .MSE_STKs_2, .MSE_STATs, .LINK_CAP, .LINK_IDENT, .LINK_XP_CAP, .LINK_FT] ++
  [.LINK_FT_CFG, .LINK_FT_STAT, .LINK_XP_CNTp, .LINK_XP_ERRp, .LINK_PORTp_CFG_0, .LINK_PORTp_CFG_1, .LINK_PORTp_STAT_0, .LINK_PORTp_STAT_1, .LINK_PORTp_CTL, .LINK_PORTp_CNT_0, .LINK_PORTp_CNT_1, .LINK_PORTp_EVT, .LINK_LOADRTi, .LINK_RTc, .CIRC_CFG, .CIRC_BANKOFS, .CIRC_REV, .CIRC_STAT, .CIRC_SWITCH, .CIRC_SWITCH_STAT, .CIRC_LOAD, .CIRC_TIMERS, .CIRC_WEED_STAT, .CIRC_ERR] ++
  [.CIRC_AUX, .SYNC_CAP, .SYNC_LEND, .SYNC_JOBj, .SYNC_EXPe, .SYNC_BNODEi_0, .SYNC_BNODEi_1, .SYNC_CTRp_0, .SYNC_CTRp_1, .SYNC_CTRp_2, .SYNC_CTRp_3, .CHAN_STAT, .CHAN_TXk_c_0, .CHAN_TXk_c_1, .CHAN_RXk_c_0, .CHAN_RXk_c_1, .CHAN_RXk_c_2, .SESS_CAP, .SESS_CFG_0, .SESS_BASE_0, .SESS_BASE_1, .SESS_BASE_2, .SESS_BASE_3, .SESS_BASE_4] ++
  [.SESS_BASE_5]

/-- A number of its own for every field: its place in the list of fields. -/
def Field.code (f : Field) : Nat := f.ctorIdx

/-- A number of its own for every register. -/
def Reg.code (r : Reg) : Nat := r.ctorIdx

/-- A register's width in bytes as 17.1 counts it (R453): 4 when its table lists no bit above 31, else 8. -/
def Reg.bytes (r : Reg) : Nat :=
  match r with
  | .PD_ENV_CAP | .PD_SPRINT_CTL | .PD_SPRINT_STAT | .PD_FLOOR_EVT | .PD_POWER | .SESS_RING | .LINK_PORTp_CTL
  | .LINK_PORTp_EVT | .LINK_RTc | .LINK_LOADRTi | .LINK_FT_CFG | .LINK_FT_STAT | .CORE_SLOTn_CFG | .CORE_STEPVARn_v
  | .ARR_CHKCFG | .MEM_FILLCFG | .LINK_XP_CAP | .CORE_OPX | .CIRC_SWITCH | .CIRC_TIMERS | .MEM_HBM_CTLs | .SYNC_LEND
  | .HB_HOSTCFG | .HB_PAGE_ERR | .HB_PAGE_IRQ | .SET_FCFG | .ALM_CFG | .SEC_STAT => 4
  | _ => 8

end Sys2Proof.Machine
end

