-- ==== Sys2Proof/Machine/Sparse.lean ====
section
/-! DEFINITION. Sparse maps: a list of (key, value) pairs with keys strictly rising and no entry equal to what an
unlisted key reads as. Memory, registers and every table of the state are held so. -/

namespace Sys2Proof.Machine

/-- A sparse map from numbers. -/
abbrev SMap (α : Type) := List (Nat × α)

namespace SMap

/-- The value at key `k`; `d` where the key is not listed. -/
def get {α : Type} (d : α) : SMap α → Nat → α
  | [], _ => d
  | (a, v) :: t, k => if a = k then v else get d t k

/-- Put an entry at its place in the order of keys. -/
def ins {α : Type} (k : Nat) (v : α) : SMap α → SMap α
  | [] => [(k, v)]
  | (a, w) :: t => if k < a then (k, v) :: (a, w) :: t else if k = a then (k, v) :: t else (a, w) :: ins k v t

/-- Keep the entries whose key satisfies `p`. -/
def keep {α : Type} (p : Nat → Bool) (m : SMap α) : SMap α := m.filter fun e => p e.1

/-- Take an entry out. -/
def erase {α : Type} (m : SMap α) (k : Nat) : SMap α := keep (fun a => a != k) m

/-- Write a value; writing what an unlisted key reads as removes the entry. -/
def put {α : Type} [DecidableEq α] (d : α) (m : SMap α) (k : Nat) (v : α) : SMap α :=
  if v = d then erase m k else ins k v m

/-- Change the value at a key. -/
def upd {α : Type} [DecidableEq α] (d : α) (m : SMap α) (k : Nat) (f : α → α) : SMap α :=
  put d m k (f (get d m k))

/-- The canonical form: keys strictly rising, no entry equal to the default. -/
def wf {α : Type} [DecidableEq α] (d : α) (m : SMap α) : Bool :=
  decide (m.Pairwise fun a b => a.1 < b.1) && m.all fun e => !(e.2 = d)

/-- Keys strictly rising. -/
def sorted {α : Type} (m : SMap α) : Bool := decide (m.Pairwise fun a b => a.1 < b.1)

end SMap

end Sys2Proof.Machine
end

