-- ==== Sys2Proof/Machine/State.lean ====
section
/-! DEFINITION. The state of the package: plain data, everything the manual gives it. Registers are held field by
field in one map per set and one for the package (Regs.lean names the fields); what lies behind the registers (units,
queues, memories, records in progress) is held in the structures of this file. -/

namespace Sys2Proof.Machine

/-! ## Cores, callers and arrays (chapter 3) -/

/-- A loop opened by LOOP (R69, R71): the address of its body, the runs still to make, the offsets saved at the LOOP
and the strides. -/
structure LoopFrame where
  body : Nat
  left : Nat
  saved : List Nat
  strides : List Nat
deriving DecidableEq, Repr

/-- A remote SIGNAL on its way (R304, R305). -/
structure RemoteOut where
  place : Nat
  exp : Nat
  n : Nat
  tag : Nat
  pc : Nat
deriving DecidableEq, Repr

/-- What a slot holds beside its registers (3.2, 3.3, 11.3, 11.5): loop stack, offset registers, prefetch buffer of
descriptors with their addresses, shadow step variables (R70), the arrival record (R309: physical counter and
generation), remote SIGNALs without reply, the scope of the FENCE it waits on in state 5, and the WAIT or FENCE in
progress with its address. -/
structure Slot where
  loops : List LoopFrame := []
  ofs : List Nat := [0, 0, 0]
  prefetch : List (Nat × List Byte) := []
  shadow : List Nat := []
  arrival : Option (Nat × Nat) := none
  remote : List RemoteOut := []
  fence : Option Nat := none
  cur : Option (Nat × List Byte) := none
deriving DecidableEq, Repr

/-- A DONE increment that is due (R66): the descriptor's core, slot, job, DONE counter, address and TAG. -/
structure DoneDue where
  core : Nat
  slot : Nat
  job : Nat
  vid : Nat
  pc : Nat
  tag : Nat
deriving DecidableEq, Repr

/-- How far a queued descriptor has come: queued (its unit has not started it), running (started; it waits for replies of
other units or sets), backoff (a SEND between two tries, R318), done (every write it makes is made). -/
inductive Phase where
  | queued | running | backoff | done
deriving DecidableEq, Repr

/-- A descriptor in a unit's queue (R65): its slot, job, address, TAG, its 64 bytes, its first three address fields
after offsets (R71), an identity for its scoreboard entries, and how far it has come. `tries` counts a SEND's resends
(R318) and `seq` holds its sequence number; `waits` marks the stacks, as bits, that an ATTN still waits for. -/
structure QEnt where
  id : Nat
  slot : Nat
  job : Nat
  pc : Nat
  tag : Nat
  raw : List Byte
  a1 : Nat
  a2 : Nat
  a3 : Nat
  phase : Phase
  tries : Nat := 0
  seq : Nat := 0
  waits : Nat := 0
deriving DecidableEq, Repr

/-- A scoreboard entry (5.7): the half-open interval of set-local addresses that bounds the write, and the descriptor
that holds it; none for an arriving window write (R132). -/
structure SbEnt where
  lo : Nat
  hi : Nat
  owner : Option Nat
deriving DecidableEq, Repr

/-- A tile in the arrays (R83 to R89): the stage of a GRAFT (R181; 0 else), the steps done, the accumulators row by row, per array the check cells S and B of
each row, and whether an operand word was replaced by zero (R89). Values are FP32 bit patterns. -/
structure TileRun where
  stage : Nat
  steps : Nat
  acc : List (List Nat)
  chkS : List (List Nat)
  chkB : List (List Nat)
  opBad : Bool
  t : List (List Nat) := []
deriving DecidableEq, Repr

/-- The graft latch of an array (R184): its job, key (X, U, K, RANK, FMT, ROW0, NROWS), the ranges of X and U, and the values t. -/
structure GraftLatch where
  arr : Nat
  job : Nat
  key : List Nat
  src : List (Nat × Nat)
  t : List (List Nat)
deriving DecidableEq, Repr

/-- What a core holds beside its registers: the slot that issued last (R63), the stop after a lockstep difference (R62),
its slots, its five unit queues (Table 3-3), its scoreboard, the tile in the arrays, the GAP of the last array
descriptor and whether it is due when the array queue becomes empty (R87), a check mismatch whose tile is still to be written (R89), the
latches of grafts, the fabric time of its last heartbeat (R67), whether it lends (R49), and the messages of
SENDs in progress, by endpoint, with the offsets of their poisoned words (R318). -/
structure Core where
  rr : Nat := 7
  stopped : Bool := false
  slots : SMap Slot := []
  arrayQ : List QEnt := []
  vectorQ : List QEnt := []
  memoryQ : List QEnt := []
  circQ : List QEnt := []
  requestQ : List QEnt := []
  nextId : Nat := 0
  sb : List SbEnt := []
  tile : Option TileRun := none
  gap : Nat := 0
  gapDue : Bool := false
  failed : Bool := false
  latch : List GraftLatch := []
  beat : Nat := 0
  lender : Bool := false
  sendBuf : SMap (List Byte × List Nat) := []
deriving DecidableEq, Repr

/-! ## On-chip memories, jobs, windows (chapter 5) -/

/-- The four states of a die-memory segment (R137). -/
inductive SegState where
  | off | powering | ready | draining
deriving DecidableEq, Repr

/-- How a job left ACTIVE (5.12). -/
inductive JobExit where
  | byEnd | byKill | byContainment
deriving DecidableEq, Repr

/-- A job in teardown (Table 5-6): how it left ACTIVE, and whether step 6, the zero fill, has begun. -/
structure Teardown where
  exit : JobExit
  filling : Bool
deriving DecidableEq, Repr

/-! ## Sync counters and channels (chapter 11) -/

/-- A waiter in a counter's queue (R300): a slot with its amount, or a host wait of a page. -/
inductive Waiter where
  | slot (core slot n : Nat)
  | host (page w n : Nat)
deriving DecidableEq, Repr

/-- A receive endpoint beside its registers (R315, R316): the next expected sequence number, none until the first
message after the endpoint opens, and the records held, oldest first: the units of the pad in front and of the record.
-/
structure RxEnd where
  expect : Option Nat := none
  recs : List (Nat × Nat) := []
deriving DecidableEq, Repr

/-! ## Fault records and messages (chapter 15) -/

/-- A fault record (Table 15-9). `place`, `die` and `unit` are the parts of SRC. -/
structure FRec where
  code : Nat
  sev : Nat
  action : Nat
  place : Nat := 0
  die : Nat := 0
  unit : Nat := 0
  sub : Nat := 0
  cause : Nat := 0
  job : Nat := 0xFFFF
  sess : Nat := 0xFFFF
  tag : Nat := 0
  time : Nat := 0
  detail : Nat := 0
deriving DecidableEq, Repr
/-! ## Memory-side engines (chapter 8) -/

/-- A unit of work of an ATTN request (R241): a session slot, a key-value head that the stack holds, a query slice and a
block of 256 positions. -/
structure AUnit where
  slot : Nat
  head : Nat
  slice : Nat
  block : Nat
deriving DecidableEq, Repr

/-- A partial result (R240 step 6, R242) of one block, one row of the request and one query head: m_n, l_n, o_n as FP32
bit patterns. -/
structure APart where
  row : Nat
  qhead : Nat
  block : Nat
  m : Nat
  l : Nat
  o : List Nat
deriving DecidableEq, Repr

/-- A row of an ATTN request that a stack serves (R234): its number in the request, its position and its session slot. -/
structure ARow where
  row : Nat
  pos : Nat
  slot : Nat
deriving DecidableEq, Repr

/-- A stack's share of an ATTN request (R234, R236): the request, named by its core and the identity of its descriptor
there, the descriptor as issued, its parameter block and static scale table, the rows served, the units not finished and the partial results
formed. -/
structure Share where
  stack : Nat
  core : Nat
  id : Nat
  slot : Nat
  job : Nat
  tag : Nat
  raw : List Byte
  a1 : Nat
  a2 : Nat
  a3 : Nat
  param : List Byte
  scales : List Byte
  rows : List ARow
  left : List AUnit
  parts : List APart
deriving DecidableEq, Repr

/-- An engine: the untaken units dealt to it and the unit it works on, each with its share (core, identity). -/
structure Engine where
  todo : List ((Nat × Nat) × AUnit) := []
  cur : Option ((Nat × Nat) × AUnit) := none
deriving DecidableEq, Repr

/-! ## Sessions (chapter 10) -/

/-- Session states (Table 10-1); HELD is a mark of a PREFILL or DECODE session for one step. -/
inductive SPhase where
  | free | pending | idle | prefill | ready | decode | closing
deriving DecidableEq, Repr

/-- A session slot (10.1, 10.2): the fields of its OPEN, its page (none, 4,096, at a place of a promenade circle other than 0), its stack,
committed positions, tokens written to its history ring,
input tokens still to append (`feed`), the last emitted token, MAXNEW and the tokens generated for the current INPUT, the
order in which it became PENDING, READY or ready for a pass, or entered PREFILL, drafts that the host gave, the drafts that
its rows of the step verify, the count of sessions that use it as a prefix, the status that ends it, the stacks, as bits,
that skip its rows (R232), the CQ entries reserved for it (R274, R280), whether its rows bind again as they were (R290),
and in promenade whether a pass is in flight, the commit count of its previous pass, and whether it has had a pass (R291, R292). -/
structure Sess extends OpenFacts where
  ph : SPhase := .free
  page : Nat := 0
  stack : Nat := 0
  len : Nat := 0
  hist : Nat := 0
  feed : List Nat := []
  last : Option Nat := none
  maxnew : Nat := 0
  gen : Nat := 0
  order : Nat := 0
  held : Bool := false
  hostDraft : Option (Nat × List Nat) := none
  drafts : List Nat := []
  users : Nat := 0
  ended : Option Nat := none
  skip : Nat := 0
  bound : Nat := 0
  again : Bool := false
  inFlight : Bool := false
  prevCommit : Nat := 0
  passed : Bool := false
deriving DecidableEq, Repr

/-- A row-binding entry (Table 10-5). -/
structure RowEnt where
  pos : Nat
  slot : Nat
  kind : Nat
  stack : Nat
  token : Nat
deriving DecidableEq, Repr

/-- The harvest state of a row (R285): the slices scanned (first token, count), per block of 1,024 the pair (m_b, s_b), the
candidate (x, token, key) of the best key, and the largest x as candidates. -/
structure HarvRow where
  slices : List (Nat × Nat) := []
  blocks : List (Nat × Nat × Nat) := []
  best : Option (Nat × Nat × Nat) := none
  cands : List (Nat × Nat × Nat) := []
deriving DecidableEq, Repr

/-- A finalised row (R286): the sampled token, its log-probability, the alternatives, and whether OP was ACCEPT. -/
structure RowRes where
  tok : Nat
  lp : Nat
  alts : List (Nat × Nat)
  accept : Bool
deriving DecidableEq, Repr

/-- A command fetched from a page's SQ (R273): the page, the command, what its host read gave (none when the read failed), and whether
it was fetched after step 5 of a boundary began. -/
structure SqCmd where
  page : Nat
  cmd : List Byte
  data : Option (List Byte)
  late : Bool := false
deriving DecidableEq, Repr

/-- A pass in flight (R291, R292): the slots of its sessions that are still open, its number, its rows and the version it runs under. -/
structure Pass where
  slots : List Nat
  num : Nat
  rows : List RowEnt
  ver : Nat
deriving DecidableEq, Repr

/-- A record formed at a boundary and not yet posted: its page, the session slot it speaks of (0xFFFF none), its bytes. -/
structure RecDue where
  page : Nat
  slot : Nat
  data : List Byte
deriving DecidableEq, Repr

/-- The session unit and the harvest units of a set, and its memory-side engines: session slots, the page fetched from last
(R273), commands fetched and waiting, INPUTs that wait for IDLE (R277), pages to close (R275), the rows in force and the
rows bound last, whether these are newer than what is in force (R282), the copy of the row-binding table in force,
revolution and version of the step, the count behind `Sess.order`, harvest state of logit rows and of head rows, finalised
rows, positions appended this step as (stack, slot, layer, position), shares of ATTN requests, engines, whether a turn
waits for its boundary (R200), whether the boundary has come to step 5 of Table 10-7 and whether it discarded its step there (R28), records of the boundary, records that
wait for CQ room, whether the boundary waits for gathers (R246), passes in flight and the number of the last (R291),
pass headers that wait, the slots that completed their WAIT on TURN_CTR since the last header and whether one has come
(R293), whether place N − 1 owes the return of the pass it serves (R292), and the pages with records since their last interrupt (R365). -/
structure SessUnit where
  sess : SMap Sess := []
  lastPage : Nat := 4095
  cmds : List SqCmd := []
  inputs : List SqCmd := []
  closing : List Nat := []
  rows : List RowEnt := []
  shadow : List RowEnt := []
  shadowNew : Bool := false
  copy : Nat := 0
  step : Nat := 0
  ver : Nat := 0
  order : Nat := 0
  harv : SMap HarvRow := []
  heads : SMap HarvRow := []
  res : SMap RowRes := []
  apps : List (Nat × Nat × Nat × Nat) := []
  shares : List Share := []
  engs : SMap Engine := []
  due : Bool := false
  five : Bool := false
  redo : Bool := false
  recs : List RecDue := []
  recDue : List (Nat × List Byte) := []
  gather : Bool := false
  passes : List Pass := []
  passNum : Nat := 0
  headers : List (List Byte) := []
  turnWaits : List Nat := []
  headerSeen : Bool := false
  owe : Bool := false
  posted : List Nat := []
deriving DecidableEq, Repr

/-! ## Circulation (chapter 7) -/

/-- A catalogue entry (Table 7-1). -/
structure CatEnt where
  piece : Nat
  version : Nat
  owner : Nat
  partner : Nat
  addr : Nat
  paddr : Nat
  aux : Nat
  len : Nat
  flags : Nat
  digest : List Byte
deriving DecidableEq, Repr

/-- A tile-map entry (Table 7-2). -/
structure TmapEnt where
  layer : Nat
  stage : Nat
  half : Nat
  owner : Nat
  core0 : Nat
  rep : Nat
  step : Nat
  tile0 : Nat
  count : Nat
deriving DecidableEq, Repr

/-- A circulation frame header (Table 7-3). -/
structure FHdr where
  kind : Nat
  flags : Nat
  owner : Nat
  hops : Nat
  layer : Nat
  stage : Nat
  tile : Nat
  version : Nat
  epoch : Nat
  rev : Nat
  len : Nat
  piece : Nat
deriving DecidableEq, Repr

/-- A TILE frame in a receive buffer (R166, R167): its header and payload, the payload words that are poisoned, the ports it
has still to leave by with the HOPS it carries there, whether it has still to be consumed here and, once presented, by which
cores, and the INJECT (core, identity) that made it, if it is the place's own; the link-die port whose buffer holds its flits
(R167, R329), and the address of its copy in the fold reserve (R217). -/
structure Frame where
  h : FHdr
  data : List Byte
  bad : List Nat
  fwd : List (Nat × Nat)
  here : Bool
  todo : Option (List Nat)
  inj : Option (Nat × Nat)
  via : Option Nat := none
  saved : Option Nat := none
deriving DecidableEq, Repr

/-- A TURN: revolution, version, epoch, SWITCH. -/
structure Turn where
  rev : Nat
  ver : Nat
  epoch : Nat
  switch : Bool
deriving DecidableEq, Repr

/-- A circle port in chain mode: the last TURN received since the port entered service or the last fold, the TURNs received and
not yet handled, revolution and epoch of the last turn sent, the tiles sent since (half, layer, owner, tile), and frames that
wait for a REFOLD or for the start of service (R195). -/
structure CPort where
  last : Option Turn := none
  turns : List Turn := []
  tx : Nat := 0
  txEpoch : Nat := 0
  sent : List (Nat × Nat × Nat × Nat) := []
  held : List (List Byte × List Nat) := []
deriving DecidableEq, Repr

/-- A change committed or confirmed (R203, R204): kind 0 version switch, 1 unfold, 2 promotion (R396); its version, its
revolution S, its epoch. -/
structure Change where
  kind : Nat
  ver : Nat
  s : Nat
  ep : Nat
  confirmed : Bool
deriving DecidableEq, Repr

/-- A request at the leader: places that are ready, and places that have acknowledged the commit. -/
structure Request where
  kind : Nat
  ver : Nat
  ready : List Nat
  acks : List Nat
deriving DecidableEq, Repr

/-- A fold in progress (R215): its epoch, cut links, lost places, stand-ins; STATE before it; and at the leader the
acknowledgements (place, CIRC_REV). -/
structure FoldSt where
  epoch : Nat
  cuts : List Nat
  gone : List Nat
  stand : List StandIn
  prev : Nat
  acks : List (Nat × Nat)
deriving DecidableEq, Repr

/-- A piece in the load (R208): the ranges received, re-requests made, whether it is digested clean, whether it is missing. -/
structure PieceSt where
  got : List (Nat × Nat) := []
  tries : Nat := 0
  clean : Bool := false
  missing : Bool := false
deriving DecidableEq, Repr

/-- The circulation unit of a set: the catalogue of the version in force (bank in service) and of the other bank; reader, tier
reader and backup (bits 17:8 circle, 7:0 place); seedling and starting version; tile map; the surviving line, empty for a
ring; lost links and places, stand-ins; whether the set circulates, whether it runs the seedling plan, the revolution that it
enters or resumes with and has not handled; ports; tiles injected this revolution, the receive buffer, tiles consumed this
revolution; change, request and fold; the load, by piece and version; shards (owner, version) announced here, shards that the
reader has announced, pieces that it has still to fetch, and those of them that go to one place as a repair (piece, version, place); pieces left in the weeding pass, whether a pass runs or is due, revolution of each piece's last clean pass, pieces
under repair; resident pieces settled; TIER pieces digested, and when a failed tier read was last reported while none has
succeeded since (R353); the SRC that each own tile was injected from last; the tiles of TIER pieces, and the fold reserve (base,
size). -/
structure CircUnit where
  cat : List CatEnt := []
  other : List CatEnt := []
  reader : Nat := 0xFFFF_FFFF
  tierReader : Nat := 0xFFFF_FFFF
  backup : Nat := 0xFFFF_FFFF
  seedVer : Nat := 0
  startVer : Nat := 0
  tmap : List TmapEnt := []
  line : List Nat := []
  cuts : List Nat := []
  gone : List Nat := []
  stand : List StandIn := []
  up : Bool := false
  seedling : Bool := false
  first : Option Nat := none
  ports : SMap CPort := []
  injected : List (Nat × Nat × Nat × Nat) := []
  buf : List Frame := []
  used : List (Nat × Nat × Nat × Nat) := []
  chg : Option Change := none
  req : Option Request := none
  fold : Option FoldSt := none
  load : SMap PieceSt := []
  announced : List (Nat × Nat) := []
  told : List (Nat × Nat) := []
  fetch : List (Nat × Nat) := []
  owed : List (Nat × Nat × Nat) := []
  weed : List (Nat × Nat) := []
  weedOn : Bool := false
  weedDue : Bool := false
  lastClean : SMap Nat := []
  repair : List (Nat × Nat) := []
  settled : List Nat := []
  srcs : List ((Nat × Nat × Nat × Nat) × Nat) := []
  tierSeen : List (Nat × Nat) := []
  tierFail : Option Nat := none
  tables : SMap (Option (Nat × Nat)) := []
  dup : Bool := false
  goneAt : List (Nat × Nat) := []
  tierTiles : List (Nat × Nat × Nat × Nat) := []
  reserve : Nat × Nat := (0, 0)
deriving DecidableEq, Repr

/-- A frame whose flits are arriving on a port (R327): DEST, SRC and its words of 36 bytes. -/
structure PartFrame where
  dest : Nat
  src : Nat
  words : List (List Byte)
deriving DecidableEq, Repr

/-- A port of a link die (12.3 to 12.6, 12.9): the SEQ expected next and whether it has been NAKed; the next SEQ to send, the
replay store (SEQ, flit), the SEQ last NAKed by the peer and how often; flits accepted, flits sent and the peer's freed count per
class; flits that wait to be sent (class, flit); frames arriving per class; the time of the last alignment loss of each bundle, plus
1; whether a retrain was asked for; the peer's identity record; the last TSSEQ used and the exchange in progress (TSSEQ, t1, t2,
t3); on the Pot port, the data flits sent since the last one of another channel (R322); and the time of flight measured in IDENT, ns
(R336). -/
structure LinkPort where
  rxSeq : Nat := 0
  naked : Bool := false
  txSeq : Nat := 0
  store : List (Nat × List Byte) := []
  nakSeq : Nat := 0
  nakCount : Nat := 0
  accepted : SMap Nat := []
  sent : SMap Nat := []
  peerFreed : SMap Nat := []
  waiting : List (Nat × List Byte) := []
  parts : SMap (Option PartFrame) := []
  alignAt : SMap Nat := []
  asked : Bool := false
  ident : Option (List Byte) := none
  tsSeq : Nat := 0
  exch : Option (Nat × Nat × Nat × Nat) := none
  dataRun : Nat := 0
  tof : Nat := 0
deriving DecidableEq, Repr

/-- The fuses (14.2, 14.3, R4): the hash of the firmware key, FW_SVN bits burnt, owner hashes by slot, revoke bits, arrays disabled
at test, and the digest of the ROM (log entry 2). -/
structure Fuses where
  fwHash : List Byte := []
  svn : Nat := 0
  owners : SMap (List Byte) := []
  revoked : Nat := 0
  arraysOff : List Nat := []
  romDigest : List Byte := List.replicate 32 0
  uds : List Byte := List.replicate 32 0
deriving DecidableEq, Repr

/-- Pins, clocks and supply (chapter 18): PWR_GOOD released, VIN below 9.0 V since the rails went off, PERST_N asserted, REFCLK_SYS
in tolerance for 1 ms, THERMTRIP_N low, SB_ADDR sampled, the TAP's instruction (log entry 68; 0 BYPASS, 1 SAMPLE/PRELOAD, 2 EXTEST,
3 IDCODE). -/
structure Pins where
  pwrGood : Bool := false
  fell : Bool := true
  perst : Bool := true
  refOk : Bool := false
  thermTrip : Bool := false
  sbAddr : Nat := 0
  tap : Nat := 3
deriving DecidableEq, Repr

/-- A share of the power budget that is lent (R49, R51): the lender (a core, 80 × set + core, or 160 + set for what a lost set had), the
die that has it, and the watts. -/
structure Loan where
  who : Nat
  die : Nat
  watts : Nat
deriving DecidableEq, Repr

/-- The power manager (chapter 2): input power of the last 1,000 µs, dies set below V_f for the envelope and for heat, those of the
latter that have been reported, dies with a breach, allocations by die and the shares lent (R49), microseconds of the present sprint's
last millisecond, of the cooldown's last unit, and of the reserve's last millisecond. -/
structure PowerMgr where
  samples : List Nat := []
  envLow : List Nat := []
  thermLow : List Nat := []
  thermRep : List Nat := []
  breach : List Nat := []
  alloc : SMap Nat := []
  loans : List Loan := []
  sprintUs : Nat := 0
  coolUs : Nat := 0
  drawUs : Nat := 0
deriving DecidableEq, Repr

/-- The management processor's working state (chapters 13, 14, 16): the verified dance card, whether it is accepted, what it says of tile maps, the sets whose
stacks have trained, the arrays that the card's map leaves idle (R6), the firmware staging memory and the body digest and SVN in force, nonces out, the pending enrolment (modulus,
nonce), the owner key last seen, supplement pieces, the calibration staging copy, the CAL_ARM code and the time it was given, the time of the last watchdog
expiry plus 1, the CXL timestamp and the time it was set, MCTP endpoint IDs of the two bindings, secured SPDM sessions open and key exchanges
not yet finished, the measurement of the calibration block. -/
structure Mgmt where
  card : SMap Byte := []
  cardOk : Bool := false
  facts : CardFacts := {}
  trained : List Nat := []
  image : SMap Byte := []
  imageLen : Nat := 0
  bodyDigest : List Byte := []
  svn : Nat := 0
  raiseSvn : Bool := false
  nonces : List (List Byte) := []
  enrol : Option (List Byte × List Byte) := none
  ownerKey : List Byte := []
  supp : SMap Byte := []
  suppLen : Nat := 0
  calStage : SMap Byte := []
  calCode : Option (List Byte) := none
  calAt : Nat := 0
  spare : List Nat := []
  watchdogAt : Nat := 0
  timestamp : Nat := 0
  stampAt : Nat := 0
  eids : SMap Nat := []
  sessions : Nat := 0
  handshakes : Nat := 0
  meas7 : List Byte := []
deriving DecidableEq, Repr

/-- What kind of message leaves the block; an Event carries its arguments. -/
inductive EvKind where
  /-- MSI-X message of a vector (R364): vector, address, data. -/
  | msix
  /-- CXL event record (R437): log 0 informational, 1 warning, 2 failure, 3 fatal; the fault record. -/
  | cxlEvent
  /-- I3C in-band interrupt (R369). -/
  | i3cIbi
  /-- Remote SIGNAL (R305): place, export, amount. -/
  | remoteSignal
  /-- Reply to a remote SIGNAL (R304): place, cause (0 acknowledged). -/
  | remoteReply
  /-- ARRIVE, RELEASE and BROKEN of a barrier tree (R308, R310): place, counter. -/
  | barrierArrive | barrierRelease | barrierBroken
  /-- Channel message (R314): first hop, place, core, endpoint, sender core, sender endpoint, sequence; body. -/
  | chanMessage
  /-- Channel reply (R314, R315): place, core, endpoint, 0 for an acknowledgement or the NACK's reason. -/
  | chanReply
  /-- Window write (R145, R147): global address; data. -/
  | windowWrite
  /-- Answer to a window write (R148): sender's place, 0 accepted, 1 rejected, 2 unpowered. -/
  | windowReply
  /-- Grant of window credit (R146): place, window, units. -/
  | creditGrant
  /-- DOWN on a port's link (R335): the port. -/
  | linkDown
  /-- Circulation frame (7.2): the port it leaves by, its poisoned payload words; header and payload. -/
  | circFrame
  /-- Control-plane message of a circle: its code, the port (1, 2) or place it goes to, its contents. 1 stop notice; 2 fold
  notice: epoch, cuts, gone, stand-ins; 3 fold acknowledgement: epoch, CIRC_REV, place; 4 REFOLD: epoch, m, line, stand-ins; 5 change request:
  kind, version; 6 readiness query: kind, version; 7 readiness answer: place, answer; 8 COMMIT: kind, version, S, epoch;
  9 commit acknowledgement: place; 10 CONFIRM; 11 ABORT; 12 re-request of a piece: piece, version; 13 load announcement:
  owner, version; 14 repair request: piece, version, place that asks, 1 when the reader is asked. -/
  | circCtl
  /-- A pass leaves place 0 (R293): its number, what goes with it for each session; the 576-byte header. -/
  | passHeader
  /-- Place N − 1 returns a pass (R292): its number, 1 when it was marked DISCARD, its parts; the records. -/
  | passReturn
  /-- Repair transfer of a piece, routed by destination (R211): the place it goes to, piece, version, uncorrectable words; the piece. -/
  | repairTransfer
  /-- A flit (Table 12-3): the port; its 512 bytes. -/
  | flit
  /-- A frame of classes 1 to 4 delivered at this set (R328): the port, the class, SRC, the uncorrectable words; its words. -/
  | frameIn
  /-- NOROUTE returned for a discarded frame (R331): the originator's place, the class. -/
  | noRoute
  /-- The identity record of a port (Table 12-8). -/
  | linkIdent
  /-- The CONFIG record of a port (R336): the port, version, features, logical port, REMAPPED, measured time of flight in ns. -/
  | linkConfig
  /-- The port table of a set (R340): its place, its location and set index, which circle ports reach their planned places (bit 0
  widdershins, bit 1 sunwise); for the lowest place of its circle. -/
  | portTable
  /-- A port's transmitters go off (R335). -/
  | linkOff
  /-- The answer to a vendor command (R407): opcode, STATUS, CAUSE; the data. -/
  | vendor
  /-- The answer to a CXL mailbox command: opcode, return code; the data. -/
  | mailbox
  /-- The answer to a host read: 0 data, 1 poison, 2 Unsupported Request; the data. -/
  | hostData
  /-- An SPDM or MCTP answer (13.9): its code and arguments; the data. -/
  | spdm | mctp
  /-- TAP data out (R474): IDCODE, or a bypass bit; land levels driven by EXTEST. -/
  | tap
deriving DecidableEq, Repr

/-- The virtual channels of the three planes (R33, Table 1-3). -/
inductive Vc where
  | data | control | management
deriving DecidableEq, Repr

/-- A message that left the block: on the fabric, to the host, on the management plane or on a pin; on the fabric, with its virtual
channel. -/
structure Event where
  kind : EvKind
  set : Nat
  args : List Nat
  data : List Byte := []
  vc : Option Vc := none
deriving DecidableEq, Repr

/-- A stack's patrol (R267): the address of the next line, none when no pass runs, and whether the next pass is due. -/
structure Patrol where
  next : Option Nat := none
  due : Bool := false
deriving DecidableEq, Repr

/-- A set (0.1): its registers, its memory and the stored check bytes that differ from the valid ones (R409, R411), and
its units. -/
structure SetSt where
  regs : SMap Nat := []
  mem : SMap Byte := []
  chk : SMap Nat := []
  cores : SMap Core := []
  segs : SMap SegState := []
  teardowns : SMap (Option Teardown) := []
  waiters : SMap (List Waiter) := []
  children : SMap (List (Nat × Nat)) := []
  rx : SMap RxEnd := []
  maskedAt : SMap Nat := []
  stepBad : Bool := false
  killed : List (Nat × JobExit) := []
  restart : List Nat := []
  plan : List (Nat × List Byte) := []
  startPc : SMap Nat := []
  known : SMap (List (Nat × Nat)) := []
  lost : Bool := false
  doneDue : List DoneDue := []
  winHeld : List (Nat × Nat × List Byte × List Nat) := []
  leaveQ : SMap (List Nat) := []
  enterQ : SMap (List Nat) := []
  su : SessUnit := {}
  circ : CircUnit := {}
  tmapNext : Option (List (List Byte)) := none
  pruneDue : List Nat := []
  badWords : List Nat := []
  endDue : List Nat := []
  locked : Bool := false
  shareGain : Nat := 0
  patrol : SMap Patrol := []
  selfRef : Bool := false
  links : SMap LinkPort := []
  altParent : Bool := false
  slew : Int := 0
  slewFrac : Int := 0
deriving DecidableEq, Repr

/-- An entry of the MSI-X table (PCIe; R364). -/
structure MsixEnt where
  addr : Nat := 0
  data : Nat := 0
  masked : Bool := true
deriving DecidableEq, Repr

/-- Why the machine stops. It has no constructor: nothing in the manual stops the block for good, and every command has its effect in
every state (notices of failure are records, answers and register bits of the state that follows). -/
inductive Fault
deriving DecidableEq, Repr

/-- Why a command has no meaning. No command lacks one. -/
inductive Refusal where
  /-- Raised by an arm of exec whose command has no meaning yet. Safe. -/
  | notModelled (mnemonic : String)
deriving DecidableEq, Repr

/-- A host access that waits while host traffic is held (R355): a register access by BAR and offset, an aperture access, an access to
the HDM window of a set. -/
inductive HostReq where
  | read (bar addr len : Nat)
  | write (bar addr : Nat) (data : List Byte)
  | aperRead (a off len : Nat)
  | aperWrite (a off : Nat) (data : List Byte)
  | hdmRead (set : SetId) (off len : Nat)
  | hdmWrite (set : SetId) (off : Nat) (data : List Byte)
deriving DecidableEq, Repr

/-- What the host writes in configuration space (R356): Memory Space Enable, the MSI-X function mask, PASID Enable, the control word of the
DVSEC for CXL devices; the DOE mailbox: the words written, the words to read, and an error. -/
structure CfgRegs where
  memSpace : Nat := 0
  msixMask : Bool := false
  pasidOn : Bool := false
  cxlControl : Nat := 0
  doeIn : List Nat := []
  doeOut : List Nat := []
  doeBad : Bool := false
deriving DecidableEq, Repr

/-- The security engine's own storage (R403): the DeviceID public key, the CDI of the firmware in force, the Alias public key. -/
structure SecEngine where
  deviceKey : List Byte := []
  cdi : List Byte := []
  aliasKey : List Byte := []
deriving DecidableEq, Repr

/-- The package. -/
structure State where
  pending : List Instr := []
  out : List Event := []
  freeCtr : Nat := 0
  regs : SMap Nat := []
  set0 : SetSt := {}
  set1 : SetSt := {}
  hostMem : SMap Byte := []
  msix : SMap MsixEnt := []
  msixPending : List Nat := []
  msixOn : Bool := false
  ibiOn : Bool := false
  mpDown : Bool := false
  mpQueue : List (Nat × FRec) := []
  cueSeq : SMap Nat := []
  nvm : SMap Byte := []
  almMem : SMap Byte := []
  almNewest : Nat := 1
  almBusy : Option Nat := none
  almDue : List Bool := []
  promptNext : Nat := 0
  promptSec : Nat := 0
  promptFull : Bool := false
  calOver : Bool := false
  cxlLog : List (Nat × List Byte) := []
  hostHeld : List (Nat × List Byte) := []
  cqPhase : SMap Nat := []
  cqResv : SMap Nat := []
  pkgLost : Bool := false
  sprintRan : Nat := 0
  svers : Nat := 0
  cal : SMap Byte := []
  fwVer : Nat := 0
  cardDigest : List Byte := []
  fuses : Fuses := {}
  pins : Pins := {}
  pm : PowerMgr := {}
  mg : Mgmt := {}
  sec : SecEngine := {}
  cfg : CfgRegs := {}
  busMaster : Bool := false
  warm : Bool := false
  heldReqs : List HostReq := []
deriving DecidableEq, Repr

/-- A set right after reset: every field at its table's reset value. Two of them differ by instance and stand in the map: SET of
LINK_IDENT is the set's number, LPORT of port p reads p (Tables 12-13, 12-16). -/
def SetSt.reset (i : SetId) : SetSt :=
  { regs := [(Field.LINK_IDENT_SET, 0, i.val), (.LINK_PORTp_STAT_0_LPORT, 1, 1), (.LINK_PORTp_STAT_0_LPORT, 2, 2),
      (.LINK_PORTp_STAT_0_LPORT, 3, 3), (.LINK_PORTp_STAT_0_LPORT, 4, 4)].foldl
        (fun m e => SMap.put 0 m (e.1.code + 1024 * e.2.1) e.2.2) [] }

/-- The machine right after power-on, with PERST_N asserted. -/
def State.reset : State := { set0 := SetSt.reset 0, set1 := SetSt.reset 1 }

end Sys2Proof.Machine
end

