-- ==== Sys2Proof/Machine/Ops.lean ====
section
/-! DEFINITION. The named operations every meaning is built from: sets, register fields, memory, messages, free
values. -/

namespace Sys2Proof.Machine

/-- The outcome of a command. -/
abbrev Out := Host.Outcome State Fault Refusal

/-- The key of field `f` of instance `ix`. -/
def Field.key (f : Field) (ix : Nat) : Nat := f.code + 1024 * ix

/-- What a field reads in a register map: its reset value where nothing is held (R458, the tables' Reset column). -/
def getField (m : SMap Nat) (f : Field) (ix : Nat) : Nat := SMap.get f.info.rst m (f.key ix)

/-- A field takes the low bits of a value; a field at its reset value is not listed. -/
def putField (m : SMap Nat) (f : Field) (ix v : Nat) : SMap Nat :=
  SMap.put f.info.rst m (f.key ix) (v % 2 ^ f.info.len)

/-- The instances at which field `f` holds a value other than its reset value. -/
def fieldIndices (m : SMap Nat) (f : Field) : List Nat :=
  (m.filter fun e => e.1 % 1024 == f.code).map fun e => e.1 / 1024

/-- The virtual channel of each kind of fabric message (Table 1-3). Load announcements, re-requests and repair requests of pieces are
management, the other circle messages control; log entry 85 names the kinds that the table does not list. -/
def EvKind.channel (k : EvKind) (args : List Nat) : Option Vc :=
  match k with
  | .circFrame | .chanMessage | .windowWrite | .repairTransfer | .passHeader | .passReturn => some .data
  | .remoteSignal | .remoteReply | .barrierArrive | .barrierRelease | .barrierBroken | .chanReply | .windowReply | .creditGrant
  | .noRoute => some .control
  | .circCtl => some (if 12 ≤ args.headD 0 then .management else .control)
  | .linkIdent | .linkConfig | .portTable => some .management
  | .frameIn => match args with
    | _ :: c :: _ => some (if c = 3 then .control else if c = 4 then .management else .data)
    | _ => none
  | .msix | .cxlEvent | .i3cIbi | .linkDown | .flit | .linkOff | .vendor | .mailbox | .hostData | .spdm | .mctp | .tap => none

namespace State

/-- A set of the package. -/
def st (s : State) (i : SetId) : SetSt := if i = 0 then s.set0 else s.set1

/-- Replace a set. -/
def putSet (s : State) (i : SetId) (t : SetSt) : State :=
  if i = 0 then { s with set0 := t } else { s with set1 := t }

/-- Change a set. -/
def onSet (s : State) (i : SetId) (f : SetSt → SetSt) : State := s.putSet i (f (s.st i))

/-- A field of a set's register. -/
def fld (s : State) (i : SetId) (f : Field) (ix : Nat := 0) : Nat := getField (s.st i).regs f ix

/-- Write a field of a set's register. -/
def setFld (s : State) (i : SetId) (f : Field) (ix v : Nat) : State :=
  s.onSet i fun t => { t with regs := putField t.regs f ix v }

/-- A field of a package register or of a tenant page. -/
def pfld (s : State) (f : Field) (ix : Nat := 0) : Nat := getField s.regs f ix

/-- Write a field of a package register or of a tenant page. -/
def setPfld (s : State) (f : Field) (ix v : Nat) : State := { s with regs := putField s.regs f ix v }

/-- Add to a counter field that wraps. -/
def addFld (s : State) (i : SetId) (f : Field) (ix n : Nat) : State := s.setFld i f ix (s.fld i f ix + n)

/-- Add to a counter field that stops at its largest value. -/
def satFld (s : State) (i : SetId) (f : Field) (ix n : Nat) : State :=
  s.setFld i f ix (min (s.fld i f ix + n) (2 ^ f.info.len - 1))

/-- Add to a package counter field that stops at its largest value. -/
def satPfld (s : State) (f : Field) (ix n : Nat) : State :=
  s.setPfld f ix (min (s.pfld f ix + n) (2 ^ f.info.len - 1))

/-- A message leaves the block, a fabric message on the virtual channel of its kind and of no other (R33). -/
def emit (s : State) (k : EvKind) (i : Nat) (args : List Nat) (data : List Byte := []) : State :=
  { s with out := s.out ++ [{ kind := k, set := i, args := args, data := data, vc := k.channel args }] }

/-- The next free value, of `w` bits (log entry 5). -/
def free (s : State) (w : Nat) : Nat := Config.freeValue s.freeCtr % 2 ^ w

/-- A free value has been used. -/
def spend (s : State) : State := { s with freeCtr := s.freeCtr + 1 }

/-- `n` free bytes. -/
def freeBytes (s : State) (n : Nat) : List Byte := leBytes n (s.free (8 * n))

/-- A core of a set. -/
def core (s : State) (i : SetId) (k : Nat) : Core := SMap.get {} (s.st i).cores k

/-- Change a core. -/
def onCore (s : State) (i : SetId) (k : Nat) (f : Core → Core) : State :=
  s.onSet i fun t => { t with cores := SMap.upd {} t.cores k f }

/-- A slot of a core. -/
def slot (s : State) (i : SetId) (k n : Nat) : Slot := SMap.get {} (s.core i k).slots n

/-- Change a slot. -/
def onSlot (s : State) (i : SetId) (k n : Nat) (f : Slot → Slot) : State :=
  s.onCore i k fun c => { c with slots := SMap.upd {} c.slots n f }

/-- The (circle, place) of a set, bits 17:8 circle and bits 7:0 place. -/
def place (s : State) (i : SetId) : Nat := s.fld i .CIRC_CFG_CIRCLE * 256 + s.fld i .CIRC_CFG_PLACE

/-- The fabric time of a set, ns (Table 12-22). -/
def time (s : State) (i : SetId) : Nat := s.fld i .LINK_FT_TIME

end State

/-! ## Memory (R7, R10) -/

/-- `n` bytes from address `a`; a byte that nothing has written reads 0. -/
def readMem (m : SMap Byte) (a n : Nat) : List Byte := (List.range n).map fun j => SMap.get 0 m (a + j)

/-- The entries of bytes laid from address `a`. -/
def cellsFrom : Nat → List Byte → SMap Byte
  | _, [] => []
  | a, b :: t => if b = 0 then cellsFrom (a + 1) t else (a, b) :: cellsFrom (a + 1) t

/-- Write bytes from address `a`. -/
def writeMem (m : SMap Byte) (a : Nat) (d : List Byte) : SMap Byte :=
  SMap.keep (fun k => k < a) m ++ cellsFrom a d ++ SMap.keep (fun k => a + d.length ≤ k) m

/-- The canonical form of a memory: addresses strictly rising, no entry that reads as an unlisted address does. -/
def Memory.wf (m : SMap Byte) : Bool := SMap.wf 0 m

/-- Every byte of a range reads 0. -/
def zeroMem (m : SMap Byte) (a n : Nat) : SMap Byte := SMap.keep (fun k => k < a || a + n ≤ k) m

/-! ## Table 0-7 -/

/-- Where a set-local address lies. -/
inductive Space where
  /-- HBM. -/
  | hbm
  /-- Die memory of the set's even (0) or odd (1) compute die, with the offset. -/
  | die (d off : Nat)
  /-- Core memory of a core, with the offset. -/
  | core (k off : Nat)
  /-- Operand buffers of a core, with the offset. -/
  | buf (k off : Nat)
  /-- Set MMIO, with the offset. -/
  | mmio (off : Nat)
  /-- An unpopulated address (R8). -/
  | none
deriving DecidableEq, Repr

/-- Table 0-7. -/
def spaceOf (a : Nat) : Space :=
  if a < 0x090_0000_0000 then .hbm
  else if 0xC00_0000_0000 ≤ a ∧ a < 0xC00_2400_0000 then .die 0 (a - 0xC00_0000_0000)
  else if 0xC00_4000_0000 ≤ a ∧ a < 0xC00_6400_0000 then .die 1 (a - 0xC00_4000_0000)
  else if 0xD00_0000_0000 ≤ a ∧ a < 0xD00_5000_0000 then
    let o := a - 0xD00_0000_0000
    if o % 0x100_0000 < 0x60_0000 then .core (o / 0x100_0000) (o % 0x100_0000) else .none
  else if 0xE00_0000_0000 ≤ a ∧ a < 0xE00_0A00_0000 then
    let o := a - 0xE00_0000_0000
    if o % 0x20_0000 < 0x14_0000 then .buf (o / 0x20_0000) (o % 0x20_0000) else .none
  else if 0xF00_0000_0000 ≤ a ∧ a < 0xF00_1000_0000 then .mmio (a - 0xF00_0000_0000)
  else .none

end Sys2Proof.Machine
end

