-- ==== Sys2Proof/Machine/AlmStore.lean ====
section
/-! DEFINITION. The almanac in memory, its copies in NVM and the prompt log (16.1 to 16.3). -/

namespace Sys2Proof.Machine

namespace State

/-- Bytes of NVM; an erased byte reads 0xFF (log entry 2). -/
def nvmBytes (s : State) (a n : Nat) : List Byte := (List.range n).map fun j => SMap.get 0xFF s.nvm (a + j)

/-- Program bytes of NVM. -/
def nvmWrite (s : State) (a : Nat) (d : List Byte) : State :=
  { s with nvm := SMap.keep (fun k => k < a) s.nvm ++
      ((d.zipIdx a).filter fun p => p.1 != 0xFF#8).map (fun p => (p.2, p.1)) ++
      SMap.keep (fun k => a + d.length ≤ k) s.nvm }

/-- Erase a range of NVM. -/
def nvmErase (s : State) (a n : Nat) : State := { s with nvm := SMap.keep (fun k => k < a || a + n ≤ k) s.nvm }

/-- A field of the in-memory almanac at an offset of Table 16-2. -/
def alm (s : State) (off n : Nat) : Nat := leNat (readMem s.almMem off n)

/-- Write a field of the in-memory almanac. -/
def setAlm (s : State) (off n v : Nat) : State := { s with almMem := writeMem s.almMem off (leBytes n v) }

/-- Add to a counter of the almanac: 2 and 4 bytes stop at their largest value, 8 bytes wrap (R442). -/
def addAlm (s : State) (off n v : Nat) : State :=
  let t := s.alm off n + v
  s.setAlm off n (if n = 8 then t else min t (256 ^ n - 1))

end State

/-- Start of copy A or B (Table 16-1). -/
def almCopyBase (c : Nat) : Nat := if c = 0 then 0x760_0000 else 0x780_0000

/-- A copy as it is programmed (R441, Table 16-2): the body of the in-memory almanac under its header. -/
def almImage (s : State) (seq : Nat) (clean : Bool) : List Byte :=
  let body := readMem s.almMem 64 17072
  let flags := bitOf clean + 2 * s.pfld .PD_SPRINT_LIFE_EXHAUSTED + 4 * bitOf s.calOver
  leBytes 4 0x414C_4D31 ++ leBytes 2 1 ++ leBytes 2 flags ++ leBytes 8 seq ++ leBytes 4 17072 ++ List.replicate 12 0 ++
    sha256 body ++ body

/-- A copy is valid when MAGIC, VER and DIGEST hold (R441). -/
def almValid (s : State) (c : Nat) : Bool :=
  let h := s.nvmBytes (almCopyBase c) 64
  (leAt h 0 4 == 0x414C_4D31) && (leAt h 4 2 == 1) && (slice h 32 32 == sha256 (s.nvmBytes (almCopyBase c + 64) (leAt h 16 4)))

/-- Start a write of the almanac into the copy that does not hold the newest valid one (R441, R443); while another is
in progress it waits. -/
def almWrite (s : State) (clean : Bool) : State :=
  match s.almBusy with
  | some _ => { s with almDue := s.almDue ++ [clean] }
  | none =>
    let c := if s.almNewest = 0 then 1 else 0
    let s := s.nvmErase (almCopyBase c) 0x20_0000
    let s := s.nvmWrite (almCopyBase c) (almImage s (s.pfld .ALM_STAT_SEQ + 1) clean)
    { s with almBusy := some c }

/-- The first free place of the prompt log. -/
def promptBase : Nat := 0x7A0_0000

/-- Write a record to the prompt log (R444); a full log is erased after an almanac write. The record's SEQ is that of
the almanac write that will cover it (log entry 9). -/
def promptWrite (s : State) (type : Nat) (payload : List Byte) : State :=
  let seq := s.pfld .ALM_STAT_SEQ + 1 + (if s.almBusy.isSome then 1 else 0)
  let body := leBytes 4 type ++ leBytes 8 seq ++ slice payload 0 44
  let s := if s.promptNext < 32768 then
      { (s.nvmWrite (promptBase + 64 * s.promptNext) (body ++ leBytes 8 (crc64 body))) with promptNext := s.promptNext + 1 }
    else s
  if s.promptNext < 32768 ∨ s.promptFull then s else { almWrite s false with promptFull := true }

/-- A ring entry (R446), and its prompt record while fewer than 100 were written this second (R444). -/
def ringAdd (s : State) (r : List Byte) : State :=
  let n := s.alm 8940 4
  let s := { s with almMem := writeMem s.almMem (8944 + 32 * (n % 256)) (slice r 0 32) }
  let s := s.setAlm 8940 4 (n + 1)
  if s.promptSec < 100 then { promptWrite s 3 r with promptSec := s.promptSec + 1 } else s

end Sys2Proof.Machine
end

