-- ==== Sys2Proof/Machine/Faults.lean ====
section
/-! DEFINITION. Fault codes, their records, and how a record is logged and reported (15.7 to 15.9, R364). -/

namespace Sys2Proof.Machine

/-- The fault codes of Table 15-10. -/
inductive FC where
  | desc | bounds | unpowered | syncId | syncKind | harvestVocab | attnParam | stream | syncOverflow
  | syncUnderflow | syncBarrier | syncOwnerLost | syncRemote | chanNack | chanFree | winCredit | winReject
  | winClosed | callerLockstep | arrCheck | vecResidue | coreHeartbeat | harvestResidue | mseResidue
  | pruneLimit | memWord | hbmWord | hbmTemp | hbmFence | kvWord | kvHole | kvOrder | kvFull | kvPrefix
  | kvToken | circSeq | circRev | circVersion | shardDigest | shardMissing | weedDigest | circFold | circStopped
  | sessSid | sessParam | sessNoslot | sessHostread | sessNospace | sessLogit | sessEmpty | sessKilled
  | linkLost | linkDegraded | linkWord | linkMissing | linkExtra | linkCrossed | linkVersion | linkPlan
  | linkFwmix | linkLength | strapInvalid | strapDup | timeHoldover | tempoFloor | thermTrip | rail | setLost
  | pkgLost | mpReset | hostLink | hostDma | hostIde
deriving DecidableEq, Repr

/-- The number, the severity and the action of a code (Table 15-10). Where the table leaves severity or action to a rule,
the first it names stands here, and the raising rule gives its own. -/
def FC.row : FC → Nat × Nat × Nat
  | .desc => (1, 2, 5)  -- F_DESC: Job; Job ended
  | .bounds => (2, 2, 5)  -- F_BOUNDS: Job; Job ended
  | .unpowered => (3, 2, 5)  -- F_UNPOWERED: Job; Job ended
  | .syncId => (4, 2, 5)  -- F_SYNC_ID: Job; Job ended
  | .syncKind => (5, 2, 5)  -- F_SYNC_KIND: Job; Job ended
  | .harvestVocab => (6, 2, 5)  -- F_HARVEST_VOCAB: Job; Job ended
  | .attnParam => (7, 2, 5)  -- F_ATTN_PARAM: Job; Job ended
  | .stream => (8, 2, 5)  -- F_STREAM: Job; session under R248; Job ended; session ended
  | .syncOverflow => (16, 2, 5)  -- F_SYNC_OVERFLOW: Job; masked for a host signal; Job ended; none
  | .syncUnderflow => (17, 2, 5)  -- F_SYNC_UNDERFLOW: Job; Job ended
  | .syncBarrier => (18, 2, 5)  -- F_SYNC_BARRIER: Job; Job ended
  | .syncOwnerLost => (19, 2, 5)  -- F_SYNC_OWNER_LOST: Job; Job ended
  | .syncRemote => (20, 2, 5)  -- F_SYNC_REMOTE: Job; Job ended
  | .chanNack => (21, 2, 5)  -- F_CHAN_NACK: Job; Job ended
  | .chanFree => (22, 2, 5)  -- F_CHAN_FREE: Job; Job ended
  | .winCredit => (23, 0, 0)  -- F_WIN_CREDIT: Masked; None
  | .winReject => (24, 0, 0)  -- F_WIN_REJECT: Masked; None
  | .winClosed => (25, 2, 5)  -- F_WIN_CLOSED: Job; Job ended
  | .callerLockstep => (32, 2, 3)  -- F_CALLER_LOCKSTEP: Job; Unit pruned
  | .arrCheck => (33, 2, 3)  -- F_ARR_CHECK: Job; Unit pruned
  | .vecResidue => (34, 2, 3)  -- F_VEC_RESIDUE: Job; Unit pruned
  | .coreHeartbeat => (35, 2, 3)  -- F_CORE_HEARTBEAT: Job; Unit pruned
  | .harvestResidue => (36, 2, 3)  -- F_HARVEST_RESIDUE: Job; Unit pruned
  | .mseResidue => (37, 2, 3)  -- F_MSE_RESIDUE: Job; Unit pruned
  | .pruneLimit => (38, 3, 8)  -- F_PRUNE_LIMIT: Set lost; Set fenced
  | .memWord => (39, 0, 0)  -- F_MEM_WORD: Table 15-4; Table 15-4
  | .hbmWord => (48, 0, 0)  -- F_HBM_WORD: Table 15-4; Table 15-4
  | .hbmTemp => (49, 0, 0)  -- F_HBM_TEMP: Masked; None
  | .hbmFence => (50, 0, 0)  -- F_HBM_FENCE: Table 15-7, as R427 gives; Table 15-7, as R427 gives
  | .kvWord => (51, 1, 4)  -- F_KV_WORD: Session; Session ended
  | .kvHole => (52, 2, 5)  -- F_KV_HOLE: Job; Job ended
  | .kvOrder => (53, 2, 5)  -- F_KV_ORDER: Job; Job ended
  | .kvFull => (54, 1, 4)  -- F_KV_FULL: Session; Session ended
  | .kvPrefix => (55, 1, 0)  -- F_KV_PREFIX: Session; None; open refused
  | .kvToken => (56, 1, 4)  -- F_KV_TOKEN: Session; Session ended
  | .circSeq => (64, 2, 7)  -- F_CIRC_SEQ: Job; Circle stopped
  | .circRev => (65, 2, 7)  -- F_CIRC_REV: Job; Circle stopped
  | .circVersion => (66, 2, 7)  -- F_CIRC_VERSION: Job; Circle stopped
  | .shardDigest => (67, 0, 1)  -- F_SHARD_DIGEST: Masked; Repaired
  | .shardMissing => (68, 2, 7)  -- F_SHARD_MISSING: Job; Circle stopped, or not started
  | .weedDigest => (69, 2, 1)  -- F_WEED_DIGEST: Job; Repaired
  | .circFold => (70, 0, 6)  -- F_CIRC_FOLD: Masked; Circle folded
  | .circStopped => (71, 2, 7)  -- F_CIRC_STOPPED: Job; Circle stopped
  | .sessSid => (80, 1, 0)  -- F_SESS_SID: Session; None; command refused
  | .sessParam => (81, 1, 0)  -- F_SESS_PARAM: Session; None; command refused
  | .sessNoslot => (82, 1, 0)  -- F_SESS_NOSLOT: Session; None; command refused
  | .sessHostread => (83, 1, 0)  -- F_SESS_HOSTREAD: Session; None; command refused
  | .sessNospace => (84, 1, 4)  -- F_SESS_NOSPACE: Session; Session ended
  | .sessLogit => (85, 1, 4)  -- F_SESS_LOGIT: Session; Session ended
  | .sessEmpty => (86, 1, 4)  -- F_SESS_EMPTY: Session; Session ended
  | .sessKilled => (87, 2, 5)  -- F_SESS_KILLED: Job; Job ended
  | .linkLost => (96, 0, 6)  -- F_LINK_LOST: Masked; Circle folded, or none
  | .linkDegraded => (97, 0, 0)  -- F_LINK_DEGRADED: Masked; None
  | .linkWord => (98, 0, 0)  -- F_LINK_WORD: Table 15-4; Table 15-4
  | .linkMissing => (99, 0, 0)  -- F_LINK_MISSING: Masked; None
  | .linkExtra => (100, 0, 0)  -- F_LINK_EXTRA: Masked; None
  | .linkCrossed => (101, 0, 0)  -- F_LINK_CROSSED: Masked; None
  | .linkVersion => (102, 0, 0)  -- F_LINK_VERSION: Masked; None
  | .linkPlan => (103, 0, 0)  -- F_LINK_PLAN: Masked; None
  | .linkFwmix => (104, 0, 0)  -- F_LINK_FWMIX: Masked; None
  | .linkLength => (105, 0, 0)  -- F_LINK_LENGTH: Masked; None
  | .strapInvalid => (106, 3, 8)  -- F_STRAP_INVALID: Set lost; Set fenced
  | .strapDup => (107, 2, 7)  -- F_STRAP_DUP: Job; Circle stopped (code 7): the circle does not start
  | .timeHoldover => (108, 0, 0)  -- F_TIME_HOLDOVER: Masked; None
  | .tempoFloor => (112, 0, 0)  -- F_TEMPO_FLOOR: Masked; None
  | .thermTrip => (113, 3, 8)  -- F_THERM_TRIP: Set lost or package lost; Set fenced or package lost
  | .rail => (114, 3, 8)  -- F_RAIL: Set lost or package lost; Set fenced or package lost
  | .setLost => (115, 3, 6)  -- F_SET_LOST: Set lost; Circle folded or stopped
  | .pkgLost => (116, 4, 9)  -- F_PKG_LOST: Package lost; Package lost
  | .mpReset => (117, 0, 1)  -- F_MP_RESET: Masked; Repaired
  | .hostLink => (118, 1, 4)  -- F_HOST_LINK: Session; Session ended
  | .hostDma => (119, 1, 4)  -- F_HOST_DMA: Session; Session ended, or none
  | .hostIde => (120, 0, 0)  -- F_HOST_IDE: Masked; None

/-- The number of a code. -/
def FC.num (c : FC) : Nat := c.row.1

/-- The severity of a code, where the table fixes it. -/
def FC.sev (c : FC) : Nat := c.row.2.1

/-- The action of a code, where the table fixes it. -/
def FC.act (c : FC) : Nat := c.row.2.2

/-- The die of a core in fault records (Table 15-9, PD_TEMPOn): R1. -/
def coreDie (i : SetId) (k : Nat) : Nat := 2 * i.val + (if k < 40 then 0 else 1)

/-- The die of a stack: MB0 to MB11. -/
def stackDie (i : SetId) (n : Nat) : Nat := 4 + 6 * i.val + n

/-- The link die of a set. -/
def linkDie (i : SetId) : Nat := 16 + i.val

/-- A record of a code with its severity and action. -/
def FC.fr (c : FC) : FRec := { code := c.num, sev := c.sev, action := c.act }

/-- The bytes of a record of set `i` (Table 15-9). -/
def FRec.bytes (r : FRec) (i : SetId) : List Byte :=
  leBytes 2 r.code ++ leBytes 1 r.sev ++ leBytes 1 r.action ++
    leBytes 4 (r.place % 2 ^ 18 + 2 ^ 18 * i.val + 2 ^ 19 * r.die + 2 ^ 24 * (r.unit % 128)) ++
    leBytes 1 r.sub ++ leBytes 1 r.cause ++ leBytes 2 r.job ++ leBytes 2 r.sess ++ leBytes 2 r.tag ++
    leBytes 8 r.time ++ leBytes 8 r.detail

/-- The host port carries device traffic: the link is up and Bus Master Enable is set (R350, R354). -/
def hostUp (s : State) : Bool := s.pfld .HB_CAP_MODE != 0 && s.busMaster

/-- Raise an MSI-X vector (R364): a masked vector stays pending (PCIe), and so does one that host traffic held under R355
or a link that is down keeps back (log entry 11). -/
def raiseVector (s : State) (v : Nat) : State :=
  if !s.msixOn then s
  else
    let e := SMap.get {} s.msix v
    if e.masked ∨ s.cfg.msixMask ∨ !hostUp s ∨ s.pfld .HB_HOST_STAT_HELD = 1 then { s with msixPending := if s.msixPending.contains v then s.msixPending else s.msixPending ++ [v] }
    else s.emit .msix 0 [v, e.addr, e.data]

/-- Pending vectors that may now be sent are sent, in order. -/
def flushVectors (s : State) : State :=
  if s.msixOn then s.msixPending.foldl (fun s v => raiseVector s v) { s with msixPending := [] } else s

/-- Raise vector index `i` of a page (R364): an index at or above VEC_COUNT raises nothing and sets VEC_DROP. -/
def raisePageVector (s : State) (t i : Nat) : State :=
  if i < s.pfld .HB_PAGEt_CFG_VEC_COUNT t then raiseVector s (s.pfld .HB_PAGEt_CFG_VEC_FIRST t + i)
  else s.setPfld .HB_PAGE_ERR_VEC_DROP t 1

/-- Whether a record goes to the almanac ring (R437): job severity or higher, a pruning, a stack fence. -/
def toRing (r : FRec) : Bool := r.sev ≥ 2 || r.action == 3 || r.code == FC.num .hbmFence

/-- The management processor delivers a record (R437). -/
def deliver (s : State) (i : SetId) (r : FRec) : State :=
  let s := if s.fld i .SET_FCFG_VEC_SEV ≤ 4 ∧ s.fld i .SET_FCFG_VEC_SEV ≤ r.sev then raiseVector s 0 else s
  let lg := if r.sev = 0 then 0 else if r.sev ≤ 2 then 1 else if r.sev = 3 then 2 else 3
  let s := if hostUp s ∧ s.pfld .HB_HOST_STAT_HELD = 0 then s.emit .cxlEvent i.val [lg] (r.bytes i) else s
  let s := { s with cxlLog := s.cxlLog ++ [(lg, r.bytes i)] }
  let s := if s.ibiOn then s.emit .i3cIbi i.val [r.code] else s
  if toRing r then ringAdd s (r.bytes i) else s

/-- Append a record to a set's fault log (R437, R440). -/
def logRecord (s : State) (i : SetId) (r : FRec) : State :=
  let h := s.fld i .SET_FLOG_PTR_HEAD
  let b := r.bytes i
  let s := (List.range 4).foldl (fun s w => s.setFld i .SET_FLOGe_w_REC (4 * h + w) (leAt b (8 * w) 8)) s
  let s := s.setFld i .SET_FLOG_PTR_HEAD 0 (h + 1)
  let s := if h = 63 then s.setFld i .SET_FLOG_PTR_WRAPPED 0 1 else s
  let s := if r.sev = 0 then s.setFld i .SET_FSTAT_MASKED 0 1 else if r.sev = 1 then s.setFld i .SET_FSTAT_SESSION 0 1
    else if r.sev = 2 then s.setFld i .SET_FSTAT_JOB 0 1 else s.setFld i .SET_FSTAT_LOST 0 1
  let s := if r.action = 3 then s.setFld i .SET_FSTAT_PRUNE 0 1 else s
  let s := s.setFld i .SET_FSTAT_LAST 0 r.code
  s.addFld i .SET_FSTAT_COUNT 0 1

/-- Whether a masked record is logged (R438): MASKED_LOG, and at most one per code and unit per millisecond. -/
def maskedPasses (s : State) (i : SetId) (r : FRec) : Bool :=
  let k := r.code + 256 * (r.die + 32 * r.unit)
  let last := SMap.get 0 (s.st i).maskedAt k
  s.fld i .SET_FCFG_MASKED_LOG = 1 && (last = 0 || last + 1000000 ≤ r.time + 1)

/-- A unit of set `i` reports a fault (R437): the record is logged and reaches the management processor, or waits while
it restarts (R432). -/
def report (s : State) (i : SetId) (r : FRec) : State :=
  let r := { r with place := s.place i, time := s.time i }
  if r.sev = 0 && !maskedPasses s i r then s.setFld i .SET_FSTAT_MASKED 0 1
  else
    let s := if r.sev = 0 then
        s.onSet i fun t => { t with maskedAt := SMap.put 0 t.maskedAt (r.code + 256 * (r.die + 32 * r.unit)) (r.time + 1) }
      else s
    let s := logRecord s i r
    if s.mpDown then { s with mpQueue := s.mpQueue ++ [(i.val, r)] } else deliver s i r

/-- The host bridge (die 18), the power die (19) or the power manager on behalf of a die reports (R437): no set logs the record. -/
def reportPkg (s : State) (r : FRec) : State :=
  let r := { r with place := s.place 0, time := s.time 0 }
  if s.mpDown then { s with mpQueue := s.mpQueue ++ [(0, r)] } else deliver s 0 r

end Sys2Proof.Machine
end

