-- ==== Sys2Proof/Machine/WordCode.lean ====
section
/-! DEFINITION. The word code (R409 to R412): arithmetic in GF(2^8) and the decoding of 36-byte words. -/

namespace Sys2Proof.Machine

/-- Multiply by α in GF(2^8) on 0x11D (R409). -/
def gfDouble (a : Nat) : Nat := if a < 128 then 2 * a else (2 * a) ^^^ 0x11D

/-- The product in GF(2^8): eight steps over the bits of `b`. -/
def gfMul (a b : Nat) : Nat :=
  ((List.range 8).foldl (fun (p : Nat × Nat) i => (if bit b i then p.1 ^^^ p.2 else p.1, gfDouble p.2)) (0, a)).1

/-- The power α^n. -/
def gfPow : Nat → Nat
  | 0 => 1
  | n + 1 => gfDouble (gfPow n)

/-- The value of a polynomial at x; coefficients with the highest power first (R409). -/
def gfEval (c : List Nat) (x : Nat) : Nat := c.foldl (fun a b => gfMul a x ^^^ b) 0

/-- One step of the division by g(x) (R409): the remainder's coefficients of x³ to x⁰ after one more data symbol. -/
def checkStep (r : List Nat) (b : Nat) : List Nat :=
  match r with
  | [r3, r2, r1, r0] =>
    let q := r3 ^^^ b
    [r2 ^^^ gfMul q 0x0F, r1 ^^^ gfMul q 0x36, r0 ^^^ gfMul q 0x78, gfMul q 0x40]
  | _ => r

/-- The check bytes b32 to b35 of 32 data bytes (R409). -/
def checkBytes (d : List Byte) : List Nat := (d.map BitVec.toNat).foldl checkStep [0, 0, 0, 0]

/-- The check bytes as the 32-bit check field of a memory (R410): b(32 + k) in bits 8k + 7 to 8k. -/
def checkField (d : List Byte) : Nat := (checkBytes d).foldr (fun b a => b + 256 * a) 0

/-- The syndromes S_0 to S_3 of a word (R409). -/
def syndromes (w : List Nat) : List Nat := [gfEval w 1, gfEval w 2, gfEval w 4, gfEval w 8]

/-- What a decoder says of a word: valid, corrected (the error pattern over b0 to b35), or uncorrectable, poisoned or
not (R411, R412). -/
inductive WordOut where
  | valid | fixed (err : List Nat) | bad (poison : Bool)
deriving DecidableEq, Repr

/-- The pattern with value `v` at symbol `j`. -/
def symErr (j v : Nat) : List Nat := (List.range 36).map fun i => if i = j then v else 0

/-- The value that symbol `j` must change by for S_0 alone. -/
def oneFix (syn : List Nat) : Option (List Nat) :=
  match syn with
  | [s0, _, _, _] =>
    if s0 = 0 then none
    else (List.range 36).findSome? fun j =>
      let e := symErr j s0
      if syndromes e = syn then some e else none
  | _ => none

/-- The inverse of a nonzero element: a^254. -/
def gfInv (a : Nat) : Nat :=
  (List.range 7).foldl (fun (p : Nat × Nat) _ => let q := gfMul p.2 p.2; (gfMul p.1 q, q)) (1, a) |>.1

/-- Two symbols i < j whose change explains the syndromes (the policy of KIND 1, Table 15-1). -/
def twoFix (syn : List Nat) : Option (List Nat) :=
  match syn with
  | [s0, s1, _, _] =>
    (List.range 36).findSome? fun i => (List.range 36).findSome? fun j =>
      if j ≤ i then none
      else
        let x := gfPow (35 - i)
        let y := gfPow (35 - j)
        -- v_i + v_j = s0 and v_i x + v_j y = s1
        let vj := gfMul (s1 ^^^ gfMul s0 x) (gfInv (x ^^^ y))
        let vi := s0 ^^^ vj
        if vi = 0 ∨ vj = 0 then none
        else
          let e := (List.range 36).map fun k => if k = i then vi else if k = j then vj else 0
          if syndromes e = syn then some e else none
  | _ => none

/-- Decode the syndromes under a policy: `two` for KIND 1 (R411, R412). -/
def decodeSyn (two : Bool) (syn : List Nat) : WordOut :=
  if syn = [0, 0, 0, 0] then .valid
  else if syn = syndromes (List.replicate 32 0 ++ [0xFF, 0xFF, 0xFF, 0xFF]) then .bad true
  else match oneFix syn with
    | some e => .fixed e
    | none => if two then (match twoFix syn with | some e => .fixed e | none => .bad false) else .bad false

/-- Decode a stored word whose check field differs from the valid one by `diff` (R410): the difference alone is the
error, since a valid word has zero syndromes. -/
def decodeDiff (two : Bool) (diff : Nat) : WordOut :=
  if diff = 0 then .valid
  else decodeSyn two (syndromes (List.replicate 32 0 ++ [diff % 256, diff / 256 % 256, diff / 65536 % 256, diff / 16777216]))

/-- Decode a word of 36 bytes as it lies on a link (R328, Table 12-3). -/
def decodeWord (two : Bool) (w : List Byte) : WordOut := decodeSyn two (syndromes (w.map BitVec.toNat))

/-- The check field difference of a poisoned word (R411). -/
def poisonDiff : Nat := 0xFFFF_FFFF

/-- Data bytes with an error pattern taken out. -/
def fixBytes (d : List Byte) (e : List Nat) : List Byte :=
  d.zipWith (fun b v => b ^^^ BitVec.ofNat 8 v) (e.take 32)

end Sys2Proof.Machine
end

