-- ==== Sys2Proof/Machine/Memory.lean ====
section
/-! DEFINITION. Reading and writing memory: the populated map (R7, R8), regions (5.10), the word code at rest (R409 to
R413), uncorrectable operand words (R418, Table 15-4), segments (5.9). -/

namespace Sys2Proof.Machine

/-! ## Places -/

/-- The end of the populated piece that holds an address (Table 0-7): the first address behind it. -/
def pieceEnd (a : Nat) : Nat :=
  match spaceOf a with
  | .hbm => 0x090_0000_0000
  | .die d _ => if d = 0 then 0xC00_2400_0000 else 0xC00_6400_0000
  | .core k _ => 0xD00_0000_0000 + k * 0x100_0000 + 0x60_0000
  | .buf k _ => 0xE00_0000_0000 + k * 0x20_0000 + 0x14_0000
  | .mmio _ => 0xF00_1000_0000
  | .none => a

/-- A nonempty range lies in populated addresses of one piece of Table 0-7. -/
def populated (a n : Nat) : Bool := spaceOf a != .none && a + n ≤ pieceEnd a

/-- The stack of an HBM address (R251). -/
def stackOf (a : Nat) : Nat := a / 0x18_0000_0000

/-- The base of a core's core memory. -/
def coreBase (k : Nat) : Nat := 0xD00_0000_0000 + k * 0x100_0000

/-- The base of a core's operand buffers. -/
def bufBase (k : Nat) : Nat := 0xE00_0000_0000 + k * 0x20_0000

/-- The state of a die-memory segment: 9 segments of each of two dies. -/
def segState (s : State) (i : SetId) (d g : Nat) : SegState := SMap.get .off (s.st i).segs (9 * d + g)

/-- The segments a range of die memory touches (R119). -/
def segsOf (off n : Nat) : List Nat :=
  (List.range 9).filter fun g => off < (g + 1) * 0x400_0000 && g * 0x400_0000 < off + n

/-- Every die-memory segment that the range touches is ready (R137). -/
def powered (s : State) (i : SetId) (a n : Nat) : Bool :=
  match spaceOf a with
  | .die d off => (segsOf off n).all fun g => segState s i d g == .ready
  | _ => true

/-- A stack is fenced (R264). -/
def fenced (s : State) (i : SetId) (n : Nat) : Bool := s.fld i .MEM_HBM_TEMPs_FENCED n = 1

/-! ## Regions (5.10) -/

/-- A region-table entry (Tables 5-11, 5-12). -/
structure Rgn where
  ix : Nat
  base : Nat
  size : Nat
  job : Nat
  rd : Bool
  wr : Bool
  kind : Nat
  shared : Bool
deriving DecidableEq, Repr

/-- An entry of the region table. -/
def rgn (s : State) (i : SetId) (x : Nat) : Rgn :=
  { ix := x, base := s.fld i .MEM_RGNi_1_BASE x * 4096, size := s.fld i .MEM_RGNi_0_SIZE x * 4096
    job := s.fld i .MEM_RGNi_0_JOB x, rd := s.fld i .MEM_RGNi_0_RD x = 1, wr := s.fld i .MEM_RGNi_0_WR x = 1
    kind := s.fld i .MEM_RGNi_0_KIND x, shared := s.fld i .MEM_RGNi_0_SHARED x = 1 }

/-- The valid entries. -/
def rgns (s : State) (i : SetId) : List Rgn := (fieldIndices (s.st i).regs .MEM_RGNi_0_VALID).map (rgn s i)

/-- The entry holds an address. -/
def Rgn.holds (r : Rgn) (a : Nat) : Bool := r.base ≤ a && a < r.base + r.size

/-- The KIND of the region that holds an address; none in no region (R412). -/
def kindOf (s : State) (i : SetId) (a : Nat) : Option Nat :=
  match (rgns s i).find? (·.holds a) with
  | some r => some r.kind
  | none => none

/-- The range lies in one valid entry of the job that grants the access (R141, R142): a SHARED entry grants no write. -/
def inRegion (s : State) (i : SetId) (job a n : Nat) (write : Bool) : Bool :=
  (rgns s i).any fun r => r.job == job && r.base ≤ a && a + n ≤ r.base + r.size &&
    (if write then r.wr && !r.shared else r.rd)

/-! ## Words -/

/-- The check field difference of the word that holds an address (R409, R411). -/
def chkOf (s : State) (i : SetId) (a : Nat) : Nat := SMap.get 0 (s.st i).chk (a / 32)

/-- The stack of an HBM address carries no traffic: its set's stacks are in self-refresh (R260), or a loopback runs on it (R270). -/
def stackQuiet (s : State) (i : SetId) (a : Nat) : Bool :=
  spaceOf a == .hbm && ((s.st i).selfRef || s.fld i .MEM_HBM_LBs_BUSY (stackOf a) == 1)

/-- The address lies on a fenced stack (R264). -/
def onFenced (s : State) (i : SetId) (a : Nat) : Bool := spaceOf a == .hbm && fenced s i (stackOf a)

/-- Where a range that begins at `a` leaves its stack, counted from `a`; ranges outside HBM stay whole. -/
def stackRest (a n : Nat) : Nat :=
  if spaceOf a == .hbm then min n ((stackOf a + 1) * 0x18_0000_0000 - a) else n

/-- Write bytes with valid check bits in one piece, unless a fence leaves the write unperformed (R264). -/
def storePiece (s : State) (i : SetId) (a : Nat) (d : List Byte) : State :=
  if d.isEmpty ∨ onFenced s i a then s
  else s.onSet i fun t => { t with
    mem := writeMem t.mem a d
    chk := SMap.keep (fun k => k < a / 32 || (a + d.length + 31) / 32 ≤ k) t.chk }

/-- Write whole words with valid check bits (R121). -/
def storeRaw (s : State) (i : SetId) (a : Nat) (d : List Byte) : State :=
  let m := stackRest a d.length
  storePiece (storePiece s i a (d.take m)) i (a + m) (d.drop m)

/-- Zero words in one piece. -/
def zeroPiece (s : State) (i : SetId) (a n : Nat) : State :=
  if n = 0 ∨ onFenced s i a then s
  else s.onSet i fun t => { t with
    mem := zeroMem t.mem a n
    chk := SMap.keep (fun k => k < a / 32 || (a + n + 31) / 32 ≤ k) t.chk }

/-- Zero words with valid check bits over a range (R139, R150), stack by stack; a fenced stack is not filled (R265). -/
def zeroFill (s : State) (i : SetId) (a n : Nat) : State :=
  if spaceOf a == .hbm then
    (List.range 6).foldl (fun s k =>
      let lo := max a (k * 0x18_0000_0000)
      let hi := min (a + n) ((k + 1) * 0x18_0000_0000)
      zeroPiece s i lo (hi - lo)) s
  else zeroPiece s i a n

/-- Poison a stored word (R411). -/
def poisonWord (s : State) (i : SetId) (a : Nat) : State :=
  if onFenced s i a then s else s.onSet i fun t => { t with chk := SMap.put 0 t.chk (a / 32) poisonDiff }

/-- Words that are not known: zeros, poisoned (R411, R418). -/
def storePoisoned (s : State) (i : SetId) (a n : Nat) : State :=
  (List.range n).foldl (fun s j => poisonWord s i (a + 32 * j)) (storeRaw s i a (List.replicate (32 * n) 0))

/-- Symbols of a stored word change (R433): data bytes and check bytes are XORed with the pattern. -/
def upsetWord (s : State) (i : SetId) (u : Upset) : State :=
  let a := u.addr / 32 * 32
  let p := slice u.pat 0 36
  let old := chkOf s i a
  let d := (readMem (s.st i).mem a 32).zipWith (fun x y => x ^^^ y) (p.take 32)
  let diff := old ^^^ leAt p 32 4 ^^^ checkField (p.take 32)
  s.onSet i fun t => { t with mem := writeMem t.mem a d, chk := SMap.put 0 t.chk (a / 32) diff }

/-- Count a corrected word (R413, R442; Tables 9-11, 15-16): entry 7 of the almanac for words in no region. -/
def countCorr (s : State) (i : SetId) (a : Nat) : State :=
  let k := match kindOf s i a with | some k => k | none => 7
  let s := s.addAlm (7792 + 64 * i.val + 8 * k) 8 1
  match spaceOf a with
  | .hbm => s.addFld i .MEM_HBM_ERRs_CORR (stackOf a) 1
  | .die d _ => s.addFld i .MEM_SRAMERRd_CORR d 1
  | .core k _ | .buf k _ => s.addFld i .MEM_SRAMERRd_CORR (if k < 40 then 0 else 1) 1
  | _ => s

/-- Count an uncorrectable or poisoned word that was read (Tables 9-11, 9-12, 15-16). -/
def countUncorr (s : State) (i : SetId) (a : Nat) (poison : Bool) : State :=
  let k := match kindOf s i a with | some k => k | none => 7
  let s := s.addAlm (7920 + 64 * i.val + 8 * k) 8 1
  let sram (s : State) (d : Nat) : State :=
    let s := s.satFld i .MEM_SRAMERRd_UNCORR d 1
    let s := s.setFld i .MEM_SRAMERRADDRd_ADDR d a
    let s := s.setFld i .MEM_SRAMERRADDRd_KIND d k
    s.setFld i .MEM_SRAMERRADDRd_POISON d (bitOf poison)
  match spaceOf a with
  | .hbm =>
    let n := stackOf a
    let s := s.satFld i .MEM_HBM_ERRs_UNCORR n 1
    let s := s.setFld i .MEM_HBM_ERRADDRs_ADDR n a
    s.setFld i .MEM_HBM_ERRADDRs_KIND n k
  | .die d _ => sram s d
  | .core c _ | .buf c _ => sram s (if c < 40 then 0 else 1)
  | _ => s

/-- One word read (R411 to R413): its data, whether it is bad, and the machine after the read. A word of a fenced stack ends
as uncorrectable (R264). On-chip memory takes a
correction back into the word; HBM keeps it for weeding and patrol. -/
def readWord (s : State) (i : SetId) (a : Nat) : List Byte × Bool × State :=
  let d := readMem (s.st i).mem a 32
  if onFenced s i a then (d, true, countUncorr s i a false)
  else match decodeDiff (kindOf s i a == some 1) (chkOf s i a) with
  | .valid => (d, false, s)
  | .fixed e =>
    let d' := fixBytes d e
    let s := countCorr s i a
    (d', false, if spaceOf a == .hbm then s else storeRaw s i a d')
  | .bad p => (d, true, countUncorr s i a p)

/-- No stored word of a range differs from a valid one, and no fence ends its reads. -/
def cleanRange (s : State) (i : SetId) (a n : Nat) : Bool :=
  (s.st i).chk.all (fun e => e.1 < a / 32 || a / 32 + n < e.1) && !onFenced s i a && !onFenced s i (a + 32 * n)

/-- `n` words from a word address: the bytes, the bad words' places, and the machine after. A range without stored
check differences is read in one piece. -/
def readWords (s : State) (i : SetId) (a : Nat) : Nat → List Byte × List Nat × State
  | 0 => ([], [], s)
  | n + 1 =>
    if cleanRange s i a n then (readMem (s.st i).mem a (32 * (n + 1)), [], s)
    else
      let (d, bad, s1) := readWord s i a
      let (ds, bs, s2) := readWords s1 i (a + 32) n
      (d ++ ds, (if bad then [a] else []) ++ bs, s2)

/-- The reader uses zero in place of each bad word (R418). -/
def zeroBad (a : Nat) (d : List Byte) (bad : List Nat) : List Byte :=
  if bad.isEmpty then d else d.mapIdx fun j b => if bad.contains (a + j / 32 * 32) then 0 else b

/-- Restore a KIND 5 region from the plan records (Table 15-4): the records' bytes that lie in the region. -/
def restoreRegion (s : State) (i : SetId) (r : Rgn) : State :=
  (s.st i).plan.foldl (fun s p =>
    if r.base < p.1 + p.2.length ∧ p.1 < r.base + r.size then
      let lo := max p.1 r.base
      let hi := min (p.1 + p.2.length) (r.base + r.size)
      storeRaw s i lo ((p.2.drop (lo - p.1)).take (hi - lo))
    else s) (zeroFill s i r.base r.size)

/-- MSE_ERR of the latest fault (Table 8-12). -/
def mseErr (s : State) (i : SetId) (f : Field) (st n layer tag : Nat) : State :=
  let s := s.setFld i f 0 1
  let s := s.setFld i .MSE_ERR_STACK 0 st
  let s := s.setFld i .MSE_ERR_SLOT 0 n
  let s := s.setFld i .MSE_ERR_LAYER 0 layer
  s.setFld i .MSE_ERR_TAG 0 tag

/-- ERR of the memory that holds a word for which F_HBM_WORD or F_MEM_WORD is raised (Tables 5-13, 9-11). -/
def markErr (s : State) (i : SetId) (a : Nat) : State :=
  match spaceOf a with
  | .hbm => s.setFld i .MEM_HBM_ERRs_ERR (stackOf a) 1
  | .die d _ => s.setFld i .MEM_SRAMERRd_ERR d 1
  | .core k _ | .buf k _ => s.setFld i .MEM_SRAMERRd_ERR (if k < 40 then 0 else 1) 1
  | _ => s

/-- A bad word is read as an operand by a job's unit (R418, Table 15-4): its report and its action. The second part
says whether the reader's job ends. KIND 3 words belong to sessions, which end by the engine's own report; a read by another unit names no
session (MSE_ERR.SLOT all ones: DESIGN CHOICE, log entry 95). -/
def operandBad (s : State) (i : SetId) (job tag a : Nat) : State × Bool :=
  let hbm := spaceOf a == .hbm
  let code : FC := if hbm then .hbmWord else .memWord
  let (die, unit) := match spaceOf a with
    | .hbm => (stackDie i (stackOf a), stackOf a)
    | .die d _ => (2 * i.val + d, 0)
    | .core k _ | .buf k _ => (coreDie i k, k)
    | _ => (linkDie i, 0)
  let s0 := s
  let s := markErr s i a
  let r := { code.fr with die := die, unit := unit, job := job, tag := tag, detail := a }
  let rg := (rgns s i).find? (·.holds a)
  match (match rg with | some r => r.kind | none => 0) with
  | 0 => (report s i { r with sev := 2, action := 5 }, true)
  | 3 => (report (mseErr s0 i .MSE_ERR_WORD unit 0x3FFF 0 tag) i { FC.kvWord.fr with die := die, unit := unit, job := job, tag := tag, detail := a }, false)
  | 1 => ((report s i { r with sev := 2, action := 2 }).onSet i fun t => { t with stepBad := true, badWords := t.badWords ++ [a] }, false)
  | 5 =>
    let s := report s i { r with sev := 2, action := 2 }
    let s := match rg with
      | some r => (restoreRegion s i r).onSet i fun t => { t with restart := if t.restart.contains r.job then t.restart else t.restart ++ [r.job] }
      | none => s
    (s.onSet i fun t => { t with stepBad := true }, false)
  | _ =>
    let s := report s i { r with sev := 2, action := 2 }
    (zeroFill (s.onSet i fun t => { t with stepBad := true }) i a 32, false)

/-- Read `n` words as an operand (R418): the bytes with zero for bad words, whether any was bad, whether the job ends. -/
def readOperand (s : State) (i : SetId) (job tag a n : Nat) : List Byte × Bool × Bool × State :=
  let (d, bad, s1) := readWords s i a n
  let (s2, ends) := bad.foldl (fun (p : State × Bool) x => let q := operandBad p.1 i job tag x; (q.1, p.2 || q.2)) (s1, false)
  (zeroBad a d bad, !bad.isEmpty, ends, s2)

/-- Read bytes that need not be whole words as an operand. -/
def readOperandBytes (s : State) (i : SetId) (job tag a n : Nat) : List Byte × Bool × Bool × State :=
  if n = 0 then ([], false, false, s)
  else
    let lo := a / 32 * 32
    let (d, b, e, s) := readOperand s i job tag lo ((a + n + 31) / 32 - a / 32)
    ((d.drop (a - lo)).take n, b, e, s)

/-- A word that its decoder could not correct, or that a fence withholds. -/
def wordBad (s : State) (i : SetId) (a : Nat) : Bool :=
  onFenced s i a || (match decodeDiff (kindOf s i a == some 1) (chkOf s i a) with | .bad _ => true | _ => false)

/-- A word as a decoder yields it, without counting: corrected, and zero where it cannot be. -/
def peekWord (s : State) (i : SetId) (a : Nat) : List Byte :=
  let d := readMem (s.st i).mem a 32
  if onFenced s i a then List.replicate 32 0
  else match decodeDiff (kindOf s i a == some 1) (chkOf s i a) with
  | .valid => d
  | .fixed e => fixBytes d e
  | .bad _ => List.replicate 32 0

/-- `n` bytes from any address as decoders yield them. -/
def peek (s : State) (i : SetId) (a n : Nat) : List Byte :=
  let lo := a / 32 * 32
  let m := (a + n + 31) / 32 - a / 32
  let d := if cleanRange s i lo m then readMem (s.st i).mem lo (32 * m)
    else (List.range m).flatMap fun j => peekWord s i (lo + 32 * j)
  (d.drop (a - lo)).take n

/-- A narrow write within a word (R123): the word is read, merged and written back in one access. One that cannot be corrected takes
nothing and is reported as Table 15-4 says for its region, whose job, for KIND 0, is due to end. A fence leaves the write unperformed
(R264). -/
def storePart (s : State) (i : SetId) (a : Nat) (d : List Byte) : State :=
  let w := a / 32 * 32
  if d.isEmpty ∨ onFenced s i a then s
  else
    let (old, bad, s) := readWord s i w
    if bad then
      let j := match (rgns s i).find? (·.holds w) with | some r => r.job | none => 0
      let (s, ends) := operandBad s i j 0 w
      if ends then s.onSet i fun t => { t with endDue := t.endDue ++ [j] } else s
    else storeRaw s i w (old.take (a - w) ++ d ++ old.drop (a + d.length - w))

/-- Write bytes (R121, R123): whole words with valid check bits; a word that the bytes cover in part by a narrow write. -/
def store (s : State) (i : SetId) (a : Nat) (d : List Byte) : State :=
  let front := if a % 32 = 0 then 0 else min d.length (32 - a % 32)
  let whole := (d.length - front) / 32 * 32
  let s := storePart s i a (d.take front)
  let s := storeRaw s i (a + front) ((d.drop front).take whole)
  storePart s i (a + front + whole) (d.drop (front + whole))

/-- Copy `n` words without using them (R418): a word that cannot be corrected is stored poisoned. -/
def moveWords (s : State) (i : SetId) (src dst n : Nat) : State :=
  let (d, bad, s) := readWords s i src n
  bad.foldl (fun s x => poisonWord s i (dst + (x - src))) (store s i dst d)

end Sys2Proof.Machine
end

