-- ==== Sys2Proof/Machine/Slots.lean ====
section
/-! DEFINITION. Slots: starting, halting, resuming (3.2, R75, R449), and how a job leaves ACTIVE (5.12, R416). -/

namespace Sys2Proof.Machine

/-- The instance of a slot's registers. -/
def slotIx (k n : Nat) : Nat := 8 * k + n

/-- STATE of a slot (Table 3-2). -/
def slotState (s : State) (i : SetId) (k n : Nat) : Nat := s.fld i .CORE_SLOTn_STAT_STATE (slotIx k n)

/-- HELD of CORE_DBG follows the slots in state 7 (Table 16-9). -/
def setSlotState (s : State) (i : SetId) (k n v : Nat) : State :=
  let s := s.setFld i .CORE_SLOTn_STAT_STATE (slotIx k n) v
  s.setFld i .CORE_DBG_HELD k (putBits (s.fld i .CORE_DBG_HELD k) n 1 (if v = 7 then 1 else 0))

/-- The slot's debug hold is in force (R449). -/
def holdOn (s : State) (i : SetId) (k n : Nat) : Bool :=
  s.pfld .ALM_CFG_DEBUG_OK = 1 && bit (s.fld i .CORE_DBG_HOLD k) n

/-- The slot may issue again: state 1, or state 7 under a hold whose slot leaves state 4 (R449). -/
def resumeSlot (s : State) (i : SetId) (k n : Nat) : State :=
  setSlotState s i k n (if holdOn s i k n then 7 else 1)

/-- A set's constants for step variables 6 to 15 (R282; log entry 22). -/
def stepConsts (s : State) (i : SetId) : List Nat :=
  let l := if i = 0 then s.mg.facts.consts0 else s.mg.facts.consts1
  (List.range 10).map fun j => l.getD j 0 % 2 ^ 32

/-- A slot starts at an address: loop stack, offsets, prefetch and arrival record cleared (R71, R153, R423); its step variables hold their
constants (R282). -/
def startSlot (s : State) (i : SetId) (k n pc : Nat) : State :=
  let x := slotIx k n
  let s := s.onSlot i k n fun _ => {}
  let s := s.setFld i .CORE_SLOTn_PC_PC x pc
  let s := s.setFld i .CORE_SLOTn_STAT_FCODE x 0
  let s := s.setFld i .CORE_SLOTn_STAT_TAG x 0
  let s := s.setFld i .CORE_SLOTn_STAT_DEPTH x 0
  let s := s.setFld i .CORE_SLOTn_STAT_WCTR x 0
  let s := (List.replicate 6 0 ++ stepConsts s i).zipIdx.foldl (fun s (v : Nat × Nat) => s.setFld i .CORE_STEPVARn_v_VALUE (16 * x + v.2) v.1) s
  setSlotState s i k n 1

/-- The slots of a job in a set: those whose CORE_SLOTn_PC names it and that have been given a start or run. -/
def jobSlots (s : State) (i : SetId) (j : Nat) : List (Nat × Nat) :=
  ((List.range 80).flatMap fun k => (List.range 8).map fun n => (k, n)).filter fun p =>
    s.fld i .CORE_SLOTn_PC_JOB (slotIx p.1 p.2) = j && (s.fld i .CORE_SLOTn_PC_RUN (slotIx p.1 p.2) = 1 || slotState s i p.1 p.2 != 0)

/-- WAITERS and the head waiter of a counter follow its queue (Tables 11-9, 11-10). -/
def showWaiters (s : State) (i : SetId) (p : Nat) : State :=
  let q := SMap.get [] (s.st i).waiters p
  let s := s.setFld i .SYNC_CTRp_1_WAITERS p (min q.length 1023)
  let (c, n, h) := match q.head? with
    | some (.slot c n _) => (c, n, 0)
    | some (.host ..) => (0, 0, 1)
    | none => (0, 0, 0)
  let s := s.setFld i .SYNC_CTRp_2_FW_CORE p c
  let s := s.setFld i .SYNC_CTRp_2_FW_SLOT p n
  s.setFld i .SYNC_CTRp_2_FW_HOST p h

/-- Replace a counter's waiter queue. -/
def setWaiters (s : State) (i : SetId) (p : Nat) (q : List Waiter) : State :=
  showWaiters (s.onSet i fun t => { t with waiters := SMap.put [] t.waiters p q }) i p

/-- A slot leaves every waiter queue. -/
def unwait (s : State) (i : SetId) (k n : Nat) : State :=
  (s.st i).waiters.foldl (fun s e =>
    let q := e.2.filter fun w => match w with | .slot c m _ => !(c == k && m == n) | _ => true
    if q.length = e.2.length then s else setWaiters s i e.1 q) s

/-- The hold of a slot is cleared (R450). -/
def dropHold (s : State) (i : SetId) (k n : Nat) : State := s.setFld i .CORE_DBG_HOLD k (putBits (s.fld i .CORE_DBG_HOLD k) n 1 0)

/-- A slot stops (state 0): its hold is cleared (R450). -/
def stopSlot (s : State) (i : SetId) (k n : Nat) : State :=
  let s := dropHold (unwait s i k n) i k n
  let s := s.onSlot i k n fun t => { t with fence := none, prefetch := [] }
  setSlotState s i k n 0

/-- The five unit queues of a core (Table 3-3), by number: 0 array, 1 vector, 2 memory, 3 circulation, 4 request. -/
def Core.queue (c : Core) (u : Nat) : List QEnt :=
  if u = 0 then c.arrayQ else if u = 1 then c.vectorQ else if u = 2 then c.memoryQ else if u = 3 then c.circQ else c.requestQ

/-- Replace a queue. -/
def Core.setQueue (c : Core) (u : Nat) (q : List QEnt) : Core :=
  if u = 0 then { c with arrayQ := q } else if u = 1 then { c with vectorQ := q } else if u = 2 then { c with memoryQ := q }
  else if u = 3 then { c with circQ := q } else { c with requestQ := q }

/-- Depth of a queue (Table 3-3). -/
def queueDepth (u : Nat) : Nat := if u = 2 then 16 else 8

/-- Scoreboard entries in use, and the most since the last read (Table 5-10). DESIGN CHOICE, log entry 98: a read that clears PEAK leaves
it 0 until the number in use next changes, whatever is in use. -/
def showSb (s : State) (i : SetId) (k : Nat) : State :=
  let n := (s.core i k).sb.length
  let s := s.setFld i .CORE_SB_STAT_INUSE k n
  s.setFld i .CORE_SB_STAT_PEAK k (max n (s.fld i .CORE_SB_STAT_PEAK k))

/-- Take a descriptor's scoreboard entries out (R130). -/
def releaseSb (s : State) (i : SetId) (k id : Nat) : State :=
  showSb (s.onCore i k fun c => { c with sb := c.sb.filter fun e => e.owner != some id }) i k

/-- Executing descriptors of a job stop and queued ones are discarded (Table 5-6 step 2). The tile in the arrays goes with
its descriptor. -/
def discardJob (s : State) (i : SetId) (k j : Nat) : State :=
  let c := s.core i k
  let gone := (List.range 5).flatMap fun u => ((c.queue u).filter fun e => e.job = j).map (·.id)
  if gone.isEmpty then s
  else
    let headGone := match c.arrayQ.head? with | some e => e.job == j | none => false
    let s := s.onCore i k fun c => (List.range 5).foldl (fun c u => c.setQueue u ((c.queue u).filter fun e => e.job != j)) c
    let s := if headGone then s.onCore i k fun c => { c with tile := none } else s
    gone.foldl (fun s id => releaseSb s i k id) s

/-- STATE of a receive endpoint in CHAN_STAT (R454): two bits per endpoint; `x` counts 64 endpoints per core. -/
def setChanStat (s : State) (i : SetId) (x v : Nat) : State :=
  let w := 2 * (x / 64) + x % 64 / 32
  s.setFld i .CHAN_STAT_STATE w (putBits (s.fld i .CHAN_STAT_STATE w) (2 * (x % 32)) 2 v)

/-- STATE of a receive endpoint (R454). -/
def chanStat (s : State) (i : SetId) (x : Nat) : Nat :=
  bits (s.fld i .CHAN_STAT_STATE (2 * (x / 64) + x % 64 / 32)) (2 * (x % 32)) 2

/-- The graft latches that a job filled are cleared (R184). -/
def clearLatches (s : State) (i : SetId) (j : Nat) : State :=
  (List.range 80).foldl (fun s k =>
    if (s.core i k).latch.any fun g => g.job = j then s.onCore i k fun c => { c with latch := c.latch.filter fun g => g.job ≠ j } else s) s

/-- Step 3 of Table 5-6: the windows that the job owns close and its outgoing credit is dropped. -/
def closeWindows (s : State) (i : SetId) (j : Nat) : State :=
  (List.range 64).foldl (fun s w =>
    let s := if s.fld i .MEM_WINw_0_JOB w = j then s.setFld i .MEM_WINw_0_OPEN w 0 else s
    if s.fld i .MEM_OWINw_1_JOB w = j then s.setFld i .MEM_OWINw_1_CREDIT w 0 else s) s

/-- A job leaves ACTIVE (5.12): STATE becomes TEARDOWN, its slots stop, and its receive endpoints close (R149, R317). Unless it ended by END,
whose issued descriptors complete first, issued descriptors are discarded, its windows close and its outgoing credit is dropped. A job whose every slot has
faulted has left ACTIVE at the first fault (R416). -/
def leaveJob (s : State) (i : SetId) (j : Nat) (exit : JobExit) : State :=
  if s.fld i .MEM_JOBj_STATE j ≠ 1 then s
  else
    let s := s.setFld i .MEM_JOBj_STATE j 2
    let s := s.onSet i fun t => { t with teardowns := SMap.put none t.teardowns j (some { exit := exit, filling := false }) }
    let s := (jobSlots s i j).foldl (fun s p => if slotState s i p.1 p.2 = 6 then s else stopSlot s i p.1 p.2) s
    let s := if exit == .byEnd then s else (List.range 80).foldl (fun s k => discardJob s i k j) s
    let s := if exit == .byEnd then s else closeWindows s i j
    let s := (fieldIndices (s.st i).regs .CHAN_RXk_c_0_VALID).foldl (fun s x =>
      if s.fld i .CHAN_RXk_c_0_JOB x = j then
        let s := s.setFld i .CHAN_RXk_c_2_OPEN x 0
        setChanStat s i x (if exit == .byEnd then 1 else 2)
      else s) s
    let s := clearLatches s i j
    s.onSet i fun t => { t with killed := t.killed ++ [(j, exit)] }

/-- A slot halts in state 6 with a code, the TAG and the descriptor's address, the report is sent, and the job ends by
containment (R75, R416). -/
def haltSlotWith (s : State) (i : SetId) (k n : Nat) (pc tag : Nat) (r : FRec) : State :=
  let x := slotIx k n
  let j := s.fld i .CORE_SLOTn_PC_JOB x
  let s := unwait s i k n
  let s := s.setFld i .CORE_SLOTn_STAT_FCODE x r.code
  let s := s.setFld i .CORE_SLOTn_STAT_TAG x tag
  let s := s.setFld i .CORE_SLOTn_PC_PC x pc
  let s := s.onSlot i k n fun t => { t with fence := none }
  let s := setSlotState s i k n 6
  leaveJob (report s i { r with job := j, tag := tag }) i j .byContainment

/-- A descriptor of a slot faults (R75). -/
def haltSlot (s : State) (i : SetId) (k n : Nat) (code : FC) (pc tag : Nat) (cause detail : Nat := 0) : State :=
  haltSlotWith s i k n pc tag { code.fr with die := coreDie i k, unit := k, sub := n, cause := cause, detail := detail }

end Sys2Proof.Machine
end

