-- ==== Sys2Proof/Machine/Sync.lean ====
section
/-! DEFINITION. Sync counters: the table of kinds, waiter queues, remote and host signals, barriers (11.1 to 11.6). -/

namespace Sys2Proof.Machine

/-- The physical counter of virtual identifier `v` of a job; none is F_SYNC_ID (R296). -/
def ctrOf (s : State) (i : SetId) (j v : Nat) : Option Nat :=
  if v < s.fld i .SYNC_JOBj_COUNT j then some (s.fld i .SYNC_JOBj_BASE j + v) else none

/-- Who signals (Table 11-10). -/
inductive Src where
  | slot (core slot : Nat)
  | remote (place : Nat)
  | host (page : Nat)
  | unit
  | tree (place : Nat)
deriving DecidableEq, Repr

/-- Table 11-10: the last signaller and its time. -/
def markSrc (s : State) (i : SetId) (p : Nat) (who : Src) : State :=
  let (c, k, n, pl) := match who with
    | .slot k n => (1, k, n, s.place i)
    | .remote pl => (2, 0, 0, pl)
    | .host t => (3, 0, 0, t)
    | .unit => (4, 0, 0, 0)
    | .tree pl => (5, 0, 0, pl)
  let s := s.setFld i .SYNC_CTRp_2_SRC p c
  let s := s.setFld i .SYNC_CTRp_2_CORE p k
  let s := s.setFld i .SYNC_CTRp_2_SLOT p n
  let s := s.setFld i .SYNC_CTRp_2_PLACE p pl
  s.setFld i .SYNC_CTRp_3_TIME p (s.time i)

/-! ## Waiters (R300) -/

/-- A completed descriptor owes its DONE increment when DONE_EN is set (R66). -/
def oweDone (s : State) (i : SetId) (k n j pc : Nat) (d : List Byte) : State :=
  if leAt d 1 1 % 2 = 1 then
    s.onSet i fun t => { t with doneDue := t.doneDue ++ [{ core := k, slot := n, job := j, vid := leAt d 2 2, pc := pc, tag := leAt d 6 2 }] }
  else s

/-- The copies of the row-binding table exchange, once per shadow written (R282). -/
def adoptRows (s : State) (i : SetId) : State :=
  s.onSet i fun t =>
    if t.su.shadowNew then { t with su := { t.su with rows := t.su.shadow, shadowNew := false, copy := 1 - t.su.copy } } else t

/-- The counter TURN_CTR of the circulation job (R200). -/
def turnCtr (s : State) (i : SetId) : Option Nat := ctrOf s i (s.fld i .CIRC_CFG_JOB) (s.fld i .CIRC_CFG_TURN_CTR)

/-- A WAIT of a slot completes: the slot resumes, and adopts the shadow step variables when the counter is its STEP_CTR
(R70); at a WAIT on TURN_CTR the copies of the row-binding table exchange (R282), and it is noted for R293. -/
def waitDone (s : State) (i : SetId) (k n p : Nat) : State :=
  let x := slotIx k n
  let j := s.fld i .CORE_SLOTn_PC_JOB x
  let s := if s.fld i .CORE_SLOTn_CFG_STEP_EN x = 1 ∧ ctrOf s i j (s.fld i .CORE_SLOTn_CFG_STEP_CTR x) = some p then
      (s.slot i k n).shadow.zipIdx.foldl (fun s v => s.setFld i .CORE_STEPVARn_v_VALUE (16 * x + v.2) v.1) s
    else s
  let s := match (s.slot i k n).cur with
    | some (pc, d) => oweDone s i k n j pc d
    | none => s
  let s := s.onSlot i k n fun t => { t with cur := none }
  let s := if turnCtr s i = some p then (adoptRows s i).onSet i fun t => { t with su := { t.su with turnWaits := x :: t.su.turnWaits } } else s
  resumeSlot (s.setFld i .CORE_SLOTn_STAT_WCTR x 0) i k n

/-- The PASID that a page's accesses carry (R353), above the 64 address bits; 0 where they carry none. -/
def pasidTag (s : State) (t : Nat) : Nat :=
  if s.pfld .HB_PAGEt_CFG_PASID_EN t = 1 then (s.pfld .HB_PAGEt_CFG_PASID t + 1) * 2 ^ 64 else 0

/-- A device write to host memory: it waits while host traffic is held (R355), and a link that is down carries none (R354).
-/
def hostWrite (s : State) (a : Nat) (d : List Byte) : State :=
  if s.pfld .HB_HOST_STAT_HELD = 1 then { s with hostHeld := s.hostHeld ++ [(a, d)] }
  else if !hostUp s then s
  else { s with hostMem := writeMem s.hostMem a d }

/-- Every IDE stream that the mode carries is secure (R355). -/
def ideSecure (s : State) : Bool :=
  s.pfld .HB_CAP_IDE_IO == 1 && (3 < s.pfld .HB_CAP_MODE || (s.pfld .HB_CAP_CACHE == 0 && s.pfld .HB_CAP_MEM == 0) || s.pfld .HB_CAP_IDE_CM == 1)

/-- HELD follows IDE_REQ and the streams; device writes and vectors that waited go out when it clears (R355). -/
def showHeld (s : State) : State :=
  let h := s.pfld .HB_HOSTCFG_IDE_REQ == 1 && s.pfld .HB_CAP_MODE != 0 && !ideSecure s
  let s := s.setPfld .HB_HOST_STAT_HELD 0 (bitOf h)
  if h then s
  else flushVectors (s.hostHeld.foldl (fun s w => hostWrite s w.1 w.2) { s with hostHeld := [] })

/-- A host wait ends (R312): the cue entry, ARM, the vector. -/
def hostWaitDone (s : State) (t w status value : Nat) : State :=
  let x := 64 * t + w
  let n := (SMap.get 0 s.cueSeq x + 1) % 2 ^ 32
  let s := { s with cueSeq := SMap.put 0 s.cueSeq x n }
  let s := hostWrite s (pasidTag s t + s.pfld .SYNC_CUE_BASE_ADDR t * 1024 + 16 * w)
    (leBytes 4 n ++ leBytes 2 status ++ leBytes 2 (s.pfld .SYNC_HWAITw_VID x) ++ leBytes 4 value ++ leBytes 4 0)
  let s := s.setPfld .SYNC_HWAITw_ARM x 0
  if s.pfld .SYNC_HWAITw_MSIX x = 1 then raisePageVector s t (s.pfld .SYNC_HWAITw_VEC x) else s

/-- Satisfy one waiter whose amount has been subtracted. -/
def satisfy (s : State) (i : SetId) (p : Nat) (w : Waiter) : State :=
  match w with
  | .slot k n _ => waitDone s i k n p
  | .host t h _ => hostWaitDone s t h 0 (s.fld i .SYNC_CTRp_1_VALUE p)

/-- The amount a waiter waits for. -/
def Waiter.amount : Waiter → Nat
  | .slot _ _ n => n
  | .host _ _ n => n

/-- Serve the queue from its head (R300). -/
def serveList (s : State) (i : SetId) (p : Nat) : List Waiter → State
  | [] => setWaiters s i p []
  | w :: q =>
    let v := s.fld i .SYNC_CTRp_1_VALUE p
    if w.amount ≤ v then serveList (satisfy (s.setFld i .SYNC_CTRp_1_VALUE p (v - w.amount)) i p w) i p q
    else setWaiters s i p (w :: q)

/-- Serve a counter's queue after a change of value. -/
def serve (s : State) (i : SetId) (p : Nat) : State := serveList s i p (SMap.get [] (s.st i).waiters p)

/-- A wait joins the queue, or is satisfied at once when the queue is empty and the value covers it (R300). -/
def enqueue (s : State) (i : SetId) (p : Nat) (w : Waiter) : State :=
  let q := SMap.get [] (s.st i).waiters p
  if q.isEmpty then serveList s i p [w] else setWaiters s i p (q ++ [w])

/-! ## Return counters (R298) -/

/-- The units of the records a release of `n` messages frees, and what stays (R316). -/
def freeRecs : Nat → List (Nat × Nat) → Nat × List (Nat × Nat)
  | 0, r => (0, r)
  | _ + 1, [] => (0, [])
  | n + 1, (p, u) :: r => let (t, q) := freeRecs n r; (p + u + t, q)

/-- SIGNAL n on FREE (R316): the oldest messages are released; more than the ring holds releases all and ends the job. -/
def chanFree (s : State) (i : SetId) (x n : Nat) : State :=
  let e := SMap.get {} (s.st i).rx x
  let have_ := e.recs.length
  let (u, q) := freeRecs (min n have_) e.recs
  let size := s.fld i .CHAN_RXk_c_1_SIZE x
  let s := s.onSet i fun t => { t with rx := SMap.put {} t.rx x { e with recs := q } }
  let s := s.setFld i .CHAN_RXk_c_2_HEAD x (if size = 0 then 0 else (s.fld i .CHAN_RXk_c_2_HEAD x + u) % size)
  let s := s.setFld i .CHAN_RXk_c_2_MSGS x q.length
  if have_ < n then
    let j := s.fld i .CHAN_RXk_c_0_JOB x
    leaveJob (report s i { FC.chanFree.fr with die := coreDie i (x / 64), unit := x / 64, job := j, detail := x % 64 }) i j .byContainment
  else s

/-- The owner of a return counter takes its whole value: a window sends a grant (R146), a receive endpoint releases
messages (R316). -/
def giveReturn (s : State) (i : SetId) (j v n : Nat) : State :=
  let s := (List.range 64).foldl (fun s w =>
    if s.fld i .MEM_WINw_0_JOB w = j ∧ s.fld i .MEM_WINw_1_RET_CTR w = v ∧ s.fld i .MEM_WINw_1_SIZE w ≠ 0 then
      s.emit .creditGrant i.val [s.fld i .MEM_WINw_1_SENDER w, w, n]
    else s) s
  (fieldIndices (s.st i).regs .CHAN_RXk_c_0_VALID).foldl (fun s x =>
    if s.fld i .CHAN_RXk_c_0_JOB x = j ∧ s.fld i .CHAN_RXk_c_1_FREE x = v then chanFree s i x n else s) s

/-! ## SIGNAL on values (Table 11-1) -/

/-- What an addition to a counter does. -/
inductive AddOut where
  | ok (s : State)
  | overflow
  | kind
deriving DecidableEq, Repr

/-- Whether the counter accepts the addition (Table 11-1): 0 yes, 1 overflow, 2 kind. Barriers are not decided here. -/
def addCheck (s : State) (i : SetId) (p n : Nat) : Nat :=
  let v := s.fld i .SYNC_CTRp_1_VALUE p
  match s.fld i .SYNC_CTRp_0_KIND p with
  | 0 => if 2 ^ 31 - 1 < v + n then 1 else 0
  | 1 => if n ≠ 1 then 2 else if v = 1 then 1 else 0
  | _ => 2

/-- Add to a counting or binary counter and serve its queue; a return counter hands its value over and is 0 (R298). -/
def addBase (s : State) (i : SetId) (p n : Nat) (who : Src) : State :=
  let s := markSrc s i p who
  let v := s.fld i .SYNC_CTRp_1_VALUE p
  if s.fld i .SYNC_CTRp_0_RETURN p = 1 then
    let j := s.fld i .SYNC_CTRp_0_JOB p
    giveReturn (s.setFld i .SYNC_CTRp_1_VALUE p 0) i j (p - s.fld i .SYNC_JOBj_BASE j) (v + n)
  else serve (s.setFld i .SYNC_CTRp_1_VALUE p (v + n)) i p

/-- One DONE increment (R66, R302): an overflow halts the descriptor's slot. -/
def payDone (s : State) (i : SetId) (e : DoneDue) : State :=
  match ctrOf s i e.job e.vid with
  | none => s
  | some p =>
    match addCheck s i p 1 with
    | 0 => addBase s i p 1 .unit
    | c => haltSlot s i e.core e.slot (if c = 1 then .syncOverflow else .syncKind) e.pc e.tag 0 e.vid

/-- DONE increments that are due, in order; each may wake a WAIT that owes one itself. -/
def drainDone (i : SetId) : Nat → State → State
  | 0, s => s
  | f + 1, s =>
    match (s.st i).doneDue with
    | [] => s
    | e :: q => drainDone i f (payDone (s.onSet i fun t => { t with doneDue := q }) i e)

/-- As many rounds as there are slots, so that every wait that can complete does. -/
def payDones (s : State) (i : SetId) : State := drainDone i 1300 s

/-- An addition with all that it wakes. -/
def addApply (s : State) (i : SetId) (p n : Nat) (who : Src) : State := payDones (addBase s i p n who) i

/-- A hardware unit, which a report names by its die and its number, signals a counter of a job by its virtual identifier (R301, R302): an
overflow, and a use that the kind does not allow, is raised against the job, which ends. -/
def unitSignal (s : State) (i : SetId) (die unit j v n : Nat) : State :=
  match ctrOf s i j v with
  | none => s
  | some p =>
    match addCheck s i p n with
    | 0 => addApply s i p n .unit
    | e =>
      let c : FC := if e = 1 then .syncOverflow else .syncKind
      leaveJob (report s i { c.fr with die := die, unit := unit, job := j, detail := v }) i j .byContainment

/-! ## Barriers (11.5) -/

/-- The barrier node of a counter (Table 11-12). -/
def nodeOf (s : State) (i : SetId) (p : Nat) : Option Nat :=
  (fieldIndices (s.st i).regs .SYNC_BNODEi_0_VALID).find? fun x => s.fld i .SYNC_BNODEi_0_CTR x = p

/-- A node is released (R308): arrivals 0, reports cleared, generation up, waiters satisfied, RELEASE to the children that
reported. -/
def releaseNode (s : State) (i : SetId) (x p : Nat) : State :=
  let kids := SMap.get [] (s.st i).children x
  let s := s.setFld i .SYNC_CTRp_1_VALUE p 0
  let s := s.onSet i fun t => { t with children := SMap.put [] t.children x [] }
  let s := s.setFld i .SYNC_BNODEi_1_REPORTED x 0
  let s := s.addFld i .SYNC_CTRp_1_GEN p 1
  let q := SMap.get [] (s.st i).waiters p
  let s := setWaiters s i p []
  let s := q.foldl (fun s w => match w with
    | .slot k n _ => waitDone (s.onSlot i k n fun t => { t with arrival := none }) i k n p
    | .host .. => s) s
  kids.foldl (fun s c => s.emit .barrierRelease i.val [c.1, c.2]) s

/-- A node that may have become complete reports to its parent, or the root releases (R308). -/
def nodeCheck (s : State) (i : SetId) (x p : Nat) : State :=
  if s.fld i .SYNC_CTRp_1_VALUE p = s.fld i .SYNC_BNODEi_0_LOCAL x ∧
      s.fld i .SYNC_BNODEi_1_REPORTED x = s.fld i .SYNC_BNODEi_0_CHILDREN x then
    if s.fld i .SYNC_BNODEi_0_ROOT x = 1 then releaseNode s i x p
    else s.emit .barrierArrive i.val [s.fld i .SYNC_BNODEi_0_PARENT x, s.fld i .SYNC_BNODEi_1_PCTR x, s.place i, p]
  else s

/-- A slot that waits on a counter whose owner is lost halts, with its WAIT as the faulting descriptor (R75, R306, R310). -/
def haltWait (s : State) (i : SetId) (k n p : Nat) : State :=
  let y := slotIx k n
  let (pc, tag) := match (s.slot i k n).cur with
    | some (pc, d) => (pc, leAt d 6 2)
    | none => (s.fld i .CORE_SLOTn_PC_PC y, s.fld i .CORE_SLOTn_STAT_TAG y)
  haltSlot s i k n .syncOwnerLost pc tag 0 p

/-- The neighbours of a node: its parent, the children that have reported, and those of its CHILDREN that have not, whose places no register
of the set names and which are addressed by their number behind the last place (log entry 99). -/
def neighbours (s : State) (i : SetId) (x : Nat) : List (Nat × Nat) :=
  let up := if s.fld i .SYNC_BNODEi_0_ROOT x = 1 then [] else [(s.fld i .SYNC_BNODEi_0_PARENT x, s.fld i .SYNC_BNODEi_1_PCTR x)]
  let kids := SMap.get [] (s.st i).known x
  up ++ kids ++ (List.range (s.fld i .SYNC_BNODEi_0_CHILDREN x - kids.length)).map fun n => (2 ^ 18, n)

/-- A node breaks (R310): BROKEN, waiting slots halt, BROKEN to every neighbour but the one it came from. -/
def breakNode (s : State) (i : SetId) (x p : Nat) (origin : Option (Nat × Nat)) : State :=
  if s.fld i .SYNC_CTRp_1_BROKEN p = 1 then s
  else
    let s := s.setFld i .SYNC_CTRp_1_BROKEN p 1
    let q := SMap.get [] (s.st i).waiters p
    let s := setWaiters s i p []
    let s := q.foldl (fun s w => match w with
      | .slot k n _ => haltWait s i k n p
      | .host .. => s) s
    (neighbours s i x).foldl (fun s c =>
      if some c = origin then s else s.emit .barrierBroken i.val [c.1, c.2, s.place i, p]) s

/-! ## Clearing (R306) -/

/-- The counters of a job: its mapped range (R296). -/
def jobCtrs (s : State) (i : SetId) (j : Nat) : List Nat :=
  (List.range (s.fld i .SYNC_JOBj_COUNT j)).map fun v => s.fld i .SYNC_JOBj_BASE j + v

/-- The slot records of a barrier counter are reset (R306): no slot has arrived at it. -/
def clearArrivals (s : State) (i : SetId) (p : Nat) : State :=
  s.onSet i fun t => { t with cores := t.cores.map fun c => (c.1, { c.2 with slots := c.2.slots.map fun e =>
    (e.1, if (match e.2.arrival with | some a => a.1 == p | none => false) then { e.2 with arrival := none } else e.2) }) }

/-- Teardown step 5 (R306): counters to 0, waiters woken, barriers broken. -/
def clearCtrs (s : State) (i : SetId) (j : Nat) : State :=
  (jobCtrs s i j).foldl (fun s p =>
    let s := if s.fld i .SYNC_CTRp_0_KIND p = 2 then
        match nodeOf s i p with
        | some x => breakNode s i x p none
        | none => s
      else s
    let q := SMap.get [] (s.st i).waiters p
    let s := if q.isEmpty then s else setWaiters s i p []
    let s := q.foldl (fun s w => match w with
      | .slot k n _ => haltWait s i k n p
      | .host t h _ => hostWaitDone s t h FC.syncOwnerLost.num 0) s
    let s := s.setFld i .SYNC_CTRp_1_VALUE p 0
    if s.fld i .SYNC_CTRp_0_KIND p = 2 then
      let s := clearArrivals (s.setFld i .SYNC_CTRp_1_GEN p 0) i p
      match nodeOf s i p with
      | some x => (s.onSet i fun t => { t with children := SMap.put [] t.children x [] }).setFld i .SYNC_BNODEi_1_REPORTED x 0
      | none => s
    else s) s

/-- START and a refold restart (R306): each counter takes INIT, and the reports of its barrier node go. -/
def initCtrs (s : State) (i : SetId) (j : Nat) : State :=
  (jobCtrs s i j).foldl (fun s p =>
    let s := s.setFld i .SYNC_CTRp_1_VALUE p (s.fld i .SYNC_CTRp_0_INIT p)
    match nodeOf s i p with
    | some x => (s.onSet i fun t => { t with children := SMap.put [] t.children x [] }).setFld i .SYNC_BNODEi_1_REPORTED x 0
    | none => s) s

/-- START makes the job's barriers whole again (R310). -/
def mendCtrs (s : State) (i : SetId) (j : Nat) : State :=
  (jobCtrs s i j).foldl (fun s p => s.setFld i .SYNC_CTRp_1_BROKEN p 0) s

/-! ## Commands of 11.3, 11.5 and 11.6 -/

/-- REMOTE_SIGNAL (R304): accepted and applied, or refused with a cause: 1 not valid, 2 sender, 3 job, 4 kind,
5 overflow. -/
def execRemoteSignal (i : SetId) (sender : Nat) (exp : Fin 4096) (n : Nat) (s : State) : Out :=
  let e := exp.val
  let p := s.fld i .SYNC_EXPe_CTR e
  let j := s.fld i .SYNC_CTRp_0_JOB p
  let cause :=
    if s.fld i .SYNC_EXPe_VALID e ≠ 1 then 1
    else if s.fld i .SYNC_EXPe_ANY e ≠ 1 ∧ s.fld i .SYNC_EXPe_SENDER e ≠ sender then 2
    else if s.fld i .MEM_JOBj_STATE j ≠ 1 then 3
    else if 2 ≤ s.fld i .SYNC_CTRp_0_KIND p ∨ addCheck s i p n = 2 then 4
    else if addCheck s i p n = 1 then 5
    else 0
  let s := s.emit .remoteReply i.val [sender, cause]
  .next (if cause = 0 then addApply s i p n (.remote sender) else s)

/-- The oldest remote SIGNAL of a slot has its reply; one refused, or without a route, halts the slot (R305). -/
def remoteReply (s : State) (i : SetId) (k n cause : Nat) : State :=
  match (s.slot i k n).remote with
  | [] => s
  | r :: q =>
    let s := s.onSlot i k n fun t => { t with remote := q }
    if cause = 0 ∨ slotState s i k n = 6 ∨ slotState s i k n = 0 then s
    else haltSlot s i k n .syncRemote r.pc r.tag cause r.exp

/-- BARRIER_ARRIVE (R308): a child reports to its parent's node. -/
def execBarrierArrive (i : SetId) (ctr place cctr : Nat) (s : State) : Out :=
  match nodeOf s i ctr with
  | none => .next s
  | some x =>
    if s.fld i .SYNC_CTRp_1_BROKEN ctr = 1 then .next (s.emit .barrierBroken i.val [place, cctr, s.place i, ctr])
    else
      let kids := SMap.get [] (s.st i).children x
      if kids.contains (place, cctr) then .next s
      else
        let s := s.onSet i fun t => { t with
          children := SMap.put [] t.children x (kids ++ [(place, cctr)])
          known := SMap.upd [] t.known x fun l => if l.contains (place, cctr) then l else l ++ [(place, cctr)] }
        let s := s.setFld i .SYNC_BNODEi_1_REPORTED x (kids.length + 1)
        .next (payDones (nodeCheck (markSrc s i ctr (.tree place)) i x ctr) i)

/-- BARRIER_RELEASE (R308): the parent's release reaches a node. -/
def execBarrierRelease (i : SetId) (ctr : Nat) (s : State) : Out :=
  match nodeOf s i ctr with
  | none => .next s
  | some x => if s.fld i .SYNC_CTRp_1_BROKEN ctr = 1 then .next s else .next (payDones (releaseNode s i x ctr) i)

/-- BARRIER_BROKEN (R310): a neighbour is broken. -/
def execBarrierBroken (i : SetId) (ctr place fromCtr : Nat) (s : State) : Out :=
  match nodeOf s i ctr with
  | none => .next s
  | some x => .next (breakNode s i x ctr (some (place, fromCtr)))

/-- The set a page is bound to, and its job. -/
def pageSet (s : State) (t : Nat) : SetId := if s.pfld .HB_PAGEt_CFG_SET t = 0 then 0 else 1

/-- Why a host signal or arm is refused (Table 11-15): 1 unmapped, 2 not HOST_OK, 3 kind, 4 overflow, 5 job not ACTIVE,
6 N 0. `add` asks for the overflow check of a signal. -/
def hostRefuse (s : State) (t v n : Nat) (add : Bool) : Nat :=
  let i := pageSet s t
  let j := s.pfld .HB_PAGEt_CFG_JOB t
  if n = 0 then 6
  else match ctrOf s i j v with
    | none => 1
    | some p =>
      if s.fld i .MEM_JOBj_STATE j ≠ 1 then 5
      else if s.fld i .SYNC_CTRp_0_HOST_OK p ≠ 1 then 2
      else if 2 ≤ s.fld i .SYNC_CTRp_0_KIND p ∨ (s.fld i .SYNC_CTRp_0_KIND p = 1 ∧ n ≠ 1) then 3
      else if s.fld i .SYNC_CTRp_0_RETURN p = 1 then 3
      else if add ∧ addCheck s i p n = 1 then 4
      else 0

/-- HERR and its cause. -/
def hostErr (s : State) (t cause : Nat) : State :=
  (s.setPfld .SYNC_HSTAT_HERR t 1).setPfld .SYNC_HSTAT_HCAUSE t cause

/-- A host signal (R311). -/
def hostSignal (s : State) (t v n : Nat) : State :=
  let i := pageSet s t
  let j := s.pfld .HB_PAGEt_CFG_JOB t
  match hostRefuse s t v n true, ctrOf s i j v with
  | 0, some p => addApply s i p n (.host t)
  | c, _ =>
    let s := hostErr s t c
    if c = 4 then report s i { FC.syncOverflow.fr with sev := 0, action := 0, die := 18, job := j, detail := t } else s

/-- A page's wait w leaves its queue, without a cue entry (R312). -/
def dropHostWait (s : State) (t w : Nat) : State :=
  let i := pageSet s t
  (s.st i).waiters.foldl (fun s e =>
    let q := e.2.filter fun x => match x with | .host a b _ => !(a == t && b == w) | _ => true
    if q.length = e.2.length then s else setWaiters s i e.1 q) s

/-- A host wait is armed (R312); the new wait replaces an armed one. -/
def hostArm (s : State) (t w v n : Nat) (msix : Bool) (vec : Nat) : State :=
  let i := pageSet s t
  let x := 64 * t + w
  let s := dropHostWait s t w
  let s := s.setPfld .SYNC_HWAITw_VID x v
  let s := s.setPfld .SYNC_HWAITw_N x n
  let s := s.setPfld .SYNC_HWAITw_MSIX x (bitOf msix)
  let s := s.setPfld .SYNC_HWAITw_VEC x vec
  match hostRefuse s t v n false, ctrOf s i (s.pfld .HB_PAGEt_CFG_JOB t) v with
  | 0, some p => enqueue (s.setPfld .SYNC_HWAITw_ARM x 1) i p (.host t w n)
  | c, _ => hostErr (s.setPfld .SYNC_HWAITw_ARM x 0) t c

/-- A page's registers act while it is bound and its set is not lost (R363). -/
def pageLive (s : State) (t : Nat) : Bool :=
  s.pfld .HB_PAGEt_CFG_BOUND t = 1 && s.pfld .HB_PAGE_ID_LOST t = 0

/-- HOST_SIGNAL (R311): a write to SYNC_HSIG. -/
def execHostSignal (page : PageId) (vid n : Nat) (s : State) : Out :=
  .next (if pageLive s page.val then hostSignal s page.val (vid % 4096) (n % 2 ^ 31) else s)

/-- HOST_WAIT_ARM (R312): a write of SYNC_HWAITw with ARM set. -/
def execHostWaitArm (page : PageId) (w : Fin 64) (vid n : Nat) (msix : Bool) (vec : Nat) (s : State) : Out :=
  .next (if pageLive s page.val then hostArm s page.val w.val (vid % 4096) (n % 2 ^ 31) msix (vec % 2048) else s)

end Sys2Proof.Machine
end

