-- ==== Sys2Proof/Machine/Idle.lean ====
section
/-! DEFINITION. Arrays at work, marking and idle (3.7, R87) and the ramp limiter of each compute die (R48). An array of a
set is numbered 2 × core + array. -/

namespace Sys2Proof.Machine

/-- The arrays of a core that work: enabled (R4, Table 3-21) and in the map that the card was planned for; the others stay idle (R6). -/
def coreArrays (s : State) (i : SetId) (k : Nat) : List Nat :=
  (List.range 2).filter fun p => bit (s.fld i .CORE_CAP_ARRAYS k) p && !s.mg.spare.contains (160 * i.val + 2 * k + p)

/-- The compute die of a core: 0 even-numbered, 1 odd-numbered (R1). -/
def dieOf (k : Nat) : Nat := if k < 40 then 0 else 1

/-- Arrays of a die that wait to leave idle, in order (R48). -/
def leaveQueue (s : State) (i : SetId) (d : Nat) : List Nat := SMap.get [] (s.st i).leaveQ d

/-- Arrays of a die that are due to enter idle, in order (R48). -/
def enterQueue (s : State) (i : SetId) (d : Nat) : List Nat := SMap.get [] (s.st i).enterQ d

/-- Replace the queue of arrays that wait to leave idle. -/
def setLeave (s : State) (i : SetId) (d : Nat) (q : List Nat) : State :=
  s.onSet i fun t => { t with leaveQ := SMap.put [] t.leaveQ d q }

/-- Replace the queue of arrays due to enter idle. -/
def setEnter (s : State) (i : SetId) (d : Nat) (q : List Nat) : State :=
  s.onSet i fun t => { t with enterQ := SMap.put [] t.enterQ d q }

/-- Array work reaches a core's queue (R87): a marking array goes on without a hold, an idle one waits for admission. -/
def arraysWake (s : State) (i : SetId) (k : Nat) : State :=
  let d := dieOf k
  (coreArrays s i k).foldl (fun s p =>
    let x := 2 * k + p
    let s := setEnter s i d ((enterQueue s i d).filter (· != x))
    let s := s.setFld i .ARR_STATp_MARKING x 0
    if s.fld i .ARR_STATp_IDLE x = 1 ∧ !(leaveQueue s i d).contains x then setLeave s i d (leaveQueue s i d ++ [x]) else s) s

/-- An array's request to enter idle reaches the limiter (R48): it marks until its group is released. One that still waits
to leave idle stays idle. -/
def arraysToIdle (s : State) (i : SetId) (k : Nat) : State :=
  let d := dieOf k
  (coreArrays s i k).foldl (fun s p =>
    let x := 2 * k + p
    let s := setLeave s i d ((leaveQueue s i d).filter (· != x))
    if s.fld i .ARR_STATp_IDLE x = 1 ∨ (enterQueue s i d).contains x then s
    else setEnter (s.setFld i .ARR_STATp_MARKING x 1) i d (enterQueue s i d ++ [x])) s

/-- The array queue of a core has become empty (R47, R87). -/
def arraysEmpty (s : State) (i : SetId) (k : Nat) : State :=
  if s.pfld .PD_CLASS_T_MARK < (s.core i k).gap then arraysToIdle s i k
  else (coreArrays s i k).foldl (fun s p =>
    if s.fld i .ARR_STATp_IDLE (2 * k + p) = 1 then s else s.setFld i .ARR_STATp_MARKING (2 * k + p) 1) s

/-- The arrays of a core may step: no enabled array is idle (R48). -/
def arraysAwake (s : State) (i : SetId) (k : Nat) : Bool :=
  (coreArrays s i k).all fun p => s.fld i .ARR_STATp_IDLE (2 * k + p) = 0

/-- RAMP_ADMIT (R48): the first four arrays of a die's leaving-idle queue are admitted. -/
def execRampAdmit (i : SetId) (d : CDie) (s : State) : Out :=
  let q := leaveQueue s i d.val
  .next ((q.take 4).foldl (fun s x => s.setFld i .ARR_STATp_IDLE x 0) (setLeave s i d.val (q.drop 4)))

/-- RAMP_RELEASE (R48): the first four arrays of a die's entering-idle queue go idle. -/
def execRampRelease (i : SetId) (d : CDie) (s : State) : Out :=
  let q := enterQueue s i d.val
  .next ((q.take 4).foldl (fun s x => (s.setFld i .ARR_STATp_MARKING x 0).setFld i .ARR_STATp_IDLE x 1)
    (setEnter s i d.val (q.drop 4)))

/-- MARK_TIMEOUT (R87): the arrays of a core have marked an empty queue for T_MARK. -/
def execMarkTimeout (i : SetId) (k : CoreId) (s : State) : Out :=
  .next (if (s.core i k.val).arrayQ.isEmpty then arraysToIdle s i k.val else s)

end Sys2Proof.Machine
end

