-- ==== Sys2Proof/Machine/Rings.lean ====
section
/-! DEFINITION. Completion rings and records (10.2, 10.3), and the sessions a slot table holds. -/

namespace Sys2Proof.Machine

/-- A session slot of a set. -/
def sessOf (s : State) (i : SetId) (n : Nat) : Sess := SMap.get {} (s.st i).su.sess n

/-- Change the session unit. -/
def onSu (s : State) (i : SetId) (f : SessUnit → SessUnit) : State := s.onSet i fun t => { t with su := f t.su }

/-- Change a session slot. -/
def onSess (s : State) (i : SetId) (n : Nat) (f : Sess → Sess) : State :=
  onSu s i fun u => { u with sess := SMap.upd {} u.sess n f }

/-- This set's place. -/
def myPlace (s : State) (i : SetId) : Nat := s.fld i .CIRC_CFG_PLACE

/-- Places of the circle. -/
def places (s : State) (i : SetId) : Nat := s.fld i .CIRC_CFG_N

/-- The page of a session at a place of a promenade circle other than 0, which holds no rings (R291): none. -/
def noPage : Nat := 4096

/-- The job of a session: its page's, or without a page the circulation job. -/
def sessJob (s : State) (i : SetId) (n : Nat) : Nat :=
  let t := (sessOf s i n).page
  if t = noPage then s.fld i .CIRC_CFG_JOB else s.pfld .HB_PAGEt_CFG_JOB t

/-- Slots of a set that are not FREE, in slot order. -/
def sessSlots (s : State) (i : SetId) : List Nat := (s.st i).su.sess.filterMap fun e => if e.2.ph == .free then none else some e.1

/-- Entries of a page's completion ring. -/
def cqSize (s : State) (t : Nat) : Nat := 2 ^ s.pfld .SESS_RING_CQ_LOG2 t

/-- Entries of a page's submission ring. -/
def sqSize (s : State) (t : Nat) : Nat := 2 ^ s.pfld .SESS_RING_SQ_LOG2 t

/-- Records that the host has not yet released. -/
def cqUsed (s : State) (t : Nat) : Nat :=
  (s.pfld .SESS_CQ_PTR_TAIL t + cqSize s t - s.pfld .SESS_CQ_PTR_HEAD t % cqSize s t) % cqSize s t

/-- Room of a page's CQ that is neither used nor reserved (R274, R280): TAIL never reaches HEAD from behind. -/
def cqRoom (s : State) (t : Nat) : Nat := cqSize s t - 1 - cqUsed s t - SMap.get 0 s.cqResv t

/-- Reserve CQ room (R274, R280). -/
def cqHold (s : State) (t n : Nat) : State := { s with cqResv := SMap.upd 0 s.cqResv t (· + n) }

/-- Give reserved CQ room back. -/
def cqFree (s : State) (t n : Nat) : State := { s with cqResv := SMap.upd 0 s.cqResv t (· - n) }

/-- The PHASE bit of a page's next record: 1 on the first pass through the ring (R274). -/
def cqPhaseOf (s : State) (t : Nat) : Nat := SMap.get 1 s.cqPhase t

/-- Write a record at CQ_TAIL (R274, R352): PHASE is put in, TAIL advances, PHASE inverts on a wrap. -/
def writeRec (s : State) (i : SetId) (t : Nat) (r : List Byte) : State :=
  let tail := s.pfld .SESS_CQ_PTR_TAIL t
  let kind := putBits (leAt r 4 1) 7 1 (cqPhaseOf s t)
  let r := r.take 4 ++ leBytes 1 kind ++ slice r 5 59
  let s := hostWrite s (pasidTag s t + s.pfld .SESS_CQ_BASE_ADDR t * 64 + 64 * tail) r
  let next := (tail + 1) % cqSize s t
  let s := s.setPfld .SESS_CQ_PTR_TAIL t next
  let s := if next = 0 then { s with cqPhase := SMap.upd 1 s.cqPhase t (1 - ·) } else s
  onSu s i fun u => { u with posted := if u.posted.contains t then u.posted else u.posted ++ [t] }

/-- Post a record. A disabled page takes none (R275); one that finds no room waits for it, behind those that wait. -/
def postRec (s : State) (i : SetId) (t : Nat) (r : List Byte) : State :=
  if s.pfld .SESS_RING_ENABLE t ≠ 1 then s
  else if (s.st i).su.recDue.any (fun e => e.1 = t) ∨ cqSize s t ≤ cqUsed s t + 1 then
    onSu s i fun u => { u with recDue := u.recDue ++ [(t, r)] }
  else writeRec s i t r

/-- Records of a page that waited for room and have it now. -/
def postDue (s : State) (i : SetId) (t : Nat) : State :=
  let l := (s.st i).su.recDue
  (l.filter fun e => e.1 = t).foldl (fun s e => postRec s i t e.2) (onSu s i fun u => { u with recDue := l.filter fun e => e.1 ≠ t })

/-- CQ_VEC once for every page that records were posted to (R365). -/
def raiseCq (s : State) (i : SetId) : State :=
  let s' := (s.st i).su.posted.foldl (fun s t =>
    if s.pfld .HB_PAGE_IRQ_CQ_EN t = 1 then raisePageVector s t (s.pfld .HB_PAGE_IRQ_CQ_VEC t) else s) s
  onSu s' i fun u => { u with posted := [] }

/-- An EVENT record (Table 10-4). -/
def eventRec (sid status event slot stack len : Nat) : List Byte :=
  leBytes 4 sid ++ leBytes 1 3 ++ leBytes 1 0 ++ leBytes 2 status ++ leBytes 1 event ++ leBytes 1 0 ++ leBytes 2 slot ++
    leBytes 1 stack ++ leBytes 3 0 ++ leBytes 4 len ++ leBytes 4 0 ++ List.replicate 40 0

/-- An EVENT record of no session slot: SLOT, STACK and LEN are free values (log entry 5). -/
def freeEvent (s : State) (sid status event : Nat) : List Byte × State :=
  let v := s.free 56
  (eventRec sid status event (v % 2 ^ 16) (v / 2 ^ 16 % 256) (v / 2 ^ 24), s.spend)

/-- A page's slots that are not FREE (Table 10-13). -/
def showOpen (s : State) (i : SetId) (t : Nat) : State :=
  s.setPfld .SESS_PAGE_STAT_OPEN t ((sessSlots s i).filter fun n => (sessOf s i n).page = t).length

/-- Pages bound to a set. -/
def pagesOf (s : State) (i : SetId) : List Nat :=
  (fieldIndices s.regs .HB_PAGEt_CFG_BOUND).filter fun t => s.pfld .HB_PAGEt_CFG_SET t = i.val

/-- OPEN of every page of the set. -/
def showOpens (s : State) (i : SetId) : State := (pagesOf s i).foldl (fun s t => showOpen s i t) s

/-! ## Shadow step variables and row bindings (R70, R282, R293) -/

/-- A row-binding entry in memory (Table 10-5). -/
def RowEnt.bytes (r : RowEnt) : List Byte :=
  leBytes 4 r.pos ++ leBytes 2 r.slot ++ leBytes 1 r.kind ++ leBytes 1 r.stack ++ leBytes 4 r.token ++ leBytes 4 0

/-- An unbound row. -/
def unboundRow : RowEnt := { pos := 0, slot := 0xFFFF, kind := 0, stack := 0, token := 0 }

/-- The row-binding entry that 16 bytes hold. -/
def rowEnt (d : List Byte) : RowEnt :=
  { pos := leAt d 0 4, slot := leAt d 4 2, kind := leAt d 6 1, stack := leAt d 7 1, token := leAt d 8 4 }

/-- The set writes the shadow step variables of its slots and the shadow rows, in the copy of the row-binding table that is
not in force (R282); rows behind the given ones are unbound. -/
def writeShadow (s : State) (i : SetId) (vars : List Nat) (rows : List RowEnt) : State :=
  let s := (List.range 80).foldl (fun s k => (List.range 8).foldl (fun s n =>
    if s.fld i .CORE_SLOTn_CFG_STEP_EN (slotIx k n) = 1 then s.onSlot i k n fun t => { t with shadow := vars } else s) s) s
  let base := s.fld i .SESS_BASE_0_ROWBIND + 0x4000 * (1 - (s.st i).su.copy)
  let s := store s i base ((rows ++ List.replicate (1024 - rows.length) unboundRow).flatMap RowEnt.bytes)
  onSu s i fun u => { u with shadow := rows, shadowNew := true }

/-- TURN_CTR is signalled by 1 (R200, R293). -/
def turnSignal (s : State) (i : SetId) : State :=
  unitSignal s i (linkDie i) 0 (s.fld i .CIRC_CFG_JOB) (s.fld i .CIRC_CFG_TURN_CTR) 1

/-- The slots of the circulation job that run the step: those whose STEP_CTR is TURN_CTR (R200). -/
def turnSlots (s : State) (i : SetId) : List Nat :=
  let j := s.fld i .CIRC_CFG_JOB
  ((List.range 80).flatMap fun k => (List.range 8).map fun n => (k, n)).filterMap fun p =>
    let x := slotIx p.1 p.2
    let st := slotState s i p.1 p.2
    if s.fld i .CORE_SLOTn_PC_JOB x = j ∧ st ≠ 0 ∧ st ≠ 6 ∧ s.fld i .CORE_SLOTn_CFG_STEP_EN x = 1 ∧
        s.fld i .CORE_SLOTn_CFG_STEP_CTR x = s.fld i .CIRC_CFG_TURN_CTR then some x else none

/-- The set is lost for its pages (R279, R363): the EVENT 6 record, then LOST. -/
def pageLost (s : State) (i : SetId) (t : Nat) : State :=
  let (r, s) := freeEvent s 0xFFFF_FFFF FC.setLost.num 6
  let s := { s with cqResv := SMap.put 0 s.cqResv t 0 }
  (postRec s i t r).setPfld .HB_PAGE_ID_LOST t 1

end Sys2Proof.Machine
end

