-- ==== Sys2Proof/Machine/Loss.lean ====
section
/-! DEFINITION. Discarding a step, pruning a unit, losing a set or the package (15.2, 15.4, 15.5). -/

namespace Sys2Proof.Machine

/-- A step discard (R414): no commit and no record of this step. In promenade the pass is marked (`stepBad` reaches the
pass when it leaves the place). -/
def discardStep (s : State) (i : SetId) : State := s.onSet i fun t => { t with stepBad := true }

/-- The numbers of slots. -/
def allSlots : List (Nat × Nat) := (List.range 80).flatMap fun k => (List.range 8).map fun n => (k, n)

/-- Every queue, tile and scoreboard entry of a core is dropped. -/
def dropQueues (s : State) (i : SetId) (k : Nat) : State :=
  let c := s.core i k
  if c.arrayQ.isEmpty ∧ c.vectorQ.isEmpty ∧ c.memoryQ.isEmpty ∧ c.circQ.isEmpty ∧ c.requestQ.isEmpty ∧ c.sb.isEmpty then s
  else showSb (s.onCore i k fun c => { c with
    gapDue := false, failed := false, arrayQ := [], vectorQ := [], memoryQ := [], circQ := [], requestQ := [], sb := c.sb.filter (fun e => e.owner == none), tile := none }) i k

/-- The share of the host port that set `i` has in force, in percent: the card's, and a fenced sibling's once it has passed (R17). -/
def hostShare (s : State) (i : SetId) : Nat :=
  s.pfld (if i = 0 then .HB_HOSTCFG_SHARE0 else .HB_HOSTCFG_SHARE1) + (s.st i).shareGain

/-- A port in state ACTIVE (Table 12-7). -/
def portActive (s : State) (i : SetId) (p : Nat) : Bool := s.fld i .LINK_PORTp_STAT_0_STATE p = 7

/-- The physical port that serves a logical port (R339). -/
def physPort (s : State) (i : SetId) (l : Nat) : Nat :=
  ((List.range 5).find? fun p => s.fld i .LINK_PORTp_STAT_0_LPORT p == l).getD l

/-- The directions (0 widdershins, 1 sunwise) in which the Pot link is the circle link (R19, R22): the siblings hold adjacent places of
one circle, on both sides of each other when the circle has two places. -/
def potDirs (s : State) (i : SetId) : List Nat :=
  let o : SetId := if i = 0 then 1 else 0
  let n := s.fld i .CIRC_CFG_N
  let p := s.fld i .CIRC_CFG_PLACE
  let q := s.fld o .CIRC_CFG_PLACE
  if n < 2 ∨ s.fld o .CIRC_CFG_N ≠ n ∨ s.fld i .CIRC_CFG_CIRCLE ≠ s.fld o .CIRC_CFG_CIRCLE ∨ s.fld i .LINK_PORTp_CFG_0_PLANNED 4 = 0 then []
  else (if p = (q + 1) % n then [0] else []) ++ if q = (p + 1) % n then [1] else []

/-- What a logical port leads to: a direction of the circle (0, 1; the first of the two that a Pot link serves in a circle of two), or
itself. -/
def dirOf (s : State) (i : SetId) (l : Nat) : Nat := if l = 4 then (potDirs s i).headD 4 else l

/-- The directions of the circle that a logical port serves. -/
def circDirs (s : State) (i : SetId) (l : Nat) : List Nat := if l = 4 then potDirs s i else if l < 2 then [l] else []

/-- The logical port that serves a direction of the circle, or itself. -/
def wayPort (s : State) (i : SetId) (l : Nat) : Nat := if (potDirs s i).contains l then 4 else l

/-- The link die, while powered, sends DOWN on every port whose transmitters are on (R335, R430). -/
def sendDown (s : State) (i : SetId) : State :=
  if s.pfld .PD_TEMPOn_VSET (linkDie i) = 0 then s
  else (List.range 5).foldl (fun s p => if s.fld i .LINK_PORTp_STAT_0_STATE p = 0 then s else s.emit .linkDown i.val [p]) s

/-- Change the power manager's own state. -/
def onPm (s : State) (f : PowerMgr → PowerMgr) : State := { s with pm := f s.pm }

/-- The set of a logic die (Table 2-12). -/
def dieSet (n : Nat) : SetId :=
  if n < 4 then (if n < 2 then 0 else 1) else if n < 16 then (if n < 10 then 0 else 1) else if n = 16 then 0 else 1

/-- V_class (R44, Table 2-1), mV; 780 in the preload state (R42). -/
def vClass (s : State) : Nat :=
  if s.pfld .PD_CLASS_ACCEPTED = 1 ∧ s.pfld .PD_CLASS_CLASS = 0 then 620 else 780

/-- A rail takes a setpoint between two voltages: which one is a free value (R44, R53; log entry 5). -/
def freeRail (s : State) (n lo hi : Nat) : State :=
  (s.setPfld .PD_TEMPOn_VSET n (lo + s.free 10 % (hi - lo + 1))).spend

/-! ## Lending (R49 to R51) -/

/-- A borrower's rail rises toward V_class, by a free amount; none rises above V_f while a die still stands below it (R45, R49). -/
def riseRail (s : State) (n : Nat) : State :=
  let v := s.pfld .PD_TEMPOn_VSET n
  if v = 0 ∨ !s.pm.envLow.isEmpty ∨ v < s.pfld .PD_TEMPOn_VF n ∨ vClass s ≤ v then s else freeRail s n v (vClass s)

/-- The power manager may add a share to the allocation of one of some dies: which, or none, is a free value (log entry 92). -/
def lendShare (s : State) (who watts : Nat) (dies : List Nat) : State :=
  let j := s.free 8 % (dies.length + 1)
  match dies[j]? with
  | some n => riseRail (onPm s.spend fun p => { p with loans := p.loans ++ [{ who := who, die := n, watts := watts }] }) n
  | none => s.spend

/-- Shares are revoked and the rails of those who had them lowered, by a free amount, not below V_f (R50). -/
def revokeLoans (s : State) (gone : Loan → Bool) : State :=
  let l := s.pm.loans.filter gone
  let s := onPm s fun p => { p with loans := p.loans.filter fun x => !gone x }
  (l.map (·.die)).eraseDups.foldl (fun s n =>
    let v := s.pfld .PD_TEMPOn_VSET n
    if v ≤ s.pfld .PD_TEMPOn_VF n then s else freeRail s n (s.pfld .PD_TEMPOn_VF n) v) s

/-- Compute and base dies of a set. -/
def diesOf (i : SetId) : List Nat := (List.range 16).filter fun n => dieSet n = i

/-- The allocations of a lost set are withdrawn; with LEND 0b11 they may go to the surviving set (R51). -/
def withdraw (s : State) (i : SetId) : State :=
  let o : SetId := if i = 0 then 1 else 0
  let w := ((diesOf i).map fun n => SMap.get 0 s.pm.alloc n).foldl (· + ·) 0
  let s := revokeLoans s fun x => dieSet x.die = i || x.who / 80 = i.val || x.who = 160 + o.val
  let s := onPm s fun p => { p with alloc := SMap.keep (fun n => dieSet n != i) p.alloc }
  if s.pfld .PD_CLASS_LEND = 3 ∧ !(s.st o).lost ∧ w ≠ 0 then lendShare s (160 + i.val) w (diesOf o) else s

/-- The set leaves service (R430): its allocations are withdrawn, its jobs stop, its receive endpoints are reset (R317), DOWN goes out, its
sessions end with F_SET_LOST, its pages post EVENT 6 and read LOST, vector 2 is raised (R364), a sprint ends by a fault of this severity
where the caller reports it (R53). -/
def loseSet (s : State) (i : SetId) : State :=
  if (s.st i).lost then s
  else
    let s := withdraw (s.onSet i fun t => { t with lost := true }) i
    let s := allSlots.foldl (fun s p => if slotState s i p.1 p.2 = 0 then s else stopSlot s i p.1 p.2) s
    let s := (List.range 80).foldl (fun s k => dropQueues s i k) s
    let s := (fieldIndices (s.st i).regs .CHAN_RXk_c_0_VALID).foldl (fun s x => setChanStat (s.setFld i .CHAN_RXk_c_2_OPEN x 0) i x 2) s
    let s := sendDown s i
    let s := onSu s i fun u => { lastPage := u.lastPage, step := u.step, copy := u.copy }
    let s := (pagesOf s i).foldl (fun s t => pageLost s i t) s
    raiseVector s 2

/-- Compute-die and base-die rails that stand outside the range of R44 and are not held below V_f return into it. -/
def normalRails (s : State) : State :=
  (List.range 16).foldl (fun s n =>
    let v := s.pfld .PD_TEMPOn_VSET n
    let vf := s.pfld .PD_TEMPOn_VF n
    if v = 0 ∨ s.pm.envLow.contains n ∨ s.pm.thermLow.contains n ∨ (vf ≤ v ∧ v ≤ max vf (vClass s)) then s
    else freeRail s n vf (max vf (vClass s))) s

/-- What is left of the sprint reserve, whole ms. -/
def reserveLeft (s : State) : Nat := (1000 * s.pfld .PD_SPRINT_LIFE_RESERVE - s.pm.drawUs) / 1000

/-- EXHAUSTED: 720,000 s are charged and the reserve is empty (R55). -/
def showLife (s : State) : State :=
  if 720000 ≤ s.pfld .PD_SPRINT_LIFE_USED ∧ reserveLeft s = 0 then s.setPfld .PD_SPRINT_LIFE_EXHAUSTED 0 1 else s

/-- Sprint time is drawn from the reserve, in µs (R55). -/
def drawReserve (s : State) (us : Nat) : State :=
  let t := s.pm.drawUs + us
  let s := s.setPfld .PD_SPRINT_LIFE_RESERVE 0 (s.pfld .PD_SPRINT_LIFE_RESERVE - t / 1000)
  showLife (onPm s fun p => { p with drawUs := t % 1000 })

/-- A sprint ends (R53): END takes the cause, the cooldown of R54 begins, in 10 ms units of which the first may be a part, rails return
to their range. -/
def sprintEnd (s : State) (cause : Nat) : State :=
  if s.pfld .PD_SPRINT_STAT_ACTIVE = 0 then s
  else
    let us := max (3 * (1000 * s.sprintRan + s.pm.sprintUs)) 2000000
    let units := (us + 9999) / 10000
    let s := s.setPfld .PD_SPRINT_STAT_ACTIVE 0 0
    let s := s.setPfld .PD_SPRINT_STAT_LEFT 0 0
    let s := s.setPfld .PD_SPRINT_STAT_END 0 cause
    let s := s.setPfld .PD_SPRINT_STAT_COOL_LEFT 0 units
    normalRails { s with sprintRan := 0, pm := { s.pm with sprintUs := 0, coolUs := 10000 * units - us } }

/-- A fault fences the set (R430), reported with severity set lost. -/
def fenceSet (s : State) (i : SetId) (r : FRec) : State := sprintEnd (loseSet (report s i r) i) 4

/-- The power die removes the logic-die rails of a lost package that go with a set's link die (R431): with the second of them the host
bridge's too, and the host sees its link go down. -/
def cutRails (s : State) (i : SetId) : State :=
  let s := ((diesOf i) ++ [linkDie i]).foldl (fun s n => s.setPfld .PD_TEMPOn_VSET n 0) s
  if s.pfld .PD_TEMPOn_VSET (linkDie 0) ≠ 0 ∨ s.pfld .PD_TEMPOn_VSET (linkDie 1) ≠ 0 then s
  else { s.setPfld .HB_CAP_MODE 0 0 with busMaster := false, hostHeld := [], heldReqs := [] }

/-- The package is lost (R431): both sets leave service. Rails go 1 ms after DOWN (DOWN_END), at once where the link die is unpowered. -/
def losePackage (s : State) : State :=
  let s := sprintEnd { (loseSet (loseSet s 0) 1) with pkgLost := true } 4
  ([0, 1] : List SetId).foldl (fun s i => if s.pfld .PD_TEMPOn_VSET (linkDie i) = 0 then cutRails s i else s) s

/-- Counts a pruning in the almanac (Table 16-2): 80 cores, 2 harvest units, 96 engines per set. -/
def almPrune (s : State) (i : SetId) (n : Nat) : State := s.addAlm (8208 + 356 * i.val + 2 * n) 2 1

/-- The core is pruned. -/
def corePruned (s : State) (i : SetId) (k : Nat) : Bool :=
  if k < 64 then bit (s.fld i .SET_PRUNED_0_CORES) k else bit (s.fld i .SET_PRUNED_1_CORES) (k - 64)

/-- Cores pruned in the set. -/
def prunedCores (s : State) (i : SetId) : Nat := ((List.range 80).filter fun k => corePruned s i k).length

/-- The pruning-table entry of a core (Table 15-5). -/
def pruneEntry (s : State) (i : SetId) (k : Nat) : List Byte :=
  zeroBad 0 (readMem (s.st i).mem (s.fld i .SET_PRUNE_BASE_BASE + 32 * k) 32) []

/-- R424: no usable entry. -/
def pruneRefused (s : State) (i : SetId) (k : Nat) : Bool :=
  let e := pruneEntry s i k
  s.fld i .SET_PRUNE_BASE_BASE = 0 || e.all (· == 0) || (prunedCores s i ≠ 0 && !bit (leAt e 12 1) 0)

/-- R424: F_PRUNE_LIMIT fences the set. -/
def pruneLimit (s : State) (i : SetId) (unit : Nat) : State :=
  fenceSet s i { FC.pruneLimit.fr with die := linkDie i, unit := unit }

/-- A core is pruned (R422, R424, R450) after its fault was reported: its slots halt in state 6 with the fault's code, its queued
descriptors are discarded, its arrays go to idle, the step is discarded, its bit is set; it takes no more frames. The list of
R423 is due at the next boundary. A fenced set prunes nothing (R417). -/
def pruneUnit (s : State) (i : SetId) (k : Nat) (c : FC) : State :=
  if (s.st i).lost ∨ corePruned s i k then s
  else
    let s := (List.range 8).foldl (fun s n =>
      if slotState s i k n = 0 then s
      else setSlotState ((dropHold (unwait s i k n) i k n).setFld i .CORE_SLOTn_STAT_FCODE (slotIx k n) c.num) i k n 6) s
    let s := dropQueues s i k
    let s := revokeLoans (s.onCore i k fun c => { c with stopped := true, lender := false }) fun x => x.who == 80 * i.val + k
    let s := arraysToIdle s i k
    let s := discardStep s i
    let s := almPrune s i k
    let refused := pruneRefused s i k
    let s := if k < 64 then s.setFld i .SET_PRUNED_0_CORES 0 (putBits (s.fld i .SET_PRUNED_0_CORES) k 1 1)
      else s.setFld i .SET_PRUNED_1_CORES 0 (putBits (s.fld i .SET_PRUNED_1_CORES) (k - 64) 1 1)
    if refused then pruneLimit s i k else s.onSet i fun t => { t with pruneDue := t.pruneDue ++ [k] }

/-- A core's fault is reported and the core is pruned (R422). -/
def pruneCore (s : State) (i : SetId) (k : Nat) (c : FC) (sub detail tag : Nat) : State :=
  if (s.st i).lost ∨ corePruned s i k then s
  else pruneUnit (report s i { c.fr with die := coreDie i k, unit := k, sub := sub, tag := tag, detail := detail }) i k c

/-- CORE_HEARTBEAT (R67): the set fault monitor notes the time; a pruned core sends none. -/
def execCoreHeartbeat (i : SetId) (k : CoreId) (s : State) : Out :=
  .next (if corePruned s i k.val then s else s.onCore i k.val fun c => { c with beat := s.time i })

/-- HEARTBEAT_TIMEOUT (R421): no heartbeat has arrived for 102 µs; the core is pruned. No heartbeat is expected from a pruned
core. -/
def execHeartbeatTimeout (i : SetId) (k : CoreId) (s : State) : Out := .next (pruneCore s i k.val .coreHeartbeat 0 0 0)

/-- LINK_DIE_HEARTBEAT_TIMEOUT (R421, R429, R430): the set is lost. -/
def execLinkDieHeartbeatTimeout (i : SetId) (s : State) : Out := .next (sprintEnd (loseSet s i) 4)

end Sys2Proof.Machine
end

