-- ==== Sys2Proof/Machine/Num.lean ====
section
/-! DEFINITION. Numbers: exact values, the element formats, packed vectors, conversions, rounding draws and the special
functions (chapter 4). -/

namespace Sys2Proof.Machine

/-! ## Exact values (R100) -/

/-- A decoded value: NaN, an infinity, or ±m × 2^e. Zero keeps its sign (R94). -/
inductive Val where
  | nan
  | inf (neg : Bool)
  | fin (neg : Bool) (m : Nat) (e : Int)
deriving DecidableEq, Repr

namespace Val

/-- +0. -/
def zero : Val := .fin false 0 0

/-- The value of an integer. -/
def ofInt (v : Int) : Val := .fin (v < 0) v.natAbs 0

/-- The value's sign bit. -/
def isNeg : Val → Bool
  | .nan => false
  | .inf n => n
  | .fin n _ _ => n

/-- The value is ±0. -/
def isZero : Val → Bool
  | .fin _ 0 _ => true
  | _ => false

/-- The value is finite. -/
def isFin : Val → Bool
  | .fin .. => true
  | _ => false

/-- The negative. -/
def neg : Val → Val
  | .nan => .nan
  | .inf n => .inf (!n)
  | .fin n m e => .fin (!n) m e

/-- The magnitude. -/
def abs : Val → Val
  | .nan => .nan
  | .inf _ => .inf false
  | .fin _ m e => .fin false m e

/-- m × 2^e as an integer multiple of 2^q, for q ≤ e. -/
def scaleTo (neg : Bool) (m : Nat) (e q : Int) : Int :=
  let n : Int := (m * 2 ^ (e - q).toNat : Nat)
  if neg then -n else n

/-- The exact product (R103: infinity × 0 is NaN). -/
def mul : Val → Val → Val
  | .nan, _ | _, .nan => .nan
  | .inf a, .inf b => .inf (a != b)
  | .inf a, .fin b m _ => if m = 0 then .nan else .inf (a != b)
  | .fin a m _, .inf b => if m = 0 then .nan else .inf (a != b)
  | .fin a m e, .fin b n f => .fin (a != b) (m * n) (e + f)

/-- The exact sum; a zero sum is −0 only when both are −0 (R103). -/
def add : Val → Val → Val
  | .nan, _ | _, .nan => .nan
  | .inf a, .inf b => if a = b then .inf a else .nan
  | .inf a, _ => .inf a
  | _, .inf b => .inf b
  | .fin a m e, .fin b n f =>
    if m = 0 ∧ n = 0 then .fin (a && b) 0 0
    else if m = 0 then .fin b n f
    else if n = 0 then .fin a m e
    else
      let q := min e f
      let t := scaleTo a m e q + scaleTo b n f q
      .fin (t < 0) t.natAbs q

/-- Compare two values that are not NaN; −0 lies below +0 (R90). -/
def lt : Val → Val → Bool
  | .nan, _ | _, .nan => false
  | .inf a, .inf b => a && !b
  | .inf a, .fin .. => a
  | .fin .., .inf b => !b
  | .fin a m e, .fin b n f =>
    let q := min e f
    let x := scaleTo a m e q
    let y := scaleTo b n f q
    x < y || (x == y && a && !b && m == 0)

end Val

/-! ## Rounding (R105, R109) -/

/-- The rounding in force: nearest even, or stochastic with a 32-bit draw. -/
inductive Rnd where
  | even
  | stoch (u : Nat)
deriving DecidableEq, Repr

/-- num ÷ den rounded to an integer magnitude. -/
def roundQ (r : Rnd) (num den : Nat) : Nat :=
  let n := num / den
  let x := num % den
  match r with
  | .even => if 2 * x > den ∨ (2 * x = den ∧ n % 2 = 1) then n + 1 else n
  | .stoch u => if 2 ^ 32 ≤ x * 2 ^ 32 / den + u then n + 1 else n

/-- A floating-point element format (Table 4-2): exponent bits, mantissa bits, bias, the largest finite magnitude code,
the codes of infinity and of the canonical NaN. -/
structure FFmt where
  eb : Nat
  mb : Nat
  bias : Nat
  maxCode : Nat
  infCode : Option Nat
  nanCode : Option Nat
deriving DecidableEq, Repr

/-- FP32. -/
def fFP32 : FFmt := ⟨8, 23, 127, 0x7F7F_FFFF, some 0x7F80_0000, some 0x7FC0_0000⟩
/-- BF16. -/
def fBF16 : FFmt := ⟨8, 7, 127, 0x7F7F, some 0x7F80, some 0x7FC0⟩
/-- FP16. -/
def fFP16 : FFmt := ⟨5, 10, 15, 0x7BFF, some 0x7C00, some 0x7E00⟩
/-- FP8 E4M3. -/
def fE4M3 : FFmt := ⟨4, 3, 7, 0x7E, none, some 0x7F⟩
/-- FP8 E5M2. -/
def fE5M2 : FFmt := ⟨5, 2, 15, 0x7B, some 0x7C, some 0x7E⟩
/-- FP6 E3M2. -/
def fE3M2 : FFmt := ⟨3, 2, 3, 0x1F, none, none⟩
/-- FP6 E2M3. -/
def fE2M3 : FFmt := ⟨2, 3, 1, 0x1F, none, none⟩
/-- FP4 E2M1. -/
def fE2M1 : FFmt := ⟨2, 1, 1, 0x7, none, none⟩

/-- Decode a code (R93). -/
def decodeF (f : FFmt) (c : Nat) : Val :=
  let sgn := bit c (f.eb + f.mb)
  let mag := c % 2 ^ (f.eb + f.mb)
  let ex := mag / 2 ^ f.mb
  let man := mag % 2 ^ f.mb
  if f.maxCode < mag then (if f.infCode = some mag then .inf sgn else .nan)
  else if ex = 0 then .fin sgn man (1 - (f.bias : Int) - f.mb)
  else .fin sgn (2 ^ f.mb + man) ((ex : Int) - f.bias - f.mb)

/-- The magnitude code, unbounded above, of m × 2^e rounded to the format (R105). -/
def magCode (f : FFmt) (r : Rnd) (m : Nat) (e : Int) : Nat :=
  if m = 0 then 0
  else
    let ex := (Nat.log2 m : Int) + e
    let q := max ex (1 - (f.bias : Int)) - f.mb
    let n := if q ≤ e then m * 2 ^ (e - q).toNat else roundQ r m (2 ^ (q - e).toNat)
    if n < 2 ^ f.mb then n
    else
      let l := Nat.log2 n
      ((l : Int) + q + f.bias).toNat * 2 ^ f.mb + (n / 2 ^ (l - f.mb) - 2 ^ f.mb)

/-- What a conversion did (R108). -/
structure Cvt where
  code : Nat
  sat : Bool := false
  nan0 : Bool := false
deriving DecidableEq, Repr

/-- Convert to a floating element format (Table 4-5). -/
def encodeF (f : FFmt) (r : Rnd) (nosat : Bool) (v : Val) : Cvt :=
  let sgn (n : Bool) := if n then 2 ^ (f.eb + f.mb) else 0
  let ovf (n : Bool) : Cvt :=
    if nosat then
      match f.infCode, f.nanCode with
      | some c, _ => ⟨sgn n + c, false, false⟩
      | none, some c => ⟨c, false, false⟩
      | none, none => ⟨sgn n + f.maxCode, true, false⟩
    else ⟨sgn n + f.maxCode, true, false⟩
  match v with
  | .nan => match f.nanCode with
    | some c => ⟨c, false, false⟩
    | none => ⟨0, false, true⟩
  | .inf n => ovf n
  | .fin n m e =>
    let c := magCode f r m e
    if f.maxCode < c then ovf n else ⟨sgn n + c, false, false⟩

/-- The FP32 bit pattern of an exact value, rounded to nearest even; beyond the largest normal an infinity. -/
def toFP32 (v : Val) : Nat := (encodeF fFP32 .even true v).code

/-- The value of an FP32 bit pattern. -/
def ofFP32 (c : Nat) : Val := decodeF fFP32 c

/-- FP32 addition, multiplication and fused multiply-add, each rounded once (R90). -/
def fadd (a b : Nat) : Nat := toFP32 (Val.add (ofFP32 a) (ofFP32 b))
/-- FP32 subtraction. -/
def fsub (a b : Nat) : Nat := toFP32 (Val.add (ofFP32 a) (Val.neg (ofFP32 b)))
/-- FP32 multiplication. -/
def fmul (a b : Nat) : Nat := toFP32 (Val.mul (ofFP32 a) (ofFP32 b))
/-- FP32 fused multiply-add a × b + c. -/
def ffma (a b c : Nat) : Nat := toFP32 (Val.add (Val.mul (ofFP32 a) (ofFP32 b)) (ofFP32 c))
/-- MAX and MIN (R90). -/
def fmax (a b : Nat) : Nat :=
  match ofFP32 a, ofFP32 b with
  | .nan, _ | _, .nan => 0x7FC0_0000
  | x, y => if Val.lt x y then b else a
/-- MIN (R90). -/
def fmin (a b : Nat) : Nat :=
  match ofFP32 a, ofFP32 b with
  | .nan, _ | _, .nan => 0x7FC0_0000
  | x, y => if Val.lt y x then b else a

/-- An exact decoded value as FP32 (R100). -/
def valFP32 (v : Val) : Nat := toFP32 v

/-! ## Special functions (R487) -/

/-- The integer square root, by bits from the top; `k` bits of result. -/
def isqrtGo (n : Nat) : Nat → Nat → Nat
  | 0, r => r
  | k + 1, r => let t := r + 2 ^ k; isqrtGo n k (if t * t ≤ n then t else r)

/-- ⌊√n⌋. -/
def isqrt (n : Nat) : Nat := isqrtGo n (Nat.log2 n / 2 + 1) 0

/-- Round a positive value known to lie strictly between n and n + 1 units of 2^e, or exactly at n when `exact`. -/
def stickyFP32 (neg : Bool) (n : Nat) (e : Int) (exact : Bool) : Nat :=
  toFP32 (.fin neg (2 * n + (if exact then 0 else 1)) (e - 1))

/-- atanh(a ÷ b) × 2^p for a < b, `k` terms, as an integer. -/
def atanhFix (a b p : Int) : Nat → Int → Int → Int
  | 0, _, _ => 0
  | k + 1, i, t => t / (2 * i + 1) + atanhFix a b p k (i + 1) (t * a * a / (b * b))

/-- ln 2 × 2^p. -/
def ln2Fix (p : Nat) : Int := 2 * atanhFix 1 3 p (p / 3 + 2) 0 (2 ^ p / 3)

/-- arctan(1 ÷ b) × 2^p, alternating, `k` terms. -/
def atanInv (b : Int) : Nat → Int → Int → Int
  | 0, _, _ => 0
  | k + 1, i, t => t / (2 * i + 1) - atanInv b k (i + 1) (t / (b * b))

/-- π × 2^p (Machin). -/
def piFix (p : Nat) : Int := 16 * atanInv 5 (p / 4 + 2) 0 (2 ^ p / 5) - 4 * atanInv 239 (p / 15 + 2) 0 (2 ^ p / 239)

/-- Σ r^j ÷ j! × 2^p from term `t` of index `i`, `k` terms. -/
def expTerms (r : Int) (p : Nat) : Nat → Int → Int → Int
  | 0, _, _ => 0
  | k + 1, i, t => t + expTerms r p k (i + 1) (t * r / (2 ^ p * (i + 1)))

/-- cos or sin series: terms t, −t r² ÷ ((i+1)(i+2)), ... -/
def trigTerms (r2 : Int) (p : Nat) : Nat → Int → Int → Int
  | 0, _, _ => 0
  | k + 1, i, t => t + trigTerms r2 p k (i + 2) (-(t * r2) / (2 ^ p * ((i + 1) * (i + 2))))

/-- The fixed-point precision for an argument of exponent `ex`. -/
def precFor (ex : Int) : Nat := 240 + 2 * (-ex).toNat

/-- x × 2^p as an integer, rounded toward −∞, for a finite value. -/
def toFix (neg : Bool) (m : Nat) (e : Int) (p : Nat) : Int :=
  let q := e + p
  let n : Int := (m : Int)
  let v := if 0 ≤ q then n * 2 ^ q.toNat else n / 2 ^ (-q).toNat
  if neg then -v else v

/-- e^x as n × 2^k with n of p fraction bits. -/
def expFix (x : Int) (p : Nat) : Nat × Int :=
  let l := ln2Fix (p + 16) / 2 ^ 16
  let k := x / l
  let r := x - k * l
  ((expTerms r p (p / 2 + 4) 0 (2 ^ p)).toNat, k)

/-- EXP. -/
def fexp (c : Nat) : Nat :=
  match ofFP32 c with
  | .nan => 0x7FC0_0000
  | .inf n => if n then 0 else 0x7F80_0000
  | .fin n m e =>
    if m = 0 then 0x3F80_0000
    else
      let ex := (Nat.log2 m : Int) + e
      if 8 ≤ ex then (if n then 0 else 0x7F80_0000)
      else
        let p := precFor ex
        let (v, k) := expFix (toFix n m e p) p
        stickyFP32 false v (k - p) false

/-- RECIP. -/
def frecip (c : Nat) : Nat :=
  match ofFP32 c with
  | .nan => 0x7FC0_0000
  | .inf n => if n then 0x8000_0000 else 0
  | .fin n m e =>
    if m = 0 then (if n then 0xFF80_0000 else 0x7F80_0000)
    else
      let q := 2 ^ 64 / m
      stickyFP32 n q (-64 - e) (q * m = 2 ^ 64)

/-- RSQRT. -/
def frsqrt (c : Nat) : Nat :=
  match ofFP32 c with
  | .nan => 0x7FC0_0000
  | .inf n => if n then 0x7FC0_0000 else 0
  | .fin n m e =>
    if m = 0 then (if n then 0xFF80_0000 else 0x7F80_0000)
    else if n then 0x7FC0_0000
    else
      let (m, e) := if e % 2 = 0 then (m, e) else (2 * m, e - 1)
      -- 1 ÷ √m = √(2^160 ÷ m) × 2^−80
      let q := isqrt (2 ^ 160 / m)
      stickyFP32 false q (-80 - e / 2) (q * q * m = 2 ^ 160)

/-- SILU. -/
def fsilu (c : Nat) : Nat :=
  match ofFP32 c with
  | .nan => 0x7FC0_0000
  | .inf n => if n then 0x8000_0000 else 0x7F80_0000
  | .fin n m e =>
    if m = 0 then c
    else
      let ex := (Nat.log2 m : Int) + e
      if 8 ≤ ex then (if n then 0x8000_0000 else c)
      else
        let p := precFor ex
        let x := toFix n m e p
        -- x ÷ (1 + e^−x)
        let (v, k) := expFix (-x) p
        let d : Int := if 0 ≤ k then 2 ^ p + (v : Int) * 2 ^ k.toNat else 2 ^ p + (v : Int) / 2 ^ (-k).toNat
        let q := (x.natAbs * 2 ^ (p + 200)) / d.toNat
        stickyFP32 n q (-(p : Int) - 200) false

/-- LN. -/
def fln (c : Nat) : Nat :=
  match ofFP32 c with
  | .nan => 0x7FC0_0000
  | .inf n => if n then 0x7FC0_0000 else 0x7F80_0000
  | .fin n m e =>
    if m = 0 then 0xFF80_0000
    else if n then 0x7FC0_0000
    else
      let l := Nat.log2 m
      let p : Nat := 240
      -- y = m ÷ 2^l in [1, 2), halved above √2
      let big := m * m > 2 ^ (2 * l + 1)
      let b := if big then 2 ^ (l + 1) else 2 ^ l
      let k : Int := e + l + (if big then 1 else 0)
      let num : Int := (m : Int) - b
      let den : Int := (m : Int) + b
      let t := 2 * atanhFix num den p (p / 2) 0 (num * 2 ^ p / den) + k * ln2Fix p
      if num = 0 ∧ k = 0 then 0 else stickyFP32 (t < 0) t.natAbs (-(p : Int)) false

/-- SIN (`co` false) and COS (`co` true). -/
def ftrig (co : Bool) (c : Nat) : Nat :=
  match ofFP32 c with
  | .nan => 0x7FC0_0000
  | .inf _ => 0x7FC0_0000
  | .fin n m e =>
    if m = 0 then (if co then 0x3F80_0000 else c)
    else
      let ex := (Nat.log2 m : Int) + e
      let p := precFor ex + 160
      let x := toFix n m e p
      let h := piFix (p + 140)
      -- the quadrant and the remainder, with π to 140 more bits
      let big := x * 2 ^ 140
      let k := (big * 2 + h / 2) / h
      let r := (big - k * h / 2) / 2 ^ 140
      let r2 := r * r / 2 ^ p
      let quad := ((k + (if co then 1 else 0)) % 4).toNat
      let v := if quad % 2 = 0 then trigTerms r2 p (p / 3 + 8) 1 r else trigTerms r2 p (p / 3 + 8) 0 (2 ^ p)
      let v := if quad ≥ 2 then -v else v
      stickyFP32 (v < 0) v.natAbs (-(p : Int)) false

/-! ## The draw (R110) -/

/-- Modulo 2^64. -/
def w64 (n : Nat) : Nat := n % 2 ^ 64

/-- draw(seed, domain, pos, idx). -/
def draw (seed domain pos idx : Nat) : Nat :=
  let k := w64 seed ^^^ w64 (domain * 0x9E6C63D0676A9A99)
  let x := k ^^^ (pos % 2 ^ 32 * 2 ^ 32 + idx % 2 ^ 32)
  let x := w64 ((x ^^^ x / 2 ^ 30) * 0xD6E8FEB86659FD93)
  let x := w64 ((x ^^^ x / 2 ^ 27) * 0xA5CB92439E4F1B57)
  let x := (x ^^^ x / 2 ^ 31) ^^^ k
  let x := w64 ((x ^^^ x / 2 ^ 29) * 0xD6E8FEB86659FD93)
  let x := x ^^^ x / 2 ^ 32
  x / 2 ^ 32

/-! ## Format codes (Table 4-1) -/

/-- The block scale of a format. -/
inductive Scale where
  | none | ue8m0 | e4m3s | e4m3sK
deriving DecidableEq, Repr

/-- The formats of Table 4-1. -/
inductive Fmt where
  | fp32 | bf16 | fp16 | e4m3 | e5m2 | int8 | e4m3b | e5m2b | e3m2 | e2m3 | e2m1 | int4 | k4 | t2 | ue8m0 | e4m3s
deriving DecidableEq, Repr

/-- The format of a code's bits 6:0. -/
def Fmt.ofCode (c : Nat) : Option Fmt :=
  match c with
  | 0x00 => some .fp32 | 0x01 => some .bf16 | 0x02 => some .fp16 | 0x03 => some .e4m3 | 0x04 => some .e5m2
  | 0x05 => some .int8 | 0x08 => some .e4m3b | 0x09 => some .e5m2b | 0x0A => some .e3m2 | 0x0B => some .e2m3
  | 0x0C => some .e2m1 | 0x10 => some .int4 | 0x11 => some .k4 | 0x12 => some .t2 | 0x20 => some .ue8m0
  | 0x21 => some .e4m3s | _ => none

/-- Element bits. -/
def Fmt.width : Fmt → Nat
  | .fp32 => 32 | .bf16 => 16 | .fp16 => 16 | .e4m3 => 8 | .e5m2 => 8 | .int8 => 8 | .e4m3b => 8 | .e5m2b => 8
  | .e3m2 => 6 | .e2m3 => 6 | .e2m1 => 4 | .int4 => 4 | .k4 => 4 | .t2 => 2 | .ue8m0 => 8 | .e4m3s => 8

/-- Block scale. -/
def Fmt.scale : Fmt → Scale
  | .e4m3b | .e5m2b | .e3m2 | .e2m3 | .e2m1 | .t2 => .ue8m0
  | .int4 => .e4m3s
  | .k4 => .e4m3sK
  | _ => .none

/-- Bytes of scale per block (R98). -/
def Fmt.scaleBytes (f : Fmt) : Nat :=
  match f.scale with
  | .none => 0 | .ue8m0 => 1 | .e4m3s => 1 | .e4m3sK => 2

/-- The floating element format, where the element is one. -/
def Fmt.ff : Fmt → Option FFmt
  | .fp32 => some fFP32 | .bf16 => some fBF16 | .fp16 => some fFP16 | .e4m3 | .e4m3b => some fE4M3
  | .e5m2 | .e5m2b => some fE5M2 | .e3m2 => some fE3M2 | .e2m3 => some fE2M3 | .e2m1 => some fE2M1 | _ => none

/-- Depth (R83, R101). -/
def Fmt.depth : Fmt → Nat
  | .t2 => 8
  | .e2m1 | .int4 | .k4 => 4
  | .e4m3 | .e5m2 | .int8 | .e4m3b | .e5m2b | .e3m2 | .e2m3 => 2
  | _ => 1

/-- The class of an array operand (R101): 0 floating, 1 integer, 2 FP32, 3 none. -/
def Fmt.cls : Fmt → Nat
  | .bf16 | .fp16 | .e4m3 | .e5m2 | .e4m3b | .e5m2b | .e3m2 | .e2m3 | .e2m1 | .k4 => 0
  | .int8 | .int4 | .t2 => 1
  | .fp32 => 2
  | .ue8m0 | .e4m3s => 3

/-- An input format code: listed, without NOSAT (R92). -/
def inFmt (c : Nat) : Option Fmt := if c < 128 then Fmt.ofCode c else none

/-- An output format code and its NOSAT (R92, Table 4-1). -/
def outFmt (c : Nat) : Option (Fmt × Bool) :=
  match Fmt.ofCode (c % 128) with
  | none => none
  | some f =>
    if f = .ue8m0 ∨ f = .e4m3s then none
    else if 128 ≤ c then (if f = .bf16 ∨ f = .fp16 ∨ f = .e4m3 ∨ f = .e5m2 then some (f, true) else none)
    else some (f, false)

/-! ## Codebooks (R96) -/

/-- Q_c[i]: |t|^p with t = (i − 7) ÷ 8 and p = 1 + c ÷ 8 is the 8th root of (|i − 7| ÷ 8)^(8 + c), rounded to FP16. -/
def codebook (c i : Nat) : Val :=
  let n := if 7 ≤ i then i - 7 else 7 - i
  if n = 0 then .zero
  else
    -- r = ⌊|t|^p × 2^40⌋ by three square roots of n^(8+c) × 2^(320 − 3(8+c))
    let x := n ^ (8 + c) * 2 ^ (320 - 3 * (8 + c))
    let r := isqrt (isqrt (isqrt x))
    let m := 2 * r + (if r ^ 8 = x then 0 else 1)
    decodeF fFP16 (encodeF fFP16 .even true (.fin (i < 7) m (-41))).code

/-! ## Packed vectors (R98) -/

/-- Round up to a multiple of 32. -/
def up32 (n : Nat) : Nat := (n + 31) / 32 * 32

/-- Bytes of the element section of n elements. -/
def Fmt.elemBytes (f : Fmt) (n : Nat) : Nat := (n * f.width + 7) / 8

/-- Whole bytes of a packed vector of n elements: the sections rounded up to words. -/
def Fmt.packed (f : Fmt) (n : Nat) : Nat :=
  up32 (f.elemBytes n) + up32 ((n + 31) / 32 * f.scaleBytes)

/-- The value of a UE8M0 code (R97). -/
def ue8m0Val (c : Nat) : Val := if c = 255 then .nan else .fin false 1 ((c : Int) - 127)

/-- The value of an E4M3S code (R97). -/
def e4m3sVal (c : Nat) : Val := if 0x7F ≤ c then .nan else decodeF fE4M3 c

/-- Element n's code. -/
def elemCode (f : Fmt) (d : List Byte) (n : Nat) : Nat :=
  let lo := n * f.width
  bits (leNat ((d.drop (lo / 8)).take 5)) (lo % 8) f.width

/-- The element's value before its scale. -/
def elemVal (f : Fmt) (cb c : Nat) : Val :=
  match f with
  | .int8 => .ofInt (signed 8 c)
  | .int4 => .ofInt (signed 4 c)
  | .t2 => if c = 1 then .ofInt 1 else if c = 3 then .ofInt (-1) else .zero
  | .k4 => codebook cb c
  | .ue8m0 => ue8m0Val c
  | .e4m3s => e4m3sVal c
  | _ => match f.ff with | some g => decodeF g c | none => .nan

/-- Decode element n of a packed vector of `cnt` elements (R97, R100). -/
def elemAt (f : Fmt) (d : List Byte) (cnt n : Nat) : Val :=
  let c := elemCode f d n
  let so := up32 (f.elemBytes cnt) + n / 32 * f.scaleBytes
  match f.scale with
  | .none => elemVal f 0 c
  | .ue8m0 => Val.mul (elemVal f 0 c) (ue8m0Val (leAt d so 1))
  | .e4m3s | .e4m3sK =>
    let sv := e4m3sVal (leAt d so 1)
    if sv.isZero then .zero else Val.mul (elemVal f (leAt d (so + 1) 1 % 16) c) sv

/-- Decode a packed vector. -/
def unpack (f : Fmt) (d : List Byte) (cnt : Nat) : List Val := (List.range cnt).map fun n => elemAt f d cnt n

/-! ## Conversion to a format (R105 to R108) -/

/-- Counts of a conversion (R108). -/
structure CvtStat where
  sat : Nat := 0
  nan0 : Nat := 0
  scaleNan : Bool := false
deriving DecidableEq, Repr

/-- Sum of counts. -/
def CvtStat.plus (a b : CvtStat) : CvtStat := ⟨a.sat + b.sat, a.nan0 + b.nan0, a.scaleNan || b.scaleNan⟩

/-- num ÷ den of a finite magnitude m × 2^e ÷ s. -/
def ratio (m : Nat) (e : Int) (sm : Nat) (se : Int) : Nat × Nat :=
  let x := e - se
  if 0 ≤ x then (m * 2 ^ x.toNat, sm) else (m, sm * 2 ^ (-x).toNat)

/-- Round ±num ÷ den to an integer code of w bits between −lo and hi. -/
def encodeInt (r : Rnd) (w lo hi : Nat) (neg : Bool) (num den : Nat) : Cvt :=
  let n := roundQ r num den
  if neg then (if lo < n then ⟨2 ^ w - lo, true, false⟩ else ⟨(2 ^ w - n) % 2 ^ w, false, false⟩)
  else (if hi < n then ⟨hi, true, false⟩ else ⟨n, false, false⟩)

/-- One unscaled element (Table 4-5); FP32 is no conversion, and keeps infinities (4.7). -/
def encodeElem (f : Fmt) (r : Rnd) (nosat : Bool) (v : Val) : Cvt :=
  match f, v with
  | .int8, .nan => ⟨0, false, true⟩
  | .int8, .inf n => ⟨if n then 128 else 127, true, false⟩
  | .int8, .fin n m e => let (a, b) := ratio m e 1 0; encodeInt r 8 128 127 n a b
  | .fp32, v => encodeF fFP32 r true v
  | f, v => match f.ff with | some g => encodeF g r nosat v | none => ⟨0, false, false⟩

/-- The largest magnitude of a block of finite values. -/
def blockMax (vs : List Val) : Val := vs.foldl (fun a v => if Val.lt a v.abs then v.abs else a) .zero

/-- e_max of R106. -/
def eMax : Fmt → Int
  | .e4m3b => 8 | .e5m2b => 15 | .e3m2 => 4 | .e2m3 => 2 | .e2m1 => 2 | _ => 0

/-- A block under a UE8M0 scale (R106): scale bytes, codes, counts. -/
def encodeUE8 (f : Fmt) (vs : List (Val × Rnd)) : List Nat × List Nat × CvtStat :=
  let xs := vs.map (·.1)
  if xs.any fun v => !v.isFin then
    ([0xFF], xs.map fun _ => 0, { nan0 := (xs.filter fun v => v == .nan).length, scaleNan := true })
  else
    match blockMax xs with
    | .fin _ am ae =>
      if am = 0 then ([0], xs.map fun v => if f = Fmt.t2 then 0 else if v.isNeg then 2 ^ (f.width - 1) else 0, {})
      else
        let e := max (-127) (min 127 ((Nat.log2 am : Int) + ae - eMax f))
        let cs := vs.map fun p => match p.1 with
          | .fin n m x =>
            if f = Fmt.t2 then let (a, b) := ratio m x 1 e; encodeInt p.2 2 1 1 n a b
            else match f.ff with | some g => encodeF g p.2 false (.fin n m (x - e)) | none => ⟨0, false, false⟩
          | _ => ⟨0, false, false⟩
        ([(e + 127).toNat], cs.map (·.code), { sat := (cs.filter (·.sat)).length })
    | _ => ([0], [], {})

/-- The smallest E4M3S code whose value is at least A ÷ g, at most 0x7E (R107). -/
def scaleUp (a : Val) (g : Nat) : Nat :=
  match (List.range 0x7F).find? fun c => !(Val.lt (Val.mul (e4m3sVal c) (.ofInt g)) a) with
  | some c => c
  | none => 0x7E

/-- The index whose s × Q_c[i] is nearest to x, the lower on a tie (R107 step 5). -/
def nearestIdx (s x : Val) (c : Nat) : Nat :=
  let dist (i : Nat) := Val.abs (Val.add x (Val.neg (Val.mul s (codebook c i))))
  (List.range 16).foldl (fun b i => if Val.lt (dist i) (dist b) then i else b) 0

/-- The error of a codebook (R107 step 5): FP32, in element order, rounded after each operation. -/
def bookErr (s : Val) (xs : List Val) (c : Nat) (ix : List Nat) : Nat :=
  (xs.zip ix).foldl (fun acc p =>
    let y := toFP32 (Val.mul s (codebook c p.2))
    let d := fsub (toFP32 p.1) y
    fadd acc (fmul d d)) 0

/-- A block of INT4 or K4 under an E4M3S scale (R107). DESIGN CHOICE, log entry 97: a K4 element above the limit of the largest scale,
written as an end index of its codebook, is not counted as saturated, since Table 4-5 has no K4 row. -/
def encodeE4S (f : Fmt) (vs : List (Val × Rnd)) : List Nat × List Nat × CvtStat :=
  let xs := vs.map (·.1)
  let none_ := if f = Fmt.k4 then 7 else 0
  let book (b : List Nat) := if f = Fmt.k4 then b else b.take 1
  if xs.any fun v => !v.isFin then
    (book [0x7F, 0], xs.map fun _ => none_, { nan0 := (xs.filter fun v => v == .nan).length, scaleNan := true })
  else
    let a := blockMax xs
    if a.isZero then (book [0, 0], xs.map fun _ => none_, {})
    else if f = Fmt.k4 then
      let sc := scaleUp a 1
      let s := e4m3sVal sc
      let tries := (List.range 16).map fun c => let ix := xs.map fun x => nearestIdx s x c; (c, ix, bookErr s xs c ix)
      let best := tries.foldl (fun (b : Nat × List Nat × Nat) t =>
        if b.2.1.isEmpty ∨ Val.lt (ofFP32 t.2.2) (ofFP32 b.2.2) then t else b) (0, [], 0)
      ([sc, best.1], best.2.1, {})
    else
      let sc := scaleUp a 7
      match e4m3sVal sc with
      | .fin _ sm se =>
        let cs := vs.map fun p => match p.1 with
          | .fin n m e => let (x, y) := ratio m e sm se; encodeInt p.2 4 8 7 n x y
          | _ => ⟨0, false, false⟩
        ([sc], cs.map (·.code), { sat := (cs.filter (·.sat)).length })
      | _ => ([sc], [], {})

/-- Pack element codes of w bits, least significant first. -/
def packCodes (w : Nat) (cs : List Nat) : List Byte :=
  let n := cs.foldr (fun c a => c % 2 ^ w + 2 ^ w * a) 0
  leBytes ((cs.length * w + 7) / 8) n

/-- Pad with zero bytes to a multiple of 32. -/
def padWord (d : List Byte) : List Byte := d ++ List.replicate (up32 d.length - d.length) 0

/-- Cut a list into blocks of 32, at most `k`. -/
def blocks32 {α : Type} : Nat → List α → List (List α)
  | 0, _ => []
  | k + 1, l => if l.isEmpty then [] else l.take 32 :: blocks32 k (l.drop 32)

/-- Convert values to a packed vector of the format, each section padded to a word (R98, R99, R121). -/
def encodeVec (f : Fmt) (nosat : Bool) (vs : List (Val × Rnd)) : List Byte × CvtStat :=
  if f.scale = .none then
    let cs := vs.map fun p => encodeElem f p.2 nosat p.1
    (padWord (packCodes f.width (cs.map (·.code))),
      { sat := (cs.filter (·.sat)).length, nan0 := (cs.filter (·.nan0)).length })
  else
    let vs := vs ++ List.replicate ((32 - vs.length % 32) % 32) (Val.zero, Rnd.even)
    let bs := (blocks32 vs.length vs).map fun b => if f.scale = .ue8m0 then encodeUE8 f b else encodeE4S f b
    (padWord (packCodes f.width (bs.flatMap (·.2.1))) ++ padWord ((bs.flatMap (·.1)).map fun b => BitVec.ofNat 8 b),
      bs.foldl (fun a b => a.plus b.2.2) {})

end Sys2Proof.Machine
end

