-- ==== Sys2Proof/Machine/Operands.lean ====
section
/-! DEFINITION. Descriptors: their fields (3.4, 3.5), the operand forms, the footprints they read and write, and the issue
checks of the caller (R71 to R74, R116, R117, R121, R124, R141). -/

namespace Sys2Proof.Machine

/-! ## Fields -/

/-- Type codes (Table 3-5). -/
inductive DType where
  | move | gemm | conv | vec | attn | signal | wait | send | fill | copy | fence | loop | endloop | inject | take
  | harvest | graft | consume
deriving DecidableEq, Repr

/-- The type of a code (Table 3-5). -/
def DType.ofCode (c : Nat) : Option DType :=
  match c with
  | 0x01 => some .move | 0x02 => some .gemm | 0x03 => some .conv | 0x04 => some .vec | 0x05 => some .attn
  | 0x06 => some .signal | 0x07 => some .wait | 0x08 => some .send | 0x09 => some .fill | 0x0A => some .copy
  | 0x0B => some .fence | 0x0C => some .loop | 0x0D => some .endloop | 0x0E => some .inject | 0x0F => some .take
  | 0x10 => some .harvest | 0x11 => some .graft | 0x12 => some .consume | _ => none

/-- The type of a descriptor. -/
def dtype (d : List Byte) : Option DType := DType.ofCode (leAt d 0 1)

/-- The unit queue of a type (Table 3-3); none for those that execute in the caller. -/
def DType.unit : DType → Option Nat
  | .gemm | .conv | .graft => some 0
  | .vec => some 1
  | .move | .fill | .copy => some 2
  | .inject | .take => some 3
  | .attn | .harvest | .send => some 4
  | _ => none

/-- DONE_EN. -/
def dDoneEn (d : List Byte) : Bool := bit (leAt d 1 1) 0
/-- DONE. -/
def dDone (d : List Byte) : Nat := leAt d 2 2
/-- GAP. -/
def dGap (d : List Byte) : Nat := leAt d 4 1
/-- TAG. -/
def dTag (d : List Byte) : Nat := leAt d 6 2

/-- The byte ranges a layout lists behind the header (Tables 3-6 to 3-19). -/
def DType.listed : DType → List (Nat × Nat)
  | .move | .copy => [(8, 23), (32, 3), (36, 3)]
  | .fill => [(8, 11), (20, 7), (28, 3)]
  | .gemm => [(8, 56)]
  | .conv => [(8, 56)]
  | .attn => [(8, 39)]
  | .send => [(8, 12)]
  | .inject => [(8, 16)]
  | .take => [(8, 25)]
  | .harvest => [(8, 16)]
  | .graft => [(8, 43)]
  | .signal | .wait | .consume => [(8, 2), (12, 8)]
  | .fence => [(8, 1)]
  | .loop => [(8, 16)]
  | .endloop => []
  | .vec => [(8, 37), (46, 2)]

/-- Every byte that the layout does not list is zero (R72). -/
def reservedZero (t : DType) (d : List Byte) : Bool :=
  (d.zipIdx.drop 8).all fun p => p.1 == 0 || t.listed.any fun r => r.1 ≤ p.2 && p.2 < r.1 + r.2

/-- The offsets of a type's address fields, the first three taking offsets (R71). CHK of a GEMM counts only outside the operand-port
range (R177) and is tested by `stateForm`. -/
def DType.addrs : DType → List Nat
  | .move | .copy => [8, 16]
  | .fill => [8]
  | .gemm => [8, 16, 24, 32]
  | .conv => [8, 16, 24, 32]
  | .vec => [8, 16, 24]
  | .attn => [8, 16, 24, 32]
  | .send => [8]
  | .inject => [8]
  | .take => [8, 16]
  | .harvest => [8]
  | .graft => [8, 16, 24, 32]
  | _ => []

/-- The destination of a MOVE is global (Table 3-6). -/
def isGlobal (t : DType) (d : List Byte) : Bool := t == .move && bit (leAt d 27 1) 0

/-- An address field with its upper bits: bits 63:44 are zero unless the field is global (3.5). -/
def addrForm (t : DType) (d : List Byte) : Bool :=
  t.addrs.all fun o => (leAt d o 8 < 2 ^ 44 || (isGlobal t d && o == 16)) && leAt d o 8 % 32 == 0

/-- The header is in form (Table 3-4): flags, DONE, OFSSEL, and GAP only on array descriptors. -/
def headerForm (t : DType) (d : List Byte) : Bool :=
  leAt d 1 1 < 2 && leAt d 2 2 < 4096 && leAt d 5 1 < 64 && (dGap d == 0 || t.unit == some 0)

/-! ## Field ranges (3.5) -/

/-- The reduction length of a CONV. -/
def convK (d : List Byte) : Nat := (bits (leAt d 48 1) 0 4 + 1) * (bits (leAt d 48 1) 4 4 + 1) * leAt d 44 2

/-- Output height and width of a CONV (R79): positions of the window inside the padded input. -/
def convOut (d : List Byte) : Nat × Nat :=
  let f (size pads k str dil : Nat) : Nat :=
    let need := dil * (k - 1) + 1
    if size + pads < need then 0 else (size + pads - need) / str + 1
  let pad := leAt d 51 1
  let kh := bits (leAt d 48 1) 0 4 + 1
  let kw := bits (leAt d 48 1) 4 4 + 1
  (f (leAt d 40 2) (bits pad 0 2 + bits pad 2 2) kh (bits (leAt d 49 1) 0 4 + 1) (bits (leAt d 50 1) 0 4 + 1),
   f (leAt d 42 2) (bits pad 4 2 + bits pad 6 2) kw (bits (leAt d 49 1) 4 4 + 1) (bits (leAt d 50 1) 4 4 + 1))

/-- The pair of operand formats is accepted (R92, R101): K4 as weight only. -/
def pairOk (fw fa : Option Fmt) : Bool :=
  match fw, fa with
  | some w, some a => w.cls == a.cls && w.cls != 3 && a != .k4
  | _, _ => false

/-- The depth of a pair (R101). -/
def pairDepth (w a : Fmt) : Nat := min w.depth a.depth

/-- Steps of a reduction (R83). -/
def stepsOf (w a : Fmt) (k : Nat) : Nat := (k + pairDepth w a - 1) / pairDepth w a

/-- MODE of GEMM and CONV is in form, and FLUSH is not set with FP32 (R104). -/
def modeForm (m : Nat) : Bool := m < 32 && bits m 2 2 != 3 && !(bit m 4 && bits m 2 2 == 0)

/-- Rows, columns and reduction of GEMM and CONV are in range, for the modes. -/
def tileForm (w a : Option Fmt) (k r m : Nat) (mode : Nat) : Bool :=
  match w, a with
  | some w, some a =>
    let esp := bit mode 0
    1 ≤ m && m ≤ (if esp then 1024 else 128) && r ≤ (if esp then 32 else 256) &&
      (w.scale == .none || k % 32 == 0) && (a.scale == .none || k % 32 == 0) &&
      1 ≤ stepsOf w a k && stepsOf w a k ≤ 65536
  | _, _ => false

/-- VEC: the operations with two inputs (Table 3-20). -/
def vecTwo (op : Nat) : Bool := (1 ≤ op && op ≤ 6) || op == 0x0E
/-- VEC: the operations with one output element per group (R99). -/
def vecReduce (op : Nat) : Bool := op == 0x0C || op == 0x0D || op == 0x0F

/-- VEC: elements of IN0 (R99). -/
def vecN (d : List Byte) (f : Fmt) : Nat := leAt d 32 3 * 256 / f.width
/-- VEC: groups. -/
def vecGroups (d : List Byte) (n : Nat) : Nat := (n + 2 ^ leAt d 43 1 - 1) / 2 ^ leAt d 43 1
/-- VEC: elements of IN1 (R99). -/
def vecN1 (d : List Byte) (n : Nat) : Nat := if leAt d 35 1 = 0x0E then vecGroups d n else n
/-- VEC: elements of OUT (R99). -/
def vecNOut (d : List Byte) (n : Nat) : Nat := if vecReduce (leAt d 35 1) then vecGroups d n else n

/-- VEC: formats and counts are in form (R92, R99). -/
def vecForm (d : List Byte) : Bool :=
  match inFmt (leAt d 40 1), inFmt (leAt d 41 1), outFmt (leAt d 42 1) with
  | some f0, some f1, some _ =>
    let n := vecN d f0
    let op := leAt d 35 1
    1 ≤ op && op ≤ 15 && leAt d 43 1 ≤ 15 && leAt d 44 1 ≤ 1 &&
      (f0.scale == .none || (leAt d 32 3 * 256 % f0.width == 0 && n % 32 == 0)) &&
      (!vecTwo op || f1.scale == .none || vecN1 d n % 32 == 0)
  | _, _, _ => false

/-- Factor formats of a GRAFT (R181): codes 0x01 to 0x04. -/
def graftFmt (c : Nat) : Option Fmt := if 1 ≤ c ∧ c ≤ 4 then Fmt.ofCode c else none

/-- The fields of each layout lie in their ranges (R72, R76, R79, R81, R92, R101, R104). DESIGN CHOICE, log entry 93: of a transposing
MOVE or COPY with LEN 0 and ROWS × g no multiple of 32 the spec says both that it is a no-op (R73) and that it is F_DESC (R76), and not
which comes first; it is a no-op here. -/
def fieldForm (t : DType) (d : List Byte) : Bool :=
  match t with
  | .move | .copy =>
    let m := leAt d 27 1
    let g := 2 ^ bits m 2 2
    m < 16 && bits m 2 2 != 3 && (t == .move || !bit m 0) && (!bit m 1 || max 1 (leAt d 28 3) * g % 32 == 0 || leAt d 24 3 == 0)
  | .fill => true
  | .gemm =>
    let w := inFmt (leAt d 55 1)
    let a := inFmt (leAt d 56 1)
    pairOk w a && modeForm (leAt d 57 1) && tileForm w a (leAt d 52 3) (leAt d 50 2) (leAt d 48 2) (leAt d 57 1)
  | .conv =>
    let w := inFmt (leAt d 57 1)
    let a := inFmt (leAt d 58 1)
    let (oh, ow) := convOut d
    1 ≤ leAt d 40 2 && 1 ≤ leAt d 42 2 && pairOk w a && modeForm (leAt d 59 1) &&
      tileForm w a (convK d) (leAt d 55 2) (leAt d 46 2) (leAt d 59 1) &&
      (match a with | some f => f.scale == .none || leAt d 44 2 % 32 == 0 | none => false) &&
      leAt d 52 3 + leAt d 55 2 ≤ oh * ow
  | .vec => vecForm d
  | .attn => leAt d 42 2 ≤ 1024 && leAt d 45 1 < 4 && leAt d 46 1 < 64
  | .send => leAt d 16 1 < 64 && leAt d 17 3 ≤ 128
  | .inject => leAt d 19 1 ≤ 1
  | .take => leAt d 27 1 ≤ 1 && leAt d 32 1 < 4
  | .harvest => leAt d 23 1 < 4
  | .graft =>
    leAt d 42 2 + leAt d 44 2 ≤ 256 && 4 ≤ leAt d 40 1 && leAt d 40 1 ≤ 128 && leAt d 44 2 ≤ 256 && 1 ≤ leAt d 46 2 && leAt d 46 2 ≤ 128 &&
      (graftFmt (leAt d 41 1)).isSome
  | .signal =>
    leAt d 8 2 % 2 ^ 15 < 4096 && 1 ≤ leAt d 12 4 && leAt d 12 4 < 2 ^ 31 &&
      (if bit (leAt d 8 2) 15 then leAt d 16 4 < 2 ^ 18 else leAt d 16 4 == 0)
  | .wait | .consume => leAt d 8 2 < 4096 && 1 ≤ leAt d 12 4 && leAt d 12 4 < 2 ^ 31 && leAt d 16 4 == 0
  | .fence => leAt d 8 1 ≤ 1
  | .loop => leAt d 11 1 ≤ 16
  | .endloop => true

/-! ## Offsets (R71) -/

/-- Address field `o` (0 to 2) with the offset register that OFSSEL selects; none when the addition carries out of
bit 43. The bits above stay. -/
def withOfs (ofs : List Nat) (d : List Byte) (o a : Nat) : Option Nat :=
  let sel := bits (leAt d 5 1) (2 * o) 2
  if sel = 0 then some a
  else
    let v := a % 2 ^ 44 + ofs.getD (sel - 1) 0
    if 2 ^ 44 ≤ v then none else some (a / 2 ^ 44 * 2 ^ 44 + v)

/-- The first three address fields of a descriptor after offsets. -/
def effAddrs (t : DType) (ofs : List Nat) (d : List Byte) : Option (Nat × Nat × Nat) :=
  let get (o : Nat) : Option Nat :=
    match t.addrs[o]? with
    | some off => withOfs ofs d o (leAt d off 8)
    | none => some 0
  match get 0, get 1, get 2 with
  | some a, some b, some c => some (a, b, c)
  | _, _, _ => none

/-! ## Footprints -/

/-- A descriptor as it is issued: its bytes, its effective addresses, its core; for ATTN the bytes of its parameter block
(Table 8-3), for HARVEST the pitch of the logit rows in bytes (10.4), for a GEMM in the operand-port range the end of
that range in array 0's W buffer (R175, R177; 0 else). -/
structure Issued where
  d : List Byte
  a1 : Nat
  a2 : Nat
  a3 : Nat
  core : Nat
  param : List Byte := []
  lpitch : Nat := 0
  opxEnd : Nat := 0
  bank : Nat := 0
deriving DecidableEq, Repr

/-- What an operand may reach (Table 5-3). -/
inductive Lvl where
  /-- Any populated set-local address outside set MMIO. -/
  | any
  /-- Operand buffers and core memories of the die's cores, and the die's memory (COPY). -/
  | copyDie
  /-- The core's own W, A or P buffers, by kind 0, 1, 2. -/
  | ownBuf (kind : Nat)
  /-- The core's own buffers of a kind, or its core memory. -/
  | ownBufCore (kind : Nat)
  /-- The core's own operand buffers or core memory. -/
  | own
  /-- One of the core's own operand buffers, or its core memory (GRAFT). -/
  | ownOne
  /-- Own core memory, die memory of either compute die. -/
  | coreDie
  /-- HBM of the set. -/
  | hbm
  /-- Die memory or core memory of the set. -/
  | dieCore
deriving DecidableEq, Repr

/-- The kind (0 W, 1 A, 2 P), the array, and the end of the buffer at an offset of an operand-buffer stride (Table 5-2). -/
def bufAt (off : Nat) : Nat × Nat × Nat :=
  if off < 0x4_0000 then (0, 0, 0x4_0000) else if off < 0x8_0000 then (0, 1, 0x8_0000)
  else if off < 0xC_0000 then (1, 0, 0xC_0000) else if off < 0x10_0000 then (1, 1, 0x10_0000)
  else if off < 0x12_0000 then (2, 0, 0x12_0000) else (2, 1, 0x14_0000)

/-- The level allows the range (R74, R116, R124). -/
def Lvl.allows (l : Lvl) (k a n : Nat) : Bool :=
  let inBuf (kind : Nat) := match spaceOf a with
    | .buf c off => c == k && (bufAt off).1 == kind && off + n ≤ (bufAt off).2.2
    | _ => false
  let ownCore := match spaceOf a with | .core c off => c == k && off + n ≤ 0x60_0000 | _ => false
  match l with
  | .any => match spaceOf a with | .mmio _ | .none => false | _ => populated a n
  | .copyDie => (match spaceOf a with
    | .buf c _ | .core c _ => c / 40 == k / 40
    | .die d _ => d == k / 40
    | _ => false) && populated a n
  | .ownBuf kind => inBuf kind
  | .ownBufCore kind => inBuf kind || ownCore
  | .own => (match spaceOf a with | .buf c _ | .core c _ => c == k | _ => false) && populated a n
  | .ownOne => inBuf 0 || inBuf 1 || inBuf 2 || ownCore
  | .coreDie => ownCore || (match spaceOf a with | .die .. => populated a n | _ => false)
  | .hbm => (match spaceOf a with | .hbm => populated a n | _ => false)
  | .dieCore => (match spaceOf a with | .die .. | .core .. => populated a n | _ => false)

/-- An operand: its level, whether it is written, and the ranges it covers. -/
structure Opnd where
  lvl : Lvl
  write : Bool
  rows : List (Nat × Nat)
deriving DecidableEq, Repr

/-- Rows of `len` bytes at a pitch. -/
def rowsAt (a pitch len n : Nat) : List (Nat × Nat) := (List.range n).map fun r => (a + r * pitch, len)

/-- The address of the same place in the other array's buffer. -/
def otherArray (a : Nat) : Nat :=
  match spaceOf a with
  | .buf _ off => a + (if (bufAt off).1 = 2 then 0x2_0000 else 0x4_0000)
  | _ => a

/-- The operand points into operand buffers. -/
def isBuf (a : Nat) : Bool := match spaceOf a with | .buf .. => true | _ => false

/-- The operand points into an array-1 part (R117). -/
def inArray1 (a : Nat) : Bool := match spaceOf a with | .buf _ off => (bufAt off).2.1 == 1 | _ => false

/-- Rows placed by R85 and R117: row r of array r / 128 (normal mode) in operand buffers, flat in core memory. -/
def splitRows (a pitch len n : Nat) : List (Nat × Nat) :=
  if isBuf a then rowsAt a pitch len (min n 128) ++ rowsAt (otherArray a) pitch len (n - 128) else rowsAt a pitch len n

/-- Bytes of an element of OUT_FMT. -/
def outBytes (mode : Nat) : Nat := if bits mode 2 2 = 0 then 4 else 2

/-- Rows of OUT or PRE (R117): `m` columns of `r` rows. -/
def outRows (a pitch m r mode : Nat) : List (Nat × Nat) :=
  let w := outBytes mode
  if bit mode 0 then
    if isBuf a then rowsAt a pitch (up32 (min m 512 * w)) r ++ (if 512 < m then rowsAt (otherArray a) pitch (up32 ((m - 512) * w)) r else [])
    else rowsAt a pitch (up32 (m * w)) r
  else splitRows a pitch (up32 (m * w)) r

/-- Both arrays take part (R85). -/
def bothArrays (mode m r : Nat) : Bool := if bit mode 0 then 512 < m else 128 < r

/-- Columns of W (R117). -/
def wRows (a pitch len m r mode : Nat) : List (Nat × Nat) :=
  if bit mode 0 then rowsAt a pitch len (min m 512) ++ rowsAt (otherArray a) pitch len (m - 512)
  else rowsAt a pitch len m ++ (if 128 < r then rowsAt (otherArray a) pitch len m else [])

/-- The same range for each array that takes part. -/
def perArray (a len : Nat) (both : Bool) : List (Nat × Nat) := (a, len) :: (if both then [(otherArray a, len)] else [])

/-- Bytes of one packed vector of k elements. -/
def vecBytes (f : Fmt) (k : Nat) : Nat := f.packed k

/-- The places of a TAKE's footprint: the same W-buffer offset in each selected array's W buffer (R169). An address outside
the W buffers of the core stands as it is, and the level check refuses it. -/
def takeArrays (k arrays a : Nat) : List Nat :=
  match spaceOf a with
  | .buf c off =>
    if c = k ∧ off < 0x8_0000 then
      (if arrays % 2 = 1 then [bufBase k + off % 0x4_0000] else []) ++ (if 2 ≤ arrays then [bufBase k + 0x4_0000 + off % 0x4_0000] else [])
    else [a]
  | _ => [a]

/-- Bytes of a row element format of an attention parameter block (Table 8-3). -/
def rowFmtBytes (c : Nat) : Nat := if c = 0 then 4 else if c = 1 then 2 else if c = 3 then 1 else 0

/-- The operands of an ATTN (R235): PARAM, SCALES, and the rows that OP uses. -/
def attnOperands (x : Issued) : List Opnd :=
  let d := x.d
  let n := leAt d 42 2
  let op := leAt d 45 1
  let p := x.param
  let hq := leAt p 5 1
  let hkv := leAt p 6 1
  let dd := leAt p 8 2
  let sc := leAt p 40 8
  if n = 0 then []
  else
    [{ lvl := .coreDie, write := false, rows := [(leAt d 32 8, up32 (64 + 2 * leAt p 10 2))] }] ++
    (if sc = 0 then [] else [{ lvl := .coreDie, write := false, rows := [(sc, 2 * hkv * ((dd + 31) / 32) * 2)] }]) ++
    (if bit op 1 then
      [{ lvl := .coreDie, write := false, rows := rowsAt x.a1 (leAt p 28 2 * 32) (hq * dd * rowFmtBytes (leAt p 2 1)) n },
       { lvl := .coreDie, write := true, rows := rowsAt x.a2 (leAt p 32 2 * 32) (up32 (hq * dd * rowFmtBytes (leAt p 4 1))) n }]
    else []) ++
    (if bit op 0 then
      [{ lvl := .coreDie, write := false, rows := rowsAt x.a3 (leAt p 30 2 * 32) (2 * hkv * dd * rowFmtBytes (leAt p 3 1)) n }]
    else [])

/-- The operands of an issued descriptor (3.5, Table 5-3). A length or row count of zero leaves none (R73). -/
def operands (t : DType) (x : Issued) : List Opnd :=
  let d := x.d
  match t with
  | .move | .copy =>
    let len := leAt d 24 3 * 32
    let rows := max 1 (leAt d 28 3)
    let mode := leAt d 27 1
    let g := 2 ^ bits mode 2 2
    let lvl : Lvl := if t == .move then .any else .copyDie
    if len = 0 then []
    else
      let dst := if bit mode 1 then rowsAt x.a2 (leAt d 36 3 * 32) (rows * g) (len / g) else rowsAt x.a2 (leAt d 36 3 * 32) len rows
      { lvl := lvl, write := false, rows := rowsAt x.a1 (leAt d 32 3 * 32) len rows } ::
        (if isGlobal t d then [] else [{ lvl := lvl, write := true, rows := dst }])
  | .fill =>
    let len := leAt d 16 3 * 32
    if len = 0 then []
    else [{ lvl := .any, write := true, rows := rowsAt x.a1 (leAt d 28 3 * 32) len (max 1 (leAt d 24 3)) }]
  | .gemm =>
    match inFmt (leAt d 55 1), inFmt (leAt d 56 1) with
    | some fw, some fa =>
      let k := leAt d 52 3
      let r := leAt d 50 2
      let m := leAt d 48 2
      let mode := leAt d 57 1
      let op := leAt d 62 2 * 32
      if r = 0 then []
      else
        let both := bothArrays mode m r
        [{ lvl := .ownBuf 0, write := false, rows := if x.opxEnd ≠ 0 then perArray x.a1 (x.opxEnd - x.a1) both
             else wRows x.a1 (leAt d 58 2 * 32) (vecBytes fw k) m r mode },
         { lvl := .ownBuf 1, write := false, rows := if bit mode 0 then
             rowsAt x.a2 (leAt d 60 2 * 32) (vecBytes fa k) r ++ (if both then rowsAt (otherArray x.a2) (leAt d 60 2 * 32) (vecBytes fa k) r else [])
             else splitRows x.a2 (leAt d 60 2 * 32) (vecBytes fa k) r },
         { lvl := .ownBuf 0, write := false, rows := if x.opxEnd ≠ 0 then [] else perArray (leAt d 40 8) (64 * stepsOf fw fa k) both }] ++
        (if bit mode 1 then [{ lvl := .ownBufCore 2, write := false, rows := outRows (leAt d 32 8) op m r mode }] else []) ++
        [{ lvl := .ownBufCore 2, write := true, rows := outRows x.a3 op m r mode }]
    | _, _ => []
  | .conv =>
    match inFmt (leAt d 57 1), inFmt (leAt d 58 1) with
    | some fw, some fa =>
      let k := convK d
      let r := leAt d 55 2
      let m := leAt d 46 2
      let mode := leAt d 59 1
      let op := leAt d 62 2 * 32
      let cin := leAt d 44 2
      let px := leAt d 40 2 * leAt d 42 2
      let inLen := if fa.scale == .none then (px * cin * fa.width + 7) / 8 else px * fa.packed cin
      if r = 0 then []
      else
        let both := bothArrays mode m r
        [{ lvl := .ownBuf 0, write := false, rows := wRows x.a1 (leAt d 60 2 * 32) (vecBytes fw k) m r mode },
         { lvl := .ownBufCore 1, write := false, rows := perArray x.a2 (up32 inLen) (both && isBuf x.a2) },
         { lvl := .ownBuf 0, write := false, rows := perArray (leAt d 32 8) (64 * stepsOf fw fa k) both }] ++
        (if bit mode 1 then [{ lvl := .ownBufCore 2, write := false, rows := outRows x.a3 op m r mode }] else []) ++
        [{ lvl := .ownBufCore 2, write := true, rows := outRows x.a3 op m r mode }]
    | _, _ => []
  | .vec =>
    match inFmt (leAt d 40 1), inFmt (leAt d 41 1), outFmt (leAt d 42 1) with
    | some f0, some f1, some (fo, _) =>
      let n := vecN d f0
      if leAt d 32 3 = 0 then []
      else
        [{ lvl := .own, write := false, rows := [(x.a1, f0.packed n)] }] ++
        (if vecTwo (leAt d 35 1) then [{ lvl := .own, write := false, rows := [(x.a2, f1.packed (vecN1 d n))] }] else []) ++
        [{ lvl := .own, write := true, rows := [(x.a3, fo.packed (if fo.scale == .none then vecNOut d n else up32 (vecNOut d n)))] }]
    | _, _, _ => []
  | .send =>
    if leAt d 17 3 = 0 then [] else [{ lvl := .coreDie, write := false, rows := [(x.a1, 32 * leAt d 17 3)] }]
  | .inject =>
    if leAt d 16 3 = 0 then []
    else [{ lvl := .hbm, write := false, rows := (x.a1, 32 * leAt d 16 3) :: (if x.bank = 0 then [] else [(x.a1 + x.bank, 32 * leAt d 16 3)]) }]
  | .attn => attnOperands x
  | .harvest =>
    if leAt d 18 2 = 0 ∨ leAt d 20 3 = 0 then []
    else [{ lvl := .dieCore, write := false, rows := rowsAt x.a1 x.lpitch (4 * leAt d 20 3) (leAt d 18 2) }]
  | .take =>
    let len := leAt d 24 3
    let arr := leAt d 32 1
    if len = 0 then []
    else
      let at_ (a n : Nat) := takeArrays x.core arr a |>.map fun b => (b, n)
      [{ lvl := .ownBuf 0, write := true, rows := at_ x.a1 (32 * len) },
       { lvl := .ownBuf 0, write := true, rows := at_ x.a2 (32 * ((len + 3) / 4)) }]
  | .graft =>
    match graftFmt (leAt d 41 1) with
    | some f =>
      let r := leAt d 40 1
      let r0 := leAt d 42 2
      let n := leAt d 44 2
      let m := leAt d 46 2
      let pu := f.packed (leAt d 48 3)
      let pv := f.packed r
      let po := up32 (4 * m)
      if n = 0 ∨ leAt d 48 3 = 0 then []
      else
        let both := 128 < r0 + n
        let rowsOf (a pitch len : Nat) : List (Nat × Nat) := (List.range n).map fun j =>
          let i := r0 + j
          (if isBuf a ∧ 128 ≤ i then otherArray a + (i - 128) * pitch else a + i * pitch, len)
        [{ lvl := .ownOne, write := false, rows := rowsOf x.a1 pu pu },
         { lvl := .ownOne, write := false, rows := perArray x.a2 (r * pu) (both && isBuf x.a2) },
         { lvl := .ownOne, write := false, rows := perArray x.a3 (m * pv) (both && isBuf x.a3) },
         { lvl := .ownBufCore 2, write := false, rows := rowsOf (leAt d 32 8) po po },
         { lvl := .ownBufCore 2, write := true, rows := rowsOf (leAt d 32 8) po po }]
    | none => []
  | _ => []

end Sys2Proof.Machine
end

