-- ==== Sys2Proof/Machine/Check.lean ====
section
/-! DEFINITION. The issue checks that need the machine's state (R74, R124, R137, R141, R145, R175, R284), and the
address-range scoreboard (5.7). -/

namespace Sys2Proof.Machine

/-! ## Ranges -/

/-- Two half-open ranges share a byte. -/
def meets (a b : Nat × Nat) : Bool := a.1 < b.1 + b.2 && b.1 < a.1 + a.2 && a.2 != 0 && b.2 != 0

/-- The operand-port range of a core as offsets of a W buffer (R175): start and length. -/
def opxRange (s : State) (i : SetId) (k : Nat) : Nat × Nat := (s.fld i .CORE_OPX_BASE k * 32, s.fld i .CORE_OPX_SIZE k * 32)

/-- The offset of an address in a W buffer of core `k`. -/
def wOffset (k a : Nat) : Option Nat :=
  match spaceOf a with
  | .buf c off => if c = k ∧ off < 0x8_0000 then some (off % 0x4_0000) else none
  | _ => none

/-- The address lies in the operand-port range. -/
def inOpx (s : State) (i : SetId) (k a : Nat) : Bool :=
  match wOffset k a with
  | some o => (opxRange s i k).1 ≤ o && o < (opxRange s i k).1 + (opxRange s i k).2
  | none => false

/-- A range of core `k`'s W buffers meets the operand-port range. -/
def touchesOpx (s : State) (i : SetId) (k : Nat) (r : Nat × Nat) : Bool :=
  match wOffset k r.1 with
  | some o => meets (o, r.2) (opxRange s i k)
  | none => false

/-- What the caller knows of a descriptor at issue: its effective addresses, the parameter block of an ATTN, the pitch of a
HARVEST's rows, the end of the operand-port range for a GEMM in it, the offset of bank 1 for an INJECT (R196). -/
def issued (s : State) (i : SetId) (k : Nat) (t : DType) (d : List Byte) (a : Nat × Nat × Nat) : Issued :=
  { d := d, a1 := a.1, a2 := a.2.1, a3 := a.2.2, core := k
    param := if t == .attn then peek s i (leAt d 32 8) 64 else []
    lpitch := if t == .harvest then up32 (s.fld i .SESS_CFG_0_VOCAB * 4) else 0
    opxEnd := if t == .gemm ∧ inOpx s i k a.1 then bufBase k + (opxRange s i k).1 + (opxRange s i k).2 else 0
    bank := if t == .inject ∧ s.fld i .CIRC_CFG_BANKS = 1 then s.fld i .CIRC_BANKOFS_OFS * 4096 else 0 }

/-- Whether a HARVEST scans head logit rows (R289): its address lies in the head logit region. -/
def headSlice (s : State) (i : SetId) (x : Issued) : Bool :=
  let h := s.fld i .SESS_CFG_0_HEADS
  let b := s.fld i .SESS_BASE_5_HBASE
  h != 0 && b ≤ x.a1 && x.a1 < b + s.fld i .SESS_BASE_0_LROWS * h * x.lpitch

/-- Logit rows of the region that a HARVEST scans: LROWS, or HEADS of them per row. -/
def sliceRows (s : State) (i : SetId) (x : Issued) : Nat :=
  s.fld i .SESS_BASE_0_LROWS * (if headSlice s i x then s.fld i .SESS_CFG_0_HEADS else 1)

/-- First token of a HARVEST's slice (R284), when the address lies at or above the row's base. For head rows ROW0 counts rows of
the head logit region. -/
def sliceStart (s : State) (i : SetId) (x : Issued) : Option Nat :=
  let base := (if headSlice s i x then s.fld i .SESS_BASE_5_HBASE else s.fld i .SESS_BASE_1_LBASE) + leAt x.d 16 2 * x.lpitch
  if x.a1 < base ∨ (x.a1 - base) % 4 ≠ 0 then none else some ((x.a1 - base) / 4)

/-- F_DESC conditions that depend on the machine or on effective addresses (R117, R175, R284). -/
def stateForm (s : State) (i : SetId) (t : DType) (x : Issued) : Bool :=
  let d := x.d
  let k := x.core
  let opx := opxRange s i k
  match t with
  | .gemm =>
    let mode := leAt d 57 1
    !inArray1 x.a1 && !inArray1 x.a2 && !inArray1 x.a3 && !(bit mode 1 && inArray1 (leAt d 32 8)) &&
      (x.opxEnd != 0 || (leAt d 40 8 < 2 ^ 44 && leAt d 40 8 % 32 == 0 && !inArray1 (leAt d 40 8))) &&
      (match inFmt (leAt d 55 1), inFmt (leAt d 56 1) with
      | some fw, some fa =>
        if x.opxEnd ≠ 0 then
          1 ≤ leAt d 55 1 && leAt d 55 1 ≤ 3 && pairDepth fw fa * fw.width == 16
        else opx.2 == 0 || !((wRows x.a1 (leAt d 58 2 * 32) (vecBytes fw (leAt d 52 3)) (leAt d 48 2) (leAt d 50 2) mode).any (touchesOpx s i k))
      | _, _ => false)
  | .conv =>
    !inArray1 x.a1 && !inArray1 x.a2 && !inArray1 x.a3 && !inArray1 (leAt d 32 8) &&
      (opx.2 == 0 || !((operands t x).any fun o => o.rows.any (touchesOpx s i k)))
  | .graft =>
    !inArray1 x.a1 && !inArray1 x.a2 && !inArray1 x.a3 && !inArray1 (leAt d 32 8) &&
      (opx.2 == 0 || !((operands t x).any fun o => o.rows.any (touchesOpx s i k)))
  | .harvest =>
    let rows := leAt d 18 2
    let n := leAt d 20 3
    let vocab := s.fld i .SESS_CFG_0_VOCAB
    rows == 0 || n == 0 || (match sliceStart s i x with
      | some v0 => v0 % 1024 == 0 && (n % 1024 == 0 || v0 + n == vocab) && v0 + n ≤ vocab && leAt d 16 2 + rows ≤ sliceRows s i x
      | none => false)
  | _ => true

/-- An outgoing window of the job that holds the whole global range (R145). -/
def outWindow (s : State) (i : SetId) (j : Nat) (rows : List (Nat × Nat)) : Option Nat :=
  (List.range 64).find? fun w =>
    let b := s.fld i .MEM_OWINw_0_DEST w
    let n := s.fld i .MEM_OWINw_1_SIZE w * 4096
    n != 0 && s.fld i .MEM_OWINw_1_JOB w == j && rows.all fun r => b ≤ r.1 && r.1 + r.2 ≤ b + n

/-- Destination rows of a MOVE or COPY (R76). -/
def moveDst (d : List Byte) (a2 : Nat) : List (Nat × Nat) :=
  let len := leAt d 24 3 * 32
  let rows := max 1 (leAt d 28 3)
  let mode := leAt d 27 1
  let g := 2 ^ bits mode 2 2
  if len = 0 then []
  else if bit mode 1 then rowsAt a2 (leAt d 36 3 * 32) (rows * g) (len / g) else rowsAt a2 (leAt d 36 3 * 32) len rows

/-- The range checks of issue: 0 passed, 1 F_BOUNDS, 2 F_UNPOWERED (R9, R74, R76, R124, R137, R141, R145). -/
def rangeCheck (s : State) (i : SetId) (j : Nat) (t : DType) (x : Issued) : Nat :=
  let ops := operands t x
  let bad := ops.any fun o => o.rows.any fun r => !(populated r.1 r.2 && o.lvl.allows x.core r.1 r.2 && inRegion s i j r.1 r.2 o.write)
  let global := isGlobal t x.d
  let dst := moveDst x.d x.a2
  let winBad := global && (2 ^ 62 ≤ x.a2 || (!dst.isEmpty && (outWindow s i j dst).isNone))
  let ovl := (t == .move || t == .copy) && !global &&
    (match ops with
    | [r, w] => r.rows.any fun a => w.rows.any fun b => meets a b
    | _ => false)
  if bad || winBad || ovl then 1
  else if ops.any fun o => o.rows.any fun r => !powered s i r.1 r.2 then 2
  else 0

/-! ## Scoreboard (R130 to R132) -/

/-- Pieces of a range, by buffer kind and offset: array 1's part of a buffer counts as array 0's (5.7). -/
def sbPieces (a n : Nat) : List (Nat × Nat) :=
  match spaceOf a with
  | .buf k off =>
    [(0, 0x4_0000, 0), (0x4_0000, 0x4_0000, 0), (0x8_0000, 0x4_0000, 0x8_0000), (0xC_0000, 0x4_0000, 0x8_0000),
      (0x10_0000, 0x2_0000, 0x10_0000), (0x12_0000, 0x2_0000, 0x10_0000)].filterMap fun (b : Nat × Nat × Nat) =>
      let lo := max off b.1
      let hi := min (off + n) (b.1 + b.2.1)
      if lo < hi then some (bufBase k + b.2.2 + (lo - b.1), hi - lo) else none
  | _ => [(a, n)]

/-- An entry's interval and a range overlap. -/
def sbMeets (e : SbEnt) (r : Nat × Nat) : Bool :=
  (sbPieces e.lo (e.hi - e.lo)).any fun p => (sbPieces r.1 r.2).any fun q => meets p q

/-- The interval that bounds what one operand writes, at 32-byte granularity (5.7). Rows of array descriptors and of TAKE
are taken by buffer kind and offset. -/
def sbInterval (t : DType) (rows : List (Nat × Nat)) : Option (Nat × Nat) :=
  let rs := if t.unit == some 0 || t == .take then rows.flatMap fun r => sbPieces r.1 r.2 else rows
  match rs with
  | [] => none
  | r :: q => some (q.foldl (fun (p : Nat × Nat) x => (min p.1 (x.1 / 32 * 32), max p.2 (up32 (x.1 + x.2)))) (r.1 / 32 * 32, up32 (r.1 + r.2)))

/-- The entries a descriptor creates (R130): one for each written operand. -/
def sbEntries (t : DType) (x : Issued) : List (Nat × Nat) :=
  ((operands t x).filter (·.write)).filterMap fun o => sbInterval t o.rows

/-- Entries of one core's scoreboard (MEM_CAPd.SBE). -/
def sbDepth : Nat := 64

/-- The descriptor waits in state 2 (R131). -/
def sbBlocked (s : State) (i : SetId) (t : DType) (x : Issued) : Bool :=
  let sb := (s.core i x.core).sb
  sbDepth < sb.length + (sbEntries t x).length ||
    (!sb.isEmpty && (operands t x).any fun o => o.rows.any fun r => sb.any fun e => sbMeets e r)

/-- The descriptor waits in state 3 (Table 3-2, R179): its queue is full, or a mapping is pending and its W lies in the
operand-port range. -/
def queueBlocked (s : State) (i : SetId) (t : DType) (x : Issued) : Bool :=
  match t.unit with
  | none => false
  | some u => queueDepth u ≤ ((s.core i x.core).queue u).length ||
      (x.opxEnd ≠ 0 && s.fld i .CORE_SLOT_MAP_SLOT_MAP_PENDING x.core = 1)

/-- A graft latch is cleared when X or U of its GRAFT is written (R184). -/
def latchTouch (s : State) (i : SetId) (k : Nat) (rows : List (Nat × Nat)) : State :=
  if (s.core i k).latch.isEmpty then s
  else s.onCore i k fun c => { c with latch := c.latch.filter fun g => !(g.src.any fun a => rows.any fun b => meets a b) }

end Sys2Proof.Machine
end

