-- ==== Sys2Proof/Machine/Caller.lean ====
section
/-! DEFINITION. The caller: fetch, issue, the types it executes itself, waiting slots and completion (3.2 to 3.5, 5.7, 11.2,
11.3, 11.5). -/

namespace Sys2Proof.Machine

/-! ## Fetch (R68) -/

/-- The slot may fetch from the address: 64-byte aligned, in the core's own memory, in a region of its job. -/
def fetchOk (s : State) (i : SetId) (k n a : Nat) : Bool :=
  a % 64 == 0 && (match spaceOf a with | .core c off => c == k && off + 64 ≤ 0x60_0000 | _ => false) &&
    inRegion s i (s.fld i .CORE_SLOTn_PC_JOB (slotIx k n)) a 64 false

/-- The address of the next descriptor to fetch. -/
def fetchAddr (s : State) (i : SetId) (k n : Nat) : Nat :=
  s.fld i .CORE_SLOTn_PC_PC (slotIx k n) + 64 * (s.slot i k n).prefetch.length

/-- DESCRIPTOR_FETCH (R68): one descriptor into the prefetch buffer. A bad program counter halts the slot; an address behind
it is tried when it becomes the program counter (log entry 12). A word that cannot be corrected is handled by Table 15-4,
and nothing is fetched (log entry 12). -/
def execDescriptorFetch (i : SetId) (core : CoreId) (slot : SlotId) (s : State) : Out :=
  let k := core.val
  let n := slot.val
  let x := slotIx k n
  let st := slotState s i k n
  let a := fetchAddr s i k n
  let pre := (s.slot i k n).prefetch
  if st = 0 ∨ st = 6 ∨ 8 ≤ pre.length ∨ (s.core i k).stopped then .next s
  else if !fetchOk s i k n a then
    .next (if pre.isEmpty then haltSlot s i k n .bounds a (s.fld i .CORE_SLOTn_STAT_TAG x) 0 a else s)
  else
    let j := s.fld i .CORE_SLOTn_PC_JOB x
    let (d, bad, ends, s) := readOperand s i j 0 a 2
    if ends then .next (leaveJob s i j .byContainment)
    else if bad then .next s
    else .next (s.onSlot i k n fun t => { t with prefetch := t.prefetch ++ [(a, d)] })

/-! ## Advance -/

/-- The slot has issued a descriptor: PC, TAG, round-robin position, prefetch buffer (R63, Tables 3-22, 3-24). -/
def advance (s : State) (i : SetId) (k n pc : Nat) (d : List Byte) : State :=
  let x := slotIx k n
  let s := s.setFld i .CORE_SLOTn_PC_PC x (pc + 64)
  let s := s.setFld i .CORE_SLOTn_STAT_TAG x (dTag d)
  (s.onSlot i k n fun t => { t with prefetch := t.prefetch.drop 1 }).onCore i k fun c => { c with rr := n }

/-- The slot goes on at another address. -/
def jumpTo (s : State) (i : SetId) (k n pc : Nat) : State :=
  (s.setFld i .CORE_SLOTn_PC_PC (slotIx k n) pc).onSlot i k n fun t => { t with prefetch := [] }

/-- DONE is checked at issue (R296, R301): 0 passed, 1 F_SYNC_ID, 2 F_SYNC_KIND. -/
def doneCheck (s : State) (i : SetId) (j : Nat) (d : List Byte) : Nat :=
  if !dDoneEn d then 0
  else match ctrOf s i j (dDone d) with
    | none => 1
    | some p => if s.fld i .SYNC_CTRp_0_KIND p = 2 then 2 else 0

/-! ## Types that the caller executes -/

/-- A waiting slot is shown in state 4 (Table 3-24). -/
def sleepOn (s : State) (i : SetId) (k n v p amount : Nat) : State :=
  let s := s.setFld i .CORE_SLOTn_STAT_WCTR (slotIx k n) v
  enqueue (setSlotState s i k n 4) i p (.slot k n amount)

/-- SIGNAL (R297, R304, R305, R309) with the checks already passed by its form. -/
def doSignal (s : State) (i : SetId) (k n j pc : Nat) (d : List Byte) : State :=
  let amount := leAt d 12 4
  let v := leAt d 8 2 % 4096
  let fault (c : FC) (detail : Nat) := haltSlot s i k n c pc (dTag d) 0 detail
  let ok (s : State) := oweDone (advance s i k n pc d) i k n j pc d
  if bit (leAt d 8 2) 15 then
    let pl := leAt d 16 4
    let r : RemoteOut := { place := pl, exp := v, n := amount, tag := dTag d, pc := pc }
    ok ((s.onSlot i k n fun t => { t with remote := t.remote ++ [r] }).emit .remoteSignal i.val [pl, v, amount, k, n])
  else match ctrOf s i j v with
    | none => fault .syncId v
    | some p =>
      if s.fld i .SYNC_CTRp_0_KIND p = 2 then
        match nodeOf s i p with
        | none => fault .syncKind p
        | some x =>
          let gen := s.fld i .SYNC_CTRp_1_GEN p
          let held := match (s.slot i k n).arrival with
            | some (q, g) => s.fld i .SYNC_CTRp_1_GEN q == g
            | none => false
          if s.fld i .SYNC_CTRp_1_BROKEN p = 1 then fault .syncOwnerLost p
          else if held then fault .syncBarrier p
          else if s.fld i .SYNC_BNODEi_0_LOCAL x < s.fld i .SYNC_CTRp_1_VALUE p + amount then fault .syncOverflow p
          else
            let s := markSrc (ok s) i p (.slot k n)
            let s := s.setFld i .SYNC_CTRp_1_VALUE p (s.fld i .SYNC_CTRp_1_VALUE p + amount)
            nodeCheck (s.onSlot i k n fun t => { t with arrival := some (p, gen) }) i x p
      else match addCheck s i p amount with
        | 0 => addBase (ok s) i p amount (.slot k n)
        | 1 => fault .syncOverflow p
        | _ => fault .syncKind p

/-- WAIT (R297, R298, R300, R309). -/
def doWait (s : State) (i : SetId) (k n j pc : Nat) (d : List Byte) : State :=
  let amount := leAt d 12 4
  let v := leAt d 8 2
  let fault (c : FC) (detail : Nat) := haltSlot s i k n c pc (dTag d) 0 detail
  match ctrOf s i j v with
  | none => fault .syncId v
  | some p =>
    let kind := s.fld i .SYNC_CTRp_0_KIND p
    let begin_ (s : State) := (advance s i k n pc d).onSlot i k n fun t => { t with cur := some (pc, d) }
    if s.fld i .SYNC_CTRp_0_RETURN p = 1 ∨ (kind ≠ 0 ∧ amount ≠ 1) ∨ 3 ≤ kind then fault .syncKind p
    else if kind = 2 then
      if s.fld i .SYNC_CTRp_1_BROKEN p = 1 then fault .syncOwnerLost p
      else match (s.slot i k n).arrival with
        | some (q, g) =>
          if q ≠ p then fault .syncBarrier p
          else if s.fld i .SYNC_CTRp_1_GEN p ≠ g then
            waitDone ((begin_ s).onSlot i k n fun t => { t with arrival := none }) i k n p
          else
            let s := (begin_ s).setFld i .CORE_SLOTn_STAT_WCTR (slotIx k n) v
            let s := setSlotState s i k n 4
            setWaiters s i p (SMap.get [] (s.st i).waiters p ++ [.slot k n 1])
        | none => fault .syncBarrier p
    else sleepOn (begin_ s) i k n v p amount

/-- CONSUME (R297, R300). -/
def doConsume (s : State) (i : SetId) (k n j pc : Nat) (d : List Byte) : State :=
  let amount := leAt d 12 4
  let v := leAt d 8 2
  let fault (c : FC) (detail : Nat) := haltSlot s i k n c pc (dTag d) 0 detail
  match ctrOf s i j v with
  | none => fault .syncId v
  | some p =>
    let kind := s.fld i .SYNC_CTRp_0_KIND p
    let value := s.fld i .SYNC_CTRp_1_VALUE p
    if s.fld i .SYNC_CTRp_0_RETURN p = 1 ∨ 2 ≤ kind ∨ (kind = 1 ∧ amount ≠ 1) then fault .syncKind p
    else if value < amount then fault .syncUnderflow p
    else serve ((oweDone (advance s i k n pc d) i k n j pc d).setFld i .SYNC_CTRp_1_VALUE p (value - amount)) i p

/-- The slot has descriptors in some queue of its core. -/
def slotBusy (c : Core) (n : Nat) : Bool := (List.range 5).any fun u => (c.queue u).any fun e => e.slot == n

/-- A FENCE of this scope may end (R82, R305). -/
def fenceDone (s : State) (i : SetId) (k n scope : Nat) : Bool :=
  !slotBusy (s.core i k) n && (scope == 0 || (s.slot i k n).remote.isEmpty)

/-- FENCE (R82). -/
def doFence (s : State) (i : SetId) (k n j pc : Nat) (d : List Byte) : State :=
  let scope := leAt d 8 1
  let s := advance s i k n pc d
  if fenceDone s i k n scope then oweDone s i k n j pc d
  else setSlotState (s.onSlot i k n fun t => { t with fence := some scope, cur := some (pc, d) }) i k n 5

/-- The address behind the ENDLOOP that matches a LOOP (R69): 65,536 descriptors at most; an address that cannot be fetched
is F_BOUNDS. -/
def findEnd (s : State) (i : SetId) (k n : Nat) : Nat → Nat → Nat → Except FC Nat
  | 0, _, _ => .error .desc
  | f + 1, a, depth =>
    if !fetchOk s i k n a then .error .bounds
    else match DType.ofCode (leNat (peek s i a 1)) with
      | some .loop => findEnd s i k n f (a + 64) (depth + 1)
      | some .endloop => if depth = 0 then .ok (a + 64) else findEnd s i k n f (a + 64) (depth - 1)
      | _ => findEnd s i k n f (a + 64) depth

/-- DEPTH follows the loop stack. -/
def showDepth (s : State) (i : SetId) (k n : Nat) : State :=
  s.setFld i .CORE_SLOTn_STAT_DEPTH (slotIx k n) (s.slot i k n).loops.length

/-- LOOP (R69, R71). -/
def doLoop (s : State) (i : SetId) (k n j pc : Nat) (d : List Byte) : State :=
  let x := slotIx k n
  let sl := s.slot i k n
  let fault (c : FC) := haltSlot s i k n c pc (dTag d)
  let src := leAt d 11 1
  let count := if src = 0 then leAt d 8 3 else min (s.fld i .CORE_STEPVARn_v_VALUE (16 * x + (src - 1))) (leAt d 8 3)
  if 4 ≤ sl.loops.length then fault .desc
  else if count = 0 then
    match findEnd s i k n 65536 (pc + 64) 0 with
    | .error c => fault c
    | .ok a => jumpTo (oweDone (advance s i k n pc d) i k n j pc d) i k n a
  else
    let fr : LoopFrame := { body := pc + 64, left := count - 1, saved := sl.ofs, strides := [leAt d 12 4, leAt d 16 4, leAt d 20 4] }
    showDepth ((oweDone (advance s i k n pc d) i k n j pc d).onSlot i k n fun t => { t with loops := fr :: t.loops }) i k n

/-- The offset registers after one repetition (R71): none when an addition carries out of bit 43 or borrows below 0. -/
def stepOfs (ofs strides : List Nat) : Option (List Nat) :=
  (ofs.zip strides).foldr (fun p acc =>
    let v : Int := (p.1 : Int) + signed 32 p.2 * 32
    match acc with
    | some l => if 0 ≤ v ∧ v < 2 ^ 44 then some (v.toNat :: l) else none
    | none => none) (some [])

/-- ENDLOOP (R69, R71). -/
def doEndloop (s : State) (i : SetId) (k n j pc : Nat) (d : List Byte) : State :=
  let sl := s.slot i k n
  let fault (c : FC) := haltSlot s i k n c pc (dTag d)
  match sl.loops with
  | [] => fault .desc
  | fr :: rest =>
    if fr.left = 0 then
      showDepth ((oweDone (advance s i k n pc d) i k n j pc d).onSlot i k n fun t => { t with loops := rest, ofs := fr.saved }) i k n
    else match stepOfs sl.ofs fr.strides with
      | none => fault .bounds
      | some o =>
        let s := oweDone (advance s i k n pc d) i k n j pc d
        jumpTo (s.onSlot i k n fun t => { t with loops := { fr with left := fr.left - 1 } :: rest, ofs := o }) i k n fr.body

/-! ## Issue -/

/-- The next slot in round-robin order that is ready: state 1 with its next descriptor fetched (R63). -/
def nextSlot (s : State) (i : SetId) (k : Nat) : Option Nat :=
  ((List.range 8).map fun m => ((s.core i k).rr + 1 + m) % 8).find? fun n =>
    slotState s i k n = 1 && !(s.slot i k n).prefetch.isEmpty

/-- A queue entry is made (R65, R130); the GAP of the last array descriptor counts when the array queue becomes empty (R87). -/
def place (s : State) (i : SetId) (k n j pc u : Nat) (t : DType) (x : Issued) : State × QEnt :=
  let id := (s.core i k).nextId
  let e : QEnt := { id := id, slot := n, job := j, pc := pc, tag := dTag x.d, raw := x.d, a1 := x.a1, a2 := x.a2, a3 := x.a3, phase := .queued }
  let s := if u = 0 then s.onCore i k fun c => { c with gap := dGap x.d, gapDue := true } else s
  let s := s.onCore i k fun c => { (c.setQueue u (c.queue u ++ [e])) with
    nextId := id + 1, sb := c.sb ++ (sbEntries t x).map fun r => { lo := r.1, hi := r.2, owner := some id } }
  (showSb s i k, e)

/-- What the checks of issue say of a descriptor (R72 to R74, R131): a fault with its detail, the waiting state 2 or 3, or its
effective form. -/
inductive IssueCheck where
  | bad (c : FC) (detail : Nat)
  | waits (st : Nat)
  | go (x : Issued)
deriving DecidableEq, Repr

/-- The checks of a descriptor for a unit queue, in this order (log entry 13): form, DONE, offsets, ranges, power, then the
scoreboard and the queue. -/
def issueCheck (s : State) (i : SetId) (k n j : Nat) (t : DType) (d : List Byte) : IssueCheck :=
  if !(headerForm t d && reservedZero t d && fieldForm t d && addrForm t d) then .bad .desc 0
  else if doneCheck s i j d = 1 then .bad .syncId (dDone d)
  else if doneCheck s i j d = 2 then .bad .syncKind (dDone d)
  else match effAddrs t (s.slot i k n).ofs d with
    | none => .bad .bounds 0
    | some a =>
      let x := issued s i k t d a
      if !stateForm s i t x then .bad .desc 0
      else match rangeCheck s i j t x with
        | 1 => .bad .bounds x.a1
        | 2 => .bad .unpowered x.a1
        | _ => if sbBlocked s i t x then .waits 2 else if queueBlocked s i t x then .waits 3 else .go x

/-- A slot issues its next descriptor, which is of type `t` (R62 to R75). For a descriptor that enters a unit queue the entry
made is answered too. -/
def issueFrom (s : State) (i : SetId) (k n pc : Nat) (t : DType) (d : List Byte) : State × Option QEnt :=
  let j := s.fld i .CORE_SLOTn_PC_JOB (slotIx k n)
  match issueCheck s i k n j t d with
  | .bad c detail => (haltSlot s i k n c pc (dTag d) 0 detail, none)
  | .waits st =>
    let s := if st = 2 then s.satFld i .CORE_SB_STAT_WAITS k 1 else s
    (setSlotState s i k n st, none)
  | .go x =>
    match t with
    | .signal => (doSignal s i k n j pc d, none)
    | .wait => (doWait s i k n j pc d, none)
    | .consume => (doConsume s i k n j pc d, none)
    | .fence => (doFence s i k n j pc d, none)
    | .loop => (doLoop s i k n j pc d, none)
    | .endloop => (doEndloop s i k n j pc d, none)
    | t =>
      let (s, e) := place s i k n j pc (t.unit.getD 0) t x
      (advance s i k n pc d, some e)

/-- One issue event of a core for a descriptor of type `want`: the cells that changed since the last command; a stopped core
issues nothing (R62); the next ready slot (R63), which a debug hold takes into state 7 (R449); a lockstep difference
(R62); an unlisted type (R72). A slot whose next descriptor is of another type leaves the event without effect. -/
def issueEvent (want : DType) (ev : Issue) (s : State) : State × Option QEnt :=
  let i := ev.set
  let k := ev.core.val
  let s := ev.upsets.foldl (fun s u => upsetWord s i u) s
  if (s.st i).lost ∨ (s.core i k).stopped then (s, none)
  else match nextSlot s i k with
    | none => (s, none)
    | some n =>
      match (s.slot i k n).prefetch with
      | [] => (s, none)
      | (pc, d) :: _ =>
        if holdOn s i k n then (setSlotState s i k n 7, none)
        else if ev.disagree then (pruneCore s i k .callerLockstep n 0 (dTag d), none)
        else match dtype d with
          | none => (haltSlot s i k n .desc pc (dTag d), none)
          | some t => if t = want then issueFrom s i k n pc t d else (s, none)

/-! ## Waiting slots -/

/-- A slot in state 2, 3 or 5 whose reason to wait has gone becomes ready (R64, R131, R82). -/
def recheckSlot (s : State) (i : SetId) (k n : Nat) : State :=
  let j := s.fld i .CORE_SLOTn_PC_JOB (slotIx k n)
  match slotState s i k n, (s.slot i k n).prefetch with
  | 5, _ =>
    match (s.slot i k n).fence with
    | some sc =>
      if fenceDone s i k n sc then
        let s := match (s.slot i k n).cur with
          | some (pc, d) => oweDone s i k n j pc d
          | none => s
        resumeSlot (s.onSlot i k n fun t => { t with fence := none, cur := none }) i k n
      else s
    | none => resumeSlot s i k n
  | 2, (_, d) :: _ | 3, (_, d) :: _ =>
    match dtype d with
    | some t => match issueCheck s i k n j t d with
      | .waits st => setSlotState s i k n st
      | _ => setSlotState s i k n 1
    | none => setSlotState s i k n 1
  | _, _ => s

/-- Every waiting slot of a set is looked at again. -/
def recheckSet (s : State) (i : SetId) : State :=
  (s.st i).cores.foldl (fun s c => (List.range 8).foldl (fun s n => recheckSlot s i c.1 n) s) s

/-- Cores whose array queue has become empty go on as R87 says. -/
def restArrays (s : State) (i : SetId) : State :=
  (s.st i).cores.foldl (fun s c =>
    if c.2.arrayQ.isEmpty && (c.2.gapDue || (coreArrays s i c.1).any fun p =>
        s.fld i .ARR_STATp_IDLE (2 * c.1 + p) == 0 && s.fld i .ARR_STATp_MARKING (2 * c.1 + p) == 0) then
      arraysEmpty (s.onCore i c.1 fun c => { c with gapDue := false }) i c.1
    else s) s

/-- A core whose arrays failed a check is pruned once the tile is written, or is gone (R89). -/
def pruneFailed (s : State) (i : SetId) : State :=
  (s.st i).cores.foldl (fun s c =>
    if c.2.failed && c.2.tile.isNone then pruneUnit (s.onCore i c.1 fun c => { c with failed := false }) i c.1 .arrCheck else s) s

/-- Jobs that a narrow write met with a word of KIND 0 end (R123, Table 15-4). -/
def endDueJobs (s : State) (i : SetId) : State :=
  if (s.st i).endDue.isEmpty then s
  else (s.st i).endDue.foldl (fun s j => leaveJob s i j .byContainment) (s.onSet i fun t => { t with endDue := [] })

/-- What follows a change of counters, queues or scoreboards: jobs that end for a narrow write, cores that failed a check, DONE increments that are due, slots that need
wait no longer, and the DONE increments of FENCEs that end. -/
def settle (s : State) (i : SetId) : State :=
  restArrays (payDones (recheckSet (payDones (pruneFailed (endDueJobs s i) i) i) i) i) i

/-! ## Completion -/

/-- Change a queue entry. -/
def onEnt (s : State) (i : SetId) (k u id : Nat) (f : QEnt → QEnt) : State :=
  s.onCore i k fun c => c.setQueue u ((c.queue u).map fun e => if e.id = id then f e else e)

/-- A descriptor has made every write. -/
def markDone (s : State) (i : SetId) (k u id : Nat) : State := onEnt s i k u id fun e => { e with phase := .done }

/-- The descriptor leaves its queue: scoreboard entries go, DONE falls due (R66). -/
def complete (s : State) (i : SetId) (k u : Nat) (e : QEnt) : State :=
  let s := s.onCore i k fun c => c.setQueue u ((c.queue u).filter fun x => x.id != e.id)
  let s := releaseSb s i k e.id
  oweDone s i k e.slot e.job e.pc e.raw

/-! ## Meanings -/

/-- SIGNAL (R81, R297, R304). -/
def execSignal (ev : Issue) (s : State) : Out := .next (settle (issueEvent .signal ev s).1 ev.set)

/-- WAIT (R81, R300). -/
def execWait (ev : Issue) (s : State) : Out := .next (settle (issueEvent .wait ev s).1 ev.set)

/-- CONSUME (R81, R297). -/
def execConsume (ev : Issue) (s : State) : Out := .next (settle (issueEvent .consume ev s).1 ev.set)

/-- FENCE (R82). -/
def execFence (ev : Issue) (s : State) : Out := .next (settle (issueEvent .fence ev s).1 ev.set)

/-- LOOP (R69). -/
def execLoop (ev : Issue) (s : State) : Out := .next (settle (issueEvent .loop ev s).1 ev.set)

/-- ENDLOOP (R71). -/
def execEndloop (ev : Issue) (s : State) : Out := .next (settle (issueEvent .endloop ev s).1 ev.set)

/-- REMOTE_SIGNAL_REPLY (R305): the reply to a slot's oldest remote SIGNAL. -/
def execRemoteSignalReply (i : SetId) (core : CoreId) (slot : SlotId) (cause : Nat) (s : State) : Out :=
  .next (settle (remoteReply s i core.val slot.val cause) i)

end Sys2Proof.Machine
end

