-- ==== Sys2Proof/Machine/MemEng.lean ====
section
/-! DEFINITION. The memory engine: MOVE, COPY, FILL (R76, R77), outgoing and incoming windows (5.11), segments (5.9). -/

namespace Sys2Proof.Machine

/-- Source rows of a MOVE or COPY. -/
def moveSrc (d : List Byte) (a1 : Nat) : List (Nat × Nat) :=
  rowsAt a1 (leAt d 32 3 * 32) (leAt d 24 3 * 32) (max 1 (leAt d 28 3))

/-- The bytes of the source rows and, per row, the offsets of words that could not be corrected (R418). -/
def readRows (s : State) (i : SetId) : List (Nat × Nat) → List (List Byte × List Nat) × State
  | [] => ([], s)
  | (a, n) :: q =>
    let (d, bad, s) := readWords s i a (n / 32)
    let (r, s) := readRows s i q
    ((d, bad.map (· - a)) :: r, s)

/-- Row `c` of the transpose of rows of g-byte granules: its bytes, and the offsets of words that hold a granule of a bad
source word (R76). -/
def transRow (src : List (List Byte × List Nat)) (g c : Nat) : List Byte × List Nat :=
  let bs := src.flatMap fun r => (r.1.drop (c * g)).take g
  let bad := src.zipIdx.filterMap fun p => if p.1.2.any (fun o => o ≤ c * g && c * g < o + 32) then some (p.2 * g / 32 * 32) else none
  (bs, bad)

/-- What a MOVE or COPY sends to its destination rows. -/
def moveData (s : State) (i : SetId) (d : List Byte) (a1 a2 : Nat) : List (Nat × List Byte × List Nat) × State :=
  let mode := leAt d 27 1
  let g := 2 ^ bits mode 2 2
  let (src, s) := readRows s i (moveSrc d a1)
  let rows := if bit mode 1 then (List.range (leAt d 24 3 * 32 / g)).map (transRow src g) else src
  (((moveDst d a2).map (·.1)).zip rows, s)

/-- Write rows, poisoned where a word could not be corrected. -/
def writeRows (s : State) (i : SetId) (rows : List (Nat × List Byte × List Nat)) : State :=
  rows.foldl (fun s r => r.2.2.foldl (fun s o => poisonWord s i (r.1 + o)) (store s i r.1 r.2.1)) s

/-- A local MOVE, or a COPY (R76). -/
def doMove (s : State) (i : SetId) (k : Nat) (d : List Byte) (a1 a2 : Nat) : State :=
  if leAt d 24 3 = 0 then s
  else
    let (rows, s) := moveData s i d a1 a2
    latchTouch (writeRows s i rows) i k (moveDst d a2)

/-- FILL (R77). -/
def doFill (s : State) (i : SetId) (k : Nat) (d : List Byte) (a1 : Nat) : State :=
  let len := leAt d 16 3 * 32
  let rows := if len = 0 then [] else rowsAt a1 (leAt d 28 3 * 32) len (max 1 (leAt d 24 3))
  let pat := (List.range (len / 4)).flatMap fun _ => slice d 20 4
  latchTouch (rows.foldl (fun s r => store s i r.1 pat) s) i k rows

/-- Credit units of a MOVE into a window (R147). -/
def moveCredit (d : List Byte) : Nat := (leAt d 24 3 * 32 * max 1 (leAt d 28 3) + 4095) / 4096

/-- A MOVE into a window sends its writes (R145, R147); each carries its poisoned words. -/
def sendWindow (s : State) (i : SetId) (k : Nat) (e : QEnt) : State :=
  let (rows, s) := moveData s i e.raw e.a1 e.a2
  let s := rows.foldl (fun s r => s.emit .windowWrite i.val ([r.1, k, e.id] ++ r.2.2) r.2.1) s
  onEnt s i k 2 e.id fun e => { e with phase := .running, waits := rows.length }

/-- One descriptor of the memory queue starts; none when it waits for credit (R147). -/
def memStart (s : State) (i : SetId) (k : Nat) (e : QEnt) : Option State :=
  match dtype e.raw with
  | some .fill => some (markDone (doFill s i k e.raw e.a1) i k 2 e.id)
  | some t =>
    if isGlobal t e.raw && leAt e.raw 24 3 != 0 then
      match outWindow s i e.job (moveDst e.raw e.a2) with
      | some w =>
        let c := s.fld i .MEM_OWINw_1_CREDIT w
        if c < moveCredit e.raw then none
        else some (sendWindow (s.setFld i .MEM_OWINw_1_CREDIT w (c - moveCredit e.raw)) i k e)
      | none => none
    else some (markDone (doMove s i k e.raw e.a1 e.a2) i k 2 e.id)
  | none => some s

/-- The memory queue starts its descriptors in order, up to one that waits (R65, R147). -/
def memPump (i : SetId) (k : Nat) : List QEnt → State → State
  | [], s => s
  | e :: q, s =>
    if e.phase = .queued then
      match memStart s i k e with
      | some s => memPump i k q s
      | none => s
    else memPump i k q s

/-- Start what can start in a core's memory queue. -/
def memGo (s : State) (i : SetId) (k : Nat) : State := memPump i k (s.core i k).memoryQ s

/-- MOVE (R76, R145, R147). -/
def execMove (ev : Issue) (s : State) : Out :=
  .next (settle (memGo (issueEvent .move ev s).1 ev.set ev.core.val) ev.set)

/-- COPY (R76). -/
def execCopy (ev : Issue) (s : State) : Out :=
  .next (settle (memGo (issueEvent .copy ev s).1 ev.set ev.core.val) ev.set)

/-- FILL (R77). -/
def execFill (ev : Issue) (s : State) : Out :=
  .next (settle (memGo (issueEvent .fill ev s).1 ev.set ev.core.val) ev.set)

/-! ## Windows -/

/-- CREDIT_GRANT (R146): a grant reaches the sender's outgoing window; it is cut at the window's size. -/
def execCreditGrant (i : SetId) (win : Fin 64) (units : Nat) (s : State) : Out :=
  let w := win.val
  let size := s.fld i .MEM_OWINw_1_SIZE w
  let c := s.fld i .MEM_OWINw_1_CREDIT w + units
  let j := s.fld i .MEM_OWINw_1_JOB w
  let s := s.setFld i .MEM_OWINw_1_CREDIT w (min c size)
  let s := if size < c then report s i { FC.winCredit.fr with die := linkDie i, job := j, detail := w } else s
  .next (settle ((s.st i).cores.foldl (fun s e => memGo s i e.1) s) i)

/-- The open window that takes a write from this sender (R144, R148). -/
def inWindow (s : State) (i : SetId) (sender a n : Nat) : Option Nat :=
  (List.range 64).find? fun w =>
    let b := s.fld i .MEM_WINw_0_BASE w
    s.fld i .MEM_WINw_0_OPEN w == 1 && s.fld i .MEM_WINw_1_SENDER w == sender && b ≤ a &&
      a + n ≤ b + s.fld i .MEM_WINw_1_SIZE w * 4096

/-- A window write is accepted: it takes an entry in the scoreboard of the window's home core `k` (R132), is written, gives the entry back
when it is readable, and is acknowledged. -/
def acceptWindow (s : State) (i : SetId) (k sender a : Nat) (d : List Byte) (bad : List Nat) : State :=
  let s := showSb (s.onCore i k fun c => { c with sb := c.sb ++ [{ lo := a, hi := a + d.length, owner := none }] }) i k
  let s := writeRows s i [(a, d, bad)]
  let s := showSb (s.onCore i k fun c => { c with sb := c.sb.filter fun e => e.owner != none }) i k
  s.emit .windowReply i.val [sender, 0]

/-- WINDOW_WRITE (R132, R137, R148): the write is rejected, discarded for an unpowered segment, held while the home core's
scoreboard is full, or made; its scoreboard entry lasts until it is readable, which is within this command. -/
def execWindowWrite (i : SetId) (sender addr : Nat) (data : List Byte) (poisoned : List Nat) (s : State) : Out :=
  match inWindow s i sender addr data.length with
  | none =>
    .next ((report s i { FC.winReject.fr with die := linkDie i, detail := addr }).emit .windowReply i.val [sender, 1])
  | some w =>
    if !powered s i addr data.length then .next (s.emit .windowReply i.val [sender, 2])
    else if sbDepth ≤ (s.core i (s.fld i .MEM_WINw_0_HOME w)).sb.length then
      .next (s.onSet i fun t => { t with winHeld := t.winHeld ++ [(sender, addr, data, poisoned)] })
    else .next (acceptWindow s i (s.fld i .MEM_WINw_0_HOME w) sender addr data poisoned)

/-- Window writes held for want of a scoreboard entry go on in order (R132). -/
def heldWindows (s : State) (i : SetId) : State :=
  (s.st i).winHeld.foldl (fun s w =>
    match inWindow s i w.1 w.2.1 w.2.2.1.length with
    | none => (report s i { FC.winReject.fr with die := linkDie i, detail := w.2.1 }).emit .windowReply i.val [w.1, 1]
    | some x =>
      if !powered s i w.2.1 w.2.2.1.length then s.emit .windowReply i.val [w.1, 2]
      else if sbDepth ≤ (s.core i (s.fld i .MEM_WINw_0_HOME x)).sb.length then
        s.onSet i fun t => { t with winHeld := t.winHeld ++ [w] }
      else acceptWindow s i (s.fld i .MEM_WINw_0_HOME x) w.1 w.2.1 w.2.2.1 w.2.2.2) (s.onSet i fun t => { t with winHeld := [] })

/-- WINDOW_WRITE_ACK (R66, R148): a reply reaches the MOVE at a place of the memory queue. -/
def execWindowWriteAck (i : SetId) (core : CoreId) (pos : Nat) (reply : WinReply) (s : State) : Out :=
  let k := core.val
  match (s.core i k).memoryQ[pos]? with
  | some e =>
    if e.phase = .running then
      match reply with
      | .accepted =>
        .next (onEnt s i k 2 e.id fun e => { e with waits := e.waits - 1, phase := if e.waits ≤ 1 then .done else .running })
      | .rejected => .next (settle (haltSlot s i k e.slot .winClosed e.pc e.tag 0 e.a2) i)
      | .unpowered => .next (settle (haltSlot s i k e.slot .unpowered e.pc e.tag 0 e.a2) i)
    else .next s
  | none => .next s

/-! ## Segments (R137 to R140) -/

/-- Set a segment's state and the bits that show it: READY when ready, PENDING while it drains. -/
def setSeg (s : State) (i : SetId) (d g : Nat) (v : SegState) : State :=
  let s := s.onSet i fun t => { t with segs := SMap.put .off t.segs (9 * d + g) v }
  let put (s : State) (f : Field) (b : Bool) := s.setFld i f d (putBits (s.fld i f d) g 1 (bitOf b))
  put (put s .MEM_SEGPWRd_READY (v == .ready)) .MEM_SEGPWRd_PENDING (v == .draining)

/-- ON of a segment. -/
def segOn (s : State) (i : SetId) (d g : Nat) : Bool := bit (s.fld i .MEM_SEGPWRd_ON d) g

/-- Write ON of a segment. -/
def setSegOn (s : State) (i : SetId) (d g : Nat) (b : Bool) : State :=
  s.setFld i .MEM_SEGPWRd_ON d (putBits (s.fld i .MEM_SEGPWRd_ON d) g 1 (bitOf b))

/-- The addresses of a segment. -/
def segBase (d g : Nat) : Nat := (if d = 0 then 0xC00_0000_0000 else 0xC00_4000_0000) + g * 0x400_0000

/-- A descriptor in some queue touches a segment (R138). -/
def segInUse (s : State) (i : SetId) (d g : Nat) : Bool :=
  (s.st i).cores.any fun c => (List.range 5).any fun u => (c.2.queue u).any fun e =>
    match dtype e.raw with
    | some t => (operands t (issued s i c.1 t e.raw (e.a1, e.a2, e.a3))).any fun o => o.rows.any fun r => meets r (segBase d g, 0x400_0000)
    | none => false

/-- A segment loses its contents: what it holds when it is filled again is zero (R138, R139). -/
def loseSeg (s : State) (i : SetId) (d g : Nat) : State := zeroFill s i (segBase d g) 0x400_0000

/-- SEGMENT_POWER_OFF (R138, R140): ON is cleared. A ready segment drains; one that is powering goes on filling. -/
def execSegmentPowerOff (i : SetId) (die : CDie) (seg : Fin 9) (s : State) : Out :=
  let s := setSegOn s i die.val seg.val false
  .next (if segState s i die.val seg.val = .ready then setSeg s i die.val seg.val .draining else s)

/-- SEGMENT_POWER_ON (R139, R140): ON is set. A segment that is off starts powering; one that drains goes on draining. -/
def execSegmentPowerOn (i : SetId) (die : CDie) (seg : Fin 9) (s : State) : Out :=
  let s := setSegOn s i die.val seg.val true
  .next (if segState s i die.val seg.val = .off then setSeg s i die.val seg.val .powering else s)

/-- SEGMENT_DRAIN_END (R138, R140): when no descriptor in flight touches the draining segment it powers down; with ON set
again it starts powering at once. -/
def execSegmentDrainEnd (i : SetId) (die : CDie) (seg : Fin 9) (s : State) : Out :=
  let d := die.val
  let g := seg.val
  if segState s i d g = .draining ∧ !segInUse s i d g then
    let s := loseSeg s i d g
    .next (setSeg s i d g (if segOn s i d g then .powering else .off))
  else .next s

/-- SEGMENT_READY (R139, R140): the fill of a powering segment completes; with ON clear it drains and powers down at once. -/
def execSegmentReady (i : SetId) (die : CDie) (seg : Fin 9) (s : State) : Out :=
  let d := die.val
  let g := seg.val
  if segState s i d g = .powering then
    let s := loseSeg s i d g
    .next (setSeg s i d g (if segOn s i d g then .ready else .off))
  else .next s

end Sys2Proof.Machine
end

