-- ==== Sys2Proof/Machine/Chan.lean ====
section
/-! DEFINITION. Channels: SEND, and messages and replies as they arrive (11.7, R293). -/

namespace Sys2Proof.Machine

/-- The instance of an endpoint's registers. -/
def chanIx (k c : Nat) : Nat := 64 * k + c

/-- CHAN of a SEND. -/
def sendChan (d : List Byte) : Nat := leAt d 16 1

/-- The entry is a SEND on endpoint c. -/
def isSendOn (c : Nat) (e : QEnt) : Bool := dtype e.raw == some .send && sendChan e.raw == c

/-- The circle is folded (R319): from the refold restart on, whatever follows, until it is whole again. -/
def foldedLine (s : State) (i : SetId) : Bool := !(s.st i).circ.line.isEmpty

/-- The receiving endpoint's place is lost from the topology (R314). -/
def destLost (s : State) (i : SetId) (x : Nat) : Bool :=
  let d := s.fld i .CHAN_TXk_c_0_DPLACE x
  d / 256 == s.fld i .CIRC_CFG_CIRCLE && ((s.st i).circ.gone.contains (d % 256) || (s.st i).circ.goneAt.any fun e => e.1 == d % 256)

/-- The first hop of an endpoint; none when the folded circle has no route, or when its destination is lost (R314, R319). -/
def firstHop (s : State) (i : SetId) (x : Nat) : Option Nat :=
  if destLost s i x then none
  else if foldedLine s i then
    let r := s.fld i .CHAN_TXk_c_0_FROUTE x
    if r = 7 then none else some r
  else some (s.fld i .CHAN_TXk_c_0_ROUTE x)

/-- The SEND completes without DONE, and its slot halts with the reason (R318). -/
def sendFail (s : State) (i : SetId) (k c reason : Nat) (e : QEnt) : State :=
  let s := s.setFld i .CHAN_TXk_c_1_LASTNACK (chanIx k c) reason
  let s := s.onCore i k fun q => { q with requestQ := q.requestQ.filter fun x => x.id != e.id }
  haltSlot s i k e.slot .chanNack e.pc e.tag reason c

/-- The message of a SEND leaves; an endpoint without a route is NACKed with NOROUTE by the set itself (R314, R319). -/
def sendOut (s : State) (i : SetId) (k c : Nat) (e : QEnt) : State :=
  let x := chanIx k c
  match firstHop s i x with
  | none => sendFail s i k c 4 e
  | some hop =>
    let (body, bad) := SMap.get ([], []) (s.core i k).sendBuf c
    let s := s.emit .chanMessage i.val ([hop, s.fld i .CHAN_TXk_c_0_DPLACE x, s.fld i .CHAN_TXk_c_0_DCORE x,
      s.fld i .CHAN_TXk_c_0_DCHAN x, k, c, e.seq] ++ bad) body
    onEnt s i k 4 e.id fun e => { e with phase := .running }

/-- A SEND takes its sequence number, reads its body and is sent (R314); a SEND of length 0 is a no-op (R73). -/
def sendStart (s : State) (i : SetId) (k : Nat) (e : QEnt) : State :=
  let c := sendChan e.raw
  let x := chanIx k c
  let len := leAt e.raw 17 3
  if len = 0 then markDone s i k 4 e.id
  else if s.fld i .CHAN_TXk_c_0_VALID x ≠ 1 then sendFail s i k c 4 e
  else
    let (d, bad, s) := readWords s i e.a1 len
    let seq := s.fld i .CHAN_TXk_c_1_SEQ x
    let s := s.setFld i .CHAN_TXk_c_1_SEQ x (seq + 1)
    let s := s.onCore i k fun q => { q with sendBuf := SMap.put ([], []) q.sendBuf c (d, bad.map (· - e.a1)) }
    let e := { e with seq := seq }
    sendOut (onEnt s i k 4 e.id fun _ => e) i k c e

/-- A SEND waits behind another on its endpoint (R318). -/
def sendHeld (s : State) (i : SetId) (k : Nat) (e : QEnt) : Bool :=
  leAt e.raw 17 3 != 0 &&
    (s.core i k).requestQ.any fun x => isSendOn (sendChan e.raw) x && (x.phase == .running || x.phase == .backoff)

/-- The SEND in flight on an endpoint. -/
def sendOf (s : State) (i : SetId) (k c : Nat) (p : Phase) : Option QEnt :=
  (s.core i k).requestQ.find? fun e => isSendOn c e && e.phase == p


/-- CHAN_RETRY (R318): the back-off of an endpoint has passed; the same message is sent again. -/
def execChanRetry (i : SetId) (core : CoreId) (chan : Fin 64) (s : State) : Out :=
  let k := core.val
  let c := chan.val
  match sendOf s i k c .backoff with
  | none => .next s
  | some e => .next (settle (sendOut (s.satFld i .CHAN_TXk_c_1_RETRIES (chanIx k c) 1) i k c e) i)

/-! ## Receiving (R315) -/

/-- Units that a ring's records take. -/
def ringUsed (e : RxEnd) : Nat := (e.recs.map fun r => r.1 + r.2).foldl (· + ·) 0

/-- Where a record of `l` units goes: the pad in front and its offset, in units; none when the ring lacks room (R315 steps 3
to 5). -/
def ringPlace (size head tail used l : Nat) : Option (Nat × Nat) :=
  if used ≠ 0 ∧ tail ≤ head then (if l ≤ head - tail then some (0, tail) else none)
  else if l ≤ size - tail then some (0, tail)
  else if l ≤ head then some (size - tail, 0)
  else none

/-- A record header (Table 11-4). -/
def recHeader (kind len seq src time : Nat) : List Byte :=
  leBytes 1 kind ++ leBytes 1 0 ++ leBytes 2 len ++ leBytes 4 seq ++ leBytes 4 src ++ leBytes 4 0 ++ leBytes 8 time ++ leBytes 8 0

/-- The message is placed: pad, header, body with its poisoned words, pointers, ARRIVE. -/
def placeMsg (s : State) (i : SetId) (x : Nat) (m : ChanMsg) (pad off : Nat) : State :=
  let base := s.fld i .CHAN_RXk_c_0_BASE x
  let size := s.fld i .CHAN_RXk_c_1_SIZE x
  let src := m.place % 2 ^ 18 + 2 ^ 18 * (m.core % 128) + 2 ^ 25 * (m.chan % 64)
  let len := m.body.length / 32
  let s := if pad = 0 then s else
    store s i (base + 32 * s.fld i .CHAN_RXk_c_2_TAIL x) (recHeader 2 (pad - 1) 0 src (s.time i))
  let a := base + 32 * off
  let s := store s i a (recHeader 1 len m.seq src (s.time i) ++ m.body)
  let s := m.poisoned.foldl (fun s o => poisonWord s i (a + 32 + o)) s
  let s := s.setFld i .CHAN_RXk_c_2_TAIL x ((off + len + 1) % size)
  let e := SMap.get {} (s.st i).rx x
  let e := { expect := some ((m.seq + 1) % 2 ^ 32), recs := e.recs ++ [(pad, len + 1)] : RxEnd }
  let s := s.onSet i fun t => { t with rx := SMap.put {} t.rx x e }
  let s := s.setFld i .CHAN_RXk_c_2_MSGS x e.recs.length
  unitSignal s i (coreDie i (x / 64)) (x / 64) (s.fld i .CHAN_RXk_c_0_JOB x) (s.fld i .CHAN_RXk_c_1_ARRIVE x) 1

/-- A reply to a message's sender. -/
def chanReply (s : State) (i : SetId) (m : ChanMsg) (reason : Nat) : State :=
  s.emit .chanReply i.val [m.place, m.core, m.chan, reason]

/-- The endpoint takes pass headers (R293). -/
def isPassEnd (s : State) (i : SetId) (x : Nat) : Bool :=
  s.fld i .CIRC_AUX_PASS_EN = 1 && x == chanIx (s.fld i .CIRC_AUX_PCORE) (s.fld i .CIRC_AUX_PCHAN)

/-- The endpoint accepts this sender (R313). -/
def rxAccepts (s : State) (i : SetId) (x : Nat) (m : ChanMsg) : Bool :=
  s.fld i .CHAN_RXk_c_0_VALID x = 1 && s.fld i .CHAN_RXk_c_1_SPLACE x = m.place && s.fld i .CHAN_RXk_c_2_SCORE x = m.core &&
    s.fld i .CHAN_RXk_c_2_SCHAN x = m.chan

/-- CHAN_MESSAGE (R315): an endpoint that is not OPEN NACKs first; then the message is accepted, placed, signalled and acknowledged, or
NACKed. The reason given to a sender that the endpoint does not name, and by an endpoint that is not VALID, is not stated: one of the four,
a free value. A lost set answers nothing (R317). -/
def execChanMessage (i : SetId) (core : CoreId) (chan : Fin 64) (msg : ChanMsg) (s : State) : Out :=
  let x := chanIx core.val chan.val
  let e := SMap.get {} (s.st i).rx x
  if (s.st i).lost then .next s
  else if s.fld i .CHAN_RXk_c_0_VALID x = 1 ∧ s.fld i .CHAN_RXk_c_2_OPEN x = 0 then .next (chanReply s i msg (if chanStat s i x = 1 then 2 else 3))
  else if !rxAccepts s i x msg then .next (chanReply s.spend i msg (1 + s.free 2))
  else if e.expect ≠ none ∧ e.expect ≠ some msg.seq then .next (chanReply s i msg 1)
  else
    match ringPlace (s.fld i .CHAN_RXk_c_1_SIZE x) (s.fld i .CHAN_RXk_c_2_HEAD x) (s.fld i .CHAN_RXk_c_2_TAIL x) (ringUsed e)
        (msg.body.length / 32 + 1) with
    | none => .next (chanReply s i msg 1)
    | some (pad, off) =>
      let s := chanReply (placeMsg s i x msg pad off) i msg 0
      let s := if isPassEnd s i x then onSu s i fun u => { u with headers := u.headers ++ [msg.body] } else s
      .next (settle s i)

end Sys2Proof.Machine
end

