-- ==== Sys2Proof/Machine/Jobs.lean ====
section
/-! DEFINITION. Job contexts: end, kill, release, start, and the steps of a teardown (5.12, R306, R317). -/

namespace Sys2Proof.Machine

/-- The teardown of a job. -/
def teardownOf (s : State) (i : SetId) (j : Nat) : Option Teardown := SMap.get none (s.st i).teardowns j

/-- Set or end a teardown. -/
def setTeardown (s : State) (i : SetId) (j : Nat) (t : Option Teardown) : State :=
  s.onSet i fun x => { x with teardowns := SMap.put none x.teardowns j t }

/-- Descriptors of the job are in some queue. -/
def jobBusy (s : State) (i : SetId) (j : Nat) : Bool :=
  (s.st i).cores.any fun c => (List.range 5).any fun u => (c.2.queue u).any fun e => e.job == j

/-- JOB_END (R149): issued descriptors complete. END is ignored unless the job is ACTIVE. -/
def execJobEnd (i : SetId) (job : JobId) (s : State) : Out := .next (settle (leaveJob s i job.val .byEnd) i)

/-- JOB_KILL (R149). -/
def execJobKill (i : SetId) (job : JobId) (s : State) : Out := .next (settle (leaveJob s i job.val .byKill) i)

/-- Another job holds the SHARED entry's range and has not come to step 6 of its teardown (R150). -/
def sharedHeld (s : State) (i : SetId) (r : Rgn) : Bool :=
  (rgns s i).any fun q => q.shared && q.job != r.job && q.base < r.base + r.size && r.base < q.base + q.size &&
    (match s.fld i .MEM_JOBj_STATE q.job with
    | 0 => false
    | 2 => (match teardownOf s i q.job with | some t => !t.filling | none => true)
    | _ => true)

/-- The regions of a job that its teardown fills (R150). -/
def fillRegions (s : State) (i : SetId) (j : Nat) : List Rgn :=
  (rgns s i).filter fun r => r.job == j && !(r.shared && sharedHeld s i r)

/-- The region lies in HBM. -/
def Rgn.hbm (r : Rgn) : Bool := spaceOf r.base == .hbm

/-- Step 6 of Table 5-6: on-chip regions filled with zero; HBM is left to step 7, which FILL_LEFT shows in GiB. -/
def fillOnChip (s : State) (i : SetId) (j : Nat) : State :=
  let rs := fillRegions s i j
  let s := (rs.filter fun r => !r.hbm).foldl (fun s r => zeroFill s i r.base r.size) s
  let left := ((rs.filter (·.hbm)).map (·.size)).foldl (· + ·) 0
  let s := s.setFld i .MEM_JOBj_FILL_LEFT j ((left + 2 ^ 30 - 1) / 2 ^ 30)
  let ex := match teardownOf s i j with | some t => t.exit | none => .byKill
  setTeardown s i j (some { exit := ex, filling := true })

/-- TEARDOWN_SETTLED (R149, R152, R306): steps 3 to 6. With END it waits for the job's issued descriptors, whose windows and credit serve
them until then. Under post-mortem hold the job ends in HELD. -/
def execTeardownSettled (i : SetId) (job : JobId) (s : State) : Out :=
  let j := job.val
  match teardownOf s i j with
  | some t =>
    if s.fld i .MEM_JOBj_STATE j ≠ 2 ∨ t.filling ∨ jobBusy s i j then .next s
    else
      let s := clearCtrs (clearLatches (closeWindows s i j) i j) i j
      if s.fld i .MEM_JOBj_PM_HOLD j = 1 then .next (settle (setTeardown (s.setFld i .MEM_JOBj_STATE j 3) i j none) i)
      else .next (settle (fillOnChip s i j) i)
  | none => .next s

/-- TEARDOWN_FILL_DONE (R150, R151): steps 7 and 8. -/
def execTeardownFillDone (i : SetId) (job : JobId) (s : State) : Out :=
  let j := job.val
  match teardownOf s i j with
  | some t =>
    if s.fld i .MEM_JOBj_STATE j = 2 ∧ t.filling then
      let s := ((fillRegions s i j).filter (·.hbm)).foldl (fun s r => zeroFill s i r.base r.size) s
      let s := s.setFld i .MEM_JOBj_FILL_LEFT j 0
      .next (setTeardown (s.setFld i .MEM_JOBj_STATE j 0) i j none)
    else .next s
  | none => .next s

/-- JOB_RELEASE (R152): a HELD job runs steps 6 to 8. -/
def execJobRelease (i : SetId) (job : JobId) (s : State) : Out :=
  let j := job.val
  if s.fld i .MEM_JOBj_STATE j = 3 then .next (fillOnChip (s.setFld i .MEM_JOBj_STATE j 2) i j) else .next s

/-! ## START -/

/-- Receive endpoints of a job are emptied and open (R317). -/
def openChans (s : State) (i : SetId) (j : Nat) : State :=
  (fieldIndices (s.st i).regs .CHAN_RXk_c_0_VALID).foldl (fun s x =>
    if s.fld i .CHAN_RXk_c_0_JOB x = j then
      let s := s.onSet i fun t => { t with rx := SMap.put {} t.rx x {} }
      let s := s.setFld i .CHAN_RXk_c_2_HEAD x 0
      let s := s.setFld i .CHAN_RXk_c_2_TAIL x 0
      let s := s.setFld i .CHAN_RXk_c_2_MSGS x 0
      setChanStat (s.setFld i .CHAN_RXk_c_2_OPEN x 1) i x 0
    else s) s

/-- The slots of a job that RUN (Table 3-22). -/
def runSlots (s : State) (i : SetId) (j : Nat) : List (Nat × Nat) :=
  ((List.range 80).flatMap fun k => (List.range 8).map fun n => (k, n)).filter fun p =>
    s.fld i .CORE_SLOTn_PC_RUN (slotIx p.1 p.2) = 1 && s.fld i .CORE_SLOTn_PC_JOB (slotIx p.1 p.2) = j

/-- Send endpoints of the cores that run the job count from 0 again (R317). -/
def restartSeq (s : State) (i : SetId) (j : Nat) : State :=
  (((runSlots s i j).map (·.1)).eraseDups).foldl (fun s k => (List.range 64).foldl (fun s c => s.setFld i .CHAN_TXk_c_1_SEQ (chanIx k c) 0) s) s

/-- Pass headers and waits of the circulation job are forgotten (R293). -/
def resetHeaders (s : State) (i : SetId) (j : Nat) : State :=
  if s.fld i .CIRC_CFG_JOB = j then onSu s i fun u => { u with headers := [], turnWaits := [], headerSeen := false } else s

/-- Holds of a job's slots are cleared (R450). -/
def dropHolds (s : State) (i : SetId) (j : Nat) : State := (jobSlots s i j).foldl (fun s p => dropHold s i p.1 p.2) s

/-- The slots of a job start at the addresses of the dance card (R153, R215); a pruned core's slots do not. -/
def startSlots (s : State) (i : SetId) (j : Nat) : State :=
  (runSlots s i j).foldl (fun s p =>
    if (s.core i p.1).stopped then s
    else startSlot s i p.1 p.2 (SMap.get (s.fld i .CORE_SLOTn_PC_PC (slotIx p.1 p.2)) (s.st i).startPc (slotIx p.1 p.2))) s

/-- A job becomes ACTIVE (R146, R153, R306, R317): counters take their initial values, windows open and grant their size,
endpoints open, slots start. -/
def startJob (s : State) (i : SetId) (j : Nat) : State :=
  let s := s.setFld i .MEM_JOBj_STATE j 1
  let s := mendCtrs (initCtrs s i j) i j
  let s := (List.range 64).foldl (fun s w =>
    if s.fld i .MEM_WINw_0_JOB w = j ∧ s.fld i .MEM_WINw_1_SIZE w ≠ 0 then
      (s.setFld i .MEM_WINw_0_OPEN w 1).emit .creditGrant i.val [s.fld i .MEM_WINw_1_SENDER w, w, s.fld i .MEM_WINw_1_SIZE w]
    else s) s
  let s := resetHeaders (restartSeq (openChans s i j) i j) i j
  startSlots s i j

/-- JOB_START (R153): ignored unless the job is FREE. -/
def execJobStart (i : SetId) (job : JobId) (s : State) : Out :=
  if s.fld i .MEM_JOBj_STATE job.val = 0 ∧ !(s.st i).lost then .next (settle (startJob s i job.val) i) else .next s

end Sys2Proof.Machine
end

