-- ==== Sys2Proof/Machine/Plan.lean ====
section
/-! DEFINITION. Where registers lie (17.1) and plan records (Table 14-7). -/

namespace Sys2Proof.Machine

/-! ## Registers by offset (R452 to R454) -/

/-- Bytes of a register's slot: 16 for CHAN_STAT (R454), 8 otherwise (R453). -/
def Reg.slotBytes (r : Reg) : Nat := if r = .CHAN_STAT then 16 else 8

/-- The instance and the byte that an offset from a register's base names. -/
def dimIndex (slot : Nat) : List (Nat × Nat) → Nat → Nat → Option (Nat × Nat)
  | [], o, ix => if o < slot then some (ix, o) else none
  | (n, stride) :: t, o, ix => if o / stride < n then dimIndex slot t (o % stride) (ix * n + o / stride) else none

/-- The register at an offset of a view, its instance and the byte of its slot. -/
def regAt (v : View) (o : Nat) : Option (Reg × Nat × Nat) :=
  Reg.all.findSome? fun r =>
    let m := r.info
    if m.view = v ∧ m.base ≤ o then (dimIndex r.slotBytes m.dims (o - m.base) 0).map fun p => (r, p.1, p.2) else none

/-- A register's value: its fields in place, reserved bits zero (R12). -/
def composeReg (m : SMap Nat) (r : Reg) (ix : Nat) : Nat :=
  (r.fields.map fun f => getField m f ix * 2 ^ f.info.lo).foldl (· + ·) 0

/-- A register value with some of its bytes replaced. -/
def overlay (cur off : Nat) (d : List Byte) : Nat := putBits cur (8 * off) (8 * d.length) (leNat d)

/-- A field shares a bit with the bytes written. -/
def touched (f : FInfo) (off n : Nat) : Bool := f.lo < 8 * (off + n) && 8 * off < f.lo + f.len

/-! ## Records (R387) -/

/-- A record: WRITE or FILL of a package address or of a set-local address. -/
structure PlanRec where
  setScope : Bool
  addr : Nat
  data : List Byte
deriving DecidableEq, Repr

/-- The bytes that a FILL writes. -/
def fillBytes (n : Nat) (pat : List Byte) : List Byte := ((List.range (n / 4)).flatMap fun _ => slice pat 0 4).take n

/-- The record at the front of some bytes and the bytes it takes: none when it is malformed; no record is END. -/
def parseOne (d : List Byte) : Option (Option PlanRec × Nat) :=
  let kind := leAt d 0 1
  let scope := leAt d 1 1
  let len := leAt d 4 4
  if d.length < 16 ∨ 1 < scope ∨ leAt d 2 2 ≠ 0 then none
  else if kind = 3 then (if len = 0 then some (none, 16) else none)
  else if (kind ≠ 1 ∧ kind ≠ 2) ∨ len % 4 ≠ 0 ∨ 0x100_0000 < len then none
  else
    let n := if kind = 1 then len else 4
    let pad := (n + 15) / 16 * 16
    let rest := d.drop 16
    if rest.length < pad ∨ !(slice rest n (pad - n)).all (· == 0) then none
    else some (some { setScope := scope = 1, addr := leAt d 8 8, data := if kind = 1 then rest.take len else fillBytes len (rest.take 4) }, 16 + pad)

/-- The records of a list with their numbers from `k` on, up to END; the number of the record at fault when the list is malformed.
-/
def parseNum : Nat → Nat → List Byte → Except Nat (List (Nat × PlanRec))
  | 0, k, _ => .error k
  | f + 1, k, d =>
    match parseOne d with
    | none => .error k
    | some (none, _) => .ok []
    | some (some r, n) => match parseNum f (k + 1) (d.drop n) with
      | .ok l => .ok ((k, r) :: l)
      | .error e => .error e

/-- The records of a list. -/
def parseRecs (f k : Nat) (d : List Byte) : Except Nat (List PlanRec) := (parseNum f k d).map fun l => l.map (·.2)

/-- A record may set the field (R387): "from dance card", rwl or rw. -/
def FInfo.recOk (f : FInfo) : Bool := f.card || f.acc == .rwl || f.acc == .rw

/-- The register slots that a byte range covers: register, instance, first byte in the slot, bytes. -/
def slotPieces (v : View) : Nat → Nat → List Byte → List (Option (Reg × Nat × Nat) × List Byte)
  | 0, _, _ => []
  | f + 1, o, d =>
    if d.isEmpty then []
    else
      let n := min d.length (8 - o % 8)
      (regAt v o, d.take n) :: slotPieces v f (o + n) (d.drop n)

/-- The pieces of a range of any length. -/
def piecesOf (v : View) (o : Nat) (d : List Byte) : List (Option (Reg × Nat × Nat) × List Byte) := slotPieces v (d.length + 1) o d

/-- Write the fields of a register that `ok` admits. -/
def putReg (m : SMap Nat) (ok : FInfo → Bool) (r : Reg) (ix off : Nat) (d : List Byte) : SMap Nat :=
  let v := overlay (composeReg m r ix) off d
  r.fields.foldl (fun m f => if ok f.info && touched f.info off d.length then putField m f ix (bits v f.info.lo f.info.len) else m) m

/-- The record writes only where it may (R387, R452). -/
def recAllowed (r : PlanRec) : Bool :=
  let regs (v : View) (o : Nat) := (piecesOf v o r.data).all fun p => match p.1 with
    | none => false
    | some (g, _, off) => g.fields.all fun f =>
        f.info.recOk || !touched f.info off p.2.length || bits (overlay 0 off p.2) f.info.lo f.info.len == 0
  if r.setScope then
    match spaceOf r.addr with
    | .mmio o => o + r.data.length ≤ 0x1000_0000 && regs .set o
    | .hbm | .none => false
    | _ => populated r.addr r.data.length
  else
    ((0x100_0000 ≤ r.addr && r.addr < 0x104_0000) || (0x10C_0000 ≤ r.addr && r.addr < 0x110_0000)) && regs .pkg r.addr

/-- A slot's start address, which START and refolding restore (R153, R215). -/
def noteStart (s : State) (i : SetId) (g : Reg) (ix : Nat) : State :=
  if g = .CORE_SLOTn_PC then s.onSet i fun t => { t with startPc := SMap.ins ix (getField t.regs .CORE_SLOTn_PC_PC ix) t.startPc } else s

/-- The fields of a register that take values from 1 up to a highest one only, with that one (R209, R210, R224, R303, R443). -/
def rangedFields : Reg → List (Field × Nat)
  | .CIRC_TIMERS => [(.CIRC_TIMERS_WEED_MIN, 1440), (.CIRC_TIMERS_LOAD_S, 600)]
  | .SYNC_LEND => [(.SYNC_LEND_LEND_US, 1000)]
  | .ALM_CFG => [(.ALM_CFG_INTERVAL, 60)]
  | _ => []

/-- The fields of a register after a write by a record: a value outside its field's range is not applied. -/
def keepRanges (g : Reg) (old new : SMap Nat) : SMap Nat :=
  (rangedFields g).foldl (fun m e =>
    if 1 ≤ getField m e.1 0 ∧ getField m e.1 0 ≤ e.2 then m else putField m e.1 0 (getField old e.1 0)) new

/-- Apply a record of set scope. -/
def applyRec (s : State) (i : SetId) (r : PlanRec) : State :=
  match spaceOf r.addr with
  | .mmio o => (piecesOf .set o r.data).foldl (fun s p => match p.1 with
      | some (g, ix, off) => noteStart (s.onSet i fun t => { t with
          regs := keepRanges g t.regs (putReg t.regs FInfo.recOk g ix off p.2) }) i g ix
      | none => s) s
  | _ => store s i r.addr r.data

/-- Apply a record of package scope. -/
def applyPkgRec (s : State) (r : PlanRec) : State :=
  (piecesOf .pkg r.addr r.data).foldl (fun s p => match p.1 with
    | some (g, ix, off) => { s with regs := keepRanges g s.regs (putReg s.regs FInfo.recOk g ix off p.2) }
    | none => s) s

/-- The slots whose PC or CFG a record writes. -/
def recSlots (r : PlanRec) : List Nat :=
  match spaceOf r.addr with
  | .mmio o => (piecesOf .set o r.data).filterMap fun p => match p.1 with
      | some (g, ix, _) => if g = .CORE_SLOTn_PC ∨ g = .CORE_SLOTn_CFG then some ix else none
      | none => none
  | _ => []

/-! ## Pruning lists (R423) -/

/-- A list record may write populated memory other than HBM, and CORE_SLOTn_PC and CORE_SLOTn_CFG (R423). -/
def pruneRecOk (r : PlanRec) : Bool :=
  r.setScope && (match spaceOf r.addr with
    | .mmio o => (piecesOf .set o r.data).all fun p => match p.1 with
        | some (g, _, _) => g == .CORE_SLOTn_PC || g == .CORE_SLOTn_CFG
        | none => false
    | .hbm | .none => false
    | _ => populated r.addr r.data.length)

/-- A slot starts at its start address. -/
def restartSlot (s : State) (i : SetId) (x : Nat) : State :=
  startSlot (dropHold s i (x / 8) (x % 8)) i (x / 8) (x % 8) (SMap.get (s.fld i .CORE_SLOTn_PC_PC x) (s.st i).startPc x)

/-- The list and the tile map of a pruned core's entry are applied at the boundary (Table 15-5). -/
def applyPruning (s : State) (i : SetId) (k : Nat) : State :=
  let e := readMem (s.st i).mem (s.fld i .SET_PRUNE_BASE_BASE + 32 * k) 32
  let len := leAt e 8 4
  let rs := if leAt e 0 8 = 0 then [] else match parseRecs (len / 16 + 1) 0 (peek s i (leAt e 0 8) len) with
    | .ok l => l.filter pruneRecOk
    | .error _ => []
  let s := rs.foldl (fun s r => applyRec s i r) s
  let s := ((rs.flatMap recSlots).eraseDups).foldl (fun s x => if (s.core i (x / 8)).stopped then s else restartSlot s i x) s
  if leAt e 16 8 = 0 then s
  else
    let n := leAt e 24 4
    let d := peek s i (leAt e 16 8) (16 * n)
    s.onSet i fun t => { t with tmapNext := some ((List.range n).map fun j => slice d (16 * j) 16) }

end Sys2Proof.Machine
end

