-- ==== Sys2Proof/Machine/Vendor.lean ====
section
/-! DEFINITION. How a vendor command is admitted and answered (13.9, 14.3, 14.10), and what the fuses say of the owner (R380). -/

namespace Sys2Proof.Machine

/-- Change the management processor's working state. -/
def onMg (s : State) (f : Mgmt → Mgmt) : State := { s with mg := f s.mg }

/-- STAGE of HB_BOOT (Table 14-13). -/
def stage (s : State) : Nat := s.pfld .HB_BOOT_STAGE

/-- Go to a stage. -/
def toStage (s : State) (v : Nat) : State := s.setPfld .HB_BOOT_STAGE 0 v

/-- A measurement block has been taken (R405, R467). -/
def measTaken (s : State) (n : Nat) : State := s.setPfld .SEC_STAT_MEAS 0 (putBits (s.pfld .SEC_STAT_MEAS) (n - 1) 1 1)

/-! ## The owner (R380, Table 14-15) -/

/-- The slot holds an owner's hash. -/
def enrolled (s : State) (n : Nat) : Bool := s.fuses.owners.any fun e => e.1 == n

/-- The active owner slot: enrolled, not revoked, the highest number. -/
def ownerSlot (s : State) : Option Nat := [3, 2, 1, 0].find? fun n => enrolled s n && !bit s.fuses.revoked n

/-- The hash in a slot. -/
def ownerHash (s : State) (n : Nat) : List Byte := SMap.get [] s.fuses.owners n

/-- The next slot to enrol into. -/
def nextOwnerSlot (s : State) : Option Nat := [0, 1, 2, 3].find? fun n => !enrolled s n && !bit s.fuses.revoked n

/-- HB_OWNER follows the fuses and the pending enrolment. -/
def showOwner (s : State) : State :=
  let s := s.setPfld .HB_OWNER_SLOT 0 ((ownerSlot s).getD 0)
  let st := match ownerSlot s with
    | some _ => 1
    | none => if s.mg.enrol.isSome then 2 else if (nextOwnerSlot s).isNone then 3 else 0
  let s := s.setPfld .HB_OWNER_STATE 0 st
  let s := s.setPfld .HB_OWNER_ENROLLED 0 (((List.range 4).filter (enrolled s)).foldl (fun a n => a + 2 ^ n) 0)
  let s := s.setPfld .HB_OWNER_REVOKED 0 s.fuses.revoked
  s.setPfld .HB_OWNER_SVN_FUSE 0 s.fuses.svn

/-- The active owner's modulus: a key seen at enrolment or in the card whose hash the active slot holds. -/
def ownerKey (s : State) : Option (List Byte) :=
  match ownerSlot s with
  | none => none
  | some n =>
    let okey := s.nvmBytes (0x100_0000 + 96) 384
    if sha256 s.mg.ownerKey = ownerHash s n then some s.mg.ownerKey
    else if sha256 okey = ownerHash s n then some okey else none

/-! ## Authority (R383) -/

/-- The nonce of a command, used up, and whether its signature holds for the opcode and the payload. -/
def takeAuth (s : State) (v : Via) (op : Nat) (payload : List Byte) : State × Bool :=
  match v.auth with
  | none => (s, false)
  | some (nonce, sig) =>
    if s.mg.nonces.contains nonce then
      let s := onMg s fun m => { m with nonces := m.nonces.erase nonce }
      match ownerKey s with
      | some k => (s, pssVerify 384 (leNat k) 65537 (sha256 (nonce ++ leBytes 2 op ++ sha256 payload)) sig)
      | none => (s, false)
    else (s, false)

/-! ## Answers (R407, R364) -/

/-- A response: STATUS (0 OK, 1 BUSY, 2 STATE, 3 AUTH, 4 INPUT, 5 VERIFY), CAUSE, data. The mailbox raises vector 1. -/
def answer (s : State) (v : Via) (op status : Nat) (cause : Nat := 0) (data : List Byte := []) : State :=
  let s := s.emit .vendor 0 [op, status, cause] data
  if v.mctp then s else raiseVector s 1

/-- How a vendor command stands to the rules of admission: whether it writes, needs authority on every path, may be read outside a
secured session, and whether the present stage accepts it. -/
structure Gate where
  op : Nat
  writes : Bool := false
  owner : Bool := false
  open_ : Bool := false
  stageOk : Bool
deriving DecidableEq, Repr

/-- Admission of a vendor command (R366, R367, R378, R383, R399, R407, R432). Before step 4 nothing answers; in RECOVERY there is no
MCTP endpoint. -/
def vendorCmd (s : State) (v : Via) (g : Gate) (payload : List Byte) (run : State → State) : State :=
  if stage s = 0 ∨ s.pkgLost ∨ (stage s = 1 ∧ v.mctp) then s
  else if (stage s = 11 ∧ g.op ≠ 0xC000) ∨ s.mpDown then answer s v g.op 1
  else if !g.stageOk then answer s v g.op 2
  else if v.mctp ∧ !v.secured ∧ !g.open_ then answer s v g.op 3
  else if g.owner ∨ (g.writes ∧ v.mctp) then
    let (s, ok) := takeAuth s v g.op payload
    if ok then run s else answer s v g.op 3
  else run s

/-- "From step 4" (Table 14-12). -/
def fromStep4 (s : State) : Bool := 2 ≤ stage s

/-- "From step 4, except RESTARTING and OFF". -/
def running (s : State) : Bool := 2 ≤ stage s && stage s != 11 && stage s != 12

/-- A placed write: the offset in 8 bytes, then the data (log entry 3). -/
def placed (off : Nat) (d : List Byte) : List Byte := leBytes 8 off ++ d

end Sys2Proof.Machine
end

