-- ==== Sys2Proof/Machine/Almanac.lean ====
section
/-! DEFINITION. The almanac, its restore at start-up, and the calibration block (chapter 16). -/

namespace Sys2Proof.Machine

/-! ## Counting (R442) -/

/-- The bin of a reading in bins of a width from a least value, the last bin taking what lies above. -/
def histBin (lo width n v : Nat) : Nat := min ((v - lo) / width) (n - 1)

/-- The readings of the 32 temperature sensors, °C (Table 16-2). -/
def almTemps (s : State) : List Nat :=
  (List.range 18).map (fun n => s.pfld .PD_TEMPOn_TJ n) ++ [s.pfld .PD_SENSE_TJ_HB, s.pfld .PD_SENSE_TJ_PD] ++
    (List.range 12).map fun m => s.fld (if m < 6 then 0 else 1) .MEM_HBM_TEMPs_TMAX (m % 6)

/-- ALM_HOURS follows the almanac. -/
def showHours (s : State) : State :=
  (s.setPfld .ALM_HOURS_POWERED_H 0 (s.alm 64 8 / 3600)).setPfld .ALM_HOURS_POWER_CYCLES 0 (s.alm 72 4)

/-- ALMANAC_SECOND (R442): a second of fabric time. A temperature of T °C counts in bin (T + 40) / 5. -/
def execAlmanacSecond (s : State) : Out :=
  if !fromStep4 s ∨ s.mpDown then .next s
  else
    let s := (almTemps s).zipIdx.foldl (fun s t => s.addAlm (112 + 144 * t.2 + 4 * histBin 0 5 36 (t.1 + 40)) 4 1) s
    let s := (List.range 16).foldl (fun s n => s.addAlm (4720 + 192 * n + 4 * histBin 500 10 48 (s.pfld .PD_TEMPOn_VSET n)) 4 1) s
    let cls := if s.pfld .PD_CLASS_ACCEPTED = 0 then 0 else if s.pfld .PD_CLASS_CLASS = 0 then 1 else 2
    let s := (s.addAlm 64 8 1).addAlm (80 + 8 * cls) 8 1
    .next { showHours (s.satPfld .ALM_STAT_SINCE_S 0 1) with promptSec := 0 }

/-! ## Writing (R441, R443, R444) -/

/-- ALMANAC_INTERVAL (R443). -/
def execAlmanacInterval (s : State) : Out := .next (if !fromStep4 s ∨ s.mpDown then s else almWrite s false)

/-- The contents of a copy whose programming failed or was cut off are unknown. -/
def spoilCopy (s : State) (c : Nat) : State := (s.nvmWrite (almCopyBase c) (s.freeBytes 17136)).spend

/-- The prompt log is erased once the almanac holds what it holds (R444). -/
def erasePrompt (s : State) : State := { (s.nvmErase promptBase 0x20_0000) with promptNext := 0, promptFull := false }

/-- A write of the almanac has ended; `ok` when its read-back was valid. -/
def almDone (s : State) (ok : Bool) : State :=
  match s.almBusy with
  | none => s
  | some c =>
    let s := { s with almBusy := none }
    let s :=
      if ok then
        let s := (s.setPfld .ALM_STAT_SEQ 0 (s.pfld .ALM_STAT_SEQ + 1)).setPfld .ALM_STAT_SINCE_S 0 0
        let s : State := { (s.nvmErase (almCopyBase (1 - c)) 0x20_0000) with almNewest := c }
        if s.promptFull ∧ s.almDue.isEmpty then erasePrompt s else s
      else (spoilCopy s c).setPfld .ALM_STAT_WRITE_ERR 0 1
    match s.almDue with
    | d :: rest => almWrite { s with almDue := rest } d
    | [] => s

/-- ALMANAC_WRITE_DONE (R441). -/
def execAlmanacWriteDone (ok : Bool) (s : State) : Out := .next (almDone s ok)

/-- The write at step 2 of a restart or shutdown (R443): a write in progress ends first, one that is due is not made. -/
def almFinal (s : State) : State := almDone (almWrite (almDone { s with almDue := [] } true) true) true

/-! ## Restore (R445) -/

/-- A record of the prompt log. -/
def promptRec (s : State) (k : Nat) : List Byte := s.nvmBytes (promptBase + 64 * k) 64

/-- Apply a prompt record later than the copy: a sprint charge, an ageing step, a ring record. -/
def promptApply (seq : Nat) (s : State) (k : Nat) : State :=
  let r := promptRec s k
  if leAt r 56 8 ≠ crc64 (r.take 56) ∨ leAt r 4 8 ≤ seq then s
  else match leAt r 0 1 with
    | 1 => s.setAlm 104 4 (leAt r 12 4)
    | 2 => s.setAlm (8920 + leAt r 12 1) 1 (leAt r 13 1)
    | 3 =>
      let n := s.alm 8940 4
      ({ s with almMem := writeMem s.almMem (8944 + 32 * (n % 256)) (slice r 12 32) }).setAlm 8940 4 (n + 1)
    | _ => s

/-- The number of places of the prompt log that have been written. -/
def promptUsed (s : State) : Nat :=
  s.nvm.foldl (fun m e => if promptBase ≤ e.1 ∧ e.1 < promptBase + 0x20_0000 then max m ((e.1 - promptBase) / 64 + 1) else m) 0

/-- SEQ of a copy. -/
def copySeq (s : State) (c : Nat) : Nat := leNat (s.nvmBytes (almCopyBase c + 8) 8)

/-- The valid copy with the highest SEQ. -/
def newestCopy (s : State) : Option Nat :=
  match almValid s 0, almValid s 1 with
  | true, true => some (if copySeq s 0 < copySeq s 1 then 1 else 0)
  | true, false => some 0
  | false, true => some 1
  | false, false => none

/-- What the registers show of the almanac (R459). -/
def showAlm (s : State) : State :=
  let s := s.setPfld .PD_SPRINT_LIFE_USED 0 (s.alm 104 4)
  showLife (showHours ((List.range 16).foldl (fun s n => s.setPfld .PD_TEMPOn_AGE n (s.alm (8920 + n) 1)) s))

/-- Step 4 of Table 14-9 (R445). -/
def almRestore (s : State) : State :=
  let used := promptUsed s
  match newestCopy s with
  | none =>
    let s := { s with almMem := [], almNewest := 1, promptNext := used, calOver := false }
    let s := (s.addAlm 72 4 1).setPfld .ALM_STAT_SEQ 0 0
    showAlm ((s.setPfld .ALM_STAT_LOST 0 1).setPfld .PD_SPRINT_LIFE_EXHAUSTED 0 1)
  | some c =>
    let h := s.nvmBytes (almCopyBase c) 64
    let seq := leAt h 8 8
    let flags := leAt h 6 2
    let s := { s with almMem := writeMem [] 64 (s.nvmBytes (almCopyBase c + 64) 17072), almNewest := c, promptNext := used, calOver := bit flags 2 }
    let s := (List.range used).foldl (promptApply seq) s
    let s := s.addAlm 72 4 1
    let s := if bit flags 0 then s else s.addAlm 76 4 1
    showAlm ((s.setPfld .ALM_STAT_SEQ 0 seq).setPfld .PD_SPRINT_LIFE_EXHAUSTED 0 (bitOf (bit flags 1)))

/-! ## Vendor commands (Table 16-4) -/

/-- ALM_READ: the copy that a write would program, with the SEQ of the last write. -/
def execAlmRead (v : Via) (off len : Nat) (s : State) : Out :=
  .next (vendorCmd s v { op := 0xC010, open_ := true, stageOk := fromStep4 s } (placed off (leBytes 4 len)) fun s =>
    if 17136 < off + len ∨ 0x10_0000 < len then answer s v 0xC010 4
    else answer s v 0xC010 0 0 (slice (almImage s (s.pfld .ALM_STAT_SEQ) false) off len))

/-- ALM_FLUSH (R443). -/
def execAlmFlush (v : Via) (s : State) : Out :=
  .next (vendorCmd s v { op := 0xC011, writes := true, stageOk := running s } [] fun s => answer (almWrite s false) v 0xC011 0)

/-- RING_READ (R446): records of the in-memory ring from an index on. -/
def execRingRead (v : Via) (first count : Nat) (s : State) : Out :=
  .next (vendorCmd s v { op := 0xC012, open_ := true, stageOk := fromStep4 s } (leBytes 4 first ++ leBytes 4 count) fun s =>
    if 256 < count then answer s v 0xC012 4
    else answer s v 0xC012 0 0 ((List.range count).flatMap fun j => readMem s.almMem (8944 + 32 * ((first + j) % 256)) 32))

/-- Start of the calibration region (Table 14-1). -/
def calBase : Nat := 0x740_0000

/-- CAL_READ. -/
def execCalRead (v : Via) (off len : Nat) (s : State) : Out :=
  .next (vendorCmd s v { op := 0xC013, stageOk := fromStep4 s } (placed off (leBytes 4 len)) fun s =>
    if 0x10_0000 < off + len then answer s v 0xC013 4 else answer s v 0xC013 0 0 (s.nvmBytes (calBase + off) len))

/-- CAL_ARM (R448): a 4-byte code, whose value the manual leaves open. -/
def execCalArm (v : Via) (s : State) : Out :=
  .next (vendorCmd s v { op := 0xC014, writes := true, stageOk := running s } [] fun s =>
    let code := s.freeBytes 4
    answer (onMg s.spend fun m => { m with calCode := some code, calAt := s.time 0 }) v 0xC014 0 0 code)

/-- CAL_CONFIRM (R448): within 10 s, with owner authority. -/
def execCalConfirm (v : Via) (code : List Byte) (s : State) : Out :=
  .next (vendorCmd s v { op := 0xC015, writes := true, owner := true, stageOk := running s } code fun s =>
    match s.mg.calCode with
    | none => answer s v 0xC015 2
    | some c =>
      let late := s.mg.calAt + 10000000000 < s.time 0
      let s := onMg s fun m => { m with calCode := none }
      if late then answer s v 0xC015 2
      else if c ≠ code then answer s v 0xC015 4
      else
        let s := (s.setPfld .ALM_STAT_CAL_UNLOCKED 0 1).setPfld .SEC_STAT_CAL_UNLOCK_SEEN 0 1
        answer (onMg s fun m => { m with calStage := s.cal }) v 0xC015 0)

/-- The calibration block is unlocked. -/
def calUnlocked (s : State) : Bool := s.pfld .ALM_STAT_CAL_UNLOCKED = 1

/-- CAL_WRITE (R448). -/
def execCalWrite (v : Via) (off : Nat) (data : List Byte) (s : State) : Out :=
  .next (vendorCmd s v { op := 0xC016, writes := true, stageOk := fromStep4 s && calUnlocked s } (placed off data) fun s =>
    if 0x10_0000 < off + data.length then answer s v 0xC016 4
    else answer (onMg s fun m => { m with calStage := writeMem m.calStage off data }) v 0xC016 0)

/-- The checks of CAL_COMMIT: MAGIC, VER, LEN and the reserved fields of Table 16-3. -/
def calFormOk (m : SMap Byte) : Bool :=
  let h := readMem m 0 64
  leAt h 0 4 == 0x4341_4C31 && leAt h 4 2 == 1 && leAt h 8 4 == 52960 && leAt h 7 1 == 0 && leAt h 16 16 == 0 &&
    (readMem m (3840 + 20) 12).all (· == 0)

/-- A block is valid when its form and its digest hold. -/
def calValid (m : SMap Byte) : Bool := calFormOk m && readMem m 32 32 == sha256 (readMem m 64 52960)

/-- CAL_COMMIT (R448): ORIGIN 1, WRITES one more, DIGEST, the region erased and programmed, CAL_OVER; it locks again. -/
def execCalCommit (v : Via) (s : State) : Out :=
  .next (vendorCmd s v { op := 0xC017, writes := true, stageOk := fromStep4 s && calUnlocked s } [] fun s =>
    if !calFormOk s.mg.calStage then answer s v 0xC017 4
    else
      let m := writeMem s.mg.calStage 6 [1#8]
      let m := writeMem m 12 (leBytes 4 (leNat (readMem m 12 4) + 1))
      let m := writeMem m 32 (sha256 (readMem m 64 52960))
      let s := (s.nvmErase calBase 0x10_0000).nvmWrite calBase (readMem m 0 53024)
      answer ({ s with calOver := true }.setPfld .ALM_STAT_CAL_UNLOCKED 0 0) v 0xC017 0)

/-- CAL_UNLOCK_EXPIRE (R448): 600 s have passed. -/
def execCalUnlockExpire (s : State) : Out := .next (s.setPfld .ALM_STAT_CAL_UNLOCKED 0 0)

end Sys2Proof.Machine
end

