-- ==== Sys2Proof/Machine/Stream.lean ====
section
/-! DEFINITION. Compressed streams: formats 1 and 2, their structural checks, their decoding, and check words (6.2 to 6.8). -/

namespace Sys2Proof.Machine

/-- The stream header (Table 6-2). Bytes 16 to 63 of format 1 are ignored (Table 6-8). -/
structure SHdr where
  one : Bool
  elem : Nat
  nblk : Nat
  dlen : Nat
  slen : Nat
  fmtW : Nat
  check : Bool
  scion : Bool
  espalier : Bool
  part : Bool
  m : Nat
  k : Nat
  rank : Nat
  wPitch : Nat
  depth : Nat
deriving DecidableEq, Repr

/-- Read the header's fields. -/
def shdr (d : List Byte) : SHdr :=
  let one := leAt d 0 2 == 0x5A31
  let fl := leAt d 17 1
  { one := one, elem := leAt d 3 1, nblk := leAt d 4 4, dlen := leAt d 8 4, slen := leAt d 12 4, fmtW := leAt d 16 1
    check := !one && bit fl 0, scion := !one && bit fl 1, espalier := !one && bit fl 2, part := !one && bit fl 3
    m := leAt d 18 2, k := leAt d 20 3, rank := leAt d 23 1, wPitch := leAt d 24 2, depth := leAt d 26 1 }

/-- HEADER (Table 6-6 cause 1) over the stream header; `vers` holds a bit per version enabled. -/
def headerOk (vers : Nat) (d : List Byte) : Bool :=
  let h := shdr d
  if h.one then leAt d 2 1 == 1 && bit vers 0 && 1 ≤ h.elem && h.elem ≤ 3
  else leAt d 0 2 == 0x5A32 && leAt d 2 1 == 2 && bit vers 1 && h.elem ≤ 4 && leAt d 17 1 < 16 &&
    ((d.drop 27).take 37).all (· == 0) &&
    (!h.check || (match Fmt.ofCode h.fmtW with
      | some f => (h.depth == 1 || h.depth == 2 || h.depth == 4 || h.depth == 8) && h.depth ≤ f.depth
      | none => false))

/-- Offsets of the blocks in bytes (R157). -/
def entryAt (d : List Byte) (j : Nat) : Nat := leAt d (64 + 4 * j) 4 * 16

/-- Size of header and index (R157). -/
def indexEnd (nblk : Nat) : Nat := 64 + (4 * (nblk + 1) + 15) / 16 * 16

/-- INDEX (Table 6-6 cause 2) over the index table. -/
def indexOk (d : List Byte) (h : SHdr) : Bool :=
  1 ≤ h.dlen && h.nblk == (h.dlen * 32 + 4095) / 4096 && entryAt d 0 == indexEnd h.nblk && entryAt d h.nblk == 16 * h.slen &&
    (List.range h.nblk).all fun j => entryAt d j < entryAt d (j + 1)

/-- Exponent and mantissa widths of a coding element (Table 6-4). -/
def elemWidths (e : Nat) : Nat × Nat :=
  if e = 1 then (8, 7) else if e = 2 then (5, 10) else if e = 3 then (4, 3) else (5, 2)

/-- The bits k and Q of an exponent table (Table 6-5). -/
def tableKQ (t : Nat) : Nat × Nat :=
  (t % 4, if t < 4 then 4 else if t < 8 then 6 else if t < 12 then 8 else 12)

/-- Count one-bits from position p, at most `n`. -/
def onesFrom (v p : Nat) : Nat → Nat
  | 0 => 0
  | n + 1 => if bit v p then 1 + onesFrom v (p + 1) n else 0

/-- `n` bits from position p, the first the most significant. -/
def msbBits (v p n : Nat) : Nat := (List.range n).foldl (fun a j => 2 * a + bitOf (bit v (p + j))) 0

/-- Decode `n` exponents from bit p of a section (R161): the exponents and the bits used; none for a value outside the
exponent's width, which takes cause CODE (DESIGN CHOICE, log entry 96: Table 6-6 names no cause for it). -/
def expDecode (v w c k q : Nat) : Nat → Nat → Option (List Nat × Nat)
  | 0, p => some ([], p)
  | n + 1, p =>
    let o := onesFrom v p q
    let (e, p') :=
      if o = q then (some (msbBits v (p + q) w), p + q + w)
      else
        let x := o * 2 ^ k + msbBits v (p + o + 1) k
        let d : Int := if x % 2 = 0 then (x / 2 : Nat) else -(((x + 1) / 2 : Nat) : Int)
        let e : Int := (c : Int) - d
        (if 0 ≤ e ∧ e < 2 ^ w then some e.toNat else none, p + o + 1 + k)
    match e with
    | none => none
    | some e => match expDecode v w c k q n p' with
      | none => none
      | some (es, pe) => some (e :: es, pe)

/-- One sub-stream (R159): sign-mantissa bytes, coded bytes, elements; cause 3 is none. -/
def subDecode (w m c k q n : Nat) (sm cd : List Byte) : Option (List Byte) :=
  let v := leNat cd
  match expDecode v w c k q n 0 with
  | none => none
  | some (es, used) =>
    let total := 8 * cd.length
    if total < used ∨ 32 ≤ total - used ∨ v / 2 ^ used ≠ 0 then none
    else
      let s := leNat sm
      let codes := es.zipIdx.map fun p =>
        let f := bits s (p.2 * (1 + m)) (1 + m)
        f / 2 ^ m * 2 ^ (w + m) + p.1 * 2 ^ m + f % 2 ^ m
      some (packCodes (1 + w + m) codes)

/-- A block's outcome: its bytes and whether it was CODED, or a cause of Table 6-6. -/
abbrev BlockOut := Except Nat (List Byte × Bool)

/-- Decode the sixteen sub-streams in turn. -/
def subsDecode (w m c k q dl : Nat) (lens : List Nat) (smAt cdAt : List Byte) : Nat → Nat → Option (List Byte)
  | 0, _ => some []
  | f + 1, j =>
    let nb := min 256 (dl - 256 * j)
    let n := nb * 8 / (1 + w + m)
    let sm := n * (1 + m) / 8
    let cl := 4 * lens.getD j 0
    match subDecode w m c k q n (smAt.take sm) (cdAt.take cl) with
    | none => none
    | some b => match subsDecode w m c k q dl lens (smAt.drop sm) (cdAt.drop cl) f (j + 1) with
      | none => none
      | some r => some (b ++ r)

/-- A block's header (Tables 6-3 and 6-8): KIND, exponent table, centre, the reserved bits, and the sub-streams' lengths. A format-1 block
names a slot, whose table `slotMap` gives (R179). -/
structure BHdr where
  kind : Nat
  table : Nat
  c : Nat
  resv : Nat
  lens : List Nat
  idle : Bool
deriving DecidableEq, Repr

/-- Read a block's header; `idle` says that every field behind KIND is zero. -/
def bhdr (one : Bool) (slotMap : Nat) (blk : List Byte) : BHdr :=
  let hw := leAt blk 0 16
  { kind := bits hw 0 2
    table := if one then bits slotMap (4 * bits hw 2 2) 4 else bits hw 2 4
    c := if one then bits hw 4 8 else bits hw 6 8
    resv := if one then bits hw 12 4 else bits hw 14 2
    lens := (List.range 16).map fun j => bits hw (16 + 7 * j) 7
    idle := bits hw 2 (if one then 10 else 12) == 0 && bits hw 16 112 == 0 }

/-- Bytes of the sign-mantissa sections of a CODED block of `dl` decoded bytes (R159). -/
def smBytes (elem dl : Nat) : Nat :=
  let (w, m) := elemWidths elem
  ((List.range 16).map fun j => min 256 (dl - 256 * j) * 8 / (1 + w + m) * (1 + m) / 8).foldl (· + ·) 0

/-- Bytes of a CODED block without its padding (R160). -/
def codedBytes (elem dl : Nat) (h : BHdr) : Nat := 16 + smBytes elem dl + 4 * h.lens.foldl (· + ·) 0

/-- HEADER, INDEX and SIZE of a block (Table 6-6); `blk` is its stored bytes, `dl` its decoded length. A RAW or ZERO block whose TABLE, C or
LEN_j is not zero, against Table 6-3, takes HEADER (DESIGN CHOICE, log entry 96: Table 6-6 names no cause for it). -/
def blockCause (one : Bool) (slotMap elem dl : Nat) (blk : List Byte) : Nat :=
  let h := bhdr one slotMap blk
  if h.kind = 3 ∨ (one ∧ h.kind = 2) ∨ h.resv ≠ 0 ∨ (h.kind = 0 ∧ elem = 0) ∨ (h.kind ≠ 0 ∧ !h.idle) then 1
  else if h.kind = 1 then (if blk.length = 16 + dl then 0 else 2)
  else if h.kind = 2 then (if blk.length = 16 then 0 else 2)
  else if 2 ^ (elemWidths elem).1 ≤ h.c then 1
  else if blk.length ≠ (codedBytes elem dl h + 15) / 16 * 16 then 2
  else if 16 + dl < blk.length then 5
  else 0

/-- Decode one block (R158 to R161, Table 6-6). -/
def blockDecode (one : Bool) (slotMap : Nat) (elem dl : Nat) (blk : List Byte) : BlockOut :=
  let h := bhdr one slotMap blk
  match blockCause one slotMap elem dl blk with
  | 0 =>
    if h.kind = 1 then .ok ((blk.drop 16).take dl, false)
    else if h.kind = 2 then .ok (List.replicate dl 0, false)
    else
      let (w, m) := elemWidths elem
      let (k, q) := tableKQ h.table
      match subsDecode w m h.c k q dl h.lens (blk.drop 16) (blk.drop (16 + smBytes elem dl)) 16 0 with
      | none => .error 3
      | some b => .ok (b, true)
  | c => .error c

/-- What decoding a stream gives: the blocks decoded in order up to the first failure, CODED blocks counted, and the cause
of a failure (0 none). -/
structure StreamOut where
  bytes : List Byte
  coded : Nat
  cause : Nat
deriving DecidableEq, Repr

/-- Decoded length of block j (R156). -/
def blkLen (h : SHdr) (j : Nat) : Nat := min 4096 (h.dlen * 32 - 4096 * j)

/-- The stored bytes of block j (R157). -/
def blkOf (d : List Byte) (j : Nat) : List Byte := slice d (entryAt d j) (entryAt d (j + 1) - entryAt d j)

/-- Decode the blocks from j on; those in `bad` hold a word that could not be corrected, and decode to zeros (R418). -/
def blocksDecode (d : List Byte) (h : SHdr) (slotMap : Nat) (bad : List Nat) : Nat → Nat → StreamOut
  | 0, _ => ⟨[], 0, 0⟩
  | f + 1, j =>
    let one := if bad.contains j then .ok (List.replicate (blkLen h j) 0, false) else blockDecode h.one slotMap h.elem (blkLen h j) (blkOf d j)
    match one with
    | .error c => ⟨[], 0, c⟩
    | .ok (b, cd) =>
      let r := blocksDecode d h slotMap bad f (j + 1)
      ⟨b ++ r.bytes, r.coded + bitOf cd, r.cause⟩

/-- The causes found before any block is decoded (Table 6-6): HEADER, then INDEX. -/
def headCause (vers : Nat) (d : List Byte) : Nat :=
  if !headerOk vers d then 1 else if !indexOk d (shdr d) then 2 else 0

/-- The blocks that hold one of the words of a stream, given by their index. -/
def blocksWith (d : List Byte) (bad : List Nat) : List Nat :=
  (List.range (shdr d).nblk).filter fun j => bad.any fun x => entryAt d j < 32 * x + 32 && 32 * x < entryAt d (j + 1)

/-- One of the words lies in the stream's header or index, whose structure then cannot be read (R418). -/
def headBad (d : List Byte) (bad : List Nat) : Bool := bad.any fun x => x < 2 || x < (indexEnd (shdr d).nblk + 31) / 32

/-- Decode a whole stream whose words `bad` could not be corrected. -/
def streamWith (vers slotMap : Nat) (d : List Byte) (bad : List Nat) : StreamOut :=
  match headCause vers d with
  | 0 => blocksDecode d (shdr d) slotMap (blocksWith d bad) (shdr d).nblk 0
  | c => ⟨[], 0, c⟩

/-- Decode a whole stream. -/
def streamDecode (vers slotMap : Nat) (d : List Byte) : StreamOut := streamWith vers slotMap d []

/-- The causes of a format-1 stream that is copied undecoded (R174): HEADER, INDEX and SIZE of the stream and of its blocks in order. A block
with a word that could not be corrected is not looked at. -/
def copyCause (vers slotMap : Nat) (d : List Byte) (bad : List Nat) : Nat :=
  match headCause vers d with
  | 0 =>
    let h := shdr d
    ((((List.range h.nblk).filter fun j => !(blocksWith d bad).contains j).map fun j => blockCause h.one slotMap h.elem (blkLen h j) (blkOf d j)).find?
      (· != 0)).getD 0
  | c => c

/-- A stream as a writer of the device makes it (R156, R157, R160): the index table padded with zeros, each CODED block smaller than the same
block RAW and padded with zeros. -/
def writerForm (d : List Byte) : Bool :=
  let h := shdr d
  (slice d (64 + 4 * (h.nblk + 1)) (indexEnd h.nblk - (64 + 4 * (h.nblk + 1)))).all (· == 0) &&
    (List.range h.nblk).all fun j =>
      let b := bhdr h.one 0 (blkOf d j)
      b.kind != 0 || ((blkOf d j).length < 16 + blkLen h j && ((blkOf d j).drop (codedBytes h.elem (blkLen h j) b)).all (· == 0))

/-! ## Check words (R171) -/

/-- One check word: for each position below the depth the sum over columns and the sum of magnitudes, rounded once. -/
def checkWord (cols : List (List Val)) (s k : Nat) : List Byte :=
  let sum (f : Val → Val) (j : Nat) : Nat :=
    if k ≤ j then 0 else toFP32 (cols.foldl (fun a c => Val.add a (f (c.getD (s * k + j) .zero))) .zero)
  ((List.range 8).flatMap fun j => leBytes 4 (sum id j)) ++ ((List.range 8).flatMap fun j => leBytes 4 (sum Val.abs j))

/-- The check words of a tile of columns, in step order. -/
def checkWords (cols : List (List Val)) (n k : Nat) : List Byte := (List.range n).flatMap fun s => checkWord cols s k

/-- The decoded columns of a tile. -/
def tileCols (f : Fmt) (d : List Byte) (pitch k lo hi : Nat) : List (List Val) :=
  (List.range (hi - lo)).map fun c => unpack f ((d.drop ((lo + c) * pitch)).take (f.packed k)) k

/-! ## Expansion of a matched tile (R169 to R174, R418) -/

/-- The TAKE that a tile serves: offsets of WDST and CDST within a W buffer, LEN, the arrays selected. -/
structure TakeReq where
  w : Nat
  c : Nat
  len : Nat
  arrays : Nat
deriving DecidableEq, Repr

/-- What an expander writes: bytes at offsets of array p's W buffer, words to poison, the cause of a failure, and the
CODED blocks decoded. -/
structure Expanded where
  writes : List (Nat × Nat × List Byte)
  poison : List (Nat × Nat)
  cause : Nat
  coded : Nat
deriving DecidableEq, Repr

/-- GEOMETRY (R169, R170, R174, R180). -/
def geometryOk (t : TakeReq) (h : SHdr) : Bool :=
  if h.one then h.slen * 16 ≤ t.len * 32
  else
    h.dlen ≤ t.len && (!(h.espalier && 512 < h.m) || t.arrays == 3) &&
    (if h.scion then
      match Fmt.ofCode h.fmtW with
      | some f =>
        let pu := f.packed h.k
        let pv := f.packed h.rank
        4 ≤ h.rank && h.rank ≤ 128 && !h.check &&
          (if h.part then 1 ≤ h.m && h.m ≤ 128 && h.dlen * 32 == h.m * pv else h.dlen * 32 == h.rank * pu)
      | none => false
    else !h.check || (match Fmt.ofCode h.fmtW with
      | some f =>
        1 ≤ h.m && h.m ≤ (if h.espalier then 1024 else 128) && h.dlen == h.m * h.wPitch && f.packed h.k ≤ h.wPitch * 32 &&
          (f.scale == .none || h.k % 32 == 0) &&
          64 * ((h.k + h.depth - 1) / h.depth) ≤ (t.len + 3) / 4 * 32
      | none => false))

/-- The selected arrays. -/
def TakeReq.sel (t : TakeReq) : List Nat := (if t.arrays % 2 = 1 then [0] else []) ++ (if 2 ≤ t.arrays then [1] else [])

/-- Word offsets of a range. -/
def wordsOf (a n : Nat) : List Nat := (List.range ((n + 31) / 32)).map fun j => a + 32 * j

/-- Expand a tile (R169 to R171): `bad` lists the stream's words, by their index, that could not be corrected (R418). -/
def expandTile (vers slotMap : Nat) (t : TakeReq) (d : List Byte) (bad : List Nat) : Expanded :=
  let h := shdr d
  let foot := t.sel.flatMap fun p => (wordsOf t.w (t.len * 32) ++ wordsOf t.c ((t.len + 3) / 4 * 32)).map fun a => (p, a)
  if headBad d bad then
    ⟨foot.map fun q => (q.1, q.2, List.replicate 32 0), foot, 0, 0⟩
  else if headCause vers d ≠ 0 then ⟨[], [], headCause vers d, 0⟩
  else if !geometryOk t h then ⟨[], [], 4, 0⟩
  else if h.one then
    match copyCause vers slotMap d bad with
    | 0 =>
      let b := slice d 0 (up32 (h.slen * 16))
      ⟨t.sel.map fun p => (p, t.w, b), t.sel.flatMap fun p => (bad.filter (· * 32 < b.length)).map fun x => (p, t.w + 32 * x), 0, 0⟩
    | c => ⟨[], [], c, 0⟩
  else
    let badBlk := blocksWith d bad
    let r := streamWith vers slotMap d bad
    let place (p : Nat) (off : Nat) : Option Nat :=
      -- the offset in array p's W buffer of decoded byte `off`
      if h.espalier then
        let c := off / (h.wPitch * 32)
        if c < 512 then (if p = 0 then some (t.w + off) else none)
        else if p = 1 then some (t.w + off - 512 * h.wPitch * 32) else none
      else some (t.w + off)
    let words := (List.range (r.bytes.length / 32)).flatMap fun j => t.sel.filterMap fun p =>
      match place p (32 * j) with
      | some a => some (p, a, (r.bytes.drop (32 * j)).take 32)
      | none => none
    let pois := badBlk.flatMap fun b => (List.range 128).flatMap fun j =>
      if 4096 * b + 32 * j < r.bytes.length then t.sel.filterMap fun p => (place p (4096 * b + 32 * j)).map fun a => (p, a) else []
    if r.cause ≠ 0 then ⟨words, pois, r.cause, r.coded⟩
    else if !h.check then ⟨words, pois, 0, r.coded⟩
    else
      match Fmt.ofCode h.fmtW with
      | none => ⟨words, pois, 0, r.coded⟩
      | some f =>
        let n := (h.k + h.depth - 1) / h.depth
        let cw (p : Nat) : List Byte :=
          let (lo, hi) := if h.espalier then (if p = 0 then (0, min h.m 512) else (512, h.m)) else (0, h.m)
          checkWords (tileCols f r.bytes (h.wPitch * 32) h.k lo hi) n h.depth
        let cs := t.sel.map fun p => (p, t.c, cw p)
        let cpois := if badBlk.isEmpty then [] else t.sel.flatMap fun p => (wordsOf t.c (64 * n)).map fun a => (p, a)
        ⟨words ++ cs, pois ++ cpois, 0, r.coded⟩

/-! ## Operand order (R176) -/

/-- The array's words of a format-1 stream: element j of column c at step s, as codes of b bits. -/
def operandElem (d : List Byte) (b s c j : Nat) : Nat := bits (leAt d (256 * s + 2 * c) 2) (j * b) b

end Sys2Proof.Machine
end

