-- ==== Sys2Proof/Machine/Vec.lean ====
section
/-! DEFINITION. The vector unit (3.10, 4.7, 4.8). -/

namespace Sys2Proof.Machine

/-- Reduce in pairwise order by index (R90): `f` on neighbours, a last value without a partner passes on. -/
def pairs (f : Nat → Nat → Nat) : List Nat → List Nat
  | a :: b :: t => f a b :: pairs f t
  | l => l

/-- Repeat the pairing until one value remains; `fuel` levels suffice for 2^fuel values. -/
def pairwise (f : Nat → Nat → Nat) : Nat → List Nat → Nat
  | 0, l => l.headD 0
  | n + 1, l => match l with
    | [] => 0
    | [x] => x
    | l => pairwise f n (pairs f l)

/-- The groups of 2^g elements (R90); the last may be short. -/
def groupsOf (g : Nat) (xs : List Nat) : List (List Nat) := chunks (2 ^ g) xs.length xs

/-- Maximum under R90. -/
def vmax (a b : Nat) : Nat := fmax a b

/-- The results of an operation as FP32 values, before conversion (Table 3-20). -/
def vecResult (op imm g : Nat) (xs ys : List Nat) : List Nat :=
  let two (f : Nat → Nat → Nat) := xs.zipWith f ys
  match op with
  | 0x01 => two fadd
  | 0x02 => two fsub
  | 0x03 => two fmul
  | 0x04 => two fun x y => ffma x imm y
  | 0x05 => two fmax
  | 0x06 => two fmin
  | 0x07 => xs.map fexp
  | 0x08 => xs.map frecip
  | 0x09 => xs.map frsqrt
  | 0x0A => xs.map fsilu
  | 0x0B => xs
  | 0x0C => (groupsOf g xs).map (pairwise fadd 32)
  | 0x0D => (groupsOf g xs).map (pairwise vmax 32)
  | 0x0E => (xs.zipIdx).map fun p => fmul p.1 (ys.getD (p.2 / 2 ^ g) 0)
  | 0x0F => (groupsOf g xs).map fun l => pairwise fadd 32 (l.map fun x => fmul x x)
  | _ => []

/-- Seed and token position of a session row of the step in force (R111): 0 and 0 where no session is bound. -/
def rowSeed (s : State) (i : SetId) (r : Nat) : Nat × Nat :=
  match (s.st i).su.rows[r]? with
  | some e => if e.kind = 0 then (0, 0) else ((sessOf s i e.slot).seed, e.pos)
  | none => (0, 0)

/-- The rounding of output element `n` (R109, R111, Table 4-6). -/
def vecRnd (s : State) (i : SetId) (d : List Byte) (n : Nat) : Rnd :=
  if leAt d 44 1 = 0 then .even
  else
    let g := 2 ^ leAt d 43 1
    let red := vecReduce (leAt d 35 1)
    let (seed, pos) := rowSeed s i (leAt d 46 2 + (if red then n else n / g))
    .stoch (draw seed 0 pos (if red then 0 else n % g))

/-- Count a conversion in CORE_CVT_STAT (R108, R113). -/
def countCvt (s : State) (i : SetId) (k : Nat) (c : CvtStat) : State :=
  let s := s.satFld i .CORE_CVT_STAT_SAT_CNT k c.sat
  let s := s.satFld i .CORE_CVT_STAT_NAN0_CNT k c.nan0
  let s := if c.sat = 0 then s else s.setFld i .CORE_CVT_STAT_SAT k 1
  let s := if c.nan0 = 0 then s else s.setFld i .CORE_CVT_STAT_NAN0 k 1
  if c.scaleNan then s.setFld i .CORE_CVT_STAT_SCALE_NAN k 1 else s

/-- A job that a bad KIND 0 operand word ends (Table 15-4). -/
def endIf (s : State) (i : SetId) (j : Nat) (ends : Bool) : State := if ends then leaveJob s i j .byContainment else s

/-- The vector unit carries out a VEC (R90, R99, R100). -/
def doVec (s : State) (i : SetId) (k : Nat) (e : QEnt) : State :=
  let d := e.raw
  if leAt d 32 3 = 0 then s
  else match inFmt (leAt d 40 1), inFmt (leAt d 41 1), outFmt (leAt d 42 1) with
    | some f0, some f1, some (fo, nosat) =>
      let n := vecN d f0
      let op := leAt d 35 1
      let n1 := vecN1 d n
      let (b0, _, e0, s) := readOperandBytes s i e.job e.tag e.a1 (f0.packed n)
      let (b1, _, e1, s) := if vecTwo op then readOperandBytes s i e.job e.tag e.a2 (f1.packed n1) else ([], false, false, s)
      let xs := (unpack f0 b0 n).map valFP32
      let ys := if vecTwo op then (unpack f1 b1 n1).map valFP32 else []
      let rs := vecResult op (leAt d 36 4) (leAt d 43 1) xs ys
      let vs := rs.zipIdx.map fun p => (ofFP32 p.1, vecRnd s i d p.2)
      let (out, c) := encodeVec fo nosat vs
      let s := latchTouch (store s i e.a3 out) i k [(e.a3, out.length)]
      endIf (countCvt s i k c) i e.job (e0 || e1)
    | _, _, _ => s

/-- A VEC starts, and has made its writes. -/
def vecStart (s : State) (i : SetId) (k : Nat) (e : QEnt) : State := markDone (doVec s i k e) i k 1 e.id

/-- VEC (R90): issued to the vector queue, whose descriptors start in order; after a residue mismatch the unit completes the descriptor
and the core is pruned. -/
def execVec (ev : Issue) (residue : Bool) (s : State) : Out :=
  let i := ev.set
  let k := ev.core.val
  match issueEvent .vec ev s with
  | (s, some e) =>
    let s := vecStart s i k e
    .next (settle (if residue then pruneCore (complete s i k 1 e) i k .vecResidue 0 0 e.tag else s) i)
  | (s, none) => .next (settle s i)

end Sys2Proof.Machine
end

