-- ==== Sys2Proof/Machine/Arrays.lean ====
section
/-! DEFINITION. The partner arrays: GEMM, CONV and GRAFT step by step, the check columns, the drain, the graft latch and the
operand port (3.5 to 3.8, 4.6, 5.2, 6.8 to 6.10). -/

namespace Sys2Proof.Machine

/-! ## Tiles and shares -/

/-- An array's share of a tile (R85): array, first row and rows, first column and columns. -/
structure Part where
  p : Nat
  r0 : Nat
  rn : Nat
  c0 : Nat
  cn : Nat
deriving DecidableEq, Repr

/-- The split of R85. -/
def parts (esp : Bool) (m r : Nat) : List Part :=
  if esp then ⟨0, 0, r, 0, min m 512⟩ :: (if 512 < m then [⟨1, 0, r, 512, m - 512⟩] else [])
  else ⟨0, 0, min r 128, 0, m⟩ :: (if 128 < r then [⟨1, 128, r - 128, 0, m⟩] else [])

/-- A tile that the arrays run: columns, reduction length, depth, MODE, rows by share. -/
structure Tile where
  m : Nat
  kk : Nat
  k : Nat
  mode : Nat
  rows : Nat
  shares : List Part
deriving DecidableEq, Repr

/-- n_s (R83). -/
def Tile.steps (t : Tile) : Nat := (t.kk + t.k - 1) / t.k

/-- M_t (R88). -/
def Tile.mt (t : Tile) : Nat := if bit t.mode 0 then 512 else 128

/-- The share of a GRAFT: row j of the tile is row ROW0 + j, in array 1 from 128 on (R182). -/
def graftParts (r0 n m : Nat) : List Part :=
  let a := min n (128 - r0)
  (if a = 0 then [] else [⟨0, 0, a, 0, m⟩]) ++ (if a < n then [⟨1, a, n - a, 0, m⟩] else [])

/-- The tile of an array descriptor; stages 1 and 2 are a GRAFT's (R181). -/
def tileOf (e : QEnt) (stage : Nat) : Option Tile :=
  let d := e.raw
  match dtype d with
  | some .gemm => match inFmt (leAt d 55 1), inFmt (leAt d 56 1) with
    | some fw, some fa =>
      let mode := leAt d 57 1
      some ⟨leAt d 48 2, leAt d 52 3, pairDepth fw fa, mode, leAt d 50 2, parts (bit mode 0) (leAt d 48 2) (leAt d 50 2)⟩
    | _, _ => none
  | some .conv => match inFmt (leAt d 57 1), inFmt (leAt d 58 1) with
    | some fw, some fa =>
      let mode := leAt d 59 1
      some ⟨leAt d 46 2, convK d, pairDepth fw fa, mode, leAt d 55 2, parts (bit mode 0) (leAt d 46 2) (leAt d 55 2)⟩
    | _, _ => none
  | some .graft => match graftFmt (leAt d 41 1) with
    | some f =>
      let n := leAt d 44 2
      let sh := graftParts (leAt d 42 2) n
      if stage = 2 then some ⟨leAt d 46 2, leAt d 40 1, f.depth, 2, n, sh (leAt d 46 2)⟩
      else some ⟨leAt d 40 1, leAt d 48 3, f.depth, 0, n, sh (leAt d 40 1)⟩
    | none => none
  | _ => none

/-- An array descriptor without rows, or a GRAFT of input length 0, is a no-op (R73, R79). -/
def noRows (d : List Byte) : Bool :=
  match dtype d with
  | some .gemm => leAt d 50 2 == 0
  | some .conv => leAt d 55 2 == 0
  | some .graft => leAt d 44 2 == 0 || leAt d 48 3 == 0
  | _ => false

/-- The base of an operand in array p's buffer (R117): the same offset; core memory is flat. -/
def baseAt (p a : Nat) : Nat := if p = 1 then otherArray a else a

/-! ## Operands of a step -/

/-- k elements of a packed vector from position q0 on; positions at or beyond the length are zero (R83). -/
def vecStep (f : Fmt) (v : List Byte) (kk q0 k : Nat) : List Val :=
  (List.range k).map fun j => if q0 + j < kk then elemAt f v kk (q0 + j) else .zero

/-- A packed vector in memory. -/
def peekVec (s : State) (i : SetId) (f : Fmt) (a kk : Nat) : List Byte := peek s i a (f.packed kk)

/-- Input pixel of kernel position (ky, kx) for output pixel p of a CONV, if inside the input (R79). -/
def convPixel (d : List Byte) (p ky kx : Nat) : Option Nat :=
  let ow := (convOut d).2
  let f (o str k dil pad : Nat) : Int := (o * (str + 1) + k * (dil + 1) : Nat) - (pad : Int)
  let y := f (p / ow) (bits (leAt d 49 1) 0 4) ky (bits (leAt d 50 1) 0 4) (bits (leAt d 51 1) 0 2)
  let x := f (p % ow) (bits (leAt d 49 1) 4 4) kx (bits (leAt d 50 1) 4 4) (bits (leAt d 51 1) 4 2)
  if 0 ≤ y ∧ y < leAt d 40 2 ∧ 0 ≤ x ∧ x < leAt d 42 2 then some (y.toNat * leAt d 42 2 + x.toNat) else none

/-- Element `q` of the activation row of output pixel p (R79): kernel row, kernel column, channel. -/
def convElem (s : State) (i : SetId) (d : List Byte) (f : Fmt) (base p q : Nat) : Val :=
  let c := leAt d 44 2
  let kw := bits (leAt d 48 1) 4 4 + 1
  match convPixel d p (q / (kw * c)) (q / c % kw) with
  | none => .zero
  | some px =>
    let ch := q % c
    if f.scale = .none then
      let lo := (px * c + ch) * f.width
      elemVal f 0 (bits (leNat (peek s i (base + lo / 8) 5)) (lo % 8) f.width)
    else elemAt f (peek s i (base + px * f.packed c) (f.packed c)) c ch

/-- Stream format versions that an expander takes, a bit each: supported (Table 6-9) and used by the dance card (Table 14-3). -/
def streamVers (s : State) (i : SetId) : Nat := s.fld i .LINK_XP_CAP_VERS &&& s.svers

/-- End of the operand-port range for a GEMM in it, as at issue (R175). -/
def opxEndOf (s : State) (i : SetId) (k : Nat) (e : QEnt) : Nat :=
  match dtype e.raw with
  | some .gemm => if inOpx s i k e.a1 then bufBase k + (opxRange s i k).1 + (opxRange s i k).2 else 0
  | _ => 0

/-- Bytes of the stored stream at W, its header at least, up to the end of the range. -/
def opxStored (s : State) (i : SetId) (k : Nat) (e : QEnt) : Nat :=
  min (max 64 (up32 ((shdr (peek s i e.a1 64)).slen * 16))) (opxEndOf s i k e - e.a1)

/-- What array p's operand-port expander decodes (R176, R177, R179). A stream that ends behind the range, or decodes to less
than the steps need, is a GEOMETRY failure. A block with a word that could not be corrected comes as poisoned zeros; with one in the header
or index all that it delivers does, and no failure is raised (R165, R418). -/
def opxDecode (s : State) (i : SetId) (k : Nat) (e : QEnt) (t : Tile) (p : Nat) : StreamOut :=
  let n := opxEndOf s i k e - e.a1
  let d := peek s i (baseAt p e.a1) n
  let bad := (List.range (n / 32)).filter fun j => wordBad s i (baseAt p e.a1 + 32 * j)
  let h := shdr d
  let vers := if bit (streamVers s i) 0 then 1 else 0
  if headBad d bad then ⟨[], 0, 0⟩
  else match headCause vers d with
  | 0 =>
    if n < h.slen * 16 ∨ h.dlen * 32 < t.steps * (if bit t.mode 0 then 1024 else 256) then ⟨[], 0, 4⟩
    else streamWith vers (s.fld i .CORE_SLOT_MAP_INFORCE k) d bad
  | c => ⟨[], 0, c⟩

/-- The weights of one step: per column of the share its k elements. -/
def weightStep (s : State) (i : SetId) (k : Nat) (e : QEnt) (stage : Nat) (t : Tile) (sh : Part) (st : Nat) : List (List Val) :=
  let d := e.raw
  let cols (f : Fmt) (base pitch : Nat) := (List.range sh.cn).map fun c =>
    vecStep f (peekVec s i f (base + c * pitch) t.kk) t.kk (st * t.k) t.k
  match dtype d with
  | some .gemm => match inFmt (leAt d 55 1) with
    | some f =>
      if opxEndOf s i k e ≠ 0 then
        let img := (opxDecode s i k e t sh.p).bytes
        (List.range sh.cn).map fun c => (List.range t.k).map fun j =>
          if st * t.k + j < t.kk then
            elemVal f 0 (if bit t.mode 0 then operandElem img f.width (4 * st + c / 128) (c % 128) j else operandElem img f.width st c j)
          else .zero
      else cols f (baseAt sh.p e.a1) (leAt d 58 2 * 32)
    | none => []
  | some .conv => match inFmt (leAt d 57 1) with
    | some f => cols f (baseAt sh.p e.a1) (leAt d 60 2 * 32)
    | none => []
  | some .graft => match graftFmt (leAt d 41 1) with
    | some f => cols f (baseAt sh.p (if stage = 2 then e.a3 else e.a2)) (f.packed t.kk)
    | none => []
  | _ => []


/-- The activations of one step for a row of the tile; stage 2 of a GRAFT takes them from the values t of stage 1. -/
def actStep (s : State) (i : SetId) (e : QEnt) (stage : Nat) (grafted : List (List Nat)) (t : Tile) (sh : Part) (r st : Nat) : List Val :=
  let d := e.raw
  match dtype d with
  | some .gemm => match inFmt (leAt d 56 1) with
    | some f =>
      let r' := if bit t.mode 0 then r else r - sh.r0
      vecStep f (peekVec s i f (baseAt sh.p e.a2 + r' * (leAt d 60 2 * 32)) t.kk) t.kk (st * t.k) t.k
    | none => []
  | some .conv => match inFmt (leAt d 58 1) with
    | some f => (List.range t.k).map fun j =>
        if st * t.k + j < t.kk then convElem s i d f (baseAt sh.p e.a2) (leAt d 52 3 + r) (st * t.k + j) else .zero
    | none => []
  | some .graft => match graftFmt (leAt d 41 1) with
    | some f =>
      if stage = 2 then
        let row := grafted.getD r []
        (List.range t.k).map fun j => if st * t.k + j < t.kk then elemVal f 0 (row.getD (st * t.k + j) 0) else .zero
      else
        let x := leAt d 42 2 + r
        let pu := f.packed t.kk
        let a := if isBuf e.a1 ∧ 128 ≤ x then otherArray e.a1 + (x - 128) * pu else e.a1 + x * pu
        vecStep f (peekVec s i f a t.kk) t.kk (st * t.k) t.k
    | none => []
  | _ => []

/-- The step's check word for a share (R88): signed and absolute sums by position; from the former in the operand-port range
and in a GRAFT (R177, R183), from CHK elsewhere. -/
def checkInput (s : State) (i : SetId) (k : Nat) (e : QEnt) (sh : Part) (t : Tile) (ws : List (List Val)) (st : Nat) : List Nat × List Nat :=
  let d := e.raw
  let word := match dtype d with
    | some .gemm => if opxEndOf s i k e ≠ 0 then checkWord ws 0 t.k else peek s i (baseAt sh.p (leAt d 40 8) + 64 * st) 64
    | some .conv => peek s i (baseAt sh.p (leAt d 32 8) + 64 * st) 64
    | _ => checkWord ws 0 t.k
  ((List.range t.k).map fun j => leAt word (4 * j) 4, (List.range t.k).map fun j => leAt word (32 + 4 * j) 4)

/-! ## Places of OUT and PRE -/

/-- The address of row r, column c of OUT or PRE with elements of `w` bytes (R117). -/
def outAddr (a pitch mode w r c : Nat) : Nat :=
  if bit mode 0 then (if isBuf a ∧ 512 ≤ c then otherArray a + r * pitch + (c - 512) * w else a + r * pitch + c * w)
  else if isBuf a ∧ 128 ≤ r then otherArray a + (r - 128) * pitch + c * w else a + r * pitch + c * w

/-- OUT of an array descriptor: base, pitch, MODE and element bytes. The first row of a GRAFT is ROW0. -/
def outPlace (e : QEnt) (t : Tile) : Nat × Nat × Nat × Nat :=
  let d := e.raw
  match dtype d with
  | some .graft => (leAt d 32 8, up32 (4 * t.m), 0, 4)
  | _ => (e.a3, leAt d 62 2 * 32, t.mode, outBytes t.mode)

/-- The number of a tile's first row in OUT. -/
def outRow0 (e : QEnt) : Nat := match dtype e.raw with | some .graft => leAt e.raw 42 2 | _ => 0

/-- The floating format of OUT_FMT (Table 3-8). -/
def outFF (mode : Nat) : FFmt := if bits mode 2 2 = 0 then fFP32 else if bits mode 2 2 = 1 then fBF16 else fFP16

/-- The preload of a cell (R79, R102, R181): FP32 bit pattern. -/
def preload (s : State) (i : SetId) (e : QEnt) (stage : Nat) (t : Tile) (r c : Nat) : Nat :=
  let (a, pitch, mode, w) := outPlace e t
  let at_ (a : Nat) : Nat := leNat (peek s i (outAddr a pitch mode w (outRow0 e + r) c) w)
  match dtype e.raw with
  | some .gemm => if bit t.mode 1 then toFP32 (decodeF (outFF mode) (at_ (leAt e.raw 32 8))) else 0
  | some .conv => if bit t.mode 1 then toFP32 (decodeF (outFF mode) (at_ a)) else 0
  | some .graft => if stage = 2 then at_ a else 0
  | _ => 0

/-! ## Starting a tile -/

/-- Byte ranges of operands that the tile reads, for the report of words that cannot be corrected (R89, R418). -/
def tileReads (s : State) (i : SetId) (k : Nat) (e : QEnt) (stage : Nat) (t : Tile) : List (Nat × Nat) :=
  let d := e.raw
  let x := issued s i k ((dtype d).getD .gemm) d (e.a1, e.a2, e.a3)
  let ops (n : List Nat) (ty : DType) := ((operands ty x).zipIdx.filter fun o => n.contains o.2).flatMap fun o => o.1.rows
  let reads (ty : DType) := ((operands ty x).filter fun o => !o.write).flatMap (·.rows)
  match dtype d with
  | some .gemm =>
    if x.opxEnd ≠ 0 then t.shares.map (fun sh => (baseAt sh.p e.a1, opxStored s i k e)) ++ ((reads .gemm).filter fun r => r.1 ≠ e.a1 ∧ r.1 ≠ otherArray e.a1)
    else reads .gemm
  | some .conv =>
    match inFmt (leAt d 58 1) with
    | some f =>
      let c := leAt d 44 2
      let win := t.shares.flatMap fun sh => (List.range sh.rn).flatMap fun r =>
        (List.range (bits (leAt d 48 1) 0 4 + 1)).flatMap fun ky => (List.range (bits (leAt d 48 1) 4 4 + 1)).filterMap fun kx =>
          (convPixel d (leAt d 52 3 + sh.r0 + r) ky kx).map fun px =>
            if f.scale = .none then
              let lo := px * c * f.width / 8
              (baseAt sh.p e.a2 + lo, (px * c * f.width + c * f.width + 7) / 8 - lo)
            else (baseAt sh.p e.a2 + px * f.packed c, f.packed c)
      win ++ ((operands .conv x).zipIdx.filter fun o => o.2 ≠ 1 ∧ !o.1.write).flatMap fun o => o.1.rows
    | none => []
  | some .graft => if stage = 2 then ops [2, 3] .graft else ops [0, 1] .graft
  | _ => []

/-- Words of ranges that a decoder must look at: stored with other than valid check bits, or on a fenced stack. -/
def suspectWords (s : State) (i : SetId) (rs : List (Nat × Nat)) : List Nat :=
  ((rs.filter fun r => !cleanRange s i (r.1 / 32 * 32) ((r.1 + r.2 + 31) / 32 - r.1 / 32)).flatMap fun r =>
    ((List.range ((r.1 + r.2 + 31) / 32 - r.1 / 32)).map fun j => (r.1 / 32 + j) * 32).filter fun a =>
      chkOf s i a ≠ 0 || onFenced s i a).eraseDups

/-- Read the operands of a tile: whether a word was bad, whether the job ends. -/
def readTile (s : State) (i : SetId) (e : QEnt) (ws : List Nat) : Bool × Bool × State :=
  ws.foldl (fun p a =>
    let (_, b, ends, s) := readOperand p.2.2 i e.job e.tag a 1
    (p.1 || b, p.2.1 || ends, s)) (false, false, s)

/-- The first check-cell values of a row (R88): the preload, added in column order. Columns that contribute +0 change
nothing. -/
def checkInit (row : List Nat) : Nat × Nat :=
  row.foldl (fun p c => (fadd p.1 c, fadd p.2 (c % 2 ^ 31))) (0, 0)

/-- The graft latch of an array of a core (R184). -/
def latchOf (s : State) (i : SetId) (k p : Nat) : Option GraftLatch := (s.core i k).latch.find? fun g => g.arr = p

/-- The values t of stage 1, of every share of a GRAFT. -/
def latched (s : State) (i : SetId) (k : Nat) (t : Tile) : List (List Nat) :=
  t.shares.flatMap fun sh => match latchOf s i k sh.p with | some g => g.t | none => []

/-- A tile begins (R84): its operands are read, its cells start at +0 or at the preload. -/
def beginTile (s : State) (i : SetId) (k : Nat) (e : QEnt) (stage : Nat) : Option Tile → State
  | none => s
  | some t =>
    let (bad, ends, s) := readTile s i e (suspectWords s i (tileReads s i k e stage t))
    if ends then leaveJob s i e.job .byContainment
    else
      let opx := if opxEndOf s i k e ≠ 0 then t.shares.map fun sh => opxDecode s i k e t sh.p else []
      let s := s.addFld i .CORE_OPX_STAT_BLOCKS k ((opx.map fun o => (o.bytes.length + 4095) / 4096).foldl (· + ·) 0)
      match opx.find? fun o => o.cause ≠ 0 with
      | some o => haltSlot (s.setFld i .CORE_OPX_STAT_CAUSE k o.cause) i k e.slot .stream e.pc e.tag o.cause 0
      | none =>
        let acc := (List.range t.rows).map fun r => (List.range t.m).map fun c => preload s i e stage t r c
        let chk := t.shares.map fun sh => (List.range sh.rn).map fun r => checkInit (((acc.getD (sh.r0 + r) []).drop sh.c0).take sh.cn)
        let run : TileRun :=
          { stage := stage, steps := 0, acc := acc, chkS := chk.map fun l => l.map (·.1), chkB := chk.map fun l => l.map (·.2), opBad := bad,
            t := if stage = 2 then latched s i k t else [] }
        s.onCore i k fun c => { c with tile := some run }

/-- The key of a GRAFT in the latch (R184). -/
def graftKey (e : QEnt) : List Nat :=
  [e.a1, e.a2, leAt e.raw 48 3, leAt e.raw 40 1, leAt e.raw 41 1, leAt e.raw 42 2, leAt e.raw 44 2]

/-- The latch of every array that works on the GRAFT holds its t (R184). -/
def latchHolds (s : State) (i : SetId) (k : Nat) (e : QEnt) : Bool :=
  (graftParts (leAt e.raw 42 2) (leAt e.raw 44 2) 1).all fun sh =>
    match latchOf s i k sh.p with | some g => g.job == e.job && g.key == graftKey e | none => false

/-- The first unfinished descriptor begins: work of another job clears the latches, and a GRAFT whose latches hold skips stage 1
(R184). -/
def beginEntry (s : State) (i : SetId) (k : Nat) (e : QEnt) : State :=
  let s := s.onCore i k fun c => { c with latch := c.latch.filter fun g => g.job = e.job }
  match dtype e.raw with
  | some .graft =>
    if latchHolds s i k e then beginTile (s.addFld i .CORE_GRAFT_STAT_HITS k 1) i k e 2 (tileOf e 2)
    else beginTile (s.addFld i .CORE_GRAFT_STAT_MISSES k 1) i k e 1 (tileOf e 1)
  | _ => beginTile s i k e 0 (tileOf e 0)

/-! ## One step (R83, R88, R102, R103) -/

/-- The exact step sum of a cell; a sum of negative zeros stays −0 (R103). -/
def dot (a w : List Val) : Val := (a.zipWith Val.mul w).foldl Val.add (.fin true 0 0)

/-- A cell after a step: one rounding of accumulator plus exact sum. -/
def cellStep (acc : Nat) (a w : List Val) : Nat := toFP32 (Val.add (ofFP32 acc) (dot a w))

/-- The steps of the cells and check cells of a share: rows of accumulators, S and B. -/
def shareStep (s : State) (i : SetId) (k : Nat) (e : QEnt) (t : Tile) (r : TileRun) (x : Nat × Part) :
    List (List Nat) × List Nat × List Nat :=
  let sh := x.2
  let ws := weightStep s i k e r.stage t sh r.steps
  let (cs, cb) := checkInput s i k e sh t ws r.steps
  let rows := (List.range sh.rn).map fun q => actStep s i e r.stage r.t t sh (sh.r0 + q) r.steps
  let acc := rows.zipIdx.map fun a => (((r.acc.getD (sh.r0 + a.2) []).drop sh.c0).take sh.cn).zipWith (fun v w => cellStep v a.1 w) ws
  let ss := rows.zipIdx.map fun a => cellStep ((r.chkS.getD x.1 []).getD a.2 0) a.1 (cs.map ofFP32)
  let bs := rows.zipIdx.map fun a => cellStep ((r.chkB.getD x.1 []).getD a.2 0) (a.1.map Val.abs) (cb.map ofFP32)
  (acc, ss, bs)

/-- The rows of a tile put together from its shares. -/
def joinShares (t : Tile) (l : List (List (List Nat))) : List (List Nat) :=
  if bit t.mode 0 then (List.range t.rows).map fun r => l.flatMap fun sh => sh.getD r [] else l.flatMap id

/-- One step of the tile in the arrays; an upset flips bits of one accumulator. -/
def tileStep (s : State) (i : SetId) (k : Nat) (e : QEnt) (t : Tile) (r : TileRun) (upset : Option CellUpset) : TileRun :=
  let q := t.shares.zipIdx.map fun sh => shareStep s i k e t r (sh.2, sh.1)
  let acc := joinShares t (q.map (·.1))
  let acc := match upset with
    | some u => acc.mapIdx fun x row => if x = u.row then row.mapIdx fun c v => if c = u.col then v ^^^ (u.mask % 2 ^ 32) else v else row
    | none => acc
  { r with steps := r.steps + 1, acc := acc, chkS := q.map (·.2.1), chkB := q.map (·.2.2) }

/-- The array descriptor at work: the first that is not finished. -/
def arrayHead (s : State) (i : SetId) (k : Nat) : Option QEnt := (s.core i k).arrayQ.find? fun e => e.phase != .done

/-- The arrays of a core may work. -/
def arraysRun (s : State) (i : SetId) (k : Nat) : Bool :=
  !(s.st i).lost && !(s.core i k).stopped && !(coreArrays s i k).isEmpty && arraysAwake s i k

/-- ARRAY_STEP (R83): the descriptor at work begins its tile if it has none, and makes one step unless all are made. -/
def execArrayStep (i : SetId) (core : CoreId) (upset : Option CellUpset) (s : State) : Out :=
  let k := core.val
  match arrayHead s i k with
  | none => .next s
  | some e =>
    if !arraysRun s i k then .next s
    else
      let s := if (s.core i k).tile.isNone then beginEntry s i k e else s
      match (s.core i k).tile with
      | none => .next (settle s i)
      | some r => match tileOf e r.stage with
        | none => .next s
        | some t =>
          .next (if r.steps < t.steps then s.onCore i k fun c => { c with tile := some (tileStep s i k e t r upset) } else s)

/-! ## The drain (R84, R88, R89, R104) -/

/-- SLACK of a depth (Table 3-26). -/
def slackOf (s : State) (i : SetId) (k depth : Nat) : Nat :=
  min 4 (if depth = 1 then s.fld i .ARR_CHKCFG_SLACK1 k else if depth = 2 then s.fld i .ARR_CHKCFG_SLACK2 k
    else if depth = 4 then s.fld i .ARR_CHKCFG_SLACK4 k else s.fld i .ARR_CHKCFG_SLACK8 k)

/-- The row mismatches (R88, R172). -/
def mismatch (n mt slack tt ss bb : Nat) : Bool :=
  let x := ofFP32 tt
  let y := ofFP32 ss
  let b := ofFP32 bb
  let diff := Val.abs (Val.add x (Val.neg y))
  let bound := Val.add (Val.mul (.fin false (n + mt + 8) ((slack : Int) - 23)) b) (.fin false mt (-126))
  x.isFin && y.isFin && b.isFin && Val.lt bound diff

/-- The mismatching rows of each share, with the array that runs it (R61, R89). -/
def badRows (s : State) (i : SetId) (k : Nat) (t : Tile) (r : TileRun) : List (Nat × Nat) :=
  let en := coreArrays s i k
  t.shares.zipIdx.flatMap fun sh => (List.range sh.1.rn).filterMap fun q =>
    let row := ((r.acc.getD (sh.1.r0 + q) []).drop sh.1.c0).take sh.1.cn
    let tt := row.foldl fadd 0
    if mismatch t.steps t.mt (slackOf s i k t.k) tt ((r.chkS.getD sh.2 []).getD q 0) ((r.chkB.getD sh.2 []).getD q 0) then
      some (if en.contains sh.1.p then sh.1.p else en.headD 0, sh.1.r0 + q)
    else none

/-- ARR_STATp of a mismatch, and its record (R89). -/
def checkReport (s : State) (i : SetId) (k : Nat) (e : QEnt) (bad : List (Nat × Nat)) : State :=
  (List.range 2).foldl (fun s p =>
    let rows := ((bad.filter fun b => b.1 = p).map (·.2)).eraseDups
    match rows with
    | [] => s
    | r :: q =>
      let lo := q.foldl min r
      let s := s.addFld i .ARR_STATp_MISMATCH (2 * k + p) rows.length
      let s := s.setFld i .ARR_STATp_ROW (2 * k + p) lo
      report s i { FC.arrCheck.fr with die := coreDie i k, unit := k, sub := p, job := e.job, tag := e.tag, detail := lo + 2 ^ 16 * rows.length }) s

/-- An accumulator as OUT_FMT (R104). -/
def drainCode (mode acc : Nat) : Nat :=
  let f := outFF mode
  let c := (encodeF f .even true (ofFP32 acc)).code
  if bit mode 4 ∧ bits mode 2 2 ≠ 0 ∧ c % 2 ^ (f.eb + f.mb) < 2 ^ f.mb then c / 2 ^ (f.eb + f.mb) * 2 ^ (f.eb + f.mb) else c

/-- The rows that a tile writes to OUT: address and bytes, each padded to whole words (R104, R117, R121). -/
def drainRows (e : QEnt) (t : Tile) (r : TileRun) : List (Nat × List Byte) :=
  let (a, pitch, mode, w) := outPlace e t
  let mode' := if dtype e.raw == some .graft then 0 else mode
  let split := bit mode 0 && isBuf a && 512 < t.m
  r.acc.zipIdx.flatMap fun row =>
    let put (c0 cn : Nat) : Nat × List Byte :=
      (outAddr a pitch mode w (outRow0 e + row.2) c0, padWord (((row.1.drop c0).take cn).flatMap fun v => leBytes w (drainCode mode' v)))
    if split then [put 0 512, put 512 (t.m - 512)] else [put 0 t.m]

/-- The tile is written to OUT. -/
def drainTile (s : State) (i : SetId) (k : Nat) (e : QEnt) (t : Tile) (r : TileRun) : State :=
  let rows := drainRows e t r
  latchTouch (rows.foldl (fun s x => store s i x.1 x.2) s) i k (rows.map fun x => (x.1, x.2.length))

/-- Stage 1 of a GRAFT ends (R181, R184): t is converted, saturating, and each array keeps its rows in its latch. -/
def fillLatch (s : State) (i : SetId) (k : Nat) (e : QEnt) (t : Tile) (r : TileRun) : State :=
  match graftFmt (leAt e.raw 41 1) with
  | none => s
  | some f =>
    let conv (v : Nat) : Nat := (encodeElem f .even false (ofFP32 v)).code
    let x := issued s i k .graft e.raw (e.a1, e.a2, e.a3)
    let src := ((operands .graft x).take 2).flatMap (·.rows)
    let new : List GraftLatch := t.shares.map fun sh =>
      { arr := sh.p, job := e.job, key := graftKey e, src := src, t := ((r.acc.drop sh.r0).take sh.rn).map fun row => row.map conv }
    s.onCore i k fun c => { c with latch := c.latch.filter (fun g => !(new.any fun h => h.arr = g.arr)) ++ new }

/-- TILE_DRAIN (R84, R88, R89, R104): every step made, the rows are compared unless an operand word was bad, the tile is
written, and the descriptor has made its writes. After a mismatch it completes and the core is pruned; after one in stage 1 of a GRAFT
when stage 2 has written OUT. -/
def execTileDrain (i : SetId) (core : CoreId) (s : State) : Out :=
  let k := core.val
  match arrayHead s i k, (s.core i k).tile with
  | some e, some r =>
    match tileOf e r.stage with
    | none => .next s
    | some t =>
      if r.steps < t.steps ∨ !arraysRun s i k then .next s
      else
        let bad := if r.opBad then [] else badRows s i k t r
        let s := s.onCore i k fun c => { c with tile := none }
        let s := if r.stage = 1 then fillLatch s i k e t r else drainTile s i k e t r
        let s := checkReport s i k e bad
        let s := if bad.isEmpty then s else s.onCore i k fun c => { c with failed := true }
        if r.stage = 1 then .next (settle (beginTile s i k e 2 (tileOf e 2)) i)
        else .next (settle (if (s.core i k).failed then complete s i k 0 e else markDone s i k 0 e.id) i)
  | _, _ => .next s

/-! ## Issue -/

/-- Array work was issued (R87): the arrays wake unless they have other work; a descriptor without rows needs none (R73). -/
def arrayIssued (s : State) (i : SetId) (k : Nat) (e : QEnt) : State :=
  if noRows e.raw then markDone s i k 0 e.id
  else if (s.core i k).arrayQ.any fun x => x.id ≠ e.id ∧ x.phase != .done then s
  else arraysWake s i k

/-- An array descriptor is issued and queued. -/
def arrayIssue (t : DType) (ev : Issue) (s : State) : State :=
  match issueEvent t ev s with
  | (s, some e) => settle (arrayIssued s ev.set ev.core.val e) ev.set
  | (s, none) => settle s ev.set

/-- GEMM (R78). -/
def execGemm (ev : Issue) (s : State) : Out := .next (arrayIssue .gemm ev s)

/-- CONV (R79). -/
def execConv (ev : Issue) (s : State) : Out := .next (arrayIssue .conv ev s)

/-- GRAFT (R181). -/
def execGraft (ev : Issue) (s : State) : Out := .next (arrayIssue .graft ev s)

/-! ## SLOT_MAP (R179) -/

/-- The written mapping of a core. -/
def slotMapWritten (s : State) (i : SetId) (k : Nat) : Nat :=
  s.fld i .CORE_SLOT_MAP_MAP0 k + 16 * s.fld i .CORE_SLOT_MAP_MAP1 k + 256 * s.fld i .CORE_SLOT_MAP_MAP2 k +
    4096 * s.fld i .CORE_SLOT_MAP_MAP3 k

/-- A write to CORE_SLOT_MAP: bits 15:0 are kept and the mapping is pending. -/
def writeSlotMap (s : State) (i : SetId) (k v : Nat) : State :=
  let s := s.setFld i .CORE_SLOT_MAP_MAP0 k (bits v 0 4)
  let s := s.setFld i .CORE_SLOT_MAP_MAP1 k (bits v 4 4)
  let s := s.setFld i .CORE_SLOT_MAP_MAP2 k (bits v 8 4)
  let s := s.setFld i .CORE_SLOT_MAP_MAP3 k (bits v 12 4)
  s.setFld i .CORE_SLOT_MAP_SLOT_MAP_PENDING k 1

/-- SLOT_MAP_WRITE (R179). -/
def execSlotMapWrite (i : SetId) (core : CoreId) (v : Nat) (s : State) : Out := .next (writeSlotMap s i core.val v)

/-- SLOT_MAP_APPLY (R179): with no operand-port GEMM in the array queue the pending mapping comes into force and slots held
for it issue again. -/
def execSlotMapApply (i : SetId) (core : CoreId) (s : State) : Out :=
  let k := core.val
  if s.fld i .CORE_SLOT_MAP_SLOT_MAP_PENDING k = 1 ∧ !((s.core i k).arrayQ.any fun e => opxEndOf s i k e ≠ 0) then
    let s := s.setFld i .CORE_SLOT_MAP_INFORCE k (slotMapWritten s i k)
    .next (settle (s.setFld i .CORE_SLOT_MAP_SLOT_MAP_PENDING k 0) i)
  else .next s

end Sys2Proof.Machine
end

