-- ==== Sys2Proof/Machine/Kv.lean ====
section
/-! DEFINITION. The key-value store: geometry, directory, frames, append and the arithmetic of attend (8.2 to 8.6). -/

namespace Sys2Proof.Machine

/-! ## Geometry (R226 to R230) -/

/-- The store's geometry (MSE_KVCFG, MSE_STRIPE). -/
structure KvGeo where
  layers : Nat
  hkv : Nat
  d : Nat
  fmt : Fmt
  dyn : Bool
  sealOn : Bool
  dirlen : Nat
  w : Nat
deriving DecidableEq, Repr

/-- The geometry in force. -/
def kvGeo (s : State) (i : SetId) : KvGeo :=
  { layers := s.fld i .MSE_KVCFG_LAYERS, hkv := s.fld i .MSE_KVCFG_HKV, d := s.fld i .MSE_KVCFG_D
    fmt := (Fmt.ofCode (s.fld i .MSE_KVCFG_FMT)).getD .bf16, dyn := s.fld i .MSE_KVCFG_DYN = 1, sealOn := s.fld i .MSE_KVCFG_SEAL = 1
    dirlen := s.fld i .MSE_KVCFG_DIRLEN, w := max 1 (s.fld i .MSE_STRIPE_W) }

namespace KvGeo

/-- Scale groups of a head (R228). -/
def ng (g : KvGeo) : Nat := (g.d + 31) / 32
/-- The format takes scales. -/
def scaled (g : KvGeo) : Bool := g.fmt == .int4 || g.fmt == .k4
/-- H_s (R229). -/
def hs (g : KvGeo) : Nat := (g.hkv + g.w - 1) / g.w
/-- Bytes of a position record. -/
def recB (g : KvGeo) : Nat := g.d * g.fmt.width / 8
/-- Bytes of a head section. -/
def headSec (g : KvGeo) : Nat := 256 * g.recB + (if g.dyn then 512 * g.ng else 0)
/-- Bytes of a layer block. -/
def layerBlk (g : KvGeo) : Nat := 2 * g.hs * g.headSec
/-- Bytes of the seal map. -/
def sealOff (g : KvGeo) : Nat := if g.sealOn then 32 else 0
/-- Frame size in 4 KiB units. -/
def fsize (g : KvGeo) : Nat := (g.sealOff + g.layers * g.layerBlk + 4095) / 4096
/-- Offset of a position record in a layer block: key (0) or value (1) section, place of the head on the stack, position. -/
def recOff (g : KvGeo) (kv lh pos : Nat) : Nat := (kv * g.hs + lh) * g.headSec + pos * g.recB
/-- Offset of a scale record. -/
def scaleOff (g : KvGeo) (kv lh pos : Nat) : Nat := (kv * g.hs + lh) * g.headSec + 256 * g.recB + pos * 2 * g.ng
/-- Bytes between directory entries (Table 8-2). -/
def dirStride (g : KvGeo) : Nat := up32 (16 + 4 * g.dirlen)
/-- The first stack of the stripe group that holds a stack (R227). -/
def groupOf (g : KvGeo) (st : Nat) : Nat := st / g.w * g.w
/-- The stacks of the group that begins at a stack. -/
def group (g : KvGeo) (st0 : Nat) : List Nat := (List.range g.w).map (st0 + ·)
/-- The heads that stack `st0 + j` holds, in ascending order (R227). -/
def heads (g : KvGeo) (j : Nat) : List Nat := (List.range g.hkv).filter fun h => h % g.w == j

end KvGeo

/-- The address of a frame. -/
def frameAddr (s : State) (i : SetId) (g : KvGeo) (st f : Nat) : Nat :=
  s.fld i .MSE_STKs_0_KVBASE st * 4096 + f * g.fsize * 4096

/-- The address of a layer block. -/
def blockAddr (s : State) (i : SetId) (g : KvGeo) (st f layer : Nat) : Nat := frameAddr s i g st f + g.sealOff + layer * g.layerBlk

/-! ## The directory (R230) -/

/-- The address of a session slot's directory entry on a stack. -/
def dirAddr (s : State) (i : SetId) (g : KvGeo) (st n : Nat) : Nat := s.fld i .MSE_STKs_0_DIRBASE st * 4096 + n * g.dirStride

/-- A field of a directory entry. -/
def dirGet (s : State) (i : SetId) (g : KvGeo) (st n off len : Nat) : Nat := leNat (peek s i (dirAddr s i g st n + off) len)

/-- Write a field of a directory entry. -/
def dirSet (s : State) (i : SetId) (g : KvGeo) (st n off len v : Nat) : State :=
  store s i (dirAddr s i g st n + off) (leBytes len v)

/-- LEN of an entry. -/
def dirLen (s : State) (i : SetId) (g : KvGeo) (st n : Nat) : Nat := dirGet s i g st n 0 4
/-- NFR. -/
def dirNfr (s : State) (i : SetId) (g : KvGeo) (st n : Nat) : Nat := dirGet s i g st n 4 2
/-- RSV. -/
def dirRsv (s : State) (i : SetId) (g : KvGeo) (st n : Nat) : Nat := dirGet s i g st n 6 2
/-- FLAGS. -/
def dirFlags (s : State) (i : SetId) (g : KvGeo) (st n : Nat) : Nat := dirGet s i g st n 8 2
/-- PLEN. -/
def dirPlen (s : State) (i : SetId) (g : KvGeo) (st n : Nat) : Nat := dirGet s i g st n 12 4

/-- No frame. -/
def noFrame : Nat := 0xFFFF_FFFF

/-- FRAME[f]; none where no frame is attached. -/
def dirFrame (s : State) (i : SetId) (g : KvGeo) (st n f : Nat) : Option Nat :=
  if g.dirlen ≤ f then none
  else
    let v := dirGet s i g st n (16 + 4 * f) 4
    if v = noFrame then none else some v

/-- Frames that a session shares with its prefix (R244). -/
def sharedFrames (s : State) (i : SetId) (g : KvGeo) (st n : Nat) : Nat :=
  if bit (dirFlags s i g st n) 2 then dirPlen s i g st n / 256 else 0

/-- Frames of a stack that some open entry names. -/
def framesUsed (s : State) (i : SetId) (g : KvGeo) (st : Nat) : List Nat :=
  (s.st i).su.sess.flatMap fun e =>
    if bit (dirFlags s i g st e.1) 0 then (List.range g.dirlen).filterMap fun f => dirFrame s i g st e.1 f else []

/-- A free frame of a stack (log entry 14: which one is a free value). -/
def freeFrame (s : State) (i : SetId) (g : KvGeo) (st : Nat) : Option Nat :=
  let used := framesUsed s i g st
  let n := s.fld i .MSE_STKs_1_FRAMES st
  if n = 0 then none
  else ((List.range (used.length + 1)).map fun j => (s.free 32 + j) % n).find? fun f => !used.contains f

/-- Attach a frame to place `f` of a session's entry from its reservation (R232); none when the reservation is used up. The
seal map of the frame is cleared (log entry 15). -/
def attachFrame (s : State) (i : SetId) (g : KvGeo) (st n f : Nat) : Option State :=
  if g.dirlen ≤ f ∨ dirRsv s i g st n ≤ dirNfr s i g st n - sharedFrames s i g st n then none
  else match freeFrame s i g st with
    | none => none
    | some fr =>
      let s := s.spend
      let s := dirSet s i g st n (16 + 4 * f) 4 fr
      let s := dirSet s i g st n 4 2 (dirNfr s i g st n + 1)
      some (if g.sealOn then store s i (frameAddr s i g st fr) (List.replicate 32 0) else s)

/-! ## Reading blocks (R228, R229, R247) -/

/-- The layer's bit in a frame's seal map. -/
def sealed (s : State) (i : SetId) (g : KvGeo) (st f layer : Nat) : Bool :=
  g.sealOn && bit (leNat (peek s i (frameAddr s i g st f) 32)) layer

/-- A layer block as its engine reads it: bytes at an offset, and the cause of a stream failure (R248; 0 none). -/
structure BlockView where
  bytes : List Byte
  sealed : Bool
  base : Nat
  cause : Nat
deriving DecidableEq, Repr

/-- View a layer block: a sealed one is decoded. -/
def blockView (s : State) (i : SetId) (g : KvGeo) (st f layer : Nat) : BlockView :=
  let a := blockAddr s i g st f layer
  if sealed s i g st f layer then
    let d := peek s i a g.layerBlk
    let o := streamDecode 2 0 d
    ⟨o.bytes, true, a, o.cause⟩
  else ⟨[], false, a, 0⟩

/-- `n` bytes at an offset of a block. -/
def BlockView.read (s : State) (i : SetId) (v : BlockView) (off n : Nat) : List Byte :=
  if v.sealed then slice v.bytes off n else peek s i (v.base + off) n

/-- The scale and the codebook of a group (R228): of the scale record, or of the request's table. -/
def groupScale (s : State) (i : SetId) (g : KvGeo) (v : BlockView) (table : List Byte) (kv h lh pos grp : Nat) : Nat × Nat :=
  let d := if g.dyn then v.read s i (g.scaleOff kv lh pos + 2 * grp) 2 else slice table (2 * ((kv * g.hkv + h) * g.ng + grp)) 2
  (leAt d 0 1, leAt d 1 1 % 16)

/-- Element d of head h at a position, decoded (R97, R100). -/
def kvElem (s : State) (i : SetId) (g : KvGeo) (v : BlockView) (table : List Byte) (kv h lh pos d : Nat) : Val :=
  let lo := d * g.fmt.width
  let c := bits (leNat (v.read s i (g.recOff kv lh pos + lo / 8) 2)) (lo % 8) g.fmt.width
  if g.scaled then
    let (sc, cb) := groupScale s i g v table kv h lh pos (d / 32)
    let sv := e4m3sVal sc
    if sv.isZero then .zero else Val.mul (elemVal g.fmt cb c) sv
  else elemVal g.fmt 0 c

/-! ## Conversion at append (R238) -/

/-- One element under a static scale. DESIGN CHOICE, log entry 97: of what a K4 group cannot hold only infinities count as saturated; a
finite value beyond its range does not, since Table 4-5 has no K4 row. -/
def staticElem (g : KvGeo) (r : Rnd) (sc cb : Nat) (x : Val) : Cvt :=
  let sv := e4m3sVal sc
  let z := if g.fmt = .k4 then 7 else 0
  if sv.isZero then ⟨z, false, false⟩
  else match x with
    | .nan => ⟨z, false, true⟩
    | .inf n => ⟨if g.fmt = .k4 then (if n then 0 else 15) else (if n then 8 else 7), true, false⟩
    | .fin n m e =>
      if g.fmt = .k4 then ⟨nearestIdx sv (.fin n m e) cb, false, false⟩
      else match sv with
        | .fin _ sm se => let (a, b) := ratio m e sm se; encodeInt r 4 8 7 n a b
        | _ => ⟨z, false, false⟩

/-- The elements of a head as stored: element codes, scale records, counts. -/
def kvEncode (g : KvGeo) (table : List Byte) (kv h : Nat) (xs : List (Val × Rnd)) : List Nat × List Nat × CvtStat :=
  let tally (cs : List Cvt) : CvtStat := { sat := (cs.filter (·.sat)).length, nan0 := (cs.filter (·.nan0)).length }
  if !g.scaled then
    let cs := xs.map fun p => encodeElem g.fmt p.2 false p.1
    (cs.map (·.code), [], tally cs)
  else if g.dyn then
    (blocks32 (xs.length + 1) xs).foldl (fun (a : List Nat × List Nat × CvtStat) b =>
      let r := encodeE4S g.fmt b
      (a.1 ++ r.2.1, a.2.1 ++ [r.1.getD 0 0, r.1.getD 1 0], a.2.2.plus r.2.2)) ([], [], {})
  else
    let cs := xs.zipIdx.map fun p =>
      let o := 2 * ((kv * g.hkv + h) * g.ng + p.2 / 32)
      staticElem g p.1.2 (leAt table o 1) (leAt table (o + 1) 1 % 16) p.1.1
    (cs.map (·.code), [], tally cs)

/-- Count conversions at append (R238, Table 8-12). -/
def countKv (s : State) (i : SetId) (c : CvtStat) : State :=
  let s := s.satFld i .MSE_CVT_STAT_SAT_CNT 0 c.sat
  let s := s.satFld i .MSE_CVT_STAT_NAN0_CNT 0 c.nan0
  let s := if c.sat = 0 then s else s.setFld i .MSE_CVT_STAT_SAT 0 1
  let s := if c.nan0 = 0 then s else s.setFld i .MSE_CVT_STAT_NAN0 0 1
  if c.scaleNan then s.setFld i .MSE_CVT_STAT_SCALE_NAN 0 1 else s

/-! ## Rotation and scores (R240) -/

/-- An exact sum, rounded once. DESIGN CHOICE, log entry 97: it begins at +0, so a sum of products that are all −0 is +0. -/
def fused (vs : List Val) : Nat := toFP32 (vs.foldl Val.add .zero)

/-- Step 4: an element of a head at position p after rotation; values are FP32 bit patterns. -/
def ropeElem (split : Bool) (drot p : Nat) (freq : Nat → Nat) (xs : List Nat) (e : Nat) : Nat :=
  if drot ≤ e then xs.getD e 0
  else
    let half := drot / 2
    let n := if split then e % half else e / 2
    let first := if split then e < half else e % 2 = 0
    let a := if split then n else 2 * n
    let b := if split then n + half else 2 * n + 1
    let th := fmul (toFP32 (.ofInt p)) (freq n)
    let c := ofFP32 (ftrig true th)
    let sn := ofFP32 (ftrig false th)
    let xa := ofFP32 (xs.getD a 0)
    let xb := ofFP32 (xs.getD b 0)
    if first then toFP32 (Val.add (Val.mul xa c) (Val.neg (Val.mul xb sn)))
    else toFP32 (Val.add (Val.mul xa sn) (Val.mul xb c))

/-- A head after rotation. -/
def rope (split : Bool) (drot p : Nat) (freq : Nat → Nat) (xs : List Nat) : List Nat :=
  if drot = 0 then xs else (List.range xs.length).map (ropeElem split drot p freq xs)

/-- Steps 3 and 5: the score of a key. -/
def score (scale cap : Nat) (q k : List Val) : Nat :=
  let sj := toFP32 (Val.mul (ofFP32 scale) ((q.zipWith Val.mul k).foldl Val.add .zero))
  if cap = 0 then sj
  else
    let u := fmul sj (frecip cap)
    let e := fexp (fmul (toFP32 (.ofInt 2)) u)
    let t := fsub (toFP32 (.ofInt 1)) (fmul (toFP32 (.ofInt 2)) (frecip (fadd e (toFP32 (.ofInt 1)))))
    fmul cap t

/-- Step 6: the partial result of a block from the scores and values of its valid positions. -/
def blockPartial (d : Nat) (sv : List (Nat × List Val)) : Nat × Nat × List Nat :=
  match sv with
  | [] => (0, 0, [])
  | x :: q =>
    let m := q.foldl (fun a y => fmax a y.1) x.1
    let es := sv.map fun y => (ofFP32 (fexp (fsub y.1 m)), y.2)
    (m, fused (es.map (·.1)), (List.range d).map fun n => fused (es.map fun y => Val.mul y.1 (y.2.getD n .zero)))

/-- Step 7: combine with a later block. -/
def combine (a b : Nat × Nat × List Nat) : Nat × Nat × List Nat :=
  let m := fmax a.1 b.1
  let al := fexp (fsub a.1 m)
  let be := fexp (fsub b.1 m)
  (m, fadd (fmul a.2.1 al) (fmul b.2.1 be), a.2.2.zipWith (fun x y => fadd (fmul x al) (fmul y be)) b.2.2)

end Sys2Proof.Machine
end

