-- ==== Sys2Proof/Machine/Attn.lean ====
section
/-! DEFINITION. ATTN requests at the stacks: checks, appends, units and stealing, combination, sealing (8.4 to 8.10). -/

namespace Sys2Proof.Machine

/-! ## Parameters (Table 8-3) -/

/-- The parameter block of a share. -/
structure AParam where
  qfmt : Nat
  kvin : Nat
  ofmt : Nat
  hq : Nat
  drot : Nat
  causal : Bool
  split : Bool
  sr : Bool
  qsplit : Nat
  window : Nat
  scale : Nat
  cap : Nat
  qpitch : Nat
  kvpitch : Nat
  opitch : Nat
  scales : Nat
deriving DecidableEq, Repr

/-- Read a parameter block. -/
def aparam (p : List Byte) : AParam :=
  let fl := leAt p 12 2
  { qfmt := leAt p 2 1, kvin := leAt p 3 1, ofmt := leAt p 4 1, hq := leAt p 5 1, drot := leAt p 10 2
    causal := bit fl 0, split := bit fl 1, sr := bit fl 2, qsplit := bits fl 3 2
    window := leAt p 16 4, scale := leAt p 20 4, cap := leAt p 24 4
    qpitch := leAt p 28 2 * 32, kvpitch := leAt p 30 2 * 32, opitch := leAt p 32 2 * 32, scales := leAt p 40 8 }

/-- The request's parameters pass (R235). -/
def paramOk (g : KvGeo) (layer op : Nat) (p scales : List Byte) : Bool :=
  let a := aparam p
  let grp := a.hq / max 1 g.hkv
  let zero (lo n : Nat) := leAt p lo n == 0
  1 ≤ g.layers && layer < g.layers && leAt p 0 1 == 1 && Fmt.ofCode (leAt p 1 1) == some g.fmt &&
    (a.qfmt == 0 || a.qfmt == 1 || a.qfmt == 3) && (a.kvin == 0 || a.kvin == 1 || a.kvin == 3) && (a.ofmt == 0 || a.ofmt == 1) &&
    1 ≤ a.hq && a.hq ≤ 128 && leAt p 6 1 == g.hkv && a.hq % g.hkv == 0 && leAt p 8 2 == g.d && a.drot % 2 == 0 && a.drot ≤ g.d &&
    leAt p 12 2 < 32 && grp % 2 ^ a.qsplit == 0 && zero 7 1 && zero 14 2 && zero 34 6 && zero 48 16 &&
    (a.cap == 0 || (match ofFP32 a.cap with | .fin n m _ => !n && m != 0 | _ => false)) &&
    ((a.scales != 0) == (g.scaled && !g.dyn)) &&
    (a.scales == 0 || (List.range (2 * g.hkv * g.ng)).all fun j => leAt scales (2 * j) 1 < 0x7F) &&
    (!bit op 1 || (a.hq * g.d * rowFmtBytes a.qfmt ≤ a.qpitch && a.hq * g.d * rowFmtBytes a.ofmt ≤ a.opitch)) &&
    (!bit op 0 || 2 * g.hkv * g.d * rowFmtBytes a.kvin ≤ a.kvpitch)

/-- LAYER of a share. -/
def Share.layer (sh : Share) : Nat := leAt sh.raw 44 1

/-- OP of a share. -/
def Share.op (sh : Share) : Nat := leAt sh.raw 45 1

/-- Frequency n of the parameter block. -/
def Share.freq (sh : Share) (n : Nat) : Nat := leAt sh.param (64 + 4 * n) 4

/-- The format of rows (Table 8-3). -/
def rowFmt (c : Nat) : Fmt := if c = 0 then .fp32 else if c = 3 then .e4m3 else .bf16

/-! ## Faults of a request (R249) -/

/-- The request faults in execution: its slot halts and its job ends (Table 8-5). -/
def attnFault (s : State) (i : SetId) (k st n layer : Nat) (e : QEnt) (c : FC) : State :=
  let f : Field := match c with | .kvHole => .MSE_ERR_HOLE | _ => .MSE_ERR_ORDER
  haltSlotWith (mseErr s i f st n layer e.tag) i k e.slot e.pc e.tag
    { c.fr with die := stackDie i st, unit := st, sub := e.slot, sess := n, detail := layer }

/-- A request's parameters do not pass (R235): no session applies, and MSE_ERR.SLOT is a free value. -/
def attnParam (s : State) (i : SetId) (k st layer : Nat) (e : QEnt) : State :=
  haltSlotWith (mseErr s.spend i .MSE_ERR_PARAM st (s.free 14) layer e.tag) i k e.slot e.pc e.tag
    { FC.attnParam.fr with die := stackDie i st, unit := st, sub := e.slot, detail := layer }

/-- A session ends for a shortage or a bad word found on a stack (R232, R249): the stack skips its rows from now on; the end
takes effect at a boundary where the step commits. -/
def skipSess (s : State) (i : SetId) (st n layer tag : Nat) (status c : FC) : State :=
  let s := mseErr s i (if c = .kvFull then .MSE_ERR_FULL else .MSE_ERR_WORD) st n layer tag
  let s := report s i { c.fr with sev := 1, action := if (s.st i).stepBad then 2 else 4, die := stackDie i st, unit := st, sess := n,
                                  job := sessJob s i n, tag := tag, detail := layer }
  onSess s i n fun x => { x with skip := putBits x.skip st 1 1, ended := if x.ended = none then some status.num else x.ended }

/-! ## Rows (R234) -/

/-- The stacks that a request asks: those named, without fenced ones. -/
def askedStacks (s : State) (i : SetId) (raw : List Byte) : Nat :=
  (List.range 6).foldl (fun m st => if bit (leAt raw 46 1) st && !fenced s i st then m + 2 ^ st else m) 0

/-- The rows of a request that a stack serves. -/
def servedRows (s : State) (i : SetId) (g : KvGeo) (st : Nat) (raw : List Byte) : List ARow :=
  let row0 := leAt raw 40 2
  (List.range (leAt raw 42 2)).filterMap fun x =>
    match (s.st i).su.rows[row0 + x]? with
    | none => none
    | some b =>
      let q := sessOf s i b.slot
      let st0 := g.groupOf q.stack
      if b.kind ≠ 0 ∧ b.slot ≠ 0xFFFF ∧ (g.group st0).contains st ∧ (g.group st0).all (bit (askedStacks s i raw)) ∧ !bit q.skip st then
        some { row := x, pos := b.pos, slot := b.slot }
      else none

/-! ## Append (R236 to R238) -/

/-- Read words; whether one was bad. -/
def readBad (s : State) (i : SetId) (ws : List Nat) : Bool × State :=
  ws.foldl (fun p a => let (_, b, s) := readWord p.2 i a; (p.1 || b, s)) (false, s)

/-- Words that a range covers in part and that may be bad. -/
def badEdges (s : State) (i : SetId) (a n : Nat) : List Nat :=
  (suspectWords s i [(a, n)]).filter fun w => w < a || a + n < w + 32

/-- Write one head of one row. A word of the frame that the head covers in part and that cannot be corrected ends the session (R123,
R249). -/
def appendHead (s : State) (i : SetId) (g : KvGeo) (sh : Share) (r : ARow) (blk kv h : Nat) (row : List Byte) : State :=
  let a := aparam sh.param
  let f := rowFmt a.kvin
  let at0 := (kv * g.hkv + h) * g.d
  let xs := (List.range g.d).map fun d => valFP32 (elemAt f row (2 * g.hkv * g.d) (at0 + d))
  let xs := if kv = 0 then rope a.split a.drot r.pos sh.freq xs else xs
  let seed := (sessOf s i r.slot).seed
  let rnd (d : Nat) : Rnd := if a.sr then .stoch (draw seed 1 r.pos (((sh.layer * 2 + kv) * g.hkv + h) * g.d + d)) else .even
  let (codes, scs, c) := kvEncode g sh.scales kv h (xs.zipIdx.map fun p => (ofFP32 p.1, rnd p.2))
  let lh := h / g.w
  let outs := (blk + g.recOff kv lh (r.pos % 256), packCodes g.fmt.width codes) ::
    (if g.dyn then [(blk + g.scaleOff kv lh (r.pos % 256), scs.map fun b => BitVec.ofNat 8 b)] else [])
  let (bad, s) := readBad s i (outs.flatMap fun o => badEdges s i o.1 o.2.length)
  if bad then skipSess s i sh.stack r.slot sh.layer sh.tag .kvWord .kvWord
  else countKv (outs.foldl (fun s o => store s i o.1 o.2) s) i c

/-- Append a row: the frame attached if none is, every head of the stack written. Or the fault of R237. A session without a
frame to take is skipped (R232). -/
def appendRow (s : State) (i : SetId) (g : KvGeo) (sh : Share) (r : ARow) : Except FC (State × Bool) :=
  let st := sh.stack
  let n := r.slot
  if bit (sessOf s i n).skip st then .ok (s, false)
  else if r.pos < dirLen s i g st n ∨ (s.st i).su.apps.contains (st, n, sh.layer, r.pos) then .error .kvOrder
  else
    let got := match dirFrame s i g st n (r.pos / 256) with
      | some f => some (f, s)
      | none => match attachFrame s i g st n (r.pos / 256) with
        | some s => (dirFrame s i g st n (r.pos / 256)).map fun f => (f, s)
        | none => none
    match got with
    | none => .ok (skipSess s i st n sh.layer sh.tag .kvFull .kvFull, false)
    | some (f, s) =>
      let a := aparam sh.param
      let (row, _, ends, s) := readOperandBytes s i sh.job sh.tag (sh.a3 + r.row * a.kvpitch) (2 * g.hkv * g.d * rowFmtBytes a.kvin)
      let blk := blockAddr s i g st f sh.layer
      let s := (List.range 2).foldl (fun s kv =>
        (g.heads (st - g.groupOf st)).foldl (fun s h => appendHead s i g sh r blk kv h row) s) s
      .ok (onSu s i fun u => { u with apps := u.apps ++ [(st, n, sh.layer, r.pos)] }, ends)

/-- Append every row in order; the session slot of a row that faults is answered with the fault. -/
def appendRows (i : SetId) (g : KvGeo) (sh : Share) : List ARow → State → Bool → State × Option (FC × Nat) × Bool
  | [], s, ends => (s, none, ends)
  | r :: q, s, ends =>
    match appendRow s i g sh r with
    | .error c => (s, some (c, r.slot), ends)
    | .ok (s, e) => appendRows i g sh q s (ends || e)

/-! ## Valid positions (R236, R239) -/

/-- Positions of a session appended to a layer in the present step. -/
def appended (s : State) (i : SetId) (st n layer : Nat) : List Nat :=
  ((s.st i).su.apps.filter fun x => x.1 = st ∧ x.2.1 = n ∧ x.2.2.1 = layer).map fun x => x.2.2.2

/-- Position j is valid for a row at position p. -/
def validPos (a : AParam) (len : Nat) (app : List Nat) (p j : Nat) : Bool :=
  (j ≤ p || (!a.causal && j < len + app.length)) && (a.window == 0 || p < j + a.window) && (j < len || app.contains j)

/-- The valid positions of a block for a row. -/
def blockValid (a : AParam) (len : Nat) (app : List Nat) (p b : Nat) : List Nat :=
  ((List.range 256).map (256 * b + ·)).filter (validPos a len app p)

/-- A position that an attend covers is neither committed nor appended (R236). -/
def hasHole (len : Nat) (app : List Nat) (p : Nat) : Bool :=
  (List.range (p + 1 - len)).any fun d => !app.contains (len + d)

/-! ## Units (R241) -/

/-- The units of a share, in order. -/
def shareUnits (s : State) (i : SetId) (g : KvGeo) (sh : Share) : List AUnit :=
  let a := aparam sh.param
  let st := sh.stack
  ((sh.rows.map (·.slot)).eraseDups).flatMap fun n =>
    let len := dirLen s i g st n
    let app := appended s i st n sh.layer
    let ps := (sh.rows.filter fun r => r.slot = n).map (·.pos)
    let top := max (ps.foldl max 0) (if a.causal then 0 else len + app.length)
    let bs := (List.range (top / 256 + 1)).filter fun b => ps.any fun p => !(blockValid a len app p b).isEmpty
    (g.heads (st - g.groupOf st)).flatMap fun h => (List.range (2 ^ a.qsplit)).flatMap fun sl =>
      bs.map fun b => { slot := n, head := h, slice := sl, block := b }

/-- The engines of a stack that are not pruned (R243). -/
def liveEngines (s : State) (i : SetId) (st : Nat) : List Nat :=
  (List.range 16).filter fun e => !bit (s.fld i .MSE_STATs_PRUNED st) e

/-- An engine of a stack. -/
def engOf (s : State) (i : SetId) (st e : Nat) : Engine := SMap.get {} (s.st i).su.engs (16 * st + e)

/-- Change an engine. -/
def onEng (s : State) (i : SetId) (st e : Nat) (f : Engine → Engine) : State :=
  onSu s i fun u => { u with engs := SMap.upd {} u.engs (16 * st + e) f }

/-- Deal units, run by run of one (session, head, slice), to the engines in turn. -/
def deal (i : SetId) (st : Nat) (key : Nat × Nat) (live : List Nat) : Nat → List AUnit → Option (Nat × Nat × Nat) → State → State
  | _, [], _, s => s
  | r, u :: q, last, s =>
    let run := (u.slot, u.head, u.slice)
    let r := if last = none ∨ last = some run then r else r + 1
    let s := match live[r % live.length]? with
      | some e => onEng s i st e fun x => { x with todo := x.todo ++ [(key, u)] }
      | none => s
    deal i st key live r q (some run) s

/-- An idle engine takes the next unit of its list, or steals (R241). -/
def takeUnit (s : State) (i : SetId) (st e : Nat) : State :=
  let x := engOf s i st e
  if x.cur ≠ none then s
  else match x.todo with
    | u :: q => onEng s i st e fun _ => { todo := q, cur := some u }
    | [] =>
      let live := liveEngines s i st
      let most := live.foldl (fun m v => max m (engOf s i st v).todo.length) 0
      match live.find? fun v => (engOf s i st v).todo.length = most with
      | none => s
      | some v =>
        match (engOf s i st v).todo.getLast? with
        | none => s
        | some u =>
          let s := onEng s i st v fun y => { y with todo := y.todo.dropLast }
          (onEng s i st e fun y => { y with cur := some u }).addFld i .MSE_STATs_STEALS st 1

/-- Every engine of a stack that can take a unit does. -/
def takeAll (s : State) (i : SetId) (st : Nat) : State := (liveEngines s i st).foldl (fun s e => takeUnit s i st e) s

/-- The entry of a share's descriptor in its core's request queue. -/
def shareEnt (s : State) (i : SetId) (core id : Nat) : Option QEnt := (s.core i core).requestQ.find? fun e => e.id = id

/-- Shares and units whose descriptor has left its queue are gone. -/
def purge (s : State) (i : SetId) : State :=
  let ok (c id : Nat) := (shareEnt s i c id).isSome
  onSu s i fun u => { u with
    shares := u.shares.filter fun sh => ok sh.core sh.id
    engs := (u.engs.map fun e => (e.1, { todo := e.2.todo.filter (fun x => ok x.1.1 x.1.2)
                                         cur := match e.2.cur with | some x => if ok x.1.1 x.1.2 then some x else none | none => none : Engine })).filter
      fun e => e.2 ≠ {} }

/-- The units of a session leave a stack's shares and engines. -/
def dropSess (s : State) (i : SetId) (st n : Nat) : State :=
  onSu s i fun u => { u with
    shares := u.shares.map fun sh => if sh.stack = st then { sh with left := sh.left.filter fun x => x.slot ≠ n } else sh
    engs := (u.engs.map fun e => if e.1 / 16 = st then
        (e.1, { todo := e.2.todo.filter (fun x => x.2.slot ≠ n)
                cur := match e.2.cur with | some x => if x.2.slot = n then none else some x | none => none : Engine }) else e).filter fun e => e.2 ≠ {} }

/-! ## ATTN and ATTN_REQUEST -/

/-- An ATTN starts (R234): its request goes to every stack named; one that asks no stack, or has no rows, is complete. Without a
key-value store every ATTN with rows faults (R226). -/
def attnStart (s : State) (i : SetId) (k : Nat) (e : QEnt) : State :=
  let m := if leAt e.raw 42 2 = 0 then 0 else askedStacks s i e.raw
  if leAt e.raw 42 2 ≠ 0 ∧ (kvGeo s i).layers = 0 then attnParam s i k (((List.range 6).find? (bit (leAt e.raw 46 1))).getD 0) (leAt e.raw 44 1) e
  else if m = 0 then markDone s i k 4 e.id
  else onEnt s i k 4 e.id fun e => { e with phase := .running, waits := m }

/-- The oldest ATTN of a core that a stack has not yet received. -/
def requestFor (s : State) (i : SetId) (st k : Nat) : Option QEnt :=
  (s.core i k).requestQ.find? fun e =>
    dtype e.raw == some .attn && e.phase == .running && bit e.waits st &&
      !((s.st i).su.shares.any fun sh => sh.stack == st && sh.core == k && sh.id == e.id)

/-- What the stack does with a request whose parameters have been read: appends, the hole check, the units. -/
def serveRequest (s : State) (i : SetId) (g : KvGeo) (sh : Share) (e : QEnt) : State :=
  let st := sh.stack
  let k := sh.core
  let (s, fault, ends) := if bit sh.op 0 then appendRows i g sh sh.rows s false else (s, none, false)
  match fault with
  | some (c, n) => attnFault s i k st n sh.layer e c
  | none =>
    if ends then leaveJob s i sh.job .byContainment
    else
      let sh := { sh with rows := sh.rows.filter fun r => !bit (sessOf s i r.slot).skip st }
      if !bit sh.op 1 then onSu s i fun u => { u with shares := u.shares ++ [sh] }
      else match sh.rows.find? fun r => hasHole (dirLen s i g st r.slot) (appended s i st r.slot sh.layer) r.pos with
        | some r => attnFault s i k st r.slot sh.layer e .kvHole
        | none =>
          let us := shareUnits s i g sh
          let s := onSu s i fun u => { u with shares := u.shares ++ [{ sh with left := us }] }
          takeAll (deal i st (k, sh.id) (liveEngines s i st) 0 us none s) i st

/-- The stack reads the directory entries of the sessions that it serves; a word of one that cannot be corrected ends its session (R123,
R249). -/
def readDirs (s : State) (i : SetId) (g : KvGeo) (sh : Share) : State :=
  ((sh.rows.map (·.slot)).eraseDups).foldl (fun s n =>
    let (bad, s) := readBad s i (suspectWords s i [(dirAddr s i g sh.stack n, g.dirStride)])
    if bad then skipSess s i sh.stack n sh.layer sh.tag .kvWord .kvWord else s) s

/-- ATTN_REQUEST (R234 to R237, R241): a stack receives the oldest request of a core that it has not received. -/
def execAttnRequest (i : SetId) (stack : StackId) (core : CoreId) (s : State) : Out :=
  let st := stack.val
  let k := core.val
  let s := purge s i
  match requestFor s i st k with
  | none => .next s
  | some e =>
    let g := kvGeo s i
    let addr := leAt e.raw 32 8
    let (p0, _, e0, s) := readOperandBytes s i e.job e.tag addr 64
    let a := aparam p0
    let (p1, _, e1, s) := readOperandBytes s i e.job e.tag (addr + 64) (2 * a.drot)
    let (sc, _, e2, s) := if a.scales = 0 then ([], false, false, s) else readOperandBytes s i e.job e.tag a.scales (4 * g.hkv * g.ng)
    let layer := leAt e.raw 44 1
    if e0 || e1 || e2 then .next (settle (leaveJob s i e.job .byContainment) i)
    else if !paramOk g layer (leAt e.raw 45 1) p0 sc then .next (settle (attnParam s i k st layer e) i)
    else
      let sh : Share := { stack := st, core := k, id := e.id, slot := e.slot, job := e.job, tag := e.tag, raw := e.raw
                          a1 := e.a1, a2 := e.a2, a3 := e.a3, param := p0 ++ p1, scales := sc
                          rows := servedRows s i g st e.raw, left := [], parts := [] }
      .next (settle (serveRequest (readDirs s i g sh) i g sh e) i)

/-! ## Units done -/

/-- The stored bytes of the stream of a sealed block. -/
def streamExtent (s : State) (i : SetId) (g : KvGeo) (a : Nat) : Nat := min g.layerBlk (up32 ((shdr (peek s i a 64)).slen * 16))

/-- Words of a unit's reads that may be bad: the records of its valid positions, or the sealed stream. -/
def unitWords (s : State) (i : SetId) (g : KvGeo) (v : BlockView) (lh lo hi : Nat) : List Nat :=
  if v.sealed then suspectWords s i [(v.base, streamExtent s i g v.base)]
  else
    let n := hi + 1 - lo
    suspectWords s i ((List.range 2).flatMap fun kv =>
      (v.base + g.recOff kv lh lo, n * g.recB) :: (if g.dyn then [(v.base + g.scaleOff kv lh lo, n * 2 * g.ng)] else []))

/-- The partial results of a unit (R240 steps 1 to 6): for each row of its session and each query head of its slice with a
valid position in the block. -/
def unitParts (s : State) (i : SetId) (g : KvGeo) (sh : Share) (u : AUnit) (v : BlockView) : List APart :=
  let a := aparam sh.param
  let st := sh.stack
  let len := dirLen s i g st u.slot
  let app := appended s i st u.slot sh.layer
  let grp := a.hq / g.hkv
  let gs := grp / 2 ^ a.qsplit
  let lh := u.head / g.w
  let f := rowFmt a.qfmt
  (sh.rows.filter fun r => r.slot = u.slot).flatMap fun r =>
    let js := blockValid a len app r.pos u.block
    if js.isEmpty then []
    else
      let row := peek s i (sh.a1 + r.row * a.qpitch) (a.hq * g.d * rowFmtBytes a.qfmt)
      let vec (kv j : Nat) := (List.range g.d).map fun d => kvElem s i g v sh.scales kv u.head lh (j % 256) d
      let kvs := js.map fun j => (vec 0 j, vec 1 j)
      (List.range gs).map fun x =>
        let h := u.head * grp + u.slice * gs + x
        let q := rope a.split a.drot r.pos sh.freq ((List.range g.d).map fun d => valFP32 (elemAt f row (a.hq * g.d) (h * g.d + d)))
        let (m, l, o) := blockPartial g.d (kvs.map fun p => (score a.scale a.cap (q.map ofFP32) p.1, p.2))
        { row := r.row, qhead := h, block := u.block, m := m, l := l, o := o }

/-- The share of an engine's unit. -/
def shareOf (s : State) (i : SetId) (st : Nat) (key : Nat × Nat) : Option Share :=
  (s.st i).su.shares.find? fun sh => sh.stack = st ∧ sh.core = key.1 ∧ sh.id = key.2

/-- The unit is finished: its partial results are kept in the share (R242). -/
def unitFinish (s : State) (i : SetId) (st e : Nat) (key : Nat × Nat) (u : AUnit) (ps : List APart) : State :=
  let s := onSu s i fun y => { y with shares := y.shares.map fun sh =>
    if sh.stack = st ∧ sh.core = key.1 ∧ sh.id = key.2 then { sh with left := sh.left.erase u, parts := sh.parts ++ ps } else sh }
  onEng s i st e fun x => { x with cur := none }

/-- Report Q words that cannot be corrected, once per row and unit (R418). -/
def readQuery (s : State) (i : SetId) (g : KvGeo) (sh : Share) (u : AUnit) : Bool × State :=
  let a := aparam sh.param
  let rs := (sh.rows.filter fun r => r.slot = u.slot).map fun r => (sh.a1 + r.row * a.qpitch, a.hq * g.d * rowFmtBytes a.qfmt)
  (suspectWords s i rs).foldl (fun p w => let (_, _, ends, s) := readOperand p.2 i sh.job sh.tag w 1; (p.1 || ends, s)) (false, s)

/-- An engine computes its unit. A bad word of the session's frames, or a bad sealed stream, ends the session (R248, R249). -/
def doUnit (s : State) (i : SetId) (st e : Nat) (key : Nat × Nat) (u : AUnit) : State :=
  match shareOf s i st key with
  | none => onEng s i st e fun x => { x with cur := none }
  | some sh =>
    let g := kvGeo s i
    let a := aparam sh.param
    let (ends, s) := readQuery s i g sh u
    if ends then leaveJob s i sh.job .byContainment
    else match dirFrame s i g st u.slot u.block with
      | none => unitFinish s i st e key u []
      | some f =>
        let v := blockView s i g st f sh.layer
        let len := dirLen s i g st u.slot
        let app := appended s i st u.slot sh.layer
        let js := (sh.rows.filter fun r => r.slot = u.slot).flatMap fun r => (blockValid a len app r.pos u.block).map (· % 256)
        let (bad, s) := readBad s i (unitWords s i g v (u.head / g.w) (js.foldl min 255) (js.foldl max 0))
        if bad then dropSess (skipSess s i st u.slot sh.layer sh.tag .kvWord .kvWord) i st u.slot
        else if v.cause ≠ 0 then dropSess (skipSess s i st u.slot sh.layer sh.tag .kvWord .stream) i st u.slot
        else unitFinish s i st e key u (unitParts s i g sh u v)

/-- Deal an engine's units again, share by share (R243). -/
def redeal (s : State) (i : SetId) (st : Nat) (us : List ((Nat × Nat) × AUnit)) : State :=
  ((us.map (·.1)).eraseDups).foldl (fun s key =>
    deal i st key (liveEngines s i st) 0 ((us.filter fun u => u.1 = key).map (·.2)) none s) s

/-- An engine is pruned (R243, R422): reported, its units dealt again, the step discarded. -/
def pruneEngine (s : State) (i : SetId) (st e : Nat) : State :=
  let x := engOf s i st e
  let us := (match x.cur with | some u => [u] | none => []) ++ x.todo
  let (layer, tag) := match x.cur with
    | some u => (match shareOf s i st u.1 with | some sh => (sh.layer, sh.tag) | none => (0, 0))
    | none => (0, 0)
  let n := match x.cur with | some u => u.2.slot | none => 0xFFFF
  let s := mseErr s i .MSE_ERR_RESIDUE st (n % 2 ^ 14) layer tag
  let s := report s i { FC.mseResidue.fr with die := stackDie i st, unit := st, sub := e, sess := n, tag := tag, detail := layer }
  let s := s.setFld i .MSE_STATs_PRUNED st (putBits (s.fld i .MSE_STATs_PRUNED st) e 1 1)
  let s := almPrune (discardStep s i) i (82 + 16 * st + e)
  redeal (onEng s i st e fun _ => {}) i st us

/-- ATTN_UNIT_DONE (R241 to R243): an engine ends its unit, or is pruned for a residue mismatch, and the stack's idle engines
take units. -/
def execAttnUnitDone (i : SetId) (stack : StackId) (engine : Fin 16) (residue : Bool) (s : State) : Out :=
  let st := stack.val
  let e := engine.val
  let s := purge s i
  match (engOf s i st e).cur with
  | none => .next s
  | some (key, u) =>
    let s := if residue then pruneEngine s i st e else doUnit s i st e key u
    .next (settle (takeAll (purge s i) i st) i)

/-! ## The end of a share -/

/-- The partial results of a row and query head, in ascending block order. -/
def partsOf (sh : Share) (r h : Nat) : List (Nat × Nat × List Nat) :=
  let ps := sh.parts.filter fun p => p.row = r ∧ p.qhead = h
  (List.range (ps.foldl (fun m p => max m (p.block + 1)) 0)).filterMap fun b =>
    (ps.find? fun p => p.block = b).map fun p => (p.m, p.l, p.o)

/-- Output of a row and query head (R240 steps 7 and 8). -/
def headOut (ofmt : Nat) (ps : List (Nat × Nat × List Nat)) : List Byte :=
  match ps with
  | [] => []
  | p :: q =>
    let r := q.foldl combine p
    let inv := frecip r.2.1
    let f := if ofmt = 0 then fFP32 else fBF16
    r.2.2.flatMap fun o => leBytes (if ofmt = 0 then 4 else 2) (encodeF f .even true (ofFP32 (fmul o inv))).code

/-- Write the rows of a share; the stack that writes the last head of a row writes the rest of its last word as zero bytes (R121). -/
def shareOut (s : State) (i : SetId) (g : KvGeo) (sh : Share) : State :=
  let a := aparam sh.param
  let hb := g.d * rowFmtBytes a.ofmt
  let grp := a.hq / g.hkv
  let outs := (sh.rows.filter fun r => !bit (sessOf s i r.slot).skip sh.stack).flatMap fun r =>
    (g.heads (sh.stack - g.groupOf sh.stack)).flatMap fun h => (List.range grp).map fun x =>
      let o := headOut a.ofmt (partsOf sh r.row (h * grp + x))
      (sh.a2 + r.row * a.opitch + (h * grp + x) * hb,
        if h * grp + x + 1 = a.hq then o ++ List.replicate (up32 (a.hq * hb) - a.hq * hb) 0 else o)
  latchTouch (outs.foldl (fun s o => store s i o.1 o.2) s) i sh.core (outs.map fun o => (o.1, o.2.length))

/-- A stack's share of a request is complete; the ATTN has made every write when each stack has answered (R234). -/
def shareEnd (s : State) (i : SetId) (st k id : Nat) : State :=
  let s := onSu s i fun u => { u with shares := u.shares.filter fun x => !(x.stack = st ∧ x.core = k ∧ x.id = id) }
  onEnt s i k 4 id fun e =>
    let w := putBits e.waits st 1 0
    { e with waits := w, phase := if w = 0 then .done else e.phase }

/-- ATTN_SHARE_DONE (R240, R242): the oldest share of a core at a stack with no unit left is combined and written. -/
def execAttnShareDone (i : SetId) (stack : StackId) (core : CoreId) (s : State) : Out :=
  let st := stack.val
  let k := core.val
  let s := purge s i
  match (s.st i).su.shares.find? fun sh => sh.stack = st ∧ sh.core = k with
  | none => .next s
  | some sh =>
    if !sh.left.isEmpty then .next s
    else
      let s := if bit sh.op 1 then shareOut s i (kvGeo s i) sh else s
      .next (settle (shareEnd s i st k sh.id) i)

/-! ## Sealing (R247) -/

/-- Some engine works on a unit of the layer block of a frame, of whichever session that holds the frame. -/
def blockInFlight (s : State) (i : SetId) (g : KvGeo) (st f layer : Nat) : Bool :=
  (liveEngines s i st).any fun e => match (engOf s i st e).cur with
    | some (key, u) => dirFrame s i g st u.slot u.block == some f && (match shareOf s i st key with | some sh => sh.layer = layer | none => false)
    | none => false


/-- The stream is a format-2 encoding of these bytes, as a stack makes it (R247). -/
def sealStream (g : KvGeo) (raw str : List Byte) : Bool :=
  let h := shdr str
  let o := streamDecode 2 0 str
  !h.one && h.elem == (if g.fmt == .bf16 then 1 else 3) && leAt str 17 1 == 0 && h.fmtW == 0xFF && o.cause == 0 && o.bytes == raw &&
    str.length == h.slen * 16 && up32 str.length ≤ raw.length && writerForm str

/-- FRAME_SEAL (R247): a layer block of a frame that is committed whole is replaced by the stream the stack has encoded (log
entry 16: which of the encodings it is comes with the command), and its seal bit is set. -/
def execFrameSeal (i : SetId) (stack : StackId) (slot frame layer : Nat) (stream : List Byte) (s : State) : Out :=
  let st := stack.val
  let g := kvGeo s i
  match dirFrame s i g st slot frame with
  | none => .next s
  | some f =>
    let a := blockAddr s i g st f layer
    if g.sealOn ∧ layer < g.layers ∧ bit (dirFlags s i g st slot) 0 ∧ 256 * (frame + 1) ≤ dirLen s i g st slot ∧
        !sealed s i g st f layer ∧ !blockInFlight s i g st f layer ∧ !fenced s i st ∧ s.fld i .MEM_HBM_TEMPs_LEVEL st = 0 ∧ sealStream g (peek s i a g.layerBlk) stream then
      let s := store s i a (padWord stream)
      let m := frameAddr s i g st f
      let s := store s i m (leBytes 32 (putBits (leNat (peek s i m 32)) layer 1 1))
      .next (s.satFld i .MSE_STATs_SEALED st 1)
    else .next s

end Sys2Proof.Machine
end

