-- ==== Sys2Proof/Machine/Harvest.lean ====
section
/-! DEFINITION. The harvest units: scanning, finalising, stop sequences, acceptance and drafts (10.5, 10.6). -/

namespace Sys2Proof.Machine

/-! ## Sessions of rows -/

/-- The session bound to a row of the step in force, with the row's entry. -/
def rowSession (s : State) (i : SetId) (r : Nat) : Option (RowEnt × Sess) :=
  match (s.st i).su.rows[r]? with
  | some e => if e.kind = 0 ∨ e.slot = 0xFFFF then none else some (e, sessOf s i e.slot)
  | none => none

/-- Bytes between mask bitmaps (Table 10-16). -/
def maskPitch (s : State) (i : SetId) : Nat := up32 ((s.fld i .SESS_CFG_0_VOCAB + 7) / 8)

/-- The mask bits of a slice. -/
def maskBits (s : State) (i : SetId) (q : Sess) (v0 n : Nat) : List Byte :=
  if q.maskMode = 0 then [] else peek s i (s.fld i .SESS_BASE_4_MASKS + q.mask * maskPitch s i + v0 / 8) ((n + 7) / 8)

/-- The session's mask admits the j-th token of a slice (Table 10-2). -/
def maskAdmits (mode : Nat) (bits : List Byte) (j : Nat) : Bool :=
  match mode with
  | 0 => true
  | 1 => bit (leAt bits (j / 8) 1) (j % 8)
  | _ => !bit (leAt bits (j / 8) 1) (j % 8)

/-! ## Scanning (R285) -/

/-- Comparison of FP32 bit patterns, in which −0 equals +0. -/
def flt (a b : Nat) : Bool := Val.lt (ofFP32 a) (ofFP32 b) && !((ofFP32 a).isZero && (ofFP32 b).isZero)

/-- g_v (R285). -/
def gumbel (seed pos v : Nat) : Nat :=
  let u := fmul (fadd (toFP32 (.ofInt (draw seed 2 pos v / 256 : Nat))) 0x3F00_0000) 0x3380_0000
  fneg (fln (fneg (fln u)))
where
  /-- The sign inverted. -/
  fneg (a : Nat) : Nat := toFP32 (Val.neg (ofFP32 a))

/-- C′ of a session (R285). -/
def candCount (q : Sess) : Nat :=
  max (if q.topk ≠ 0 then q.topk else if q.topp ≠ 0 ∨ q.minp ≠ 0 then 1024 else 0) q.nlogp

/-- Candidate a ranks before b by x: the larger x, then the lower token index. -/
def beforeX (a b : Nat × Nat × Nat) : Bool := flt b.1 a.1 || (!flt a.1 b.1 && a.2.1 < b.2.1)

/-- Candidate a ranks before b by key. -/
def beforeKey (a b : Nat × Nat × Nat) : Bool := flt b.2.2 a.2.2 || (!flt a.2.2 b.2.2 && a.2.1 < b.2.1)

/-- Put a candidate at its place. -/
def insCand (c : Nat × Nat × Nat) : List (Nat × Nat × Nat) → List (Nat × Nat × Nat)
  | [] => [c]
  | a :: q => if beforeX c a then c :: a :: q else a :: insCand c q

/-- The better of a held best candidate and another, by key. -/
def bestKey (b : Option (Nat × Nat × Nat)) (c : Nat × Nat × Nat) : Option (Nat × Nat × Nat) :=
  match b with
  | some a => if beforeKey c a then some c else some a
  | none => some c

/-- The candidates (x, token, key) of a slice of one row: admitted tokens whose logit is not −∞. -/
def sliceCands (q : Sess) (pos v0 : Nat) (mask : List Byte) (ls : List Nat) : List (Nat × Nat × Nat) :=
  let inv := frecip q.temp
  ls.zipIdx.filterMap fun p =>
    let v := v0 + p.2
    if !maskAdmits q.maskMode mask p.2 || p.1 = 0xFF80_0000 then none
    else
      let x := if q.temp = 0 then p.1 else fmul p.1 inv
      some (x, v, if q.temp = 0 then x else fadd x (gumbel q.seed pos v))

/-- An admitted logit is NaN or +∞ (R285). -/
def badLogit (q : Sess) (mask : List Byte) (ls : List Nat) : Bool :=
  ls.zipIdx.any fun p => maskAdmits q.maskMode mask p.2 &&
    (match ofFP32 p.1 with | .nan => true | .inf neg => !neg | .fin .. => false)

/-- (block, m_b, s_b) of a block's candidates. -/
def blockSum (b : Nat) (cs : List (Nat × Nat × Nat)) : Option (Nat × Nat × Nat) :=
  match cs with
  | [] => none
  | c :: q =>
    let m := q.foldl (fun a y => if flt a y.1 then y.1 else a) c.1
    some (b, m, fused (cs.map fun y => ofFP32 (fexp (fsub y.1 m))))

/-- Scan a slice into a row's harvest state. -/
def scanSlice (q : Sess) (v0 n : Nat) (cs : List (Nat × Nat × Nat)) (h : HarvRow) : HarvRow :=
  let bs := (List.range ((n + 1023) / 1024)).filterMap fun b => blockSum (v0 / 1024 + b) (cs.filter fun c => c.2.1 / 1024 = v0 / 1024 + b)
  { slices := h.slices ++ [(v0, n)], blocks := h.blocks ++ bs, best := cs.foldl bestKey h.best
    cands := (cs.foldl (fun l c => (insCand c l).take (candCount q)) h.cands) }

/-- Scan a slice of a head logit row: the argmax only (R289); a NaN is no largest logit. -/
def scanHead (v0 n : Nat) (ls : List Nat) (h : HarvRow) : HarvRow :=
  let cs := ls.zipIdx.filterMap fun p => if ofFP32 p.1 = .nan then none else some (p.1, v0 + p.2, p.1)
  { h with slices := h.slices ++ [(v0, n)], best := cs.foldl bestKey h.best }

/-- A slice meets one that was scanned. -/
def scannedTwice (h : HarvRow) (v0 n : Nat) : Bool := h.slices.any fun p => p.1 < v0 + n && v0 < p.1 + p.2

/-- Tokens scanned. -/
def scannedCount (h : HarvRow) : Nat := (h.slices.map (·.2)).foldl (· + ·) 0

/-! ## Finalising (R286) -/

/-- Step 4: the shortest prefix whose running sum reaches the target. -/
def topPrefix (target m : Nat) : Nat → List (Nat × Nat × Nat) → List (Nat × Nat × Nat)
  | _, [] => []
  | sum, c :: q =>
    let sum := fadd sum (fexp (fsub c.1 m))
    if flt sum target then c :: topPrefix target m sum q else [c]

/-- Finalise a row; none when nothing is kept. -/
def finalise (q : Sess) (accept : Bool) (h : HarvRow) : Option RowRes :=
  let bs := (List.range (h.blocks.foldl (fun a b => max a (b.1 + 1)) 0)).filterMap fun b =>
    (h.blocks.find? fun e => e.1 = b).map fun e => (e.2.1, e.2.2, ([] : List Nat))
  match bs with
  | [] => none
  | b :: t =>
    let (m, z, _) := t.foldl combine b
    let filtered := q.topk ≠ 0 || q.topp ≠ 0 || q.minp ≠ 0
    let kept := h.cands.take (if q.topk ≠ 0 then q.topk else 1024)
    let kept := if q.minp = 0 then kept else kept.filter fun c => !flt (fexp (fsub c.1 m)) q.minp
    let kept := if q.topp = 0 then kept else topPrefix (fmul q.topp z) m 0 kept
    let pick := if filtered then kept.foldl bestKey none else h.best
    let lp (x : Nat) := fsub (fsub x m) (fln z)
    pick.map fun c => { tok := c.2.1, lp := lp c.1, alts := (h.cands.take q.nlogp).map fun a => (a.2.1, lp a.1), accept := accept }

/-! ## HARVEST (R284) -/

/-- A session ends for a logit or for an empty kept set; the end takes effect where the step commits (R285, R286, R417). -/
def endSess (s : State) (i : SetId) (n tag : Nat) (c : FC) : State :=
  if (sessOf s i n).ended ≠ none then s
  else
    let s := report s i { c.fr with action := if (s.st i).stepBad then 2 else 4, die := linkDie i, sess := n, tag := tag
                                    job := sessJob s i n }
    onSess s i n fun x => { x with ended := some c.num }

/-- The harvest state of a row: of a logit row, or of a head row. -/
def harvRow (s : State) (i : SetId) (head : Bool) (r : Nat) : HarvRow :=
  SMap.get {} (if head then (s.st i).su.heads else (s.st i).su.harv) r

/-- Write the harvest state of a row. The state record in memory (R285) has no stated layout: its HREC bytes become free
(log entry 5). -/
def putHarv (s : State) (i : SetId) (head : Bool) (r : Nat) (h : HarvRow) : State :=
  if head then onSu s i fun u => { u with heads := SMap.put {} u.heads r h }
  else
    let hrec := (12288 + 8 * ((s.fld i .SESS_CFG_0_VOCAB + 1023) / 1024) + 64 + 4095) / 4096 * 4096
    let s := store s i (s.fld i .SESS_BASE_2_HSTATE + r * hrec) (s.freeBytes hrec)
    onSu s.spend i fun u => { u with harv := SMap.put {} u.harv r h }

/-- Scan, and finalise, one row whose logits have been read. A row without a session keeps only what was scanned. -/
def harvestRow (s : State) (i : SetId) (e : QEnt) (head : Bool) (r v0 : Nat) (ls : List Nat) : State :=
  let n := ls.length
  let op := leAt e.raw 23 1
  let h := harvRow s i head r
  if head then putHarv s i true r (scanHead v0 n ls h)
  else match rowSession s i r with
    | none => putHarv s i false r { h with slices := h.slices ++ [(v0, n)] }
    | some (b, q) =>
      if q.ended ≠ none then putHarv s i false r { h with slices := h.slices ++ [(v0, n)] }
      else
        let mask := maskBits s i q v0 n
        if badLogit q mask ls then endSess (putHarv s i false r { h with slices := h.slices ++ [(v0, n)] }) i b.slot e.tag .sessLogit
        else
          let h := scanSlice q v0 n (sliceCands q (b.pos + 1) v0 mask ls) h
          let s := putHarv s i false r h
          if op = 0 then s
          else match finalise q (bit op 1) h with
            | none => endSess s i b.slot e.tag .sessEmpty
            | some x => onSu s i fun u => { u with res := SMap.ins r x u.res }

/-- The rows of a HARVEST. -/
def harvestRows (d : List Byte) : List Nat := (List.range (leAt d 18 2)).map (leAt d 16 2 + ·)

/-- The first row at which a HARVEST faults with F_HARVEST_VOCAB (R284). -/
def vocabFault (s : State) (i : SetId) (d : List Byte) (head : Bool) (v0 : Nat) : Option Nat :=
  (harvestRows d).find? fun r =>
    let h := harvRow s i head r
    scannedTwice h v0 (leAt d 20 3) || (leAt d 23 1 ≠ 0 && scannedCount h + leAt d 20 3 ≠ s.fld i .SESS_CFG_0_VOCAB)

/-- The values of a slice. -/
def logits (d : List Byte) : List Nat := (List.range (d.length / 4)).map fun j => leAt d (4 * j) 4

/-- A harvest unit is pruned (R422, R425): the step is discarded; without a unit the set is fenced. -/
def pruneHarvest (s : State) (i : SetId) (e : QEnt) (u : Nat) : State :=
  let f : Field := if u = 0 then .SET_PRUNED_1_HARV0 else .SET_PRUNED_1_HARV1
  if s.fld i f 0 = 1 then s
  else
    let s := report s i { FC.harvestResidue.fr with die := linkDie i, unit := u, sub := u, job := e.job, tag := e.tag }
    let s := almPrune (discardStep (s.setFld i f 0 1) i) i (80 + u)
    if s.fld i .SET_PRUNED_1_HARV0 0 = 1 ∧ s.fld i .SET_PRUNED_1_HARV1 0 = 1 then pruneLimit s i u else s

/-- The harvest units carry out a HARVEST (R284 to R286). -/
def doHarvest (s : State) (i : SetId) (k : Nat) (e : QEnt) : State :=
  let d := e.raw
  let x := issued s i k .harvest d (e.a1, e.a2, e.a3)
  let n := leAt d 20 3
  if leAt d 18 2 = 0 ∨ n = 0 then markDone s i k 4 e.id
  else
    let head := headSlice s i x
    let v0 := (sliceStart s i x).getD 0
    match vocabFault s i d head v0 with
    | some r => haltSlot s i k e.slot .harvestVocab e.pc e.tag 0 r
    | none =>
      let (s, ends) := (List.range (leAt d 18 2)).foldl (fun (p : State × Bool) j =>
        let (b, _, ends, s) := readOperandBytes p.1 i e.job e.tag (e.a1 + j * x.lpitch) (4 * n)
        (harvestRow s i e head (leAt d 16 2 + j) v0 (logits b), p.2 || ends)) (s, false)
      endIf (markDone s i k 4 e.id) i e.job ends

/-- A HARVEST starts; a harvest unit whose residue check fails while it works on it is pruned (R425), which the queue entry notes as
the unit's number plus 1. -/
def harvestStart (s : State) (i : SetId) (k : Nat) (e : QEnt) : State :=
  let s := doHarvest s i k e
  if e.waits = 0 then s else pruneHarvest s i e (e.waits - 1)

/-! ## Acceptance and stops (R287, R290) -/

/-- The samples of a session's rows from `r` on, up to the first row that is not finalised. -/
def samplesFrom (res : SMap RowRes) : Nat → Nat → List RowRes
  | _, 0 => []
  | r, n + 1 => match res.find? fun e => e.1 = r with
    | some x => x.2 :: samplesFrom res (r + 1) n
    | none => []

/-- Samples emitted after the first (R290): s_j while the draft equals the sample before it. -/
def accepted : List RowRes → List Nat → List RowRes
  | x :: y :: q, t :: ts => if x.tok = t then y :: accepted (y :: q) ts else []
  | _, _ => []

/-- What a session emits (R290): s_0, and with ACCEPT the accepted samples. -/
def emits (xs : List RowRes) (drafts : List Nat) : List RowRes :=
  match xs with
  | [] => []
  | x :: _ => x :: (if x.accept then accepted xs drafts else [])

/-- A stop sequence ends the history. -/
def stopMatches (stops : List (List Nat)) (hist : List Nat) : Bool :=
  stops.any fun t => t.length ≤ hist.length && hist.drop (hist.length - t.length) == t

/-- Tokens kept and REASON (R287). `newLeft` and `lenLeft` are the tokens left before MAXNEW and MAXLEN. -/
def stopAfter (stops : List (List Nat)) : List Nat → Nat → Nat → List RowRes → List RowRes × Nat
  | _, _, _, [] => ([], 0)
  | hist, newLeft, lenLeft, x :: q =>
    let hist := hist ++ [x.tok]
    if stopMatches stops hist then ([x], 1)
    else if newLeft ≤ 1 then ([x], 2)
    else if lenLeft ≤ 1 then ([x], 3)
    else
      let (k, r) := stopAfter stops hist (newLeft - 1) (lenLeft - 1) q
      (x :: k, r)

/-! ## History (R288) -/

/-- The address of a token of a slot's history ring. -/
def histAddr (s : State) (i : SetId) (n j : Nat) : Nat := s.fld i .SESS_BASE_3_HIST + n * 0x4000 + 4 * (j % 4096)

/-- The last tokens of a session, at most 4,096, oldest first. -/
def history (s : State) (i : SetId) (n : Nat) : List Nat :=
  let c := (sessOf s i n).hist
  let m := min c 4096
  (List.range m).map fun j => leNat (peek s i (histAddr s i n (c - m + j)) 4)

/-- Append tokens to the history ring. -/
def addHist (s : State) (i : SetId) (n : Nat) (ts : List Nat) : State :=
  ts.foldl (fun s t =>
    let c := (sessOf s i n).hist
    onSess (store s i (histAddr s i n c) (leBytes 4 t)) i n fun x => { x with hist := c + 1 }) s

/-! ## Drafts (R289) -/

/-- The last occurrence of `suf` in `h` that begins before `p`: the tokens that follow it. -/
def lastMatch (h suf : List Nat) : Nat → Option (List Nat)
  | 0 => none
  | p + 1 => if (h.drop p).take suf.length == suf then some (h.drop (p + suf.length)) else lastMatch h suf p

/-- The n-gram drafter: the last n tokens, then fewer. -/
def ngramDraft (h : List Nat) : Nat → List Nat
  | 0 => []
  | n + 1 =>
    if h.length ≤ n + 1 then ngramDraft h n
    else match lastMatch h (h.drop (h.length - (n + 1))) (h.length - (n + 1)) with
      | some l => l
      | none => ngramDraft h n

/-- The drafts of prediction heads of a row: heads in order while all their slices have been scanned. -/
def headDraft (s : State) (i : SetId) (r : Nat) : Nat → List Nat → List Nat
  | _, [] => []
  | fuel, h :: q => match fuel with
    | 0 => []
    | f + 1 =>
      let x := SMap.get {} (s.st i).su.heads (r * s.fld i .SESS_CFG_0_HEADS + h)
      match x.best with
      | some c => if scannedCount x = s.fld i .SESS_CFG_0_VOCAB then c.2.1 :: headDraft s i r f q else []
      | none => []

end Sys2Proof.Machine
end

