-- ==== Sys2Proof/Machine/Session.lean ====
section
/-! DEFINITION. Sessions: rings, commands, admission, release and records (10.1 to 10.3, 8.3, 8.8). -/

namespace Sys2Proof.Machine

/-! ## Rings (R273 to R275, R463) -/

/-- A failed device access to host memory is counted (Table 13-10). -/
def countDma (s : State) : State := s.setPfld .HB_HOST_STAT_DMAERRS 0 (s.pfld .HB_HOST_STAT_DMAERRS + 1)

/-- ENABLE goes to 0 (R275): fetching stops, records that wait are dropped, and the page's sessions close at the next boundary, which
still applies the commands fetched before (R273). -/
def disableRing (s : State) (i : SetId) (t : Nat) : State :=
  let s := cqFree (s.setPfld .SESS_RING_ENABLE t 0) t ((s.st i).su.recs.filter fun r => r.page = t).length
  onSu s i fun u => { u with
    recs := u.recs.filter fun r => r.page ≠ t
    recDue := u.recDue.filter fun r => r.1 ≠ t
    closing := if u.closing.contains t then u.closing else u.closing ++ [t] }

/-- RING_ENABLE (R275, R463): ENABLE goes from 0 to 1, or the page stays disabled with VERR or CFGERR. The ring bases are
64-byte aligned by their fields. -/
def enableRing (s : State) (t : Nat) : State :=
  let sq := s.pfld .SESS_RING_SQ_LOG2 t
  let cq := s.pfld .SESS_RING_CQ_LOG2 t
  if s.pfld .SESS_RING_VER t ≠ 1 then s.setPfld .SESS_RING_VERR t 1
  else if sq < 6 ∨ 16 < sq ∨ cq < 6 ∨ 20 < cq then s.setPfld .SESS_RING_CFGERR t 1
  else
    let s := s.setPfld .SESS_RING_ENABLE t 1
    let s := s.setPfld .SESS_SQ_PTR_HEAD t 0
    let s := s.setPfld .SESS_SQ_PTR_TAIL t 0
    let s := s.setPfld .SESS_CQ_PTR_HEAD t 0
    let s := s.setPfld .SESS_CQ_PTR_TAIL t 0
    let s := s.setPfld .SESS_PAGE_STAT_HELDSTEPS t 0
    { s with cqPhase := SMap.put 1 s.cqPhase t 1, cueSeq := SMap.keep (fun x => x / 64 != t) s.cueSeq }

/-- RING_ENABLE: a page that is bound and live, and not enabled. -/
def execRingEnable (page : PageId) (s : State) : Out :=
  .next (if pageLive s page.val ∧ s.pfld .SESS_RING_ENABLE page.val = 0 then enableRing s page.val else s)

/-- RING_DISABLE (R275). -/
def execRingDisable (page : PageId) (s : State) : Out :=
  let t := page.val
  .next (if pageLive s t ∧ s.pfld .SESS_RING_ENABLE t = 1 then disableRing s (pageSet s t) t else s)

/-- A write to SESS_SQ_PTR.TAIL (R273, R463). -/
def writeSqTail (s : State) (t v : Nat) : State :=
  if s.pfld .SESS_RING_ENABLE t ≠ 1 then s
  else if sqSize s t ≤ v then s.setPfld .SESS_RING_SQERR t 1
  else s.setPfld .SESS_SQ_PTR_TAIL t v

/-- A write to SESS_CQ_PTR.HEAD (R274, R463): records that waited for room are posted. -/
def writeCqHead (s : State) (t v : Nat) : State :=
  let size := cqSize s t
  let h := s.pfld .SESS_CQ_PTR_HEAD t
  if s.pfld .SESS_RING_ENABLE t ≠ 1 then s
  else if size ≤ v ∨ cqUsed s t < (v + size - h) % size then s.setPfld .SESS_RING_CQERR t 1
  else
    let i := pageSet s t
    raiseCq (postDue (s.setPfld .SESS_CQ_PTR_HEAD t v) i t) i

/-- SQ_TAIL_WRITE (R273). -/
def execSqTailWrite (page : PageId) (v : Nat) (s : State) : Out :=
  .next (if pageLive s page.val then writeSqTail s page.val v else s)

/-- CQ_HEAD_WRITE (R274). -/
def execCqHeadWrite (page : PageId) (v : Nat) (s : State) : Out :=
  .next (if pageLive s page.val then writeCqHead s page.val v else s)

/-- The page has a command that the set can fetch (R273, R274, R392). -/
def canFetch (s : State) (i : SetId) (t : Nat) : Bool :=
  s.pfld .SESS_RING_ENABLE t == 1 && s.fld i .MEM_JOBj_STATE (s.pfld .HB_PAGEt_CFG_JOB t) == 1 &&
    s.pfld .SESS_SQ_PTR_HEAD t != s.pfld .SESS_SQ_PTR_TAIL t && 1 ≤ cqRoom s t

/-- The next page in round-robin order that can be fetched from. -/
def nextPage (s : State) (i : SetId) : Option Nat :=
  let ps := pagesOf s i
  let last := (s.st i).su.lastPage
  match ps.find? fun t => last < t && canFetch s i t with
  | some t => some t
  | none => ps.find? fun t => canFetch s i t

/-- SQ_FETCH (R273, R351): one command from the next page, with what its host read returns (R277, R276, R278). -/
def execSqFetch (i : SetId) (cmd : List Byte) (data : Option (List Byte)) (s : State) : Out :=
  if (s.st i).lost ∨ s.pfld .HB_HOST_STAT_HELD = 1 ∨ !hostUp s then .next s
  else match nextPage s i with
    | none => .next s
    | some t =>
      let s := s.setPfld .SESS_SQ_PTR_HEAD t ((s.pfld .SESS_SQ_PTR_HEAD t + 1) % sqSize s t)
      .next (onSu (cqHold s t 1) i fun u => { u with lastPage := t, cmds := u.cmds ++ [{ page := t, cmd := cmd, data := data, late := u.five }] })

/-! ## Records in preparation -/

/-- A record formed now takes one entry of its page's CQ; a session without a page has no records. -/
def addRec (s : State) (i : SetId) (t n : Nat) (r : List Byte) : State :=
  if t = noPage then s else onSu (cqHold s t 1) i fun u => { u with recs := u.recs ++ [{ page := t, slot := n, data := r }] }

/-- Post every record in preparation, in order (R279). -/
def postRecs (s : State) (i : SetId) : State :=
  let l := (s.st i).su.recs
  l.foldl (fun s r => postRec (cqFree s r.page 1) i r.page r.data) (onSu s i fun u => { u with recs := [] })

/-- An EVENT record of a session. -/
def sessEvent (s : State) (i : SetId) (n status event : Nat) : List Byte :=
  let q := sessOf s i n
  eventRec q.sid status event n q.stack q.len

/-- Change the last TOKENS record of a session in preparation; none when there is none. -/
def patchTokens (s : State) (i : SetId) (n : Nat) (f : List Byte → List Byte) : Option State :=
  let l := (s.st i).su.recs
  let hit (r : RecDue) : Bool := r.slot == n && leAt r.data 4 1 % 64 == 1
  match (l.zipIdx.filter fun p => hit p.1).getLast? with
  | none => none
  | some (_, j) => some (onSu s i fun u => { u with recs := l.zipIdx.map fun p => if p.2 = j then { p.1 with data := f p.1.data } else p.1 })

/-! ## Leaving (R232, R244, R245, R278, R294) -/

/-- A refused command writes EVENT 2 with its status, and is reported (R276, R277, R294, Table 15-10). -/
def refuse (s : State) (i : SetId) (t sid : Nat) (n : Option Nat) (c : FC) : State :=
  let s := report s i { c.fr with die := linkDie i, job := s.pfld .HB_PAGEt_CFG_JOB t, sess := n.getD 0xFFFF }
  match n with
  | some n => addRec s i t n (sessEvent s i n c.num 2)
  | none =>
    let (r, s) := freeEvent s sid c.num 2
    addRec s i t 0xFFFF r

/-- Commands of a session that wait are refused when it is no longer open (R277): their CQ room is given back. -/
def dropInputs (s : State) (i : SetId) (n : Nat) : State :=
  let q := sessOf s i n
  let mine (c : SqCmd) : Bool := c.page == q.page && leAt c.cmd 4 4 == q.sid
  let l := (s.st i).su.inputs.filter mine
  l.foldl (fun s c => refuse (cqFree s c.page 1) i c.page q.sid (some n) .sessParam)
    (onSu s i fun u => { u with inputs := u.inputs.filter fun c => !mine c })

/-- The reserved CQ entries of a session are given back. -/
def unreserve (s : State) (i : SetId) (n : Nat) : State :=
  onSess (cqFree s (sessOf s i n).page (sessOf s i n).bound) i n fun q => { q with bound := 0 }

/-- The stacks of a session's group. -/
def sessStacks (s : State) (i : SetId) (n : Nat) : List Nat :=
  let g := kvGeo s i
  g.group (g.groupOf (sessOf s i n).stack)

/-- SESS, SESS_ALL and UNRSV of a stack follow an entry that opens (1) or closes with `rsv` frames (Table 8-8). -/
def countEntry (s : State) (i : SetId) (st rsv : Nat) (opens : Bool) : State :=
  let all := s.fld i .MSE_STKs_2_SESS_ALL st
  let all := if opens then all + 1 else all - 1
  let s := s.setFld i .MSE_STKs_2_SESS_ALL st all
  let s := s.setFld i .MSE_STKs_1_SESS st (min all 16383)
  let v := s.fld i .MSE_STKs_1_UNRSV st
  s.setFld i .MSE_STKs_1_UNRSV st (if opens then v - rsv else v + rsv)

/-- The directory entries of a session are closed: frames and reservation return (R232). -/
def closeDir (s : State) (i : SetId) (n : Nat) : State :=
  let g := kvGeo s i
  if g.layers = 0 then s
  else (sessStacks s i n).foldl (fun s st =>
    if bit (dirFlags s i g st n) 0 then
      let rsv := dirRsv s i g st n
      store (countEntry s i st rsv false) i (dirAddr s i g st n) (leBytes 8 0 ++ leBytes 2 0 ++ leBytes 2 0xFFFF ++ leBytes 4 0 ++
        (List.range g.dirlen).flatMap fun _ => leBytes 4 noFrame)
    else s) s

/-- A slot becomes FREE; a prefix that sessions use keeps its frames until the last of them is gone (R245). -/
def freeSlot (s : State) (i : SetId) (n : Nat) : State :=
  let q := sessOf s i n
  let s := unreserve (dropInputs s i n) i n
  if q.users ≠ 0 then onSess s i n fun x => { x with ph := .closing }
  else
    let s := closeDir s i n
    let s := if q.pfx = 0xFFFF ∨ q.ph = .free then s else onSess s i q.pfx fun x => { x with users := x.users - 1 }
    let s := onSu s i fun u => { u with
      passes := u.passes.map fun p => { p with slots := p.slots.filter (· ≠ n) }
      shadow := u.shadow.map fun r => if r.slot = n then unboundRow else r }
    onSess s i n fun _ => {}

/-- Slots that a prefix held as CLOSING become FREE when nobody uses them any more. -/
def freeClosing (s : State) (i : SetId) (ns : List Nat) : State :=
  ns.foldl (fun s n => if (sessOf s i n).ph = .closing then freeSlot s i n else s) s

/-- A session ends with a status: one EVENT record, then FREE (R294). -/
def finishSess (s : State) (i : SetId) (n status event : Nat) : State :=
  freeSlot (addRec s i (sessOf s i n).page n (sessEvent s i n status event)) i n

/-- Every session of some pages ends with a status outside a boundary, as when its circle stops (R214, R222). -/
def endSessions (s : State) (i : SetId) (ok : Nat → Bool) (status event : Nat) : State :=
  let ns := (sessSlots s i).filter fun n => (sessOf s i n).ph != .closing && ok (sessOf s i n).page
  raiseCq (postRecs (showOpens (ns.foldl (fun s n => finishSess s i n status event) s) i) i) i

/-- CLOSE (R278): generation ends, and the slot is CLOSING until the next boundary. The last TOKENS record of the step that has
just ended gives REASON 4 where it would give 0. -/
def closeSess (s : State) (i : SetId) (n : Nat) : State :=
  let s := match patchTokens s i n fun r => if leAt r 15 1 = 0 then r.take 15 ++ leBytes 1 4 ++ r.drop 16 else r with
    | some s => s
    | none => s
  let s := unreserve (dropInputs s i n) i n
  onSess s i n fun q => { q with ph := .closing, feed := [], held := false }

/-! ## Commands (10.2) -/

/-- The open session of a page with a name. -/
def findSess (s : State) (i : SetId) (t sid : Nat) : Option Nat :=
  (sessSlots s i).find? fun n =>
    let q := sessOf s i n
    q.ph != .closing && q.page == t && q.sid == sid

/-- A number in (0, 1), or 0 (Table 10-2). -/
def unitInterval (c : Nat) : Bool :=
  match ofFP32 c with
  | .fin neg m e => m == 0 || (!neg && Val.lt (.fin neg m e) (.ofInt 1))
  | _ => false

/-- A finite number that is not negative. -/
def notNegative (c : Nat) : Bool :=
  match ofFP32 c with
  | .fin neg m _ => m == 0 || !neg
  | _ => false

/-- A zero of either sign is 0. -/
def plainZero (c : Nat) : Nat := if c = 0x8000_0000 then 0 else c

/-- Most positions a session may hold (Table 10-2, R226). -/
def maxPositions (s : State) (i : SetId) : Nat :=
  if s.fld i .MSE_KVCFG_LAYERS = 0 then 262144 else 256 * s.fld i .MSE_KVCFG_DIRLEN

/-- The fields of an OPEN are in range and its reserved fields zero (R276). -/
def openOk (s : State) (i : SetId) (c : List Byte) : Bool :=
  let fl := leAt c 1 1
  let dr := leAt c 31 1
  let dmax := bits dr 2 5
  let src := bits dr 0 2
  let stk := leAt c 48 1
  bits fl 5 3 == 0 && bits fl 1 2 ≤ 2 && leAt c 4 4 != 0xFFFF_FFFF && 1 ≤ leAt c 8 4 && leAt c 8 4 ≤ maxPositions s i &&
    leAt c 12 4 ≤ leAt c 8 4 && (leAt c 2 2 != 0xFFFF || leAt c 12 4 == 0) && notNegative (leAt c 16 4) &&
    unitInterval (leAt c 20 4) && unitInterval (leAt c 24 4) && leAt c 28 2 ≤ 1024 && leAt c 30 1 ≤ 8 && !bit dr 7 && dmax ≤ 16 &&
    (dmax == 0 || src != 0) && (src != 2 || dmax ≤ s.fld i .SESS_CFG_0_HEADS) && bits stk 3 4 == 0 && (!bit stk 7 || bits stk 0 3 ≤ 5) &&
    leAt c 50 14 == 0

/-- The stop sequences of a stop block (R276); none when a length exceeds 16. -/
def stopBlock (d : List Byte) : Option (List (List Nat)) :=
  let es := (List.range 8).map fun e => (leAt d (68 * e) 1, (List.range 16).map fun j => leAt d (68 * e + 4 + 4 * j) 4)
  if es.all fun e => e.1 ≤ 16 then some ((es.filter fun e => e.1 ≠ 0).map fun e => e.2.take e.1) else none

/-- Which prefix an OPEN may use (R244, R245): an admitted prefix of the same job that is not closing, with at least PLEN
positions, room for a user, and on the stack the host names, if any. -/
def prefixOk (s : State) (i : SetId) (t : Nat) (c : List Byte) : Bool :=
  let p := leAt c 2 2
  let q := sessOf s i p
  let g := kvGeo s i
  let stk := leAt c 48 1
  q.isPrefix && q.ph != .free && q.ph != .pending && q.ph != .closing && s.pfld .HB_PAGEt_CFG_JOB q.page == s.pfld .HB_PAGEt_CFG_JOB t &&
    leAt c 12 4 ≤ q.len && q.users < 65535 && (!bit stk 7 || g.groupOf (bits stk 0 3) == g.groupOf q.stack)

/-- A free slot: which one is a free value (log entry 5). -/
def freeSess (s : State) (i : SetId) : Option Nat :=
  let used := sessSlots s i
  if 16384 ≤ used.length then none
  else ((List.range (used.length + 1)).map fun j => (s.free 14 + j) % 16384).find? fun n => !used.contains n

/-- The session that an OPEN makes: PENDING. -/
def openSess (t : Nat) (c : List Byte) (stops : List (List Nat)) (order : Nat) : Sess :=
  let fl := leAt c 1 1
  let dr := leAt c 31 1
  let stk := leAt c 48 1
  { ph := .pending, page := t, sid := leAt c 4 4, isPrefix := bit fl 0, pfx := leAt c 2 2, plen := leAt c 12 4, maxlen := leAt c 8 4
    temp := plainZero (leAt c 16 4), topp := plainZero (leAt c 20 4), minp := plainZero (leAt c 24 4), topk := leAt c 28 2
    nlogp := leAt c 30 1, dsrc := bits dr 0 2, dmax := bits dr 2 5, ngram := bits fl 3 2 + 1, seed := leAt c 32 8, stops := stops
    maskMode := bits fl 1 2, mask := leAt c 49 1, want := if bit stk 7 then some (bits stk 0 3) else none, order := order, bound := 1 }

/-- OPEN (R276): PENDING with the room of its EVENT kept, or refused. -/
def applyOpen (s : State) (i : SetId) (x : SqCmd) : State :=
  let c := x.cmd
  let t := x.page
  let sid := leAt c 4 4
  let no (f : FC) := refuse (cqFree s t 1) i t sid none f
  if findSess s i t sid ≠ none then no .sessSid
  else if !openOk s i c then no .sessParam
  else
    let stops := if leAt c 40 8 = 0 then some (some []) else x.data.map stopBlock
    match stops with
    | none => refuse (countDma (cqFree s t 1)) i t sid none .sessHostread
    | some none => no .sessParam
    | some (some stops) =>
      match freeSess s i with
      | none => no .sessNoslot
      | some n =>
        if leAt c 2 2 ≠ 0xFFFF ∧ !prefixOk s i t c then no .kvPrefix
        else
          let s := onSess s.spend i n fun _ => openSess t c stops (s.st i).su.order
          if leAt c 2 2 = 0xFFFF then s else onSess s i (leAt c 2 2) fun q => { q with users := q.users + 1 }

/-- INPUT at an IDLE session (R277): prefill, or refused. -/
def applyInput (s : State) (i : SetId) (n : Nat) (x : SqCmd) : State :=
  let c := x.cmd
  let t := x.page
  let k := leAt c 16 4
  let s := cqFree s t 1
  let no (s : State) (f : FC) := refuse s i t (leAt c 4 4) (some n) f
  if k = 0 ∨ 262144 < k then no s .sessParam
  else match x.data with
    | none => no (countDma s) .sessHostread
    | some d =>
      let ts := (List.range k).map fun j => leAt d (4 * j) 4
      if ts.any fun v => s.fld i .SESS_CFG_0_VOCAB ≤ v then no s .sessParam
      else
        let s := addHist s i n ts
        onSess s i n fun q => { q with
          ph := .prefill, feed := q.last.toList ++ ts, last := none, maxnew := leAt c 20 4, gen := 0, order := (s.st i).su.order }

/-- DRAFT (R278). A set without a share of the host port takes no hosted drafts (R17; log entry 87). -/
def applyDraft (s : State) (i : SetId) (n : Nat) (x : SqCmd) : State :=
  let c := x.cmd
  let s := cqFree s x.page 1
  let k := leAt c 12 4
  if k = 0 ∨ 16 < k then refuse s i x.page (leAt c 4 4) (some n) .sessParam
  else if leAt c 8 4 ≤ (sessOf s i n).len ∨ hostShare s i = 0 then s
  else onSess s i n fun q => { q with hostDraft := some (leAt c 8 4, (List.range k).map fun j => leAt c (16 + 3 * j) 3) }

/-- MASK (Table 10-3). -/
def applyMask (s : State) (i : SetId) (n : Nat) (x : SqCmd) : State :=
  let c := x.cmd
  let s := cqFree s x.page 1
  if 2 < leAt c 9 1 then refuse s i x.page (leAt c 4 4) (some n) .sessParam
  else onSess s i n fun q => { q with mask := leAt c 8 1, maskMode := leAt c 9 1 }

/-- MASKLOAD (R278): the bitmap goes into the mask table. -/
def applyMaskload (s : State) (i : SetId) (x : SqCmd) : State :=
  let s := cqFree s x.page 1
  match x.data with
  | none => refuse (countDma s) i x.page (leAt x.cmd 4 4) none .sessHostread
  | some d => store s i (s.fld i .SESS_BASE_4_MASKS + leAt x.cmd 8 1 * maskPitch s i) (slice d 0 ((s.fld i .SESS_CFG_0_VOCAB + 7) / 8))

/-- CLOSE (R278): EVENT 4. -/
def applyClose (s : State) (i : SetId) (n : Nat) (x : SqCmd) : State :=
  let s := closeSess (cqFree s x.page 1) i n
  addRec s i x.page n (sessEvent s i n 0 4)

/-- A command of this session waits (R277): an INPUT, and what followed it. -/
def sidWaits (s : State) (i : SetId) (t sid : Nat) : Bool := (s.st i).su.inputs.any fun c => c.page == t && leAt c.cmd 4 4 == sid

/-- Apply one command (10.2). A command whose code is not listed, whose reserved bytes 2 and 3 are not zero, or whose session is
not open is refused with F_SESS_PARAM. Behind a waiting INPUT of its session a command waits too, in ring order (R273, R277), but OPEN,
MASKLOAD and CLOSE, which no state of the session holds back (log entry 101). -/
def applyCmd (s : State) (i : SetId) (x : SqCmd) : State :=
  let c := x.cmd
  let t := x.page
  let n := findSess s i t (leAt c 4 4)
  let opc := leAt c 0 1
  let no := refuse (cqFree s t 1) i t (leAt c 4 4) n .sessParam
  if opc = 1 then applyOpen s i x
  else if leAt c 2 2 ≠ 0 then no
  else if opc = 5 then applyMaskload s i x
  else match n with
    | none => no
    | some n =>
      if opc = 6 then applyClose s i n x
      else if sidWaits s i t (leAt c 4 4) ∨ (opc = 2 ∧ (sessOf s i n).ph ≠ .idle) then onSu s i fun u => { u with inputs := u.inputs ++ [x] }
      else
        match opc with
        | 2 => applyInput s i n x
        | 3 => applyDraft s i n x
        | 4 => applyMask s i n x
        | _ => no

/-- Commands that waited are applied in ring order where their session allows it now (R277). -/
def applyInputs (s : State) (i : SetId) : State :=
  (s.st i).su.inputs.foldl (fun s x => applyCmd s i x) (onSu s i fun u => { u with inputs := [] })

/-! ## Admission (R231, R244, R288) -/

/-- Frames that a session reserves on each stack of its group. -/
def framesNeeded (q : Sess) : Nat := (q.maxlen + 255) / 256 - q.plen / 256

/-- Unreserved frames of a group: of its stack with the fewest. -/
def groupFree (s : State) (i : SetId) (g : KvGeo) (st0 : Nat) : Nat :=
  ((g.group st0).map fun st => s.fld i .MSE_STKs_1_UNRSV st).foldl min (2 ^ 24)

/-- The groups whose stacks are all in service. -/
def liveGroups (s : State) (i : SetId) (g : KvGeo) : List Nat :=
  ((List.range (6 / g.w)).map (· * g.w)).filter fun st0 => (g.group st0).all fun st => !fenced s i st

/-- Where a session may go (R231): the first stack of its group. -/
def groupFor (s : State) (i : SetId) (g : KvGeo) (q : Sess) : Option Nat :=
  let live := liveGroups s i g
  let fits (st0 : Nat) : Bool := live.contains st0 && (g.layers == 0 || framesNeeded q ≤ groupFree s i g st0)
  if q.pfx ≠ 0xFFFF then
    let st0 := g.groupOf (sessOf s i q.pfx).stack
    if fits st0 then some st0 else none
  else match q.want with
    | some st => if fits (g.groupOf st) then some (g.groupOf st) else none
    | none =>
      let best := if g.layers = 0 then 0 else (live.map (groupFree s i g)).foldl max 0
      match live.find? fun st0 => g.layers = 0 || groupFree s i g st0 = best with
      | some st0 => if fits st0 then some st0 else none
      | none => none

/-- Copy a prefix's frame into a frame of session `n`, unsealed (R244, R247). A sealed block that does not decode ends the session, and
its copy is poisoned (R248, R418). -/
def copyFrame (s : State) (i : SetId) (g : KvGeo) (st n fsrc fdst : Nat) : State :=
  (List.range g.layers).foldl (fun s l =>
    let v := blockView s i g st fsrc l
    let dst := blockAddr s i g st fdst l
    if v.sealed then
      let (bad, s) := readBad s i (suspectWords s i [(v.base, streamExtent s i g v.base)])
      if bad ∨ v.cause ≠ 0 then
        skipSess (storePoisoned s i dst (g.layerBlk / 32)) i st n l 0 .kvWord (if bad then .kvWord else .stream)
      else store s i dst (slice v.bytes 0 g.layerBlk)
    else moveWords s i (blockAddr s i g st fsrc l) dst (g.layerBlk / 32)) s

/-- A session's directory entry on one stack (Table 8-2), with shared frames of its prefix, and the copy of the frame that holds
position PLEN. -/
def openDir (s : State) (i : SetId) (g : KvGeo) (st n : Nat) (q : Sess) : State :=
  let rsv := framesNeeded q
  let shared := if q.pfx = 0xFFFF then 0 else q.plen / 256
  let frames := (List.range g.dirlen).flatMap fun f =>
    leBytes 4 (if f < shared then (dirFrame s i g st q.pfx f).getD noFrame else noFrame)
  let flags := 1 + 2 * bitOf q.isPrefix + 4 * bitOf (q.pfx ≠ 0xFFFF)
  let s := store (countEntry s i st rsv true) i (dirAddr s i g st n)
    (leBytes 4 q.plen ++ leBytes 2 shared ++ leBytes 2 rsv ++ leBytes 2 flags ++ leBytes 2 q.pfx ++ leBytes 4 q.plen ++ frames)
  if q.pfx = 0xFFFF ∨ q.plen % 256 = 0 then s
  else match dirFrame s i g st q.pfx shared, attachFrame s i g st n shared with
    | some fsrc, some s => match dirFrame s i g st n shared with
      | some fdst => copyFrame s i g st n fsrc fdst
      | none => s
    | _, _ => s

/-- A PENDING session takes its place: IDLE (R231, R244, R288). -/
def placeSess (s : State) (i : SetId) (n st0 : Nat) : State :=
  let g := kvGeo s i
  let q := sessOf s i n
  let s := if g.layers = 0 then s else (g.group st0).foldl (fun s st => openDir s i g st n q) s
  let h := if q.pfx = 0xFFFF then 0 else (sessOf s i q.pfx).hist
  let s := if h = 0 then s
    else store s i (histAddr s i n 0) (peek s i (histAddr s i q.pfx 0) 0x4000)
  onSess s i n fun q => { q with ph := .idle, stack := st0, len := q.plen, hist := h }

/-- A PENDING session is admitted when its group can reserve its frames: EVENT 1. One that has ended (R276) is not. -/
def takeIn (s : State) (i : SetId) (n : Nat) : State :=
  if (sessOf s i n).ended ≠ none then s else
  match groupFor s i (kvGeo s i) (sessOf s i n) with
  | none => s
  | some st0 =>
    let s := placeSess (unreserve s i n) i n st0
    addRec s i (sessOf s i n).page n (sessEvent s i n 0 1)

/-- Put a slot behind those whose key is not larger. -/
def insKey (key : Nat → Nat) (n : Nat) : List Nat → List Nat
  | [] => [n]
  | a :: q => if key n < key a then n :: a :: q else a :: insKey key n q

/-- Slots in a state, in the order of their entry into it, ties by slot. -/
def slotsIn (s : State) (i : SetId) (p : SPhase) : List Nat :=
  ((sessSlots s i).filter fun n => (sessOf s i n).ph == p).foldl (fun l n => insKey (fun a => (sessOf s i a).order) n l) []

/-- Every PENDING session that can be admitted is. -/
def admitAll (s : State) (i : SetId) : State := (slotsIn s i .pending).foldl (fun s n => takeIn s i n) s

/-- OPEN_TIMEOUT (R276): a session PENDING for OPEN_MS ends with F_SESS_NOSPACE, at the next boundary (R294). -/
def execOpenTimeout (i : SetId) (slot : Nat) (s : State) : Out :=
  if (sessOf s i slot).ph = .pending ∧ (sessOf s i slot).ended = none ∧ !(s.st i).lost then
    let s := report s i { FC.sessNospace.fr with die := linkDie i, sess := slot, job := sessJob s i slot }
    .next (onSess s i slot fun q => { q with ended := some FC.sessNospace.num })
  else .next s

end Sys2Proof.Machine
end

