-- ==== Sys2Proof/Machine/Boundary.lean ====
section
/-! DEFINITION. The step boundary (Table 10-7): commits, records, commands, rows, gathers (10.4, 8.3, 8.9). -/

namespace Sys2Proof.Machine

/-! ## Records of a step (10.3) -/

/-- A TOKENS record (Table 10-4); MORE is set where another record of the step follows. -/
def tokensRec (sid pos ver d reason rev time : Nat) (more : Bool) (ts : List Nat) : List Byte :=
  leBytes 4 sid ++ leBytes 1 (1 + 64 * bitOf more) ++ leBytes 1 ts.length ++ leBytes 2 0 ++ leBytes 4 pos ++ leBytes 2 ver ++
    leBytes 1 d ++ leBytes 1 reason ++ slice (ts.flatMap fun t => leBytes 4 t) 0 32 ++ leBytes 8 rev ++ leBytes 8 time

/-- A LOGPROB record (Table 10-4). -/
def logprobRec (sid pos tok lp part : Nat) (more : Bool) (alts : List (Nat × Nat)) : List Byte :=
  leBytes 4 sid ++ leBytes 1 (2 + 64 * bitOf more) ++ leBytes 1 alts.length ++ leBytes 2 0 ++ leBytes 4 pos ++ leBytes 4 tok ++
    leBytes 4 lp ++ leBytes 1 part ++ leBytes 3 0 ++ slice (alts.flatMap fun a => leBytes 4 a.1 ++ leBytes 4 a.2) 0 40

/-- Chunks of at most 8 tokens with their offsets. -/
def tokenChunks (xs : List RowRes) : List (Nat × List RowRes) :=
  (chunks 8 xs.length xs).zipIdx.map fun p => (8 * p.2, p.1)

/-- The records of a session's step (R279): TOKENS in token order, then LOGPROB in token order. The last TOKENS record has
REASON; every record but the last has MORE. -/
def stepRecs (q : Sess) (pos ver d reason rev time : Nat) (xs : List RowRes) : List (List Byte) :=
  let cs := tokenChunks xs
  let parts := if q.nlogp = 0 then [] else if q.nlogp ≤ 5 then [0] else [0, 1]
  let lps := xs.zipIdx.flatMap fun p => parts.map fun part => (p.2, p.1, part)
  let n := cs.length + lps.length
  (cs.zipIdx.map fun p => tokensRec q.sid (pos + p.1.1) ver d (if p.2 + 1 = cs.length then reason else 0) rev time (p.2 + 1 < n) (p.1.2.map (·.tok))) ++
    (lps.zipIdx.map fun p =>
      let (j, x, part) := p.1
      logprobRec q.sid (pos + j) x.tok x.lp part (cs.length + p.2 + 1 < n) (if part = 0 then x.alts.take 5 else x.alts.drop 5))

/-! ## Commits (R233, R287, R290) -/

/-- Positions are committed: LEN on every stack of the session's group. -/
def commitLen (s : State) (i : SetId) (n a : Nat) : State :=
  let g := kvGeo s i
  let s := if g.layers = 0 then s else (sessStacks s i n).foldl (fun s st => dirSet s i g st n 0 4 (dirLen s i g st n + a)) s
  onSess s i n fun q => { q with len := q.len + a }

/-- A session has emitted tokens: history, the last token, and drafts for its next step. -/
def tookTokens (s : State) (i : SetId) (n : Nat) (ts drafts : List Nat) : State :=
  onSess (addHist s i n ts) i n fun q => { q with last := ts.getLast?, gen := q.gen + ts.length, drafts := drafts }

/-- The drafts that prediction heads give at a row (R289). -/
def headDrafts (s : State) (i : SetId) (q : Sess) (row : Nat) : List Nat :=
  if q.dsrc = 2 then headDraft s i row 16 (List.range (s.fld i .SESS_CFG_0_HEADS)) else []

/-- Tokens are emitted: records, history, the last token, the drafts that prediction heads give at the last accepted row. -/
def emitTokens (s : State) (i : SetId) (n pos d reason lastRow : Nat) (xs : List RowRes) : State :=
  let q := sessOf s i n
  let u := (s.st i).su
  let s := (stepRecs q pos u.ver d reason u.step (s.time i) xs).foldl (fun s r => addRec s i q.page n r) s
  tookTokens s i n (xs.map (·.tok)) (headDrafts s i q lastRow)

/-- The rows of a session with their numbers. -/
def rowsOf (rows : List RowEnt) (n : Nat) : List (Nat × RowEnt) :=
  rows.zipIdx.filterMap fun p => if p.1.kind ≠ 0 ∧ p.1.slot = n then some (p.2, p.1) else none

/-- The number of a session's first row. -/
def firstRow (rs : List (Nat × RowEnt)) : Nat := match rs with | r :: _ => r.1 | [] => 0

/-- What the rows of a DECODE session emit, and REASON (R287, R290); nothing when row 0 is not finalised. -/
def decodeEmits (s : State) (i : SetId) (n : Nat) (rs : List (Nat × RowEnt)) : List RowRes × Nat :=
  let q := sessOf s i n
  stopAfter q.stops (history s i n) (q.maxnew - q.gen) (q.maxlen - (q.len + 1))
    (emits (samplesFrom (s.st i).su.res (firstRow rs) rs.length) q.drafts)

/-- The row of a prefill whose logits are needed, and what it emits, with REASON; none when it is not finalised. -/
def prefillEmits (s : State) (i : SetId) (n : Nat) (rs : List (Nat × RowEnt)) : Option (Nat × List RowRes × Nat) :=
  let q := sessOf s i n
  (rs.find? fun r => r.2.kind = 4).bind fun r => ((s.st i).su.res.find? fun e => e.1 = r.1).map fun x =>
    (r.1, stopAfter q.stops (history s i n) q.maxnew (q.maxlen - (q.len + rs.length)) [x.2])

/-- The step of a DECODE session (R287, R290). -/
def commitDecode (s : State) (i : SetId) (n : Nat) (rs : List (Nat × RowEnt)) : State :=
  let q := sessOf s i n
  match decodeEmits s i n rs with
  | ([], _) => onSess s i n fun q => { q with again := true }
  | (xs, reason) =>
    let s := emitTokens s i n (q.len + 1) (rs.length - 1) reason (firstRow rs + xs.length - 1) xs
    let s := commitLen s i n xs.length
    onSess s i n fun q => { q with again := false, ph := if reason = 0 then .decode else .idle }

/-- The step of a PREFILL session. -/
def commitPrefill (s : State) (i : SetId) (n : Nat) (rs : List (Nat × RowEnt)) : State :=
  let q := sessOf s i n
  let k := rs.length
  match rs.find? fun r => r.2.kind = 4 with
  | some _ =>
    match prefillEmits s i n rs with
    | none => s
    | some (row, xs, reason) =>
      let s := emitTokens s i n (q.len + k) 0 reason row xs
      let s := commitLen s i n k
      onSess s i n fun q => { q with feed := q.feed.drop k, order := (s.st i).su.order, ph := if reason = 0 then .ready else .idle }
  | none =>
    let s := onSess (commitLen s i n k) i n fun q => { q with feed := q.feed.drop k }
    if (sessOf s i n).feed.isEmpty then
      let s := onSess s i n fun q => { q with ph := .idle }
      addRec s i q.page n (sessEvent s i n 0 3)
    else s

/-- Why a session ends at the boundary, if it does: its job left ACTIVE (R416), a status that it met (R294), or frames on a fenced stack
(Table 15-7). The end of a session in a pass waits for its return. -/
def endOf (s : State) (i : SetId) (n : Nat) : Option Nat :=
  let q := sessOf s i n
  if (s.st i).killed.any fun e => e.1 = sessJob s i n then some FC.sessKilled.num
  else if q.ended.isSome ∧ !q.inFlight then q.ended
  else if q.ph != .pending && (sessStacks s i n).any (fenced s i) then some FC.kvWord.num
  else none

/-- The step of one session: its end (R294), or its commit. -/
def commitSess (s : State) (i : SetId) (n : Nat) : State :=
  let q := sessOf s i n
  let rs := rowsOf (s.st i).su.shadow n
  match endOf s i n with
  | some c => if q.ph = .closing ∨ q.ph = .free then s else finishSess s i n c 5
  | none =>
    let s := match q.ph with
      | .decode => commitDecode s i n rs
      | .prefill => commitPrefill s i n rs
      | _ => s
    unreserve s i n

/-- Slots with rows in the step, in row order. -/
def stepSlots (s : State) (i : SetId) : List Nat :=
  (((s.st i).su.shadow.filter fun r => r.kind ≠ 0 ∧ r.slot ≠ 0xFFFF).map (·.slot)).eraseDups

/-- The step is over: what it left provisional goes (R233). -/
def clearStep (s : State) (i : SetId) : State :=
  onSu s i fun u => { u with harv := [], heads := [], res := [], apps := [] }

/-- A discarded step (R414, R417): no commit, no record; ends that arose from it, those of sessions with rows, are void. -/
def voidStep (s : State) (i : SetId) : State :=
  let ns := stepSlots s i
  onSu (clearStep s i) i fun u => { u with sess := u.sess.map fun e =>
    (e.1, { e.2 with ended := if ns.contains e.1 then none else e.2.ended, skip := 0 }) }

/-- Steps 2 to 4 of Table 10-7. -/
def commitStep (s : State) (i : SetId) : State :=
  if (s.st i).stepBad then voidStep s i else clearStep ((stepSlots s i).foldl (fun s n => commitSess s i n) s) i

/-- Sessions of jobs that left ACTIVE end with F_SESS_KILLED (R416). -/
def endKilled (s : State) (i : SetId) : State :=
  let ns := (sessSlots s i).filter fun n => (s.st i).killed.any fun e => e.1 = sessJob s i n
  let s := ns.foldl (fun s n => if (sessOf s i n).ph = .closing then freeSlot s i n else finishSess s i n FC.sessKilled.num 5) s
  s.onSet i fun t => { t with killed := [] }

/-! ## Step 5 -/

/-- The set runs a promenade circle (Table 7-7). -/
def promenade (s : State) (i : SetId) : Bool := s.fld i .CIRC_CFG_MODE == 1

/-- No core's arrays hold a tile of the circulation job that is still to be checked (R415). -/
def arraysChecked (s : State) (i : SetId) : Bool :=
  (s.st i).cores.all fun c => c.2.tile.isNone ||
    !((c.2.arrayQ.find? fun e => e.phase != .done).any fun e => e.job == s.fld i .CIRC_CFG_JOB)

/-- A boundary is due: a turn has been handled and the arrays have checked their last tiles (R415; log entry 105), or, in promenade,
always while the circle neither folds nor is stopped (log entry 7). -/
def boundaryOpen (s : State) (i : SetId) : Bool :=
  !(s.st i).lost && !(s.st i).su.gather &&
    (((s.st i).su.due && ((s.st i).su.five || arraysChecked s i)) || (promenade s i && s.fld i .CIRC_STAT_STATE != 3 && s.fld i .CIRC_STAT_STATE != 5))

/-- Sessions of pages whose ENABLE was cleared close as CLOSE does, without records (R275), after the commands that their pages had
fetched (R273). -/
def closePages (s : State) (i : SetId) : State :=
  let ts := (s.st i).su.closing
  let ns := (sessSlots s i).filter fun n => ts.contains (sessOf s i n).page && (sessOf s i n).ph != .closing
  onSu (ns.foldl (fun s n => closeSess s i n) s) i fun u => { u with closing := [] }

/-- Sessions that end at the boundary whatever their step did, in the order of their rows and then of their slots: those of killed jobs,
those with frames on a fenced stack, and those that were marked with no rows in the step (R269, R276, R279). -/
def endMarked (s : State) (i : SetId) : State :=
  let ns := ((stepSlots s i ++ sessSlots s i).eraseDups).filter fun n =>
    (sessOf s i n).ph != .free && (sessOf s i n).ph != .closing && (endOf s i n).isSome
  ns.foldl (fun s n => finishSess s i n ((endOf s i n).getD FC.kvWord.num) 5) s

/-- The boundary comes to the commands: the step is committed or void, sessions end, CLOSING slots become FREE, waiting INPUTs are
applied. In promenade the sessions of a place other than 0 end with their passes (R292). -/
def toFive (s : State) (i : SetId) : State :=
  if (s.st i).su.five then s
  else
    let old := (sessSlots s i).filter fun n => (sessOf s i n).ph == .closing
    let s := onSu s i fun u => { u with order := u.order + 1, five := true }
    let s := onSu s i fun u => { u with redo := (s.st i).stepBad }
    let s := if promenade s i then s else commitStep s i
    let s := if promenade s i ∧ myPlace s i ≠ 0 then s else endMarked s i
    applyInputs (freeClosing (s.onSet i fun t => { t with killed := [] }) i old) i

/-- Every command that was fetched before the boundary came to the commands is applied, in fetch order (R273). -/
def applyCmds (s : State) (i : SetId) : State :=
  let l := (s.st i).su.cmds
  (l.filter fun x => !x.late).foldl (fun s x => applyCmd s i x) (onSu s i fun u => { u with cmds := l.filter (·.late) })

/-- One row of the command table: the oldest fetched command of the set, when it has this code and the boundary, which is open, takes
it. -/
def applyNext (i : SetId) (opc : Nat) (s : State) : State :=
  match (s.st i).su.cmds with
  | x :: q =>
    if boundaryOpen s i ∧ leAt x.cmd 0 1 = opc ∧ !x.late then
      let s := toFive s i
      showOpens (applyCmd (onSu s i fun u => { u with cmds := q }) i x) i
    else s
  | [] => s

/-- OPEN (R276). -/
def execOpen (i : SetId) (s : State) : Out := .next (applyNext i 1 s)
/-- INPUT (R277). -/
def execInput (i : SetId) (s : State) : Out := .next (applyNext i 2 s)
/-- DRAFT (R278). -/
def execDraft (i : SetId) (s : State) : Out := .next (applyNext i 3 s)
/-- MASK (Table 10-3). -/
def execMask (i : SetId) (s : State) : Out := .next (applyNext i 4 s)
/-- MASKLOAD (R278). -/
def execMaskload (i : SetId) (s : State) : Out := .next (applyNext i 5 s)
/-- CLOSE (R278). -/
def execClose (i : SetId) (s : State) : Out := .next (applyNext i 6 s)

/-! ## Rows (R280, R281, R283, R289) -/

/-- CQ entries that a session's step may take: decode and draft rows, or a last prefill row, with `d` drafts (R280). -/
def recNeed (q : Sess) (d : Nat) : Nat := (1 + d + 7) / 8 + (1 + d) * ((q.nlogp + 4) / 5)

/-- The page has the room for a session's step: it is reserved, or the session is HELD for the step (R280). -/
def reserve (s : State) (i : SetId) (n need : Nat) : State × Bool :=
  let t := (sessOf s i n).page
  if need ≤ cqRoom s t then (onSess (cqHold s t need) i n fun q => { q with bound := need, held := false }, true)
  else (onSess s i n fun q => { q with held := true }, false)

/-- Drafts available from the session's source (R278, R289). -/
def draftsOf (s : State) (i : SetId) (n : Nat) : List Nat :=
  let q := sessOf s i n
  match q.dsrc with
  | 1 => ngramDraft (history s i n) q.ngram
  | 2 => q.drafts
  | 3 => match q.hostDraft with
    | some (b, l) => if b = q.len + 1 then l else []
    | none => []
  | _ => []

/-- The drafts that a DECODE session verifies (R289, R290). -/
def stepDrafts (s : State) (i : SetId) (n : Nat) : List Nat :=
  let q := sessOf s i n
  if q.again then q.drafts
  else (draftsOf s i n).take (min q.dmax (min (q.maxnew - q.gen) (q.maxlen - q.len - 1) - 1))

/-- The rows of a DECODE session. -/
def decodeRows (n : Nat) (q : Sess) (ds : List Nat) : List RowEnt :=
  (q.last.getD 0 :: ds).zipIdx.map fun p =>
    { pos := q.len + p.2, slot := n, kind := if p.2 = 0 then 1 else 2, stack := q.stack, token := p.1 }

/-- The next `k` prefill rows of a session; the last input row of a prefill whose logits are needed has kind 4. -/
def prefillRows (n : Nat) (q : Sess) (k : Nat) : List RowEnt :=
  (q.feed.take k).zipIdx.map fun p =>
    { pos := q.len + p.2, slot := n, kind := if p.2 + 1 = q.feed.length ∧ q.maxnew ≠ 0 then 4 else 3, stack := q.stack, token := p.1 }

/-- READY sessions enter DECODE in order while their rows are free (R283). -/
def enterDecode (i : SetId) : List Nat → Nat → State → State
  | [], _, s => s
  | n :: ns, used, s =>
    let q := sessOf s i n
    if used + 1 + q.dmax ≤ s.fld i .SESS_CFG_0_ROWS - s.fld i .SESS_CFG_0_PF_MIN then
      enterDecode i ns (used + 1 + q.dmax) (onSess s i n fun q => { q with ph := .decode, again := false, order := (s.st i).su.order })
    else s

/-- Rows that DECODE sessions may use. -/
def decodeUse (s : State) (i : SetId) : Nat :=
  (((sessSlots s i).filter fun n => (sessOf s i n).ph == .decode).map fun n => 1 + (sessOf s i n).dmax).foldl (· + ·) 0

/-- Sessions of READY enter DECODE where they may. -/
def readySessions (s : State) (i : SetId) : State := enterDecode i (slotsIn s i .ready) (decodeUse s i) s

/-- The rows of one DECODE session are bound (R281 item 1). -/
def bindDecode (s : State) (i : SetId) (n : Nat) : State × List RowEnt :=
  let ds := stepDrafts s i n
  match reserve s i n (recNeed (sessOf s i n) ds.length) with
  | (s, true) =>
    let s := onSess s i n fun q => { q with drafts := ds, again := false, hostDraft := match q.hostDraft with
      | some (b, l) => if q.dsrc = 3 ∧ b ≤ q.len + 1 then none else some (b, l)
      | none => none }
    (s, decodeRows n (sessOf s i n) ds)
  | (s, false) => (s, [])

/-- The next prefill rows of one session are bound, at most `free` (R283). -/
def bindPrefill (s : State) (i : SetId) (n free : Nat) : State × List RowEnt :=
  let q := sessOf s i n
  let rows := prefillRows n q (min (s.fld i .SESS_CFG_0_CHUNK) free)
  if rows.isEmpty then (s, [])
  else
    match reserve s i n (if rows.any (fun r => r.kind = 4) then recNeed q 0 else 1) with
    | (s, true) => (s, rows)
    | (s, false) => (s, [])

/-- Put a row behind those of lower slots. -/
def insRow (r : RowEnt) : List RowEnt → List RowEnt
  | [] => [r]
  | a :: q => if r.slot < a.slot then r :: a :: q else a :: insRow r q

/-- The order of R281: decode and draft rows by slot, prefill rows whose logits are needed by slot, and the other prefill rows as they are. -/
def orderRows (rows : List RowEnt) : List RowEnt :=
  let bySlot (l : List RowEnt) := l.foldl (fun l r => insRow r l) []
  bySlot (rows.filter fun r => r.kind = 1 ∨ r.kind = 2) ++ bySlot (rows.filter fun r => r.kind = 4) ++ rows.filter fun r => r.kind = 3

/-- The rows of the next step (R281, R283). -/
def layoutRows (s : State) (i : SetId) : State × List RowEnt :=
  let s := readySessions s i
  let ds := (sessSlots s i).filter fun n => (sessOf s i n).ph == .decode
  let (s, rows) := ds.foldl (fun (p : State × List RowEnt) n => let (s, l) := bindDecode p.1 i n; (s, p.2 ++ l)) (s, [])
  let lim := min 1024 (s.fld i .SESS_CFG_0_ROWS)
  let (s, pre) := (slotsIn s i .prefill).foldl (fun (p : State × List RowEnt) n =>
    let (s, l) := bindPrefill p.1 i n (lim - rows.length - p.2.length); (s, p.2 ++ l)) (s, [])
  (s, orderRows (rows ++ pre))

/-- The rows of a discarded step bind again; rows of sessions that are gone stay unbound (R414). -/
def sameRows (s : State) (i : SetId) : List RowEnt :=
  (s.st i).su.shadow.map fun r =>
    let p := (sessOf s i r.slot).ph
    if r.kind ≠ 0 ∧ (p = .decode ∨ p = .prefill) then r else unboundRow

/-- One more than the number of the last row whose kind satisfies `p`. -/
def lastRowBy (p : Nat → Bool) (rows : List RowEnt) : Nat :=
  (rows.zipIdx.filter fun r => p r.1.kind).foldl (fun m r => max m (r.2 + 1)) 0

/-- Step variables: 0 to 5 (Table 10-6), then the constants (R282). -/
def stepVars (s : State) (i : SetId) (rows : List RowEnt) (step : Nat) : List Nat :=
  let n := lastRowBy (· != 0) rows
  let d := lastRowBy (fun k => k == 1 || k == 2) rows
  let most := (rows.map fun r => (rows.filter fun x => x.kind = 2 ∧ x.slot = r.slot).length).foldl max 0
  [n, d, n - d, lastRowBy (fun k => k == 1 || k == 2 || k == 4) rows, most, step % 2 ^ 32] ++ stepConsts s i

/-! ## Embedding gathers (R246) -/

/-- The stack whose copy of the embedding table serves a row. -/
def gatherStack (s : State) (i : SetId) (r : RowEnt) : Option Nat :=
  let g := kvGeo s i
  let copies := (List.range 6).filter fun st => bit (s.fld i .MSE_EMBCFG_0_COPIES) st && !fenced s i st
  match (g.group (g.groupOf r.stack)).find? copies.contains with
  | some st => some st
  | none => copies.head?

/-- The address of a token's row in the copy of a stack. -/
def embRow (s : State) (i : SetId) (st tok : Nat) : Nat :=
  let base := s.fld i .MSE_EMBCFG_0_BASE
  base - stackOf base * 0x18_0000_0000 + st * 0x18_0000_0000 + tok * s.fld i .MSE_EMBCFG_0_ROWSZ * 32

/-- Where the gather of row r goes. -/
def embDest (s : State) (i : SetId) (r : Nat) : Nat := s.fld i .MSE_EMBDEST_EMB_DEST + r * s.fld i .MSE_EMBCFG_1_EMB_PITCH * 32

/-- Tokens at or above the row count (R246): a zero row, and the end of their sessions with F_KV_TOKEN, carried by the last TOKENS
record of the step or by an EVENT record (R294). Their rows are unbound. -/
def badTokens (s : State) (i : SetId) (rows : List RowEnt) : State × List RowEnt :=
  let lim := s.fld i .MSE_EMBCFG_1_ROWS
  if s.fld i .MSE_EMBCFG_0_COPIES = 0 then (s, rows)
  else
    let bad := rows.zipIdx.filter fun p => p.1.kind ≠ 0 ∧ lim ≤ p.1.token
    let s := bad.foldl (fun s p => store s i (embDest s i p.2) (List.replicate (32 * s.fld i .MSE_EMBCFG_0_ROWSZ) 0)) s
    let ns := (bad.map fun p => p.1.slot).eraseDups
    let s := ns.foldl (fun s n =>
      let q := sessOf s i n
      let st := ((rows.find? fun r => r.slot = n).bind (gatherStack s i)).getD q.stack
      let s := report s i { FC.kvToken.fr with die := stackDie i st, unit := st, sess := n, job := sessJob s i n }
      match patchTokens s i n fun r => r.take 6 ++ leBytes 2 FC.kvToken.num ++ slice r 8 7 ++ leBytes 1 5 ++ r.drop 16 with
      | some s => freeSlot s i n
      | none => finishSess s i n FC.kvToken.num 5) s
    (s, rows.map fun (r : RowEnt) => if r.kind != 0 && ns.contains r.slot then unboundRow else r)

/-- Copy the embedding rows of the bound rows. -/
def gatherRows (s : State) (i : SetId) : State :=
  (s.st i).su.shadow.zipIdx.foldl (fun s p =>
    if p.1.kind = 0 then s
    else match gatherStack s i p.1 with
      | some st => moveWords s i (embRow s i st p.1.token) (embDest s i p.2) (s.fld i .MSE_EMBCFG_0_ROWSZ)
      | none => s) s

/-- EMBEDDING_GATHER_DONE (R200, R246): the gathers are complete, and TURN_CTR is signalled. -/
def execEmbeddingGatherDone (i : SetId) (s : State) : Out :=
  if (s.st i).su.gather ∧ !(s.st i).lost then
    let s := onSu (gatherRows s i) i fun u => { u with gather := false }
    .next (settle (turnSignal s i) i)
  else .next s

/-! ## STEP_BOUNDARY -/

/-- SESS_PAGE_STAT of the set's pages where rows have been bound (Table 10-13). -/
def showPages (s : State) (i : SetId) : State :=
  (pagesOf s i).foldl (fun s t =>
    let h := ((sessSlots s i).filter fun n => (sessOf s i n).page = t ∧ (sessOf s i n).held).length
    let s := s.setPfld .SESS_PAGE_STAT_HELD t h
    showOpen (s.setPfld .SESS_PAGE_STAT_HELDSTEPS t (s.pfld .SESS_PAGE_STAT_HELDSTEPS t + h)) i t) s

/-! ## Repairs at a boundary (R423, Table 15-4) -/

/-- The set-local address of bank 0's address `a` in the bank in service. -/
def inBank (s : State) (i : SetId) (a : Nat) : Nat := a + s.fld i .CIRC_STAT_BANK * (s.fld i .CIRC_BANKOFS_OFS * 4096)

/-- Where a piece lies in this set, in bank 0, if the set holds it. -/
def CatEnt.at_ (e : CatEnt) (q : Nat) : Option Nat := if e.owner = q then some e.addr else if e.partner = q then some e.paddr else none

/-- The piece of the bank in service that holds an HBM address of this set: piece, version, and the address in bank 0. -/
def pieceAt (s : State) (i : SetId) (a : Nat) : Option CatEnt :=
  (s.st i).circ.cat.find? fun e => match e.at_ (s.fld i .CIRC_CFG_PLACE) with
    | some b => inBank s i b ≤ a && a < inBank s i b + 32 * e.len
    | none => false

/-- The resident piece whose SRAM copy holds an address (Table 7-1). -/
def residentAt (s : State) (i : SetId) (a : Nat) : Option CatEnt :=
  (s.st i).circ.cat.find? fun e => bit e.flags 2 && e.owner == s.fld i .CIRC_CFG_PLACE && e.aux ≤ a && a < e.aux + 32 * e.len

/-- A repair is asked for (R211): of the set that holds the other copy, or of the reader when there is none in service. -/
def askRepair (s : State) (i : SetId) (e : CatEnt) (bank : Nat) : State :=
  if (s.st i).circ.repair.contains (e.piece + 2 ^ 32 * e.version, bank) then s
  else
    let q := s.fld i .CIRC_CFG_PLACE
    let other := if e.owner = q then e.partner else e.owner
    let host := e.partner = 0xFF ∨ (s.st i).circ.gone.contains other
    let src := if host then (s.st i).circ.reader else s.fld i .CIRC_CFG_CIRCLE * 256 + other
    let s := s.emit .circCtl i.val [14, src, e.piece, e.version, s.place i, bitOf host]
    s.onSet i fun t => { t with circ := { t.circ with repair := t.circ.repair ++ [(e.piece + 2 ^ 32 * e.version, bank)] } }

/-- A KIND 1 word that could not be corrected is repaired (Table 15-4): a piece under R211, a resident copy from HBM, an
embedding row from another stack's copy or by the reader. A W buffer waits for its next TAKE. -/
def repairWord (s : State) (i : SetId) (a : Nat) : State :=
  match pieceAt s i a, residentAt s i a with
  | some e, _ => askRepair s i e (s.fld i .CIRC_STAT_BANK)
  | none, some e => moveWords s i (inBank s i e.addr + (a - e.aux)) a 1
  | none, none =>
    let n := s.fld i .MSE_EMBCFG_1_ROWS * s.fld i .MSE_EMBCFG_0_ROWSZ * 32
    let st := stackOf a
    let lo := embRow s i st 0
    if spaceOf a == .hbm && bit (s.fld i .MSE_EMBCFG_0_COPIES) st && lo ≤ a && a < lo + n then
      match (List.range 6).find? fun x => x != st && bit (s.fld i .MSE_EMBCFG_0_COPIES) x && !fenced s i x with
      | some x => moveWords s i (embRow s i x 0 + (a - lo)) a 1
      | none => s.emit .circCtl i.val [14, (s.st i).circ.reader, 0xFFFF_FFFF, a]
    else s

/-- What prunings and restored regions do at a boundary (R423, Table 15-4): lists and tile maps, slots of jobs that restart. -/
def boundaryRepairs (s : State) (i : SetId) : State :=
  let s := (s.st i).pruneDue.foldl (fun s k => applyPruning s i k) s
  let s := ((s.st i).restart.eraseDups).foldl (fun s j => startSlots (dropHolds s i j) i j) s
  let s := ((s.st i).badWords.eraseDups).foldl (fun s a => repairWord s i a) s
  s.onSet i fun t => { t with pruneDue := [], restart := [], badWords := [] }

/-- No session is HELD any more: rows are about to be bound anew (R280). -/
def clearHeld (s : State) (i : SetId) : State :=
  onSu s i fun u => { u with sess := u.sess.map fun e => (e.1, { e.2 with held := false }) }

/-- Rows are bound, those of a discarded step as they were, gathers begin, records leave, and the boundary waits for the gathers. -/
def bindStep (s : State) (i : SetId) : State :=
  let bad := (s.st i).su.redo
  let s := clearHeld s i
  let (s, rows) := if bad then (s, sameRows s i) else layoutRows s i
  let (s, rows) := badTokens s i rows
  let s := writeShadow s i (stepVars s i rows (s.fld i .CIRC_REV_REV)) rows
  let s := s.onSet i fun t => { t with stepBad := false }
  onSu s i fun u => { u with due := false, gather := true, redo := false, step := s.fld i .CIRC_REV_REV, ver := s.fld i .CIRC_REV_VERSION }

/-- The share of the host port of a fenced set passes to its sibling from the sibling's next step boundary (R17). -/
def takeShare (s : State) (i : SetId) : State :=
  let o : SetId := if i = 0 then 1 else 0
  if (s.st o).lost then s.onSet i fun t => { t with shareGain := s.pfld (if i = 0 then .HB_HOSTCFG_SHARE1 else .HB_HOSTCFG_SHARE0) } else s

/-- Records leave, and their interrupts (R365). -/
def boundaryEnd (s : State) (i : SetId) : State := raiseCq (postRecs s i) i

/-! ## The return of a pass (R292) -/

/-- This place is the last of a promenade circle: it runs the harvest (R30). -/
def lastPlace (s : State) (i : SetId) : Bool := promenade s i && myPlace s i + 1 == places s i

/-- The drafts of a session's next pass as place N − 1 forms them (R289, R292); drafts of the host lie at place 0. -/
def formDrafts (s : State) (i : SetId) (n : Nat) : List Nat :=
  let q := sessOf s i n
  match q.dsrc with
  | 1 => ngramDraft (history s i n) q.ngram
  | 2 => q.drafts
  | _ => []

/-- The input tokens of a prefill's rows go into the history (R288); the last emitted token, which is prefilled first (R277), lies there
already. -/
def takeInput (s : State) (i : SetId) (n : Nat) (rs : List (Nat × RowEnt)) : State :=
  let ts := ((rs.filter fun r => r.2.kind ≠ 4) ++ rs.filter fun r => r.2.kind = 4).map (·.2.token)
  onSess (addHist s i n (ts.drop (if (sessOf s i n).last.isSome then 1 else 0))) i n fun q => { q with last := none }

/-- A session's part of the return: tokens emitted with their records, or positions of a prefill committed, or an end, or nothing. The
commit itself comes with the session's next pass. -/
def formPart (s : State) (i : SetId) (n : Nat) : State × PassPart :=
  let q := sessOf s i n
  let u := (s.st i).su
  let rs := rowsOf u.shadow n
  let none_ : PassPart := { slot := n, commit := 0, reason := 0, status := 0, toks := [], recs := [], drafts := [] }
  let emit (s : State) (d pos k reason row : Nat) (xs : List RowRes) : State × PassPart :=
    let ts := xs.map (·.tok)
    let s := tookTokens s i n ts (headDrafts s i q row)
    (s, { none_ with commit := k, reason := reason, toks := ts, recs := stepRecs q pos u.ver d reason u.step 0 xs, drafts := formDrafts s i n })
  if (s.st i).stepBad then (s, none_)
  else match endOf s i n with
    | some c => (s, { none_ with status := c })
    | none =>
      if rs.any fun r => r.2.kind = 1 then
        match decodeEmits s i n rs with
        | ([], _) => (s, none_)
        | (xs, reason) => emit s (rs.length - 1) (q.len + 1) xs.length reason (firstRow rs + xs.length - 1) xs
      else if rs.any fun r => r.2.kind = 4 then
        let s' := takeInput s i n rs
        match prefillEmits s' i n rs with
        | none => (s, none_)
        | some (row, xs, reason) => emit s' 0 (q.len + rs.length) rs.length reason row xs
      else (takeInput s i n rs, { none_ with commit := rs.length })

/-- A part as the message holds it. -/
def partWords (p : PassPart) : List Nat :=
  [p.slot, p.commit, p.reason, p.status, p.toks.length] ++ p.toks ++ [p.recs.length, p.drafts.length] ++ p.drafts

/-- Place N − 1 sends the return of the pass it serves, once (R292); of a pass marked DISCARD it writes no record and returns a commit
count of 0 (R414). -/
def sendReturn (s : State) (i : SetId) : State :=
  if lastPlace s i ∧ (s.st i).su.owe then
    let bad := (s.st i).stepBad
    let (s, ps) := (stepSlots s i).foldl (fun (p : State × List PassPart) n => let (s, x) := formPart p.1 i n; (s, p.2 ++ [x])) (s, [])
    let s := s.emit .passReturn i.val ([(s.st i).su.step, bitOf bad, ps.length] ++ ps.flatMap partWords) (ps.flatMap fun p => p.recs.flatten)
    onSu s i fun u => { u with owe := false }
  else s

/-- STEP_BOUNDARY (Table 10-7, R415): the open boundary runs to the gathers; at place N − 1 of a promenade circle, the pass that it
serves returns (log entry 100). Ended jobs end their sessions in any case. -/
def execStepBoundary (i : SetId) (s : State) : Out :=
  if (s.st i).lost then .next s
  else if !boundaryOpen s i then .next (boundaryEnd (showOpens (endKilled s i) i) i)
  else
    let s := if (s.st i).su.five then endKilled s i else sendReturn s i
    let s := closePages (applyCmds (toFive s i) i) i
    let s := applyInputs (admitAll s i) i
    let s := onSu s i fun u => { u with five := false, cmds := u.cmds.map fun x => { x with late := false } }
    let s := takeShare (boundaryRepairs s i) i
    let s := if promenade s i then showOpens (readySessions s i) i else showPages (bindStep s i) i
    .next (settle (boundaryEnd s i) i)

end Sys2Proof.Machine
end

