-- ==== Sys2Proof/Machine/Circ.lean ====
section
/-! DEFINITION. Circulation in chain mode: frames and their order, INJECT and TAKE, turns, and stopping a circle (7.1 to 7.4,
7.12). -/

namespace Sys2Proof.Machine

/-! ## The circle -/

/-- The circulation unit of a set. -/
def circ (s : State) (i : SetId) : CircUnit := (s.st i).circ

/-- Change the circulation unit. -/
def onCirc (s : State) (i : SetId) (f : CircUnit → CircUnit) : State := s.onSet i fun t => { t with circ := f t.circ }

/-- The stage of a set after the set lock point (Table 14-13), as its place from LINKS to SERVING: 6 LINKS, 7 LOADING, 8 SEEDLING,
10 PROMOTING, 9 SERVING; none for a set that is idle or lost. -/
def setStage (s : State) (i : SetId) : Option Nat :=
  let c := circ s i
  let settled := (List.range 5).all fun p => s.fld i .LINK_PORTp_CFG_0_PLANNED p == 0 || s.fld i .LINK_PORTp_STAT_0_MISSING p == 1 ||
    7 ≤ s.fld i .LINK_PORTp_STAT_0_STATE p
  if !(s.st i).locked ∨ (s.st i).lost ∨ places s i = 0 then none
  else if !c.up then some (if settled then 7 else 6)
  else if c.seedling then some (match c.chg with | some x => if x.kind = 2 then 10 else 8 | none => 8)
  else some 9

/-- How far a stage has come. -/
def stageRank (v : Nat) : Nat := if v = 10 then 8 else if v = 9 then 10 else v

/-- STAGE of HB_BOOT follows the less advanced set, from the set lock point on. -/
def showStage (s : State) : State :=
  let now := s.pfld .HB_BOOT_STAGE
  if now < 6 ∨ 10 < now then s
  else match setStage s 0, setStage s 1 with
    | some a, some b => s.setPfld .HB_BOOT_STAGE 0 (if stageRank b < stageRank a then b else a)
    | some a, none | none, some a => s.setPfld .HB_BOOT_STAGE 0 a
    | none, none => s

/-- A circle port: 0 widdershins, 1 sunwise. -/
def cport (s : State) (i : SetId) (p : Nat) : CPort := SMap.get {} (circ s i).ports p

/-- Change a circle port. -/
def onPort (s : State) (i : SetId) (p : Nat) (f : CPort → CPort) : State :=
  onCirc s i fun c => { c with ports := SMap.upd {} c.ports p f }

/-- The set is in service in chain mode: it circulates, and no fold is in progress. -/
def circulates (s : State) (i : SetId) : Bool :=
  (circ s i).up && (circ s i).fold.isNone && !promenade s i && s.fld i .CIRC_STAT_STATE != 5 && !(s.st i).lost

/-- Of two epochs the first is the later (R195). -/
def laterEpoch (a b : Nat) : Bool := (a + 65536 - b) % 65536 != 0 && (a + 65536 - b) % 65536 < 32768

/-- The confirmed change that is in force from revolution n on, if any (R205). -/
def changeAt (s : State) (i : SetId) (n : Nat) : Option Change :=
  match (circ s i).chg with
  | some c => if c.confirmed ∧ c.s ≤ n then some c else none
  | none => none

/-- The version that the place expects for revolution n (R201, R205, R396). -/
def verAt (s : State) (i : SetId) (n : Nat) : Nat :=
  match changeAt s i n with
  | some c => if c.kind = 1 then s.fld i .CIRC_REV_VERSION else c.ver
  | none => s.fld i .CIRC_REV_VERSION

/-- The epoch that turn(n) carries (R195, R219, R396). -/
def epochAt (s : State) (i : SetId) (n : Nat) : Nat :=
  match changeAt s i n with
  | some c => if c.kind = 0 then s.fld i .CIRC_STAT_EPOCH else c.ep
  | none => s.fld i .CIRC_STAT_EPOCH

/-- The line of revolution n; empty for a ring. -/
def lineAt (s : State) (i : SetId) (n : Nat) : List Nat :=
  match changeAt s i n with
  | some c => if c.kind = 1 then [] else (circ s i).line
  | none => (circ s i).line

/-- Places that a frame sent out of port p still meets. -/
def ahead (s : State) (i : SetId) (line : List Nat) (p : Nat) : Nat :=
  if line.isEmpty then places s i - 1
  else if p = 1 then line.length - 1 - line.idxOf (myPlace s i) else line.idxOf (myPlace s i)

/-- The ports that have a neighbour in the topology of revolution n. -/
def livePorts (s : State) (i : SetId) (n : Nat) : List Nat := [0, 1].filter fun p => 0 < ahead s i (lineAt s i n) p

/-! ## The tile map (R189, R191, R194) -/

/-- The name of a tile: half, layer, owner, tile. -/
abbrev TileId := Nat × Nat × Nat × Nat

/-- A tile of the revolution: its name, its stage and the cores that take it. -/
structure MapTile where
  id : TileId
  stage : Nat
  cores : List Nat
deriving DecidableEq, Repr

/-- The tiles of an entry. -/
def TmapEnt.tiles (e : TmapEnt) : List MapTile :=
  (List.range e.count).map fun j =>
    { id := (e.half, e.layer, e.owner, e.tile0 + j), stage := e.stage
      cores := (List.range e.rep).map fun k => (e.core0 + j * e.step + k) % 80 }

/-- The tiles of the revolution. -/
def mapTiles (s : State) (i : SetId) : List MapTile := (circ s i).tmap.flatMap TmapEnt.tiles

/-- An entry from its 16 bytes (Table 7-2). -/
def tmapEnt (d : List Byte) : TmapEnt :=
  { layer := leAt d 0 2, stage := leAt d 2 1, half := leAt d 3 1 % 2, owner := leAt d 4 1, core0 := leAt d 5 1, rep := leAt d 6 1
    step := leAt d 7 1, tile0 := leAt d 8 2, count := leAt d 10 2 }

/-- The place that injects a tile (R218, R428). -/
def injector (s : State) (i : SetId) (t : TileId) : Nat :=
  match (circ s i).stand.find? fun x => x.lost = t.2.2.1 && (x.tiles.isEmpty || x.tiles.contains t) with
  | some x => x.by_
  | none => t.2.2.1

/-- A key in the order (LAYER, STAGE, d, TILE). -/
def tileKey (layer stage d tile : Nat) : Nat := ((layer * 256 + stage) * 1024 + d) * 65536 + tile

/-- Hops from a tile's injector to this place for a frame that leaves by port p, when the frame is due there (R194, R196, R217).
-/
def dueHops (s : State) (i : SetId) (line : List Nat) (p : Nat) (t : TileId) : Option Nat :=
  let q := myPlace s i
  let j := injector s i t
  let n := places s i
  if line.isEmpty then
    let d := if p = 1 then (q + n - j) % n else (j + n - q) % n
    if t.1 = 1 - p ∧ d + 2 ≤ n then some d else none
  else
    let a := line.idxOf q
    let b := line.idxOf j
    if ahead s i line p = 0 then none
    else if p = 1 then (if b ≤ a then some (a - b) else none)
    else if a ≤ b then some (b - a) else none

/-- Keys of the tiles due on port p since its last turn and not yet sent (R194). -/
def unsentKeys (s : State) (i : SetId) (p : Nat) : List Nat :=
  let c := cport s i p
  let line := lineAt s i c.tx
  (mapTiles s i).filterMap fun t =>
    if c.sent.contains t.id then none
    else (dueHops s i line p t.id).map fun d => tileKey t.id.2.1 t.stage d t.id.2.2.2

/-- The key of a tile in the canonical order of a half at this place (R189). -/
def canonKey (s : State) (i : SetId) (t : MapTile) : Nat :=
  let q := myPlace s i
  let o := t.id.2.2.1
  let n := places s i
  tileKey t.id.2.1 t.stage (if t.id.1 = 0 then (q + n - o) % n else (o + n - q) % n) t.id.2.2.2

/-- The next tile of a half in canonical order. -/
def nextTile (s : State) (i : SetId) (half : Nat) : Option MapTile :=
  ((mapTiles s i).filter fun t => t.id.1 = half && !(circ s i).used.contains t.id).foldl (fun best t =>
    match best with
    | some b => if canonKey s i t < canonKey s i b then some t else some b
    | none => some t) none

/-! ## Frames (R192, R193) -/

/-- The header of a frame. -/
def fhdr (d : List Byte) : FHdr :=
  { kind := leAt d 0 1, flags := leAt d 1 1, owner := leAt d 2 1, hops := leAt d 3 1, layer := leAt d 4 2, stage := leAt d 6 1
    tile := leAt d 8 2, version := leAt d 10 2, epoch := leAt d 12 2, rev := leAt d 16 6, len := leAt d 24 4, piece := leAt d 28 4 }

/-- The header word. -/
def FHdr.bytes (h : FHdr) : List Byte :=
  leBytes 1 h.kind ++ leBytes 1 h.flags ++ leBytes 1 h.owner ++ leBytes 1 h.hops ++ leBytes 2 h.layer ++ leBytes 1 h.stage ++
    leBytes 1 0 ++ leBytes 2 h.tile ++ leBytes 2 h.version ++ leBytes 2 h.epoch ++ leBytes 2 0 ++ leBytes 6 h.rev ++
    leBytes 2 0 ++ leBytes 4 h.len ++ leBytes 4 h.piece

/-- KIND, reserved fields and LEN are as R192 asks. -/
def hdrOk (d : List Byte) : Bool :=
  let h := fhdr d
  1 ≤ h.kind && h.kind ≤ 3 && h.flags < 16 && leAt d 7 1 == 0 && leAt d 14 2 == 0 && leAt d 22 2 == 0 &&
    (h.kind == 1 || h.hops == 0) && (h.kind == 3 || h.piece == 0) && (h.kind != 2 || h.len == 0) &&
    (h.kind != 3 || (1 ≤ h.len && h.len ≤ 2048))

/-- The tile that a TILE frame carries. -/
def FHdr.tileId (h : FHdr) : TileId := (h.flags % 2, h.layer, h.owner, h.tile)

/-! ## Stopping a circle (R214) -/

/-- The place stops: no more injecting and taking, the step is discarded, F_CIRC_STOPPED, its sessions end (R214). -/
def stopHere (s : State) (i : SetId) : State :=
  let s := discardStep (s.setFld i .CIRC_STAT_STATE 0 5) i
  let s := onCirc s i fun c => { c with buf := [], fold := none, ports := c.ports.map fun e => (e.1, { e.2 with turns := [], held := [] }) }
  let s := onSu s i fun u => { u with due := false, gather := false, five := false, passes := [] }
  let s := report (s.setFld i .CIRC_ERR_STOPPED 0 1) i { FC.circStopped.fr with die := linkDie i, job := s.fld i .CIRC_CFG_JOB }
  endSessions s i (fun _ => true) FC.circStopped.num 5

/-- A stop notice leaves by a port. -/
def sendStop (s : State) (i : SetId) (p : Nat) : State := s.emit .circCtl i.val [1, p]

/-- A place stops its circle (R214): stop notices out of every circle port that has a neighbour. -/
def stopCircle (s : State) (i : SetId) : State :=
  if s.fld i .CIRC_STAT_STATE = 5 ∨ (s.st i).lost then s
  else stopHere ((livePorts s i (s.fld i .CIRC_REV_REV)).foldl (fun s p => sendStop s i p) s) i

/-- A circulation fault stops the circle (Table 7-6, Table 7-16). -/
def circFault (s : State) (i : SetId) (c : FC) (h : FHdr) : State :=
  let s := s.setFld i (if c = .circSeq then .CIRC_ERR_SEQ else if c = .circRev then .CIRC_ERR_REVN else .CIRC_ERR_VERS) 0 1
  let s := s.setFld i .CIRC_ERR_LAYER 0 h.layer
  let s := s.setFld i .CIRC_ERR_TILE 0 h.tile
  let s := s.setFld i .CIRC_ERR_OWNER 0 h.owner
  stopCircle (report s i { c.fr with die := linkDie i, job := s.fld i .CIRC_CFG_JOB, detail := h.tile + 65536 * h.layer }) i

/-- STOP_NOTICE (R214): forwarded out of the other circle port, and the place stops. -/
def execStopNotice (i : SetId) (port : Fin 2) (s : State) : Out :=
  if s.fld i .CIRC_STAT_STATE = 5 ∨ (s.st i).lost then .next s
  else
    let p := 1 - port.val
    let s := if (livePorts s i (s.fld i .CIRC_REV_REV)).contains p then sendStop s i p else s
    .next (settle (stopHere s i) i)

/-! ## TAKE (R169, R198) -/

/-- The address of an offset in array p's W buffer of core k. -/
def wAddr (k p o : Nat) : Nat := bufBase k + p * 0x4_0000 + o

/-- What a TAKE asks for. -/
def takeReq (e : QEnt) : TakeReq :=
  { w := e.a1 % 0x4_0000, c := e.a2 % 0x4_0000, len := leAt e.raw 24 3, arrays := leAt e.raw 32 1 }

/-- The tile is expanded into the W buffers of the core whose TAKE matched (R164, R169 to R174). -/
def takeFrame (s : State) (i : SetId) (k : Nat) (e : QEnt) (f : Frame) : State :=
  let p := f.h.flags % 2
  let x := expandTile (streamVers s i) 0 (takeReq e) f.data f.bad
  let s := x.writes.foldl (fun s w => store s i (wAddr k w.1 w.2.1) w.2.2) s
  let s := x.poison.foldl (fun s w => poisonWord s i (wAddr k w.1 w.2)) s
  let s := latchTouch s i k (x.writes.map fun w => (wAddr k w.1 w.2.1, w.2.2.length))
  let s := s.addFld i .LINK_XP_CNTp_CODED p x.coded
  if x.cause = 0 then markDone s i k 3 e.id
  else
    let s := s.setFld i .LINK_XP_ERRp_CAUSE p x.cause
    let s := s.setFld i .LINK_XP_ERRp_ERR p 1
    let s := s.setFld i .LINK_XP_ERRp_LAYER p f.h.layer
    let s := s.setFld i .LINK_XP_ERRp_TILE p f.h.tile
    haltSlot s i k e.slot .stream e.pc e.tag x.cause (f.h.tile + 65536 * f.h.layer)

/-- The oldest waiting TAKE of a core for a half. -/
def waitingTake (s : State) (i : SetId) (k half : Nat) : Option QEnt :=
  (s.core i k).circQ.find? fun e => dtype e.raw == some .take && e.phase == .queued && leAt e.raw 27 1 == half

/-- Change the frames of the receive buffer that satisfy `p`. -/
def onFrames (s : State) (i : SetId) (p : Frame → Bool) (f : Frame → Frame) : State :=
  onCirc s i fun c => { c with buf := c.buf.map fun x => if p x then f x else x }

/-- A frame of this tile that waits to be consumed in the present revolution. -/
def isHere (s : State) (i : SetId) (t : TileId) (f : Frame) : Bool :=
  f.here && f.h.tileId == t && f.h.rev == s.fld i .CIRC_REV_REV

/-- The frame of a tile is consumed. -/
def consume (s : State) (i : SetId) (t : TileId) : State :=
  onCirc (onFrames s i (isHere s i t) fun f => { f with here := false, todo := none }) i fun c => { c with used := c.used ++ [t] }

/-- One core takes the presented frame if its TAKE waits; the second part says that its TAKE names another tile. -/
def takeOne (i : SetId) (f : Frame) (t : TileId) (r : State × Bool) (k : Nat) : State × Bool :=
  let s := r.1
  match waitingTake s i k t.1 with
  | none => r
  | some e =>
    if leAt e.raw 28 2 ≠ t.2.1 ∨ leAt e.raw 30 2 ≠ t.2.2.2 then (s, true)
    else
      let s := onFrames s i (isHere s i t) fun f => { f with todo := f.todo.map fun l => l.erase k }
      (takeFrame s i k e f, r.2)

/-- A frame whose canonical turn has come: once forwarded, it is replayed from the fold reserve (R217). -/
def fromReserve (s : State) (i : SetId) (f : Frame) : Frame × State :=
  match f.saved with
  | none => (f, s)
  | some a =>
    if !f.fwd.isEmpty then (f, s)
    else
      let (d, bad, s) := readWords s i a (f.h.len + 1)
      ({ f with data := d.drop 32, bad := bad.filterMap fun x => if x = a then none else some ((x - a) / 32 - 1), via := none }, s)

/-- The circulation unit presents the next frame of a half (R189, R198); a pruned core takes none (R422). -/
def present (s : State) (i : SetId) (half : Nat) : State :=
  match nextTile s i half with
  | none => s
  | some t =>
    match (circ s i).buf.find? (isHere s i t.id) with
    | none => s
    | some f =>
      let todo := f.todo.getD t.cores.eraseDups
      let live := todo.filter fun k => !corePruned s i k
      let (f, s) := fromReserve s i f
      let s := onFrames s i (isHere s i t.id) fun g => { g with todo := some live, data := f.data, bad := f.bad, via := f.via, saved := none }
      let (s, wrong) := live.foldl (takeOne i f t.id) (s, false)
      if wrong then circFault s i .circSeq f.h
      else match (circ s i).buf.find? (isHere s i t.id) with
        | some f => if f.todo = some [] then consume s i t.id else s
        | none => s

/-! ## Sending (R193, R194, R196, R199) -/

/-- A frame leaves by a port with the HOPS given. Its own frames carry the epoch of the last turn sent there. -/
def sendFrame (s : State) (i : SetId) (f : Frame) (p hops : Nat) : State :=
  let h := { f.h with hops := hops, epoch := if f.inj = none then f.h.epoch else (cport s i p).txEpoch }
  let s := onPort s i p fun c => { c with sent := c.sent ++ [f.h.tileId] }
  s.emit .circFrame i.val (p :: f.bad) (h.bytes ++ f.data)

/-- The frame may leave by the port now (R194). -/
def maySend (s : State) (i : SetId) (f : Frame) (p : Nat) : Bool :=
  let c := cport s i p
  let line := lineAt s i c.tx
  c.tx == f.h.rev && !c.sent.contains f.h.tileId &&
    (match dueHops s i line p f.h.tileId with
    | some d => (unsentKeys s i p).all fun k => tileKey f.h.layer f.h.stage d f.h.tile ≤ k
    | none => true)

/-- Frames of the buffer leave where they may. -/
def sendAll (s : State) (i : SetId) : State :=
  (circ s i).buf.foldl (fun s f =>
    f.fwd.foldl (fun s x =>
      if maySend s i f x.1 then
        onFrames (sendFrame s i f x.1 x.2) i (fun g => g.h == f.h && g.inj == f.inj) fun g => { g with fwd := g.fwd.filter (· != x) }
      else s) s) s

/-- Frames that have left and been consumed go out of the buffer; one that waits in the fold reserve leaves its words there (R217); an
INJECT whose frame has been sent is done (R196). -/
def clearBuf (s : State) (i : SetId) : State :=
  let s := (circ s i).buf.foldl (fun s f =>
    match f.inj with
    | some (k, id) => if f.fwd.isEmpty then markDone s i k 3 id else s
    | none => s) s
  onCirc s i fun c => { c with buf := (c.buf.filter fun f => f.here || !f.fwd.isEmpty).map fun f =>
    if f.saved.isSome && f.fwd.isEmpty then { f with data := [], bad := [] } else f }

/-- The first place of the fold reserve where `n` bytes meet no frame that waits there (R217; log entry 89). -/
def reserveSpot (c : CircUnit) (n : Nat) : Option Nat :=
  let used := c.buf.filterMap fun f => f.saved.map fun a => (a, a + 32 * (f.h.len + 1))
  (c.reserve.1 :: used.map (·.2)).find? fun a => a + n ≤ c.reserve.1 + c.reserve.2 && used.all fun u => a + n ≤ u.1 || u.2 ≤ a

/-- A frame enters the receive buffer. In line mode one that comes ahead of its canonical turn is also written to the fold reserve
(R217). -/
def bufferFrame (s : State) (i : SetId) (f : Frame) : State :=
  let next := f.h.rev = s.fld i .CIRC_REV_REV ∧ (nextTile s i (f.h.flags % 2)).map (·.id) = some f.h.tileId
  let spot := if (circ s i).line.isEmpty ∨ next then none else reserveSpot (circ s i) (32 * (f.h.len + 1))
  match spot with
  | none => onCirc s i fun c => { c with buf := c.buf ++ [f] }
  | some a =>
    let s := f.bad.foldl (fun s x => poisonWord s i (a + 32 * (x + 1))) (store s i a (f.h.bytes ++ f.data))
    onCirc s i fun c => { c with buf := c.buf ++ [{ f with saved := some a }] }

/-- Where the tier reader or the backup tier reader stages a TIER piece, in bank 0: ADDR or PADDR of the place, or ADDR (R213). -/
def tierAddr (s : State) (i : SetId) (e : CatEnt) : Nat := (e.at_ (myPlace s i)).getD e.addr

/-- The address lies where a TIER piece of this set is staged, for the one or the other of two revolutions (R213). -/
def inTier (s : State) (i : SetId) (a : Nat) : Bool :=
  (circ s i).cat.any fun e => bit e.flags 1 && ((e.at_ (myPlace s i)).isSome || s.fld i .CIRC_AUX_TIER_EN == 1) &&
    [0, Config.tierHalf].any fun o => tierAddr s i e + o ≤ a && a < tierAddr s i e + o + 32 * e.len

/-- The tile that an INJECT names, among those that this place injects: one not yet sent in this revolution first. -/
def injectTile (s : State) (i : SetId) (e : QEnt) : Option MapTile :=
  let ts := (mapTiles s i).filter fun t => t.id.1 = leAt e.raw 19 1 && t.id.2.1 = leAt e.raw 20 2 && t.id.2.2.2 = leAt e.raw 22 2 &&
    injector s i t.id = myPlace s i
  match ts.find? fun t => !(circ s i).injected.contains t.id with
  | some t => some t
  | none => ts.head?

/-- The words of an INJECT's stream (R196), the bad ones noted for repair (Table 15-4): none when the stream is longer than LEN. A header that cannot be corrected leaves its
length unknown: LEN words go (log entry 20). -/
def injectWords (s : State) (i : SetId) (e : QEnt) : Option (List Byte × List Nat × State) :=
  let a := inBank s i e.a1
  let len := leAt e.raw 16 3
  let (h, hb, s1) := readWords s i a 1
  let n := if hb.isEmpty then (leAt h 12 4 + 1) / 2 else len
  if len < n then none
  else
    let (d, bad, s2) := readWords (if n = 0 then s1 else s) i a n
    some (d, bad.map fun x => (x - a) / 32, s2.onSet i fun t => { t with badWords := t.badWords ++ bad })

/-- One INJECT starts (R196, R197): its frame enters the receive buffer and waits for its ports. -/
def injectStart (s : State) (i : SetId) (k : Nat) (e : QEnt) : State :=
  match injectTile s i e with
  | none =>
    let s := haltSlotWith s i k e.slot e.pc e.tag { FC.circSeq.fr with die := coreDie i k, unit := k, sub := e.slot, detail := leAt e.raw 20 4 }
    let s := s.setFld i .CIRC_ERR_SEQ 0 1
    let s := s.setFld i .CIRC_ERR_LAYER 0 (leAt e.raw 20 2)
    let s := s.setFld i .CIRC_ERR_TILE 0 (leAt e.raw 22 2)
    stopCircle (s.setFld i .CIRC_ERR_OWNER 0 (myPlace s i)) i
  | some t =>
    if (circ s i).injected.contains t.id then s
    else match injectWords s i e with
      | none => haltSlot s i k e.slot .bounds e.pc e.tag 0 e.a1
      | some (d, bad, s) =>
        let stand := t.id.2.2.1 ≠ myPlace s i
        let h : FHdr := { kind := 1, flags := t.id.1 + 4 * bitOf stand + 8 * bitOf (inTier s i e.a1), owner := t.id.2.2.1, hops := 0
                          layer := t.id.2.1, stage := t.stage, tile := t.id.2.2.2, version := s.fld i .CIRC_REV_VERSION
                          epoch := s.fld i .CIRC_STAT_EPOCH, rev := s.fld i .CIRC_REV_REV, len := d.length / 32, piece := 0 }
        let line := (circ s i).line
        let fwd := [0, 1].filterMap fun p => (dueHops s i line p t.id).map fun _ => (p, ahead s i line p - 1)
        let s := onCirc s i fun c => { c with
          injected := c.injected ++ [t.id]
          srcs := c.srcs.filter (fun x => x.1 != t.id) ++ [(t.id, e.a1)] }
        let s := bufferFrame s i { h := h, data := d, bad := bad, fwd := fwd, here := true, todo := none, inj := some (k, e.id) }
        onEnt s i k 3 e.id fun x => { x with phase := .running }

/-- INJECTs that wait start (R197). None starts before the first turn has been handled. -/
def injectAll (s : State) (i : SetId) : State :=
  if (circ s i).first.isSome then s
  else (s.st i).cores.foldl (fun s c => c.2.circQ.foldl (fun s e =>
    if dtype e.raw = some .inject ∧ circulates s i ∧ (s.core i c.1).circQ.contains e ∧ e.phase = .queued then
      injectStart s i c.1 e
    else s) s) s

/-- One round: frames leave, the next frames of both halves are presented, INJECTs start. -/
def circRound (s : State) (i : SetId) : State :=
  if !circulates s i then s
  else
    let s := injectAll s i
    let s := if circulates s i then clearBuf (sendAll s i) i else s
    let s := if circulates s i ∧ (circ s i).first.isNone then present s i 0 else s
    let s := if circulates s i ∧ (circ s i).first.isNone then present s i 1 else s
    if circulates s i then clearBuf s i else s

/-- `n` rounds. -/
def circRounds (i : SetId) : Nat → State → State
  | 0, s => s
  | n + 1, s => circRounds i n (circRound s i)

/-- Everything that can move moves: every frame in the buffer and every descriptor of the circulation queues has its round. -/
def circPump (s : State) (i : SetId) : State :=
  let n := (circ s i).buf.length + ((s.st i).cores.map fun c => c.2.circQ.length).foldl (· + ·) 0
  circRounds i (n + 1) s

/-- An INJECT or a TAKE of length 0 is a no-op (R73). -/
def emptyCirc (e : QEnt) : Bool :=
  match dtype e.raw with
  | some .inject => leAt e.raw 16 3 == 0
  | some .take => leAt e.raw 24 3 == 0
  | _ => false

/-- A circulation descriptor was issued: one of length 0 has made its writes; the others start as their frames come (R197, R198). -/
def circStart (s : State) (i : SetId) (k : Nat) (e : QEnt) : State :=
  circPump (if emptyCirc e then markDone s i k 3 e.id else s) i

/-- An issue event for the circulation queue. -/
def circIssue (t : DType) (ev : Issue) (s : State) : State :=
  match issueEvent t ev s with
  | (s, some e) => settle (circStart s ev.set ev.core.val e) ev.set
  | (s, none) => settle (circPump s ev.set) ev.set

/-- INJECT (R196, R197). -/
def execInject (ev : Issue) (s : State) : Out := .next (circIssue .inject ev s)

/-- TAKE (R198). -/
def execTake (ev : Issue) (s : State) : Out := .next (circIssue .take ev s)

/-! ## Arriving frames (R192, R195, R201) -/

/-- A TILE frame arrives: stale frames go without a report, the others are checked against the last TURN of their port, forwarded
and kept. -/
def tileArrives (s : State) (i : SetId) (p : Nat) (h : FHdr) (d : List Byte) (bad : List Nat) (via : Option Nat) : State :=
  match (cport s i p).last with
  | none => s
  | some t =>
    if h.epoch ≠ t.epoch then circFault s i .circSeq h
    else if h.rev ≠ t.rev then circFault s i .circRev h
    else if h.version ≠ t.ver then circFault s i .circVersion h
    else
      let fwd := if h.hops = 0 then [] else [(1 - p, h.hops - 1)]
      bufferFrame s i { h := h, data := d, bad := bad, fwd := fwd, here := true, todo := none, inj := none, via := via }

/-- The revolution that the next TURN of a port must carry (R201). -/
def nextRev (s : State) (i : SetId) (p : Nat) : Nat :=
  match (cport s i p).last, (circ s i).first with
  | some t, _ => t.rev + 1
  | none, some m => m
  | none, none =>
    match (circ s i).chg with
    | some c => if c.kind = 1 ∧ c.confirmed then c.s else s.fld i .CIRC_REV_REV
    | none => s.fld i .CIRC_REV_REV

/-- The unfold or promotion whose turn S this TURN is (R195). -/
def opensEpoch (s : State) (i : SetId) (h : FHdr) : Bool :=
  bit h.flags 1 && (match (circ s i).chg with
    | some c => c.confirmed && c.kind != 0 && c.s == h.rev
    | none => false)

/-- A TURN frame arrives in service. One that the place has handled already, on a restored link, must carry the version in force (R201).
-/
def turnArrives (s : State) (i : SetId) (p : Nat) (h : FHdr) : State :=
  let e := s.fld i .CIRC_STAT_EPOCH
  if laterEpoch e h.epoch then s
  else if h.epoch ≠ e ∧ !opensEpoch s i h then circFault s i .circSeq h
  else if h.rev ≠ nextRev s i p then circFault s i .circRev h
  else
    let s := s.setFld i .CIRC_STAT_EPOCH 0 h.epoch
    let t : Turn := { rev := h.rev, ver := h.version, epoch := h.epoch, switch := bit h.flags 1 }
    let late := (circ s i).first = none ∧ h.rev = s.fld i .CIRC_REV_REV
    if late ∧ h.version ≠ s.fld i .CIRC_REV_VERSION then circFault s i .circVersion h
    else onPort s i p fun c => { c with last := some t, turns := if late then c.turns else c.turns ++ [t] }

/-- A frame arrives on a circle port. Before service begins it waits; while a fold is in progress a TURN of a later epoch waits for
REFOLD with what follows it, and everything else is discarded (R195, R215). -/
def frameArrives (s : State) (i : SetId) (p : Nat) (raw : List Byte) (bad : List Nat) (via : Option Nat := none) : State :=
  let h := fhdr raw
  if (s.st i).lost ∨ s.fld i .CIRC_STAT_STATE = 5 ∨ promenade s i then s
  else if !hdrOk raw then circFault s i .circSeq h
  else if (circ s i).fold.isSome then
    let later := h.kind = 2 ∧ laterEpoch h.epoch (s.fld i .CIRC_STAT_EPOCH)
    if later ∧ bit h.flags 1 then circFault s i .circSeq h
    else if later ∨ !(cport s i p).held.isEmpty then onPort s i p fun c => { c with held := c.held ++ [(raw, bad)] }
    else s
  else if !(circ s i).up then onPort s i p fun c => { c with held := c.held ++ [(raw, bad)] }
  else if h.kind = 1 then tileArrives s i p h (slice raw 32 (32 * h.len)) bad via
  else if h.kind = 2 then turnArrives s i p h
  else s

/-- Frames that waited are looked at again. -/
def replayHeld (s : State) (i : SetId) : State :=
  [0, 1].foldl (fun s p =>
    let l := (cport s i p).held
    l.foldl (fun s f => frameArrives s i p f.1 f.2) (onPort s i p fun c => { c with held := [] })) s

/-- TILE_FRAME (R192, R193, R195, R198, R201). -/
def execTileFrame (i : SetId) (port : Fin 2) (frame : List Byte) (bad : List Nat) (s : State) : Out :=
  if leAt frame 0 1 = 2 then .next s
  else .next (settle (circPump (frameArrives s i port.val frame bad) i) i)

/-- TURN_FRAME (R192, R195, R201). -/
def execTurnFrame (i : SetId) (port : Fin 2) (frame : List Byte) (s : State) : Out :=
  if leAt frame 0 1 = 1 then .next s
  else .next (settle (circPump (frameArrives s i port.val frame []) i) i)

/-! ## Turns (R199, R200) -/

/-- turn(n) leaves by port p, with the HALF of the frames that leave there (log entry 90). -/
def sendTurn (s : State) (i : SetId) (p n : Nat) : State :=
  let h : FHdr := { kind := 2, flags := (1 - p) + 2 * bitOf (changeAt s i n).isSome, owner := myPlace s i, hops := 0, layer := 0, stage := 0, tile := 0
                    version := verAt s i n, epoch := epochAt s i n, rev := n, len := 0, piece := 0 }
  let s := s.emit .circFrame i.val [p] h.bytes
  onPort s i p fun c => { c with tx := n, txEpoch := h.epoch, sent := [] }

/-- An unconfirmed commit holds turn(n) (R204), and so does a promotion until the place has made it (R396). -/
def turnHeld (s : State) (i : SetId) (n : Nat) : Bool :=
  match (circ s i).chg with
  | some c => c.s ≤ n && (!c.confirmed || (c.kind == 2 && (circ s i).first.isNone))
  | none => false

/-- TURN_SEND (R199, R204): the port's next turn, once its place has handled the last one and every frame due on the port is sent.
-/
def execTurnSend (i : SetId) (port : Fin 2) (s : State) : Out :=
  let p := port.val
  let n := (cport s i p).tx + 1
  if circulates s i ∧ (circ s i).first = none ∧ s.fld i .CIRC_REV_REV + 1 = n ∧ (livePorts s i n).contains p ∧
      !turnHeld s i n ∧ (unsentKeys s i p).isEmpty then
    .next (settle (circPump (sendTurn s i p n) i) i)
  else .next s

/-- Every frame of the present revolution has been consumed here, and every own frame sent (R200). -/
def revolutionDone (s : State) (i : SetId) : Bool :=
  (mapTiles s i).all fun t => (circ s i).used.contains t.id &&
    (injector s i t.id != myPlace s i ||
      ((circ s i).injected.contains t.id && !((circ s i).buf.any fun f => f.inj.isSome && f.h.tileId == t.id && !f.fwd.isEmpty)))

/-- The revolution that the place handles next. -/
def turnDue (s : State) (i : SetId) : Nat := (circ s i).first.getD (s.fld i .CIRC_REV_REV + 1)

/-- turn(n) has come on every port that has a neighbour, and revolution n − 1 is over (R200). -/
def turnReady (s : State) (i : SetId) (n : Nat) : Bool :=
  ([0, 1].filter fun p => 0 < ahead s i (circ s i).line p).all (fun p => match (cport s i p).turns with
    | t :: _ => t.rev == n
    | [] => false) && ((circ s i).first.isSome || revolutionDone s i) && !turnHeld s i n

/-- The catalogue after a version switch: the other bank's entries come into force, and the old ones stay with the old bank
(R205). -/
def swapCat (c : CircUnit) : CircUnit :=
  let new (e : CatEnt) : Option CatEnt := c.other.find? fun x => x.piece = e.piece
  { c with
    cat := c.cat.map fun e => match new e with | some x => if bit e.flags 0 && e.version = c.seedVer && c.seedVer != c.startVer then e else x | none => e
    other := c.cat.filter fun e => (new e).isSome }

/-- A change takes effect (R205, R219, R396). -/
def applyChange (s : State) (i : SetId) (c : Change) : State :=
  let s := s.setFld i .CIRC_SWITCH_STAT_STATE 0 0
  let s := s.setFld i .CIRC_SWITCH_STAT_RESULT 0 1
  let s := onCirc s i fun u => { u with chg := none }
  match c.kind with
  | 0 =>
    onCirc (s.setFld i .CIRC_STAT_BANK 0 (1 - s.fld i .CIRC_STAT_BANK)) i swapCat
  | 1 =>
    let s := onCirc s i fun u => { u with line := [], cuts := [] }
    let s := s.setFld i .CIRC_STAT_STATE 0 (if (circ s i).seedling then 1 else 2)
    let s := s.setFld i .CIRC_STAT_END_A 0 0xFF
    let s := s.setFld i .CIRC_STAT_END_B 0 0xFF
    s.setFld i .CIRC_STAT_LEADER 0 0
  | _ =>
    let s := onCirc s i fun u => { u with seedling := false }
    showStage (s.setFld i .CIRC_STAT_STATE 0 (if (circ s i).line.isEmpty then 2 else 4))

/-- The tile map that a pruning left for the next turn (R423). -/
def adoptTmap (s : State) (i : SetId) : State :=
  match (s.st i).tmapNext with
  | some l => (onCirc s i fun c => { c with tmap := l.map tmapEnt }).onSet i fun t => { t with tmapNext := none }
  | none => s

/-- The place takes revolution n (R200): the step boundary falls due. -/
def takeTurn (s : State) (i : SetId) (n ver : Nat) : State :=
  let s := (s.setFld i .CIRC_REV_REV 0 n).setFld i .CIRC_REV_VERSION 0 ver
  let dead := [0, 1].filter fun p => ahead s i (circ s i).line p = 0
  let s := dead.foldl (fun s p => onPort s i p fun c => { c with tx := max c.tx n }) s
  let s := match changeAt s i n with
    | some c => applyChange s i c
    | none => s
  let s := onCirc (adoptTmap s i) i fun c => { c with
    first := none, injected := [], used := [], ports := c.ports.map fun e => (e.1, { e.2 with turns := e.2.turns.filter fun t => n < t.rev }) }
  onSu s i fun u => { u with due := true }

/-- TURN_HANDLE (R200, R201, R205): the next turn is handled, or its versions stop the circle. -/
def execTurnHandle (i : SetId) (s : State) : Out :=
  let n := turnDue s i
  if circulates s i ∧ turnReady s i n then
    let ts := [0, 1].filterMap fun p => (cport s i p).turns.find? fun t => t.rev = n
    let want := verAt s i n
    match ts.find? fun t => t.ver ≠ want with
    | some t =>
      let h : FHdr := { kind := 2, flags := 0, owner := myPlace s i, hops := 0, layer := 0, stage := 0, tile := 0, version := t.ver
                        epoch := t.epoch, rev := n, len := 0, piece := 0 }
      .next (settle (circFault s i .circVersion h) i)
    | none => .next (settle (circPump (takeTurn s i n want) i) i)
  else .next s

/-! ## Entering service (R199, R215, R395) -/

/-- The set enters service with revolution m: each port that has a neighbour first sends turn(m), and frames that waited are
looked at. -/
def enterService (s : State) (i : SetId) (m : Nat) : State :=
  let s := onCirc s i fun c => { c with up := true, first := some m, injected := [], used := [], buf := [] }
  let s := [0, 1].foldl (fun s p => onPort s i p fun c => { c with last := none, turns := [], tx := m, sent := [] }) s
  let s := (livePorts s i m).foldl (fun s p => sendTurn s i p m) s
  replayHeld s i

end Sys2Proof.Machine
end

