-- ==== Sys2Proof/Machine/Units.lean ====
section
/-! DEFINITION. The units start the descriptors of their queues and complete them (R65, R66): the request queue, what a descriptor does in
its unit once it is issued, and completion. -/

namespace Sys2Proof.Machine

/-! ## The request queue (R65, R318) -/

/-- A descriptor of the request queue starts. -/
def requestStart (s : State) (i : SetId) (k : Nat) (e : QEnt) : State :=
  match dtype e.raw with
  | some .send => sendStart s i k e
  | some .attn => attnStart s i k e
  | some .harvest => harvestStart s i k e
  | _ => s

/-- The request queue starts its descriptors in the order of issue, up to a SEND that waits behind another on its endpoint (R65, R318;
DEDUCED, log entry 94). -/
def requestPump (i : SetId) (k : Nat) : List QEnt → State → State
  | [], s => s
  | x :: q, s =>
    match (s.core i k).requestQ.find? fun e => e.id = x.id with
    | none => requestPump i k q s
    | some e =>
      if e.phase ≠ .queued then requestPump i k q s
      else if isSendOn (sendChan e.raw) e && sendHeld s i k e then s
      else requestPump i k q (requestStart s i k e)

/-- Start what can start in a core's request queue. -/
def requestGo (s : State) (i : SetId) (k : Nat) : State := requestPump i k (s.core i k).requestQ s

/-- An issue event for the request queue. -/
def requestIssue (t : DType) (ev : Issue) (s : State) : Out :=
  .next (settle (requestGo (issueEvent t ev s).1 ev.set ev.core.val) ev.set)

/-- SEND (R314). -/
def execSend (ev : Issue) (s : State) : Out := requestIssue .send ev s

/-- ATTN (R234). -/
def execAttn (ev : Issue) (s : State) : Out := requestIssue .attn ev s

/-- HARVEST (R284); `residue` names a harvest unit whose residue check fails while it works on it (R425). -/
def execHarvest (ev : Issue) (residue : Option (Fin 2)) (s : State) : Out :=
  let i := ev.set
  let k := ev.core.val
  match issueEvent .harvest ev s with
  | (s, none) => .next (settle s i)
  | (s, some e) =>
    let note : Nat := match residue with | some u => u.val + 1 | none => 0
    .next (settle (requestGo (onEnt s i k 4 e.id fun e => { e with waits := note }) i k) i)

/-- CHAN_ACK (R314): the SEND has been accepted. -/
def execChanAck (i : SetId) (core : CoreId) (chan : Fin 64) (s : State) : Out :=
  match sendOf s i core.val chan.val .running with
  | none => .next s
  | some e => .next (settle (requestGo (markDone s i core.val 4 e.id) i core.val) i)

/-- CHAN_NACK (R318): a resend is due after the back-off, or the SEND fails. -/
def execChanNack (i : SetId) (core : CoreId) (chan : Fin 64) (reason : Nat) (s : State) : Out :=
  let k := core.val
  let c := chan.val
  let x := chanIx k c
  match sendOf s i k c .running with
  | none => .next s
  | some e =>
    if reason = 4 ∨ e.tries = s.fld i .CHAN_TXk_c_0_RETRY x then .next (settle (requestGo (sendFail s i k c reason e) i k) i)
    else
      let s := s.setFld i .CHAN_TXk_c_1_LASTNACK x reason
      .next (onEnt s i k 4 e.id fun e => { e with phase := .backoff, tries := e.tries + 1 })

/-! ## Start and completion -/

/-- What the units do with a descriptor that has just entered its queue (R65). -/
def startEntry (s : State) (i : SetId) (k : Nat) (t : DType) (e : QEnt) : State :=
  match t with
  | .gemm | .conv | .graft => arrayIssued s i k e
  | .vec => vecStart s i k e
  | .move | .copy | .fill => memGo s i k
  | .inject | .take => circStart s i k e
  | .attn | .harvest | .send => requestGo s i k
  | .signal | .wait | .consume | .fence | .loop | .endloop => s

/-- The descriptor at a place of a queue that may complete: every write is made, and in the array queue it is the first. -/
def completable (s : State) (i : SetId) (k u pos : Nat) : Option QEnt :=
  match ((s.core i k).queue u)[pos]? with
  | some e => if e.phase = .done ∧ (u ≠ 0 ∨ pos = 0) then some e else none
  | none => none

/-- What follows in the units: descriptors and window writes that waited go on. -/
def afterComplete (s : State) (i : SetId) (k : Nat) : State := requestGo (heldWindows (memGo s i k) i) i k

/-- DESCRIPTOR_COMPLETE (R66): a descriptor whose writes can be read leaves its unit's queue, its scoreboard entries go and its
DONE counter is signalled. -/
def execDescriptorComplete (i : SetId) (core : CoreId) (unit : Fin 5) (pos : Nat) (s : State) : Out :=
  let k := core.val
  match completable s i k unit.val pos with
  | some e => .next (settle (afterComplete (complete s i k unit.val e) i k) i)
  | none => .next s

end Sys2Proof.Machine
end

