-- ==== Sys2Proof/Machine/Debug.lean ====
section
/-! DEFINITION. Debug holds and steps (16.6). -/

namespace Sys2Proof.Machine

/-- A hold on a slot begins (R449): in state 2, 3 or 5 it is held at once; in state 1 at its next issue event, in state 4 when its
WAIT is satisfied. -/
def holdSlot (s : State) (i : SetId) (k n : Nat) : State :=
  if holdOn s i k n then
    let st := slotState s i k n
    let s := s.setPfld .SEC_STAT_HOLD_SEEN 0 1
    if st = 2 ∨ st = 3 ∨ st = 5 then setSlotState s i k n 7 else s
  else s

/-- A held slot returns to the state it would otherwise hold (R450): it waits in its FENCE, or it repeats its issue. -/
def releaseSlot (s : State) (i : SetId) (k n : Nat) : State :=
  if slotState s i k n = 7 then setSlotState s i k n (if (s.slot i k n).fence.isSome then 5 else 1) else s

/-- HOLD of CORE_DBG takes a value. -/
def writeHold (s : State) (i : SetId) (k v : Nat) : State :=
  let old := s.fld i .CORE_DBG_HOLD k
  let s := s.setFld i .CORE_DBG_HOLD k v
  (List.range 8).foldl (fun s n =>
    if bit v n then holdSlot s i k n else if bit old n then releaseSlot s i k n else s) s

/-- A held slot issues one descriptor, which starts in its unit as any other, and is held again, with its TAG in LAST_TAG (R450). A slot
that waits in a FENCE finishes it when it may; one that has nothing fetched, or whose descriptor cannot issue yet, stays as it is. -/
def stepSlot (s : State) (i : SetId) (k n : Nat) : State :=
  if slotState s i k n ≠ 7 then s
  else
    let back (s : State) : State := if slotState s i k n = 6 ∨ slotState s i k n = 0 ∨ slotState s i k n = 4 then s else setSlotState s i k n 7
    let tagged (s : State) (d : List Byte) : State := s.setFld i .CORE_DBG_LAST_TAG k (dTag d)
    if (s.slot i k n).fence.isSome then
      match (s.slot i k n).cur with
      | some (_, d) =>
        let t := recheckSlot (setSlotState s i k n 5) i k n
        if (t.slot i k n).fence.isSome then s else back (tagged t d)
      | none => s
    else match (s.slot i k n).prefetch with
      | [] => s
      | (pc, d) :: _ =>
        match dtype d with
        | none => haltSlot s i k n .desc pc (dTag d)
        | some t =>
          match issueCheck (setSlotState s i k n 1) i k n ((setSlotState s i k n 1).fld i .CORE_SLOTn_PC_JOB (slotIx k n)) t d with
          | .waits _ => s
          | _ =>
            match issueFrom (setSlotState s i k n 1) i k n pc t d with
            | (s, some e) => startEntry (back (tagged s d)) i k t e
            | (s, none) => back (tagged s d)

/-- STEP of CORE_DBG is written. -/
def writeStep (s : State) (i : SetId) (k v : Nat) : State :=
  (List.range 8).foldl (fun s n => if bit v n then stepSlot s i k n else s) s

/-- The set takes writes of CORE_DBG (R462): it is in service. -/
def debugOpen (s : State) (i : SetId) : Bool := (s.st i).locked && !(s.st i).lost

/-- DEBUG_HOLD (R449): HOLD bits are set. -/
def execDebugHold (i : SetId) (core : CoreId) (slots : Fin 256) (s : State) : Out :=
  let k := core.val
  .next (if debugOpen s i then settle (writeHold s i k (s.fld i .CORE_DBG_HOLD k ||| slots.val)) i else s)

/-- DEBUG_RELEASE (R450): HOLD bits are cleared. -/
def execDebugRelease (i : SetId) (core : CoreId) (slots : Fin 256) (s : State) : Out :=
  let k := core.val
  let old := s.fld i .CORE_DBG_HOLD k
  .next (if debugOpen s i then settle (writeHold s i k (old - (old &&& slots.val))) i else s)

/-- DEBUG_STEP (R450). -/
def execDebugStep (i : SetId) (core : CoreId) (slots : Fin 256) (s : State) : Out :=
  .next (if debugOpen s i then settle (writeStep s i core.val slots.val) i else s)

end Sys2Proof.Machine
end

