-- ==== Sys2Proof/Machine/Switch.lean ====
section
/-! DEFINITION. Scheduled changes: version switches and unfolds (7.5). -/

namespace Sys2Proof.Machine

/-- The places in service, in ascending order along the circle or line. -/
def livePlaces (s : State) (i : SetId) : List Nat :=
  if (circ s i).line.isEmpty then List.range (places s i) else (circ s i).line

/-- The leader: the lowest-numbered place in service (7.5). -/
def leaderOf (s : State) (i : SetId) : Nat := (livePlaces s i).foldl min 255

/-- This place is the leader. -/
def isLeader (s : State) (i : SetId) : Bool := leaderOf s i == myPlace s i

/-- A control-plane message to every other place in service. -/
def toOthers (s : State) (i : SetId) (code : Nat) (args : List Nat) : State :=
  ((livePlaces s i).filter (· != myPlace s i)).foldl (fun s q => s.emit .circCtl i.val (code :: q :: args)) s

/-- The key of a piece of a version. -/
def pieceKey (e : CatEnt) : Nat := e.piece + 2 ^ 32 * e.version

/-- The load state of a piece. -/
def pieceSt (s : State) (i : SetId) (e : CatEnt) : PieceSt := SMap.get {} (circ s i).load (pieceKey e)

/-- The set holds the piece: as owner or partner in HBM; a TIER piece as the tier reader, which digests it (R203, R212). -/
def holds (s : State) (i : SetId) (e : CatEnt) : Bool :=
  if bit e.flags 1 then e.owner == myPlace s i && s.fld i .CIRC_AUX_TIER_EN == 1 else (e.at_ (myPlace s i)).isSome

/-- The place is ready for the change (R203): every piece of the new version that it holds is digested clean; for an unfold, the
link at its end of the break has retrained. -/
def readyFor (s : State) (i : SetId) (kind ver : Nat) : Bool :=
  if kind = 1 then
    [0, 1].all fun p => !(ahead s i (circ s i).line p == 0) || portActive s i (physPort s i (wayPort s i p))
  else
    (circ s i).other.any (fun e => e.version == ver) &&
      (circ s i).other.all fun e => e.version != ver || !holds s i e || (pieceSt s i e).clean

/-- RESULT of the latest request. -/
def setResult (s : State) (i : SetId) (r : Nat) : State := s.setFld i .CIRC_SWITCH_STAT_RESULT 0 r

/-- The place holds a change for S, unconfirmed (R204, Table 7-12). -/
def holdChange (s : State) (i : SetId) (c : Change) : State :=
  let s := onCirc s i fun u => { u with chg := some c }
  let s := s.setFld i .CIRC_SWITCH_STAT_STATE 0 1
  let s := setResult s i 0
  showStage (s.setFld i .CIRC_SWITCH_STAT_TARGET 0 c.s)

/-- The place's change is confirmed (R205). -/
def confirmChange (s : State) (i : SetId) : State :=
  match (circ s i).chg with
  | some c => (onCirc s i fun u => { u with chg := some { c with confirmed := true } }).setFld i .CIRC_SWITCH_STAT_STATE 0 2
  | none => s

/-- The place drops its change with RESULT 2 (R204, R206). -/
def dropChange (s : State) (i : SetId) : State :=
  match (circ s i).chg with
  | some _ => showStage (setResult ((onCirc s i fun u => { u with chg := none }).setFld i .CIRC_SWITCH_STAT_STATE 0 0) i 2)
  | none => s

/-- Every place in service is in the list. -/
def allIn (s : State) (i : SetId) (l : List Nat) : Bool := (livePlaces s i).all l.contains

/-- Every acknowledgement has come: CONFIRM (R204). -/
def tryConfirm (s : State) (i : SetId) : State :=
  match (circ s i).req, (circ s i).chg with
  | some r, some c =>
    if !c.confirmed ∧ allIn s i r.acks then
      confirmChange (onCirc (toOthers s i 10 []) i fun u => { u with req := none }) i
    else s
  | _, _ => s

/-- Every place is ready: the leader commits for S = CIRC_REV + 3 (R204). -/
def tryCommit (s : State) (i : SetId) : State :=
  match (circ s i).req with
  | some r =>
    let ready := if readyFor s i r.kind r.ver ∨ r.kind = 2 then myPlace s i :: r.ready else r.ready
    if (circ s i).chg.isNone ∧ allIn s i ready then
      let c : Change := { kind := r.kind, ver := r.ver, s := s.fld i .CIRC_REV_REV + 3
                          ep := (s.fld i .CIRC_STAT_EPOCH + 1) % 65536, confirmed := false }
      let s := toOthers (holdChange s i c) i 8 [c.kind, c.ver, c.s, c.ep]
      tryConfirm (onCirc s i fun u => { u with req := some { r with acks := [myPlace s i] } }) i
    else s
  | none => s

/-- A request reaches the leader (R203): busy, refused, or every place is asked. -/
def requestChange (s : State) (i : SetId) (kind ver : Nat) : State :=
  if (circ s i).chg.isSome ∨ (circ s i).req.isSome then setResult s i 4
  else if kind = 1 ∧ ((circ s i).line.isEmpty ∨ !(circ s i).gone.isEmpty) then setResult s i 5
  else
    let s := onCirc (setResult s i 0) i fun u => { u with req := some { kind := kind, ver := ver, ready := [], acks := [] } }
    tryCommit (toOthers s i 6 [kind, ver]) i

/-- The place takes part in changes: it is in service and not folding. -/
def mayChange (s : State) (i : SetId) : Bool :=
  (circ s i).up && (circ s i).fold.isNone && s.fld i .CIRC_STAT_STATE != 5 && !(s.st i).lost

/-- A write to CIRC_SWITCH with GO (R203): the request goes to the leader. -/
def writeSwitch (s : State) (i : SetId) (ver : Nat) (unfold go : Bool) : State :=
  if !go ∨ !mayChange s i then s
  else
    let kind := bitOf unfold
    if isLeader s i then requestChange s i kind ver
    else s.emit .circCtl i.val [5, leaderOf s i, kind, ver]

/-- CIRC_SWITCH (R203). -/
def execCircSwitch (i : SetId) (ver : Nat) (unfold go : Bool) (s : State) : Out := .next (settle (writeSwitch s i ver unfold go) i)

/-- CHANGE_REQUEST (R203): at the leader. -/
def execChangeRequest (i : SetId) (unfold : Bool) (ver : Nat) (s : State) : Out :=
  .next (if mayChange s i ∧ isLeader s i then requestChange s i (bitOf unfold) ver else s)

/-- READINESS_QUERY (R203): the place answers the leader. -/
def execReadinessQuery (i : SetId) (unfold : Bool) (ver : Nat) (s : State) : Out :=
  .next (if mayChange s i then s.emit .circCtl i.val [7, leaderOf s i, myPlace s i, bitOf (readyFor s i (bitOf unfold) ver)] else s)

/-- READINESS_REPLY (R204): a place is ready, or not yet. -/
def execReadinessReply (i : SetId) (place : Nat) (ready : Bool) (s : State) : Out :=
  .next (if ready ∧ (circ s i).req.isSome ∧ (circ s i).chg.isNone then
      tryCommit (onCirc s i fun u => { u with req := u.req.map fun r => { r with ready := place :: r.ready } }) i
    else s)

/-- READINESS_TIMEOUT (R203): a place was not ready within 1 ms. -/
def execReadinessTimeout (i : SetId) (s : State) : Out :=
  .next (if (circ s i).req.isSome ∧ (circ s i).chg.isNone then setResult (onCirc s i fun u => { u with req := none }) i 3 else s)

/-- COMMIT_NOTICE (R204): the place holds the commit and acknowledges. -/
def execCommitNotice (i : SetId) (kind : Fin 3) (ver : Nat) (target : Nat) (epoch : Nat) (s : State) : Out :=
  .next (if mayChange s i then
      (holdChange s i { kind := kind.val, ver := ver % 65536, s := target, ep := epoch % 65536, confirmed := false }).emit .circCtl i.val
        [9, leaderOf s i, myPlace s i]
    else s)

/-- COMMIT_ACK (R204). -/
def execCommitAck (i : SetId) (place : Nat) (s : State) : Out :=
  .next (settle (circPump (tryConfirm (onCirc s i fun u => { u with req := u.req.map fun r => { r with acks := place :: r.acks } }) i) i) i)

/-- COMMIT_ACK_TIMEOUT (R204): ABORT. -/
def execCommitAckTimeout (i : SetId) (s : State) : Out :=
  .next (match (circ s i).req, (circ s i).chg with
    | some _, some c =>
      if c.confirmed then s
      else settle (circPump (dropChange (onCirc (toOthers s i 11 []) i fun u => { u with req := none }) i) i) i
    | _, _ => s)

/-- CONFIRM (R205): a held turn(S) may leave. -/
def execConfirm (i : SetId) (s : State) : Out := .next (settle (circPump (confirmChange s i) i) i)

/-- ABORT (R204): an unconfirmed commit is dropped. -/
def execAbort (i : SetId) (s : State) : Out :=
  .next (match (circ s i).chg with
    | some c => if c.confirmed then s else settle (circPump (dropChange s i) i) i
    | none => s)

end Sys2Proof.Machine
end

