-- ==== Sys2Proof/Machine/Fold.lean ====
section
/-! DEFINITION. Folding: notices, acknowledgements, REFOLD, and the restart of the circulation job (7.10, R222, R428). -/

namespace Sys2Proof.Machine

/-! ## Topology -/

/-- Circle link j, between places j and j + 1, carries nothing: it is cut, or it ends at a lost place. -/
def linkOut (n : Nat) (cuts gone : List Nat) (j : Nat) : Bool := cuts.contains j || gone.contains j || gone.contains ((j + 1) % n)

/-- The places from p on, sunwise, up to the next link that is out. -/
def runFrom (n : Nat) (cuts gone : List Nat) : Nat → Nat → List Nat
  | 0, _ => []
  | f + 1, p => p :: (if linkOut n cuts gone p then [] else runFrom n cuts gone f ((p + 1) % n))

/-- The surviving segments; none when the ring is whole. -/
def segments (n : Nat) (cuts gone : List Nat) : List (List Nat) :=
  ((List.range n).filter fun p => !gone.contains p && linkOut n cuts gone ((p + n - 1) % n)).map fun p => runFrom n cuts gone n p

/-- The line of the survivors: empty for a whole ring; none when it is split (R218). -/
def lineOf (n : Nat) (cuts gone : List Nat) : Option (List Nat) :=
  match segments n cuts gone with
  | [] => some []
  | [l] => some l
  | _ => none

/-- The place is its circle's tier reader. -/
def tierReaderAt (s : State) (i : SetId) (q : Nat) : Bool := (circ s i).tierReader == s.fld i .CIRC_CFG_CIRCLE * 256 + q

/-- The places that stand in for a lost one (R23, R213, R218): the backup tier reader for the tiles of TIER pieces of a tier reader, its
partner for the others. -/
def standInOf (s : State) (i : SetId) (q : Nat) : List StandIn :=
  let c := circ s i
  let n := places s i
  let tier := c.tierTiles.filter fun t => t.2.2.1 = q
  let all := !tier.isEmpty && ((mapTiles s i).filter fun t => t.id.2.2.1 = q).all fun t => tier.contains t.id
  (if tier.isEmpty then [] else [{ lost := q, by_ := c.backup % 256, tiles := tier }]) ++
    if all then [] else [{ lost := q, by_ := (q + n / 2) % n, tiles := [] }]

/-- A set of the circle is in service under a loss. -/
def serves (n : Nat) (gone : List Nat) (q : Nat) : Bool := q < n && !gone.contains q

/-- The circle's backup tier reader is in service. -/
def backupServes (s : State) (i : SetId) (gone : List Nat) : Bool :=
  (circ s i).backup / 256 == s.fld i .CIRC_CFG_CIRCLE && serves (places s i) gone ((circ s i).backup % 256)

/-- Every piece has a holder in service (R218, R428): its owner, unless the owner asks for a stand-in; else its partner, or for a TIER
piece the backup tier reader. A lost tier reader has a backup. -/
def piecesServed (s : State) (i : SetId) (gone : List Nat) (stand : List StandIn) : Bool :=
  let c := circ s i
  let n := places s i
  (gone.all fun q => !tierReaderAt s i q || backupServes s i gone) && c.cat.all fun e =>
    (serves n gone e.owner && !(stand.any fun x => x.lost = e.owner)) ||
      (if bit e.flags 1 then backupServes s i gone else e.partner != 0xFF && serves n gone e.partner)

/-! ## Notices (R214, R215) -/

/-- The first list with what the second adds. -/
def union (a b : List Nat) : List Nat := a ++ b.filter fun x => !a.contains x

/-- What the place knows of losses, with those of a notice added. -/
def addLoss (s : State) (i : SetId) (l : FoldLoss) : FoldLoss :=
  let c := circ s i
  match c.fold with
  | some f => { cuts := union f.cuts l.cuts, gone := union f.gone l.gone, stand := f.stand ++ l.stand.filter fun x => !f.stand.contains x }
  | none => { cuts := union c.cuts l.cuts, gone := union c.gone l.gone, stand := c.stand.filter (fun x => !x.tiles.isEmpty && !l.stand.contains x) ++ l.stand }

/-- The circle may fold for this loss (R214). -/
def mayFold (s : State) (i : SetId) (l : FoldLoss) : Bool :=
  s.fld i .CIRC_CFG_FOLD_OK == 1 && ((l.gone.all (circ s i).gone.contains && l.stand.isEmpty) || s.fld i .CIRC_CFG_DOUBLE == 1)

/-- The survivors' leader under a loss. -/
def foldLeader (s : State) (i : SetId) (gone : List Nat) : Nat := ((List.range (places s i)).filter fun q => !gone.contains q).foldl min 255

/-- Changes under way at a fold (R206): an unconfirmed change and a confirmed unfold are aborted, a confirmed version switch
survives. -/
def foldChange (s : State) (i : SetId) : State :=
  let s := match (circ s i).req with
    | some _ => setResult (onCirc s i fun u => { u with req := none }) i 2
    | none => s
  match (circ s i).chg with
  | some c => if c.confirmed ∧ c.kind = 0 then s else dropChange s i
  | none => s

/-- Passes in flight are discarded and repeated (R222): their sessions are ready again, and what the passes appended is void. -/
def dropPasses (s : State) (i : SetId) : State :=
  let ns := (s.st i).su.passes.flatMap (·.slots)
  let s := ns.foldl (fun s n => onSess (unreserve s i n) i n fun q => { q with inFlight := false, again := q.ph == .decode }) s
  onSu s i fun u => { u with passes := [], apps := [], owe := false }

/-- The place leaves service for a fold (R215 step 1): nothing is injected or taken, the step and every buffered frame are
discarded. A step that the boundary has already committed stands, and the boundary goes on after the fold (R28). -/
def leaveService (s : State) (i : SetId) : State :=
  let s := foldChange s i
  let s := if (s.st i).su.five then s else discardStep s i
  let s := onCirc s i fun c => { c with buf := [], ports := c.ports.map fun e => (e.1, { e.2 with last := none, turns := [], held := [] }) }
  let s := onSu s i fun u => { u with due := false, gather := false }
  let s := if promenade s i then dropPasses s i else s
  s.setFld i .CIRC_STAT_STATE 0 3

/-- Stand-ins as a notice or REFOLD carries them: lost place, the place that stands in, how many tiles it names (0: all), and those.
-/
def standWords (l : List StandIn) : List Nat :=
  l.length :: l.flatMap fun x => [x.lost, x.by_, x.tiles.length] ++ x.tiles.flatMap fun t => [t.1, t.2.1, t.2.2.1, t.2.2.2]

/-- A fold notice goes out of the ports along the surviving line but the one it came by. -/
def passNotice (s : State) (i : SetId) (from_ : Option Nat) (epoch : Nat) (l : FoldLoss) : State :=
  let n := places s i
  let q := myPlace s i
  let out (p : Nat) : Bool := linkOut n l.cuts l.gone (if p = 1 then q else (q + n - 1) % n)
  (([0, 1].filter fun p => !out p && from_ != some p)).foldl (fun s p =>
    s.emit .circCtl i.val ([2, p, epoch, l.cuts.length, l.gone.length] ++ l.cuts ++ l.gone ++ standWords l.stand)) s

/-- The acknowledgement, to the leader, or kept by the leader itself (R215 step 2). -/
def ackFold (s : State) (i : SetId) (epoch : Nat) (l : FoldLoss) : State :=
  let q := myPlace s i
  let lead := foldLeader s i l.gone
  if lead = q then onCirc s i fun u => { u with fold := u.fold.map fun f => { f with acks := (q, s.fld i .CIRC_REV_REV) :: f.acks } }
  else
    let c := match (circ s i).chg with | some c => [c.kind, c.ver, c.s, bitOf c.confirmed] | none => []
    s.emit .circCtl i.val ([3, lead, epoch, s.fld i .CIRC_REV_REV, q] ++ c)

/-! ## REFOLD (R215 steps 3 to 5, R218) -/

/-- Slots leave the waiter queues of a job's counters; host waits stay. -/
def dropSlotWaits (s : State) (i : SetId) (j : Nat) : State :=
  (jobCtrs s i j).foldl (fun s p =>
    let q := SMap.get [] (s.st i).waiters p
    if q.isEmpty then s else setWaiters s i p (q.filter fun w => match w with | .slot .. => false | _ => true)) s

/-- The circulation job restarts (R215 step 4, R306, R317, R450): descriptors in its queues go, its counters take their initial
values, its endpoints are emptied and open again, holds of its slots are cleared, its slots start. -/
def restartJob (s : State) (i : SetId) : State :=
  let j := s.fld i .CIRC_CFG_JOB
  if s.fld i .MEM_JOBj_STATE j ≠ 1 then s
  else
    let s := (List.range 80).foldl (fun s k => discardJob s i k j) s
    let s := dropHolds s i j
    let s := dropSlotWaits s i j
    let s := s.onSet i fun t => { t with doneDue := t.doneDue.filter fun e => e.job != j }
    let s := initCtrs s i j
    let s := startSlots (resetHeaders (restartSeq (openChans s i j) i j) i j) i j
    (jobCtrs s i j).foldl (fun s p => if (SMap.get [] (s.st i).waiters p).isEmpty then s else serve s i p) s

/-- STATE after a fold (Table 7-10). -/
def foldedState (prev : Nat) (line : List Nat) (seedling : Bool) : Nat :=
  if prev = 0 then 0 else if line.isEmpty then (if seedling then 1 else 2) else 4

/-- What REFOLD says takes hold at the place. -/
def takeFold (s : State) (i : SetId) (epoch : Nat) (line : List Nat) (l : FoldLoss) : State :=
  let q := myPlace s i
  let prev := match (circ s i).fold with | some f => f.prev | none => s.fld i .CIRC_STAT_STATE
  let lead := if line.isEmpty then 0 else line.foldl min 255
  let s := onCirc s i fun c => { c with line := line, cuts := l.cuts, gone := l.gone, stand := l.stand, fold := none }
  let s := s.setFld i .CIRC_STAT_EPOCH 0 epoch
  let s := s.setFld i .CIRC_STAT_LEADER 0 lead
  let s := s.setFld i .CIRC_STAT_STANDIN 0 (bitOf (l.stand.any fun x => x.by_ = q))
  let s := s.setFld i .CIRC_STAT_END_A 0 (line.head?.getD 0xFF)
  let s := s.setFld i .CIRC_STAT_END_B 0 (line.getLast?.getD 0xFF)
  s.setFld i .CIRC_STAT_STATE 0 (foldedState prev line (circ s i).seedling)

/-- The place is to stand in for one whose piece it holds on a fenced stack (Table 15-7: a later fault at the owner). -/
def copyLost (s : State) (i : SetId) (l : FoldLoss) : Bool :=
  l.stand.any fun x => x.by_ == myPlace s i && x.tiles.isEmpty && (circ s i).cat.any fun e =>
    !bit e.flags 1 && e.owner == x.lost && e.partner == myPlace s i &&
      (onFenced s i (inBank s i e.paddr) || onFenced s i (inBank s i e.paddr + 32 * e.len - 1))

/-- The place refolds (R215, R217, R222). While it was loading, it goes on loading. -/
def refold (s : State) (i : SetId) (epoch m : Nat) (line : List Nat) (l : FoldLoss) : State :=
  let lostOne := l.gone.any fun q => !(circ s i).gone.contains q
  let s := takeFold s i epoch line l
  if copyLost s i l then stopCircle s i
  else if !(circ s i).up then s
  else if promenade s i then
    let s := restartJob s i
    if lostOne then endSessions s i (fun _ => true) FC.setLost.num 6 else s
  else enterService (restartJob s i) i m

/-- REFOLD goes to every other survivor: the epoch, the resume revolution, the line, the stand-ins (R215 step 3). -/
def sendRefold (s : State) (i : SetId) (epoch m : Nat) (line : List Nat) (stand : List StandIn) : State :=
  let who := if line.isEmpty then List.range (places s i) else line
  (who.filter (· != myPlace s i)).foldl (fun s q =>
    s.emit .circCtl i.val ([4, q, epoch, m, line.length] ++ line ++ standWords stand)) s

/-- At the leader: every survivor has acknowledged (R215 step 3). -/
def tryRefold (s : State) (i : SetId) : State :=
  match (circ s i).fold with
  | none => s
  | some f =>
    match lineOf (places s i) f.cuts f.gone with
    | none => s
    | some line =>
      let who := if line.isEmpty then List.range (places s i) else line
      if foldLeader s i f.gone = myPlace s i ∧ who.all (fun q => f.acks.any fun a => a.1 = q) then
        let m := (f.acks.map (·.2)).foldl max 0 + 1
        let stand := f.stand ++ f.gone.flatMap (standInOf s i)
        let l : FoldLoss := { cuts := f.cuts, gone := f.gone, stand := stand }
        if !piecesServed s i f.gone f.stand ∨ stand.any (fun x => !serves (places s i) f.gone x.by_) then
          stopCircle (onCirc s i fun c => { c with line := line, fold := none }) i
        else
          let s := report s i { FC.circFold.fr with die := linkDie i, detail := f.epoch }
          refold (sendRefold s i f.epoch m line stand) i f.epoch m line l
      else s

/-- Barriers with a node at a lost place break (R310). -/
def breakLost (s : State) (i : SetId) (q : Nat) : State :=
  let at_ := s.fld i .CIRC_CFG_CIRCLE * 256 + q
  (fieldIndices (s.st i).regs .SYNC_BNODEi_0_VALID).foldl (fun s x =>
    if ((s.fld i .SYNC_BNODEi_0_ROOT x = 0 ∧ s.fld i .SYNC_BNODEi_0_PARENT x = at_) ∨
        (SMap.get [] (s.st i).known x).any (fun c => c.1 == at_)) then
      breakNode s i x (s.fld i .SYNC_BNODEi_0_CTR x) none
    else s) s

/-- The location and set index of a place, as its port table gave them (R340). -/
def placeLoc (s : State) (i : SetId) (q : Nat) : Option Nat := (SMap.get none (circ s i).tables q).map (·.1)

/-- A place is known to be lost: barriers break, and the leader raises F_PKG_LOST when the other set of the package was lost
less than 100 µs before (R431). -/
def notedGone (s : State) (i : SetId) (q : Nat) : State :=
  let s := breakLost s i q
  let now := s.time i
  let both := (circ s i).goneAt.any fun e => now ≤ e.2 + 100000 && e.1 != q &&
    (match placeLoc s i e.1, placeLoc s i q with | some a, some b => a % 2 ^ 18 == b % 2 ^ 18 | _, _ => false)
  let s := onCirc s i fun c => { c with goneAt := c.goneAt ++ [(q, now)] }
  if both ∧ foldLeader s i (q :: (circ s i).gone ++ (circ s i).goneAt.map (·.1)) = myPlace s i then report s i { FC.pkgLost.fr with die := linkDie i, detail := q } else s

/-- The fold reserve lies on a fenced stack: the circle cannot fold into a line (Table 15-7). -/
def reserveLost (s : State) (i : SetId) : Bool := (circ s i).reserve.2 != 0 && onFenced s i (circ s i).reserve.1

/-- No line can serve after the loss: the survivors are split (R218), or the fold reserve is lost. -/
def noLine (s : State) (i : SetId) (cuts gone : List Nat) : Bool :=
  match lineOf (places s i) cuts gone with
  | none => true
  | some line => !line.isEmpty && reserveLost s i

/-- A fold of an epoch at this place (R214, R215): it leaves service at the first notice of the epoch, passes the notice on,
acknowledges; further losses of the epoch are added. A circle that may not fold, or is split, stops. In a stopped circle only barriers with
a node at a lost place break (R310). -/
def foldNotice (s : State) (i : SetId) (from_ : Option Nat) (epoch : Nat) (l : FoldLoss) : State :=
  if (s.st i).lost then s
  else if s.fld i .CIRC_STAT_STATE = 5 then (l.gone.filter fun q => !((circ s i).goneAt.any fun e => e.1 == q)).foldl (fun s q => notedGone s i q) s
  else
    let all := addLoss s i l
    let new (e : Nat) : Bool := laterEpoch epoch e
    let first := match (circ s i).fold with | some f => new f.epoch | none => new (s.fld i .CIRC_STAT_EPOCH)
    let same := match (circ s i).fold with
      | some f => f.epoch = epoch ∧ (all.cuts.length ≠ f.cuts.length ∨ all.gone.length ≠ f.gone.length ∨ all.stand.length ≠ f.stand.length)
      | none => False
    let s := (l.gone.filter fun q => !((circ s i).goneAt.any fun e => e.1 == q)).foldl (fun s q => notedGone s i q) s
    if !first ∧ !same then s
    else if !mayFold s i all ∨ noLine s i all.cuts all.gone then stopCircle s i
    else
      let prev := match (circ s i).fold with | some f => f.prev | none => s.fld i .CIRC_STAT_STATE
      let acks := match (circ s i).fold with | some f => if first then [] else f.acks | none => []
      let s := if (circ s i).fold.isNone then leaveService s i else s
      let s := onCirc s i fun c => { c with fold := some { epoch := epoch, cuts := all.cuts, gone := all.gone, stand := all.stand, prev := prev, acks := acks } }
      let s := passNotice s i from_ epoch all
      tryRefold (if first then ackFold s i epoch all else s) i

/-- A loss that this place detects itself (R214, R428): the first notice of a new epoch, or an addition to the fold in progress. -/
def beginFold (s : State) (i : SetId) (l : FoldLoss) : State :=
  match (circ s i).fold with
  | some f => foldNotice s i none f.epoch l
  | none => foldNotice s i none ((s.fld i .CIRC_STAT_EPOCH + 1) % 65536) l

/-- FOLD_NOTICE (R215). -/
def execFoldNotice (i : SetId) (port : Fin 2) (epoch : Nat) (loss : FoldLoss) (s : State) : Out :=
  .next (settle (foldNotice s i (some port.val) (epoch % 65536) loss) i)

/-- FOLD_ACK (R215): at the leader. -/
def execFoldAck (i : SetId) (place rev epoch : Nat) (s : State) : Out :=
  .next (match (circ s i).fold with
    | some f =>
      if f.epoch = epoch then
        settle (tryRefold (onCirc s i fun u => { u with fold := some { f with acks := (place, rev) :: f.acks } }) i) i
      else s
    | none => s)

/-- REFOLD (R215): at a place that has acknowledged the fold of this epoch, or that has not started yet, whose circle starts under a
degraded plan (R340). -/
def execRefold (i : SetId) (epoch m : Nat) (line : List Nat) (loss : FoldLoss) (s : State) : Out :=
  .next (match (circ s i).fold with
    | some f => if f.epoch = epoch then settle (circPump (refold s i epoch m line loss) i) i else s
    | none => if (circ s i).up ∨ s.fld i .CIRC_STAT_STATE ≠ 0 ∨ (s.st i).lost then s else refold s i epoch m line loss)

end Sys2Proof.Machine
end

