-- ==== Sys2Proof/Machine/Load.lean ====
section
/-! DEFINITION. Loading, weeding, repair, the slower tier and resident pieces (7.6 to 7.8, 7.11). -/

namespace Sys2Proof.Machine

/-! ## Loads (R207 to R209) -/

/-- The set holds the piece as owner or partner, in HBM; TIER pieces stay in host memory. -/
def loads (s : State) (i : SetId) (e : CatEnt) : Bool := (e.at_ (myPlace s i)).isSome && !bit e.flags 1

/-- The (circle, place) of the set as the card names readers. -/
def isReader (s : State) (i : SetId) : Bool := (circ s i).reader == s.place i

/-- Change a piece's load state. -/
def onPiece (s : State) (i : SetId) (e : CatEnt) (f : PieceSt → PieceSt) : State :=
  onCirc s i fun c => { c with load := SMap.upd {} c.load (pieceKey e) f }

/-- CIRC_LOAD follows the pieces of the load (Table 7-13). -/
def showLoad (s : State) (i : SetId) (l : List CatEnt) : State :=
  let held := l.filter (loads s i)
  let done := held.filter fun e => (pieceSt s i e).clean
  let s := s.setFld i .CIRC_LOAD_PIECES 0 held.length
  let s := s.setFld i .CIRC_LOAD_DONE 0 done.length
  s.setFld i .CIRC_LOAD_ACTIVE 0 (bitOf (done.length < held.length))

/-- Catalogue order with pieces flagged SEEDLING first (R207). -/
def fetchOrder (l : List CatEnt) : List (Nat × Nat) :=
  ((l.filter fun e => bit e.flags 0) ++ l.filter fun e => !bit e.flags 0).map fun e => (e.piece, e.version)

/-- The shard (owner, version) of a piece that the set knows. -/
def shardOf (s : State) (i : SetId) (piece ver : Nat) : Option (Nat × Nat) :=
  (((circ s i).cat ++ (circ s i).other).find? fun e => e.piece == piece && e.version == ver).map fun e => (e.owner, e.version)

/-- The announcement of the next piece's shard, before the reader fetches it (R207). -/
def announceNext (s : State) (i : SetId) : State :=
  match (circ s i).fetch with
  | [] => s
  | (p, v) :: _ => match shardOf s i p v with
    | none => s
    | some h =>
      if (circ s i).told.contains h then s
      else onCirc (s.emit .circCtl i.val [13, h.1, h.2]) i fun c => { c with
        told := c.told ++ [h], announced := if c.announced.contains h then c.announced else c.announced ++ [h] }

/-- A load of some entries begins; the reader has them to fetch. -/
def beginLoad (s : State) (i : SetId) (l : List CatEnt) : State :=
  let s := l.foldl (fun s e => onPiece s i e fun _ => {}) s
  let s := onCirc s i fun c => { c with
    announced := [], told := [], tierSeen := [], fetch := if isReader s i then fetchOrder (l.filter fun e => !bit e.flags 1) else c.fetch }
  let s := s.setFld i .CIRC_LOAD_RETRIES 0 0
  let s := s.setFld i .CIRC_LOAD_MISSING 0 0
  announceNext (showLoad s i l) i

/-- The entries of the load in progress: of the supplement once there is one, else of the card. -/
def loadList (s : State) (i : SetId) : List CatEnt := if (circ s i).up ∧ !(circ s i).other.isEmpty then (circ s i).other else (circ s i).cat

/-- The entry of a piece and version, and the bank it is loaded into: a supplement's goes into the bank not in service (R208). -/
def loadEntry (s : State) (i : SetId) (piece ver : Nat) : Option (CatEnt × Nat) :=
  let is (e : CatEnt) : Bool := e.piece == piece && e.version == ver
  match (circ s i).cat.find? is with
  | some e => some (e, s.fld i .CIRC_STAT_BANK)
  | none => match (circ s i).other.find? is with
    | some e => some (e, 1 - s.fld i .CIRC_STAT_BANK)
    | none => none

/-- The address in this set of a piece in a bank. -/
def pieceAddr (s : State) (i : SetId) (e : CatEnt) (bank : Nat) : Nat :=
  (e.at_ (myPlace s i)).getD 0 + bank * (s.fld i .CIRC_BANKOFS_OFS * 4096)

/-- The digest of a stored piece matches the catalogue. -/
def digestOk (s : State) (i : SetId) (e : CatEnt) (bank : Nat) : Bool := sha256 (peek s i (pieceAddr s i e bank) (32 * e.len)) == e.digest

/-- Ranges cover the first `n` units from `x` on. -/
def covered (rs : List (Nat × Nat)) (n : Nat) : Nat → Nat → Bool
  | 0, x => n ≤ x
  | f + 1, x => if n ≤ x then true else match rs.find? fun r => r.1 ≤ x && x < r.2 with
    | some r => covered rs n f r.2
    | none => false

/-- The circle's plan has a seedling list (R394). -/
def hasSeedling (s : State) (i : SetId) : Bool := (circ s i).cat.any fun e => bit e.flags 0

/-- A piece is missing, and with it its shard (R208, R209, R397): a shard of a supplement leaves service as it is, any other is
reported. -/
def pieceMissing (s : State) (i : SetId) (e : CatEnt) : State :=
  let s := onPiece (s.setFld i .CIRC_LOAD_MISSING 0 1) i e fun p => { p with missing := true }
  if (circ s i).cat.contains e then
    report s i { FC.shardMissing.fr with die := linkDie i, job := s.fld i .CIRC_CFG_JOB, detail := e.piece + 2 ^ 32 * e.owner }
  else s

/-- A piece has arrived whole (R208). -/
def pieceArrived (s : State) (i : SetId) (e : CatEnt) (bank : Nat) : State :=
  if digestOk s i e bank then
    onCirc (showLoad (onPiece s i e fun p => { p with clean := true }) i (loadList s i)) i fun c =>
      { c with lastClean := SMap.put 0 c.lastClean (pieceKey e) (s.fld i .CIRC_REV_REV) }
  else
    let tries := (pieceSt s i e).tries
    let s := report s i { FC.shardDigest.fr with die := stackDie i (stackOf (pieceAddr s i e bank)), unit := stackOf (pieceAddr s i e bank), detail := e.piece }
    if tries < 3 then
      let s := onPiece (s.satFld i .CIRC_LOAD_RETRIES 0 1) i e fun p => { p with got := [], tries := tries + 1 }
      s.emit .circCtl i.val [12, (circ s i).reader, e.piece, e.version]
    else pieceMissing s i e

/-- LOAD payload for this set is written (R208). Payload for a piece that the set does not hold, that is clean or missing (R209), or that
lies beyond the piece is dropped. -/
def loadWrite (s : State) (i : SetId) (h : FHdr) (d : List Byte) (bad : List Nat) : State :=
  match loadEntry s i h.piece h.version with
  | none => s
  | some (e, bank) =>
    let p := pieceSt s i e
    if !loads s i e ∨ p.clean ∨ p.missing ∨ e.len < h.rev + h.len then s
    else
      let a := pieceAddr s i e bank + 32 * h.rev
      let s := bad.foldl (fun s x => poisonWord s i (a + 32 * x)) (store s i a d)
      let got := p.got ++ [(h.rev, h.rev + h.len)]
      let s := onPiece s i e fun p => { p with got := got }
      if covered got e.len got.length 0 then pieceArrived s i e bank else s

/-- The bit of FWD that names a logical port (Table 12-21): bit 0 sunwise, 1 widdershins, then XA, XB, Pot. -/
def fwdBit (p : Nat) : Nat := if p = 1 then 0 else if p = 0 then 1 else p

/-- A LOAD frame of a reader is forwarded out of the ports of its load route and its payload kept (R332). -/
def loadFrame (s : State) (i : SetId) (reader : Nat) (raw : List Byte) (bad : List Nat) : State :=
  match (List.range 16).find? fun r => s.fld i .LINK_LOADRTi_VALID r = 1 && s.fld i .LINK_LOADRTi_READER r = reader with
  | none => s
  | some r =>
    let h := fhdr raw
    let s := ([1, 0, 2, 3, 4].filter fun p => bit (s.fld i .LINK_LOADRTi_FWD r) (fwdBit p)).foldl (fun s p =>
      s.emit .circFrame i.val (p :: bad) raw) s
    loadWrite s i h (slice raw 32 (32 * h.len)) bad

/-- A LOAD frame of a reader arrives (R192, R207, R332). -/
def loadArrives (s : State) (i : SetId) (reader : Nat) (frame : List Byte) (bad : List Nat) : State :=
  if (s.st i).lost then s
  else if !hdrOk frame then circFault s i .circSeq (fhdr frame)
  else if (fhdr frame).kind ≠ 3 then s
  else loadFrame s i reader frame bad

/-- LOAD_FRAME (R192, R207, R208, R332). -/
def execLoadFrame (i : SetId) (circle : Nat) (frame : List Byte) (bad : List Nat) (s : State) : Out :=
  .next (settle (loadArrives s i (circle * 256 + (fhdr frame).owner) frame bad) i)

/-- LOAD_ANNOUNCE (R207, R209): the shard's timer starts. -/
def execLoadAnnounce (i : SetId) (sh : ShardRef) (s : State) : Out :=
  .next (onCirc s i fun c =>
    if c.announced.contains (sh.owner, sh.ver) then c else { c with announced := c.announced ++ [(sh.owner, sh.ver)] })

/-- LOAD_TIMER_EXPIRE (R209): pieces of the shard that this set holds and that are not clean are missing. -/
def execLoadTimerExpire (i : SetId) (sh : ShardRef) (s : State) : Out :=
  .next (((loadList s i).filter fun e =>
    e.owner = sh.owner && e.version = sh.ver && loads s i e && !(pieceSt s i e).clean && !(pieceSt s i e).missing).foldl
    (fun s e => pieceMissing s i e) s)

/-- The reader has the piece to fetch again, next. -/
def fetchAgain (s : State) (i : SetId) (piece ver : Nat) : State :=
  onCirc s i fun c => { c with fetch := c.fetch.take 1 ++ [(piece, ver)] ++ c.fetch.drop 1 }

/-- A copy of a piece goes to the place that repairs its own (R211): read from the bank that holds the version, as the word code
leaves it. -/
def sendRepair (s : State) (i : SetId) (e : CatEnt) (bank dest : Nat) : State :=
  let a := pieceAddr s i e bank
  let (d, bad, s) := readWords s i a e.len
  s.emit .repairTransfer i.val (dest :: e.piece :: e.version :: bad.map fun x => (x - a) / 32) d

/-- PIECE_REREQUEST (R208, R211): a re-request of the load, or a repair request to the reader, gives the reader the piece to fetch again;
a repair request to a set that holds the other copy is answered with it. -/
def execPieceRerequest (i : SetId) (p : PieceRef) (repair : Option RepairAsk) (s : State) : Out :=
  .next (if (s.st i).lost then s
    else match repair with
    | some ⟨who, false⟩ => match loadEntry s i p.piece p.ver with
      | some (e, bank) => if loads s i e then sendRepair s i e bank who else s
      | none => s
    | some ⟨who, true⟩ =>
      if isReader s i then onCirc (fetchAgain s i p.piece p.ver) i fun c => { c with owed := c.owed ++ [(p.piece, p.ver, who)] } else s
    | none => if isReader s i then fetchAgain s i p.piece p.ver else s)

/-- The LOAD frames of a piece, 2,048 words at most each (Table 7-3). -/
def loadFrames (s : State) (i : SetId) (e : CatEnt) (d : List Byte) : List (List Byte) :=
  (List.range ((e.len + 2047) / 2048)).map fun j =>
    let n := min 2048 (e.len - 2048 * j)
    let h : FHdr := { kind := 3, flags := 0, owner := myPlace s i, hops := 0, layer := 0, stage := 0, tile := 0, version := e.version
                      epoch := s.fld i .CIRC_STAT_EPOCH, rev := 2048 * j, len := n, piece := e.piece }
    h.bytes ++ slice d (65536 * j) (32 * n)

/-- The reader goes on to its next piece (R207). -/
def nextFetch (s : State) (i : SetId) (q : List (Nat × Nat)) : State := announceNext (onCirc s i fun c => { c with fetch := q }) i

/-- The repair that a fetch of a piece is for, if any (R211): the first asked for. -/
def owedFor (s : State) (i : SetId) (p v : Nat) : Option (Nat × Nat × Nat) := (circ s i).owed.find? fun o => o.1 = p && o.2.1 = v

/-- The reader's read of its next piece has failed (R353, R208): it counts as a re-request and is made again; after three the reader
gives the piece up, and the timers of its holders find it missing. -/
def fetchFailed (s : State) (i : SetId) : State :=
  match (circ s i).fetch with
  | [] => s
  | (p, v) :: q =>
    let s := countDma s
    match loadEntry s i p v with
    | none => nextFetch s i q
    | some (e, _) =>
      let tries := (pieceSt s i e).tries
      if tries < 3 then onPiece (s.satFld i .CIRC_LOAD_RETRIES 0 1) i e fun x => { x with tries := tries + 1 }
      else
        let s := nextFetch s i q
        match owedFor s i p v with
        | some o => onCirc s i fun c => { c with owed := c.owed.erase o }
        | none => if loads s i e then pieceMissing s i e else s

/-- PIECE_FETCH_DONE (R207): the reader's next piece has come from host memory, or its read has failed and is made again (R353);
the piece goes out as LOAD frames, or to the place that asked for a repair (R211). -/
def execPieceFetchDone (i : SetId) (data : Option (List Byte)) (s : State) : Out :=
  match (circ s i).fetch, data with
  | (p, v) :: q, some d =>
    match loadEntry s i p v with
    | some (e, _) =>
      let s := match owedFor s i p v with
        | some o => onCirc (s.emit .repairTransfer i.val [o.2.2, p, v] d) i fun c => { c with owed := c.owed.erase o }
        | none => (loadFrames s i e d).foldl (fun s f => loadFrame s i (s.place i) f []) s
      .next (nextFetch s i q)
    | none => .next (nextFetch s i q)
  | _ :: _, none => .next (fetchFailed s i)
  | [], _ => .next s

/-! ## Weeding and repair (R210, R211, R263) -/

/-- The pieces that a pass covers: every one whose load is complete, in both banks. A seedling plan's pieces leave it at the
promotion. -/
def weedList (s : State) (i : SetId) : List (Nat × Nat) :=
  let c := circ s i
  let b := s.fld i .CIRC_STAT_BANK
  let gone (e : CatEnt) : Bool := !c.seedling && c.up && bit e.flags 0 && e.version == c.seedVer && c.seedVer != c.startVer
  let ok (e : CatEnt) : Bool := loads s i e && (pieceSt s i e).clean && !gone e
  (c.cat.filter ok).map (fun e => (pieceKey e, b)) ++ (c.other.filter ok).map fun e => (pieceKey e, 1 - b)

/-- A pass begins; one over no piece is complete. -/
def startWeed (s : State) (i : SetId) : State :=
  let l := weedList s i
  if l.isEmpty then s.addFld i .CIRC_WEED_STAT_PASSES 0 1
  else onCirc s i fun c => { c with weed := l, weedOn := true, weedDue := false }

/-- WEED_PASS_START (R210): a pass that still runs overruns. -/
def execWeedPassStart (i : SetId) (s : State) : Out :=
  .next (if (circ s i).weedOn then onCirc (s.setFld i .CIRC_WEED_STAT_LATE 0 1) i fun c => { c with weedDue := true } else startWeed s i)

/-- The entry of a piece key. -/
def entryOf (s : State) (i : SetId) (key : Nat) : Option CatEnt := ((circ s i).cat ++ (circ s i).other).find? fun e => pieceKey e == key

/-- Words of a range that the word code corrects are written back (R210, R268). -/
def scrub (s : State) (i : SetId) (a n : Nat) : State :=
  ((s.st i).chk.filter fun e => a / 32 ≤ e.1 && e.1 < a / 32 + n).foldl (fun s e =>
    let (d, bad, s) := readWord s i (32 * e.1)
    if bad then s else store s i (32 * e.1) d) s

/-- A weeded piece is checked (R211). -/
def weedPiece (s : State) (i : SetId) (key bank : Nat) (e : CatEnt) : State :=
  let a := pieceAddr s i e bank
  let s := scrub s i a e.len
  if digestOk s i e bank then onCirc s i fun c => { c with lastClean := SMap.put 0 c.lastClean key (s.fld i .CIRC_REV_REV) }
  else
    let since := s.fld i .CIRC_REV_REV - SMap.get 0 (circ s i).lastClean key
    let s := report s i { FC.weedDigest.fr with die := stackDie i (stackOf a), unit := stackOf a, job := s.fld i .CIRC_CFG_JOB, detail := e.piece + 2 ^ 32 * since }
    let s := s.setFld i .CIRC_WEED_STAT_BAD 0 1
    askRepair (s.setFld i .CIRC_WEED_STAT_PIECE 0 e.piece) i e bank

/-- The piece may be weeded now: its stack is NORMAL (R263); what a fence holds is passed over. -/
def weedable (s : State) (i : SetId) (p : Nat × Nat) : Bool :=
  match entryOf s i p.1 with
  | some e => let l := s.fld i .MEM_HBM_TEMPs_LEVEL (stackOf (pieceAddr s i e p.2)); l == 0 || l == 3
  | none => true

/-- WEED_PIECE_DONE (R210, R211): the next piece of the pass has been read; with the last the pass is complete. -/
def execWeedPieceDone (i : SetId) (s : State) : Out :=
  match (circ s i).weed.find? (weedable s i) with
  | none => .next s
  | some p =>
    let s := match entryOf s i p.1 with
      | some e => if fenced s i (stackOf (pieceAddr s i e p.2)) then s else weedPiece s i p.1 p.2 e
      | none => s
    let s := onCirc s i fun c => { c with weed := c.weed.erase p }
    if (circ s i).weed.isEmpty then
      let again := (circ s i).weedDue
      let s := onCirc (s.addFld i .CIRC_WEED_STAT_PASSES 0 1) i fun c => { c with weedOn := false, weedDue := false }
      .next (if again then startWeed s i else s)
    else .next s

/-- REPAIR_TRANSFER (R211): a repaired piece that digests clean is written in place; otherwise the reader is asked. -/
def execRepairTransfer (i : SetId) (piece ver : Nat) (data : List Byte) (s : State) : Out :=
  match (circ s i).repair.find? fun r => r.1 = piece + 2 ^ 32 * ver with
  | none => .next s
  | some r =>
    match entryOf s i r.1 with
    | none => .next s
    | some e =>
      let d := slice data 0 (32 * e.len)
      if sha256 d = e.digest then
        let s := store s i (pieceAddr s i e r.2) d
        .next (onCirc s i fun c => { c with repair := c.repair.erase r, lastClean := SMap.put 0 c.lastClean r.1 (s.fld i .CIRC_REV_REV) })
      else .next (s.emit .circCtl i.val [14, (circ s i).reader, piece, ver, s.place i, 1])

/-! ## Slower tier (R213) -/

/-- TIER_PIECE_STAGED (R208, R212, R213): the host bridge has staged a TIER piece at the tier reader, for the first or the second of the
region's two revolutions (log entry 88). Its digest is checked on the first fetch; a piece that fails is fetched again. A supplement's
piece is fetched once into the bank not in service, and signals nothing. A set without a share of the host port fetches none (R17).
LATE_MS counts what INJECTs waited for it, and no failed read of the tier is outstanding any more (R353). -/
def execTierPieceStaged (i : SetId) (r : StagedRef) (data : List Byte) (poisoned : List Nat) (lateMs : Nat) (s : State) : Out :=
  match loadEntry s i r.piece r.ver with
  | none => .next s
  | some (e, bank) =>
    if !bit e.flags 1 ∨ s.fld i .CIRC_AUX_TIER_EN ≠ 1 ∨ (s.st i).lost ∨ hostShare s i = 0 then .next s
    else
      let a := tierAddr s i e + bank * (s.fld i .CIRC_BANKOFS_OFS * 4096) + if r.second then Config.tierHalf else 0
      let d := slice data 0 (32 * e.len)
      let s := onCirc (s.satFld i .CIRC_ERR_LATE_MS 0 lateMs) i fun c => { c with tierFail := none }
      let s := poisoned.foldl (fun s x => poisonWord s i (a + 32 * x)) (store s i a d)
      if (circ s i).tierSeen.contains (e.piece, e.version) ∨ sha256 d = e.digest then
        let s := onCirc (onPiece s i e fun p => { p with clean := true }) i fun c =>
          { c with tierSeen := if c.tierSeen.contains (e.piece, e.version) then c.tierSeen else c.tierSeen ++ [(e.piece, e.version)] }
        .next (if bank = s.fld i .CIRC_STAT_BANK then settle (unitSignal s i (linkDie i) 0 (s.fld i .CIRC_CFG_JOB) (s.fld i .CIRC_AUX_TIER_CTR) 1) i else s)
      else
        let s := report (s.setFld i .CIRC_WEED_STAT_TIER_BAD 0 1) i { FC.shardDigest.fr with die := linkDie i, detail := e.piece }
        if (pieceSt s i e).tries < 3 then
          .next (onPiece (s.satFld i .CIRC_LOAD_RETRIES 0 1) i e fun p => { p with tries := p.tries + 1 })
        else .next (pieceMissing s i e)

/-! ## Resident pieces and promenade switches (R220, R221) -/

/-- The resident pieces that this place owns. -/
def residents (s : State) (i : SetId) : List CatEnt := (circ s i).cat.filter fun e => bit e.flags 2 && e.owner = myPlace s i

/-- Every resident piece is settled. -/
def allSettled (s : State) (i : SetId) : Bool := (residents s i).all fun e => (circ s i).settled.contains e.piece

/-- A piece is copied from its bank to its SRAM address and read again; a copy that reads bad is not settled (R220). -/
def settlePiece (s : State) (i : SetId) (e : CatEnt) : State :=
  let s := moveWords s i (inBank s i e.addr) e.aux e.len
  let (_, bad, s) := readWords s i e.aux e.len
  if bad.isEmpty then onCirc s i fun c => { c with settled := if c.settled.contains e.piece then c.settled else c.settled ++ [e.piece] } else s

/-- RESIDENT_SETTLE (R220): one resident piece, once it is loaded; with the last one, a settle is complete (Table 7-9). -/
def execResidentSettle (i : SetId) (piece : Nat) (s : State) : Out :=
  match (residents s i).find? fun e => e.piece = piece with
  | some e =>
    if (circ s i).settled.contains piece ∨ !(pieceSt s i e).clean then .next s
    else
      let s := settlePiece s i e
      .next (if allSettled s i then s.addFld i .CIRC_REV_REV 0 1 else s)
  | none => .next s

/-- PROMENADE_SWITCH (R221): with every pass returned, the new version is settled from the other bank and comes into force. -/
def execPromenadeSwitch (i : SetId) (s : State) : Out :=
  match (circ s i).chg with
  | some c =>
    if promenade s i ∧ c.confirmed ∧ c.kind = 0 ∧ (s.st i).su.passes.isEmpty ∧ mayChange s i then
      let s := (applyChange s i c).setFld i .CIRC_REV_VERSION 0 c.ver
      let s := onCirc s i fun u => { u with settled := [] }
      let s := (residents s i).foldl (fun s e => settlePiece s i e) s
      .next (s.addFld i .CIRC_REV_REV 0 1)
    else .next s
  | none => .next s

end Sys2Proof.Machine
end

