-- ==== Sys2Proof/Machine/Promenade.lean ====
section
/-! DEFINITION. Passes of a promenade circle (10.7, R292, R293). -/

namespace Sys2Proof.Machine

/-- Every slot that runs the step has completed its WAIT on TURN_CTR for the previous pass (R293). -/
def passGate (s : State) (i : SetId) : Bool :=
  let u := (s.st i).su
  !u.headerSeen || (turnSlots s i).all u.turnWaits.contains

/-- A pass comes to this place: what the pass before it left provisional in harvest goes, what a discarded pass left is void, and the
positions of its sessions that were not committed are void (R233, R414). A pass that an earlier place marked DISCARD is discarded. -/
def openPass (s : State) (i : SetId) (slots : List Nat) (discard : Bool) : State :=
  let s := if (s.st i).stepBad then voidStep s i else clearHarvest s i
  let s := s.onSet i fun t => { t with stepBad := discard }
  onSu s i fun u => { u with turnWaits := [], headerSeen := true, apps := u.apps.filter fun a => !slots.contains a.2.1 }
where
  /-- What harvest holds of the pass before goes. -/
  clearHarvest (s : State) (i : SetId) : State := onSu s i fun u => { u with harv := [], heads := [], res := [] }

/-- The slots of the sessions of a pass, in row order. -/
def passSlots (rows : List RowEnt) : List Nat := ((rows.filter fun r => r.kind ≠ 0 ∧ r.slot ≠ 0xFFFF).map (·.slot)).eraseDups

/-- The first position of a session's rows. -/
def firstPos (rows : List RowEnt) (n : Nat) : Nat :=
  match (rows.filter fun r => r.kind ≠ 0 ∧ r.slot = n).map (·.pos) with
  | [] => 0
  | p :: ps => ps.foldl min p

/-- The commit count of a session's previous pass is applied in the directory of its stacks (R233, R292): LEN comes to the first position
of the pass, once, also when a fold repeats the pass (R222). -/
def commitDir (s : State) (i : SetId) (n a pos : Nat) : State :=
  let g := kvGeo s i
  if g.layers = 0 ∨ a = 0 then s
  else (sessStacks s i n).foldl (fun s st => if dirLen s i g st n + a ≤ pos then dirSet s i g st n 0 4 (dirLen s i g st n + a) else s) s

/-! ## Place 0 -/

/-- Sessions that are ready for a pass, in order (R291). -/
def readyList (s : State) (i : SetId) : List Nat :=
  ((sessSlots s i).filter fun n =>
    let q := sessOf s i n
    (q.ph == .decode || q.ph == .prefill) && !q.inFlight).foldl (fun l n => insKey (fun a => (sessOf s i a).order) n l) []

/-- Prefill rows of a pass: a chunk, at most 17 (R283, R291). -/
def passChunk (s : State) (i : SetId) : Nat := min 17 (s.fld i .SESS_CFG_0_CHUNK)

/-- Rows that a session's pass has. -/
def passCount (s : State) (i : SetId) (n : Nat) : Nat :=
  let q := sessOf s i n
  if q.ph = .decode then 1 + (stepDrafts s i n).length else min (passChunk s i) q.feed.length

/-- The rows of a session's pass with their CQ room reserved; none when the page lacks it (R280, R291). -/
def passRows (s : State) (i : SetId) (n : Nat) : State × List RowEnt :=
  if (sessOf s i n).ph = .decode then bindDecode s i n else bindPrefill s i n (passChunk s i)

/-- The rows of the first `k` sessions in order whose pass can start, as far as they come within `room` rows (R31, R291). -/
def pickPass (i : SetId) : Nat → Nat → List Nat → State → State × List RowEnt
  | _, _, [], s => (s, [])
  | k, room, n :: q, s =>
    if k = 0 ∨ room < passCount s i n then (s, [])
    else match passRows s i n with
      | (s, []) => pickPass i k room q s
      | (s, rows) =>
        let (s, l) := pickPass i (k - 1) (room - rows.length) q s
        (s, rows ++ l)

/-- A version switch that is confirmed keeps place 0 from starting passes (R221). -/
def switchDue (s : State) (i : SetId) : Bool :=
  match (circ s i).chg with
  | some c => c.confirmed
  | none => false

/-- Place 0 may start a pass. -/
def mayStartPass (s : State) (i : SetId) : Bool :=
  promenade s i && myPlace s i == 0 && mayChange s i && !(s.st i).su.gather && allSettled s i && !switchDue s i && passGate s i

/-- What goes with a pass for a session beside the header (R292). -/
def passSess (s : State) (i : SetId) (n : Nat) : PassSess :=
  let q := sessOf s i n
  { slot := n, commit := q.prevCommit, first := !q.passed, maxnew := q.maxnew, gen := q.gen, status := 0, facts := q.toOpenFacts }

/-- What a message holds of it. -/
def sessWords (b : PassSess) : List Nat :=
  let f := b.facts
  [b.slot, b.commit, bitOf b.first, b.maxnew, b.gen, b.status, f.sid, bitOf f.isPrefix, f.pfx, f.plen, f.maxlen, f.temp, f.topp, f.minp, f.topk,
    f.nlogp, f.dsrc, f.dmax, f.ngram, f.seed, f.maskMode, f.mask, (match f.want with | some st => st + 1 | none => 0), f.stops.length] ++
    f.stops.flatMap fun t => t.length :: t

/-- The pass header (R293): step variables 0 to 15, then the entries of rows 0 to 31. -/
def headerBytes (vars : List Nat) (rows : List RowEnt) : List Byte :=
  ((List.range 16).flatMap fun v => leBytes 4 (vars.getD v 0)) ++ (List.range 32).flatMap fun r => (rows.getD r unboundRow).bytes

/-- A pass starts: the commit of its sessions' previous passes, the header in the shadow bindings and step variables, with the pass
number, the header and what goes with it, and the gathers, after which TURN_CTR is signalled (R246, R291 to R293). -/
def startPass (s : State) (i : SetId) (rows : List RowEnt) : State :=
  let num := (s.st i).su.passNum + 1
  let slots := passSlots rows
  let s := slots.foldl (fun s n => commitDir s i n (sessOf s i n).prevCommit (firstPos rows n)) s
  let s := openPass s i slots false
  let s := slots.foldl (fun s n => onSess s i n fun q => { q with inFlight := true }) s
  let (s, rows) := badTokens s i (orderRows rows)
  let vars := stepVars s i rows num
  let s := writeShadow s i vars rows
  let bound := (passSlots rows).map (passSess s i)
  let s := s.emit .passHeader i.val ([num, bound.length] ++ bound.flatMap sessWords) (headerBytes vars rows)
  onSu s i fun u => { u with
    gather := true, step := num, ver := s.fld i .CIRC_REV_VERSION, passNum := num
    passes := u.passes ++ [{ slots := passSlots rows, num := num, rows := rows, ver := s.fld i .CIRC_REV_VERSION }] }

/-- PASS_START (R31, R291, R293): the set's plan puts `sessions` sessions into one pass, at least one, while their rows stay within 32. -/
def execPassStart (plan : PassPlan) (s : State) : Out :=
  let i := plan.set
  if mayStartPass s i then
    match pickPass i (max 1 plan.sessions) 32 (readyList s i) (clearHeld s i) with
    | (s, []) => .next (showPages s i)
    | (s, rows) => .next (settle (boundaryEnd (showPages (startPass s i rows) i) i) i)
  else .next s

/-- A record that place N − 1 formed, with the time of the write where it has one (Table 10-4). -/
def stampRec (r : List Byte) (time : Nat) : List Byte := if leAt r 4 1 % 64 = 1 then r.take 56 ++ leBytes 8 time else r

/-- The tokens of a pass are written (R279, R292): its records, the history, what the session has emitted. -/
def passTokens (s : State) (i : SetId) (n : Nat) (r : PassPart) : State :=
  let t := (sessOf s i n).page
  tookTokens (r.recs.foldl (fun s b => addRec s i t n (stampRec b (s.time i))) s) i n r.toks r.drafts

/-- A session is ready for a pass again (R291). -/
def readyAgain (s : State) (i : SetId) (n : Nat) : State :=
  let s := onSu s i fun u => { u with order := u.order + 1 }
  onSess s i n fun q => { q with order := (s.st i).su.order }

/-- A pass has returned for one of its sessions. -/
def returnPass (s : State) (i : SetId) (rows : List RowEnt) (discard : Bool) (r : PassPart) : State :=
  let n := r.slot
  let s := onSess (unreserve s i n) i n fun q => { q with inFlight := false, prevCommit := 0, passed := true }
  let q := sessOf s i n
  let k := (rowsOf rows n).length
  let commit (s : State) : State := onSess s i n fun x => { x with len := x.len + r.commit, prevCommit := r.commit }
  if q.ph = .free ∨ q.ph = .closing then s
  else if discard then readyAgain (onSess s i n fun q => { q with again := q.ph == .decode, ended := none, skip := 0 }) i n
  else match q.ended with
    | some c => finishSess s i n c 5
    | none =>
      if r.status ≠ 0 then finishSess s i n r.status 5
      else if q.ph = .decode then
        if r.toks.isEmpty then readyAgain (onSess s i n fun q => { q with again := true }) i n
        else readyAgain (onSess (commit (passTokens s i n r)) i n fun x => { x with again := false, ph := if r.reason = 0 then .decode else .idle }) i n
      else if (rowsOf rows n).any fun e => e.2.kind = 4 then
        if r.toks.isEmpty then readyAgain s i n
        else readyAgain (onSess (commit (passTokens s i n r)) i n fun x =>
          { x with feed := x.feed.drop k, ph := if r.reason = 0 then .ready else .idle }) i n
      else
        let s := readyAgain (onSess (commit s) i n fun x => { x with feed := x.feed.drop k }) i n
        if (sessOf s i n).feed.isEmpty then addRec (onSess s i n fun x => { x with ph := .idle }) i q.page n (sessEvent s i n 0 3) else s

/-- PASS_RETURN (R292, R414): a pass in flight comes back to place 0, which writes its records; of a session that the return does not
name nothing was committed. -/
def execPassReturn (i : SetId) (ret : PassRet) (s : State) : Out :=
  match (s.st i).su.passes.find? fun p => p.num = ret.num with
  | none => .next s
  | some p =>
    let s := onSu s i fun u => { u with passes := u.passes.filter fun x => x.num ≠ ret.num }
    let part (n : Nat) : PassPart := (ret.parts.find? fun x => x.slot = n).getD
      { slot := n, commit := 0, reason := 0, status := 0, toks := [], recs := [], drafts := [] }
    let s := p.slots.foldl (fun s n => returnPass s i p.rows ret.discard (part n)) s
    .next (settle (boundaryEnd (showOpens s i) i) i)

/-! ## The other places -/

/-- The first pass of a session places its key-value data for this place's layers (R231, R291). -/
def placeHere (s : State) (i : SetId) (n : Nat) (f : OpenFacts) : State :=
  let s := closeDir s i n
  let s := onSess s i n fun _ => { toOpenFacts := f, ph := .decode, page := noPage }
  match groupFor s i (kvGeo s i) (sessOf s i n) with
  | some st0 => onSess (placeSess s i n st0) i n fun q => { q with ph := .decode }
  | none => s

/-- A session of a pass comes to this place: placed or committed, with what the pass says of it. -/
def boundHere (s : State) (i : SetId) (rows : List RowEnt) (b : PassSess) : State :=
  let pos := firstPos rows b.slot
  let s := if b.first then placeHere s i b.slot b.facts else commitDir s i b.slot b.commit pos
  onSess s i b.slot fun q => { q with
    toOpenFacts := b.facts, len := pos, maxnew := b.maxnew, gen := b.gen
    drafts := (rows.filter fun r => r.kind = 2 ∧ r.slot = b.slot).map (·.token)
    ended := if b.status = 0 then q.ended else some b.status }

/-- PASS_HEADER (R292, R293): the oldest waiting pass header is copied into the shadow bindings and step variables, the commit counts of
its sessions' previous passes are applied, and TURN_CTR is signalled. The place serves no pass before its resident pieces are settled
(R220). `bound` is what goes with the pass for its sessions, `discard` the mark of an earlier place (R414). -/
def execPassHeader (i : SetId) (bound : List PassSess) (discard : Bool) (s : State) : Out :=
  match (s.st i).su.headers with
  | [] => .next s
  | h :: q =>
    if !promenade s i ∨ !mayChange s i ∨ !passGate s i ∨ !allSettled s i then .next s
    else
      let vars := (List.range 16).map fun v => leAt h (4 * v) 4
      let rows := (List.range 32).map fun r => rowEnt (slice h (64 + 16 * r) 16)
      let s := openPass (onSu s i fun u => { u with headers := q }) i (passSlots rows) discard
      let s := (bound.filter fun b => (passSlots rows).contains b.slot).foldl (fun s b => boundHere s i rows b) s
      let s := writeShadow s i vars rows
      let s := onSu s i fun u => { u with step := vars.getD 5 0, ver := s.fld i .CIRC_REV_VERSION, owe := lastPlace s i }
      .next (settle (turnSignal s i) i)

end Sys2Proof.Machine
end

