-- ==== Sys2Proof/Machine/Stacks.lean ====
section
/-! DEFINITION. Memory stacks: temperature, fencing and its consequences, refresh, patrol, loopback (chapter 9, R427, R428). -/

namespace Sys2Proof.Machine

/-! ## Fencing (R264 to R266, R427) -/

/-- Slots of sessions with frames on a stack. -/
def sessionsOn (s : State) (i : SetId) (st : Nat) : List Nat :=
  (sessSlots s i).filter fun n => (sessOf s i n).ph != .pending && (sessOf s i n).ph != .closing && (sessStacks s i n).contains st

/-- The bank-in-service copy of a piece lies on a stack of this set. -/
def pieceOn (s : State) (i : SetId) (st : Nat) (e : CatEnt) : Bool :=
  match e.at_ (myPlace s i) with
  | some b => stackOf (inBank s i b) == st || stackOf (inBank s i b + 32 * e.len - 1) == st
  | none => false

/-- Pieces that the set owns on a stack; TIER pieces are staged there. -/
def ownedOn (s : State) (i : SetId) (st : Nat) : List CatEnt := (circ s i).cat.filter fun e => e.owner = myPlace s i && pieceOn s i st e

/-- The stack holds the set's only embedding copy in service. -/
def onlyEmbedding (s : State) (i : SetId) (st : Nat) : Bool :=
  bit (s.fld i .MSE_EMBCFG_0_COPIES) st && (List.range 6).all fun x => x == st || !bit (s.fld i .MSE_EMBCFG_0_COPIES) x || fenced s i x

/-- The circle goes on after the fence: a partner or a backup tier reader takes the pieces over (Table 15-7). -/
def standInFor (s : State) (i : SetId) (ps : List CatEnt) : Bool :=
  (ps.all fun e => bit e.flags 1 || s.fld i .CIRC_CFG_DOUBLE = 1) &&
    (ps.all fun e => !bit e.flags 1 || ((circ s i).backup != 0xFFFF_FFFF && (circ s i).backup != s.place i))

/-- ACTION of F_HBM_FENCE (R427): that of the consequence of largest scope. -/
def fenceAction (s : State) (i : SetId) (st : Nat) : Nat :=
  let ps := ownedOn s i st
  if onlyEmbedding s i st then 8
  else if !ps.isEmpty then (if standInFor s i ps then 6 else 7)
  else if !(sessionsOn s i st).isEmpty then 4
  else 0

/-- SEV of that action (R427). -/
def actionSev (a : Nat) : Nat := if a = 8 then 3 else if a = 7 ∨ a = 6 then 2 else if a = 4 then 1 else 0

/-- Tiles of this place whose streams lie in some pieces, as their INJECTs have shown (log entry 21). -/
def tilesIn (s : State) (i : SetId) (ps : List CatEnt) : List (Nat × Nat × Nat × Nat) :=
  ((circ s i).srcs.filter fun x => ps.any fun e => match e.at_ (myPlace s i) with
    | some b => b ≤ x.2 && x.2 < b + 32 * e.len
    | none => false).map (·.1)

/-- The fence takes pieces that the set owns, or tier staging: a fold with the topology unchanged, or the circle stops (R428). -/
def fencePieces (s : State) (i : SetId) (ps : List CatEnt) : State :=
  if ps.isEmpty then s
  else if !standInFor s i ps then stopCircle s i
  else
    let q := myPlace s i
    let tier := ps.filter fun e => bit e.flags 1
    let own := ps.filter fun e => !bit e.flags 1
    let st (l : List CatEnt) (by_ : Nat) : List StandIn := if l.isEmpty then [] else [{ lost := q, by_ := by_, tiles := tilesIn s i l }]
    beginFold s i { cuts := [], gone := [], stand := st own ((q + places s i / 2) % places s i) ++ st tier ((circ s i).backup % 256) }

/-- The stack's share of every ATTN in progress ends: its bit is ignored (R265). -/
def dropShares (s : State) (i : SetId) (st : Nat) : State :=
  let l := (s.st i).su.shares.filter fun sh => sh.stack = st
  let s := (List.range 80).foldl (fun s k => ((s.core i k).requestQ.filter fun e => dtype e.raw == some .attn && bit e.waits st).foldl
    (fun s e => onEnt s i k 4 e.id fun e =>
      { e with waits := putBits e.waits st 1 0, phase := if putBits e.waits st 1 0 = 0 then .done else e.phase }) s) s
  onSu s i fun u => { u with
    shares := u.shares.filter fun sh => !l.contains sh
    engs := SMap.keep (fun x => x / 16 != st) u.engs }

/-- DETAIL of F_HBM_FENCE: the first piece whose partner copy goes with the stack, above bit 32; 0 when no redundancy is lost (Table 15-7;
log entry 104). -/
def lostCopy (s : State) (i : SetId) (st : Nat) : Nat :=
  match (circ s i).cat.find? fun e => e.owner != myPlace s i && e.partner == myPlace s i && pieceOn s i st e with
  | some e => 2 ^ 32 + e.piece
  | none => 0

/-- A stack is fenced with a cause: 1 THERMAL, 2 LINK, 3 TRAINING, 4 OPERATOR (R264, R427). -/
def fenceStack (s : State) (i : SetId) (st cause : Nat) : State :=
  if fenced s i st then s
  else
    let act := fenceAction s i st
    let ps := ownedOn s i st
    let ns := sessionsOn s i st
    let s := s.setFld i .MEM_HBM_TEMPs_FENCED st 1
    let s := s.setFld i .MEM_HBM_TEMPs_FENCE st 1
    let s := s.setFld i .MEM_HBM_TEMPs_FCAUSE st cause
    let s := s.setFld i .MEM_HBM_TEMPs_LEVEL st 3
    let s := s.setFld i .MEM_HBM_TEMPs_DBLREF st 1
    let s := s.setFld i .MSE_STKs_1_HALVED st 1
    let s := dropShares (s.setFld i .MSE_STKs_1_FENCED st 1) i st
    let s := s.onSet i fun t => { t with patrol := SMap.put {} t.patrol st {} }
    let r := { FC.hbmFence.fr with sev := actionSev act, action := act, die := stackDie i st, unit := st, cause := cause, detail := lostCopy s i st }
    if act = 8 then fenceSet s i r
    else
      let s := report s i r
      let s := ns.foldl (fun s n => report (mseErr s i .MSE_ERR_WORD st n 0 0) i
        { FC.kvWord.fr with die := stackDie i st, unit := st, sess := n, job := sessJob s i n }) s
      fencePieces s i ps

/-- STACK_FENCE_WRITE (R264): FENCE in MEM_HBM_CTLs. -/
def execStackFenceWrite (i : SetId) (stack : StackId) (s : State) : Out := .next (settle (fenceStack s i stack.val 4) i)

/-! ## Temperature (R261) -/

/-- The level that a reading enters (Table 9-3). -/
def tempLevel (t : Nat) : Nat := if 105 < t then 3 else if 95 < t then 2 else if 85 < t then 1 else 0

/-- Levels WARM and HOT are entered up to `new`. -/
def enterLevel (s : State) (i : SetId) (st old new : Nat) : State :=
  let s := if old < 1 ∧ 1 ≤ new then s.setFld i .MEM_HBM_TEMPs_WARM st 1 else s
  if old < 2 ∧ 2 ≤ new then
    let s := s.setFld i .MEM_HBM_TEMPs_HOT st 1
    let s := s.setFld i .MEM_HBM_TEMPs_DBLREF st 1
    s.setFld i .MSE_STKs_1_HALVED st 1
  else s

/-- STACK_TEMP_READ (R261): the sixteen core-die temperatures; a level passed is entered, and the report names the highest. -/
def execStackTempRead (i : SetId) (stack : StackId) (temps : List Nat) (s : State) : Out :=
  let st := stack.val
  let t := temps.foldl max 0
  let s := s.setFld i .MEM_HBM_TEMPs_TMAX st t
  let s := s.setFld i .MEM_HBM_TEMPs_DIE st (temps.idxOf t)
  let s := s.setFld i .MEM_HBM_TEMPs_PEAK st (max t (s.fld i .MEM_HBM_TEMPs_PEAK st))
  let old := s.fld i .MEM_HBM_TEMPs_LEVEL st
  let new := tempLevel t
  if new ≤ old then .next s
  else
    let s := enterLevel s i st old new
    if new = 3 then .next (settle (fenceStack s i st 1) i)
    else
      let s := s.setFld i .MEM_HBM_TEMPs_LEVEL st new
      .next (report s i { FC.hbmTemp.fr with die := stackDie i st, unit := st, cause := new })

/-- STACK_TEMP_EXIT (R261): readings have stayed at or below the level's exit value for 10 ms. -/
def execStackTempExit (i : SetId) (stack : StackId) (s : State) : Out :=
  let st := stack.val
  let t := s.fld i .MEM_HBM_TEMPs_TMAX st
  let l := s.fld i .MEM_HBM_TEMPs_LEVEL st
  if l = 2 ∧ t ≤ 92 then
    let s := s.setFld i .MEM_HBM_TEMPs_LEVEL st 1
    .next ((s.setFld i .MEM_HBM_TEMPs_DBLREF st 0).setFld i .MSE_STKs_1_HALVED st 0)
  else if l = 1 ∧ t ≤ 82 then .next (s.setFld i .MEM_HBM_TEMPs_LEVEL st 0)
  else .next s

/-- REFRESH (R259): one bank of the stack is refreshed; its contents stay. -/
def execRefresh (_i : SetId) (_stack : StackId) (s : State) : Out := .next s

/-! ## Patrol (R267 to R269) -/

/-- A stack's patrol. -/
def patrolOf (s : State) (i : SetId) (st : Nat) : Patrol := SMap.get {} (s.st i).patrol st

/-- Change a stack's patrol. -/
def setPatrol (s : State) (i : SetId) (st : Nat) (p : Patrol) : State := s.onSet i fun t => { t with patrol := SMap.put {} t.patrol st p }

/-- PATROL_PASS_START (R267): a pass that still runs overruns. -/
def execPatrolPassStart (i : SetId) (stack : StackId) (s : State) : Out :=
  let st := stack.val
  let p := patrolOf s i st
  if fenced s i st ∨ (s.st i).selfRef then .next s
  else if p.next.isSome then .next (setPatrol (s.setFld i .MEM_HBM_PATROL_LATE 0 1) i st { p with due := true })
  else .next (setPatrol s i st { next := some (st * 0x18_0000_0000), due := false })

/-- The region that holds a line. -/
def lineRegion (s : State) (i : SetId) (a : Nat) : Option Rgn := (rgns s i).find? (·.holds a)

/-- Patrol skips lines of KIND 1 regions and of regions whose teardown fill is in progress (R267), whichever of the entries that share
the line says so. -/
def patrolSkips (s : State) (i : SetId) (a : Nat) : Bool :=
  ((rgns s i).filter (·.holds a)).any fun r =>
    r.kind == 1 || (match teardownOf s i r.job with | some t => t.filling && (fillRegions s i r.job).any (·.holds a) | none => false)

/-- Sessions that hold the frame of an address of a stack. -/
def holdersOf (s : State) (i : SetId) (st a : Nat) : List Nat :=
  let g := kvGeo s i
  (sessionsOn s i st).filter fun n => (List.range g.dirlen).any fun f => match dirFrame s i g st n f with
    | some fr => frameAddr s i g st fr ≤ a && a < frameAddr s i g st fr + 4096 * g.fsize
    | none => false

/-- The layer whose block of a frame holds an address of a stack. -/
def layerAt (s : State) (i : SetId) (st a : Nat) : Nat :=
  let g := kvGeo s i
  (a - frameAddr s i g st 0 - g.sealOff) % (4096 * g.fsize) / max 1 g.layerBlk

/-- Patrol meets a word that cannot be corrected (R269): F_HBM_WORD in a region, with the consequence of its KIND, of which KIND 3 ends
each session that holds the frame by F_KV_WORD (R249); elsewhere a zero word, counted. -/
def patrolBad (s : State) (i : SetId) (st a : Nat) : State :=
  match lineRegion s i a with
  | none => zeroFill s i a 32
  | some r =>
    let f := { FC.hbmWord.fr with die := stackDie i st, unit := st, job := r.job, detail := a }
    let s := markErr s i a
    match r.kind with
    | 0 => leaveJob (report s i { f with sev := 2, action := 5 }) i r.job .byContainment
    | 3 => (holdersOf s i st a).foldl (fun s n => dropSess (skipSess s i st n (layerAt s i st a) 0 .kvWord .kvWord) i st n)
        (report s i { f with sev := 1, action := 4 })
    | 2 | 4 => zeroFill (discardStep (report s i { f with sev := 2, action := 2 }) i) i a 32
    | 5 => (restoreRegion (discardStep (report s i { f with sev := 2, action := 2 }) i) i r).onSet i fun t =>
        { t with restart := if t.restart.contains r.job then t.restart else t.restart ++ [r.job] }
    | _ => report s i { f with sev := 2, action := 2 }

/-- The eight words of a line are read and checked (R268, R269). -/
def patrolLine (s : State) (i : SetId) (st a : Nat) : State :=
  (List.range 8).foldl (fun s j =>
    let w := a + 32 * j
    if chkOf s i w = 0 then s
    else
      let (d, bad, s) := readWord s i w
      if bad then patrolBad s i st w else store s i w d) s

/-- PATROL_READ (R267 to R269, R261): the next line of a stack that is not WARM; with the last line the pass is complete. -/
def execPatrolRead (i : SetId) (stack : StackId) (s : State) : Out :=
  let st := stack.val
  let p := patrolOf s i st
  match p.next with
  | none => .next s
  | some a =>
    if fenced s i st ∨ s.fld i .MEM_HBM_TEMPs_LEVEL st ≠ 0 ∨ stackQuiet s i (st * 0x18_0000_0000) then .next s
    else
      let s := if patrolSkips s i a then s else patrolLine s i st a
      if a + 256 < (st + 1) * 0x18_0000_0000 then .next (settle (setPatrol s i st { p with next := some (a + 256) }) i)
      else
        let s := s.addFld i .MEM_HBM_PATROL_PASSES 0 1
        .next (settle (setPatrol s i st { next := if p.due then some (st * 0x18_0000_0000) else none, due := false }) i)

/-! ## Loopback (R270) -/

/-- GO of MEM_HBM_LBs with the values of MODE, CHAN and DUR_MS (R270, Table 9-7): the run starts, or is refused. -/
def startLoopback (s : State) (i : SetId) (st : Nat) : State :=
  let d := s.fld i .MEM_HBM_LBs_DUR_MS st
  let open_ := (fenced s i st || !(s.st i).locked) && !(s.st i).selfRef
  if d = 0 ∨ 10000 < d ∨ !open_ ∨ s.fld i .MEM_HBM_LBs_MODE st = 0 ∨ s.fld i .MEM_HBM_LBs_BUSY st = 1 then s.setFld i .MEM_HBM_LBs_RESULT st 3
  else
    let s := s.setFld i .MEM_HBM_LBs_RESULT st 0
    let s := s.setFld i .MEM_HBM_LBs_ERRCNT st 0
    let s := s.setFld i .MEM_HBM_LBs_LANE st 0
    s.setFld i .MEM_HBM_LBs_BUSY st 1

/-- LOOPBACK_GO (R270): a write of MODE, CHAN and DUR_MS with GO. -/
def execLoopbackGo (i : SetId) (stack : StackId) (mode : Fin 4) (chan : Fin 32) (durMs : Nat) (s : State) : Out :=
  let st := stack.val
  let s := s.setFld i .MEM_HBM_LBs_MODE st mode.val
  let s := s.setFld i .MEM_HBM_LBs_CHAN st chan.val
  .next (startLoopback (s.setFld i .MEM_HBM_LBs_DUR_MS st durMs) i st)

/-- LOOPBACK_END (R270): the run ends with the bit errors counted and the first failing lane. -/
def execLoopbackEnd (i : SetId) (stack : StackId) (errors lane : Nat) (s : State) : Out :=
  let st := stack.val
  if s.fld i .MEM_HBM_LBs_BUSY st ≠ 1 then .next s
  else
    let s := s.setFld i .MEM_HBM_LBs_BUSY st 0
    let s := s.setFld i .MEM_HBM_LBs_ERRCNT st (min errors 0xFFFF)
    let s := s.setFld i .MEM_HBM_LBs_LANE st (if errors = 0 then 0 else lane)
    .next (s.setFld i .MEM_HBM_LBs_RESULT st (if errors = 0 then 1 else 2))

end Sys2Proof.Machine
end

