-- ==== Sys2Proof/Machine/Link.lean ====
section
/-! DEFINITION. Links: ports, training and discovery, flits, replay, loss (12.1 to 12.8). -/

namespace Sys2Proof.Machine

/-- Counts a link event in the almanac (Table 16-2): per port 8 bytes of replays, 4 of retrains, 4 of losses. -/
def almLink (s : State) (i : SetId) (p off n : Nat) : State := s.addAlm (8048 + 80 * i.val + 16 * p + off) n 1

/-! ## Ports -/

/-- The link layer of a port. -/
def lport (s : State) (i : SetId) (p : Nat) : LinkPort := SMap.get {} (s.st i).links p

/-- Change the link layer of a port. -/
def onLink (s : State) (i : SetId) (p : Nat) (f : LinkPort → LinkPort) : State :=
  s.onSet i fun t => { t with links := SMap.upd {} t.links p f }

/-- STATE of a port (Table 12-7). -/
def portState (s : State) (i : SetId) (p : Nat) : Nat := s.fld i .LINK_PORTp_STAT_0_STATE p

/-- A port has settled: it is ACTIVE or retrains, was refused, is off or unused, or has been reported missing (R340). -/
def portSettled (s : State) (i : SetId) (p : Nat) : Bool :=
  [0, 1, 7, 8, 9].contains (portState s i p) || (portState s i p == 2 && s.fld i .LINK_PORTp_STAT_0_MISSING p == 1)

/-- All ports of a set have settled. -/
def portsSettled (s : State) (i : SetId) : Bool := (List.range 5).all (portSettled s i)

/-- A set whose ports have now settled reports its port table to the lowest place of its circle (R340). -/
def reportTable (old s : State) (i : SetId) : State :=
  if portsSettled old i ∨ !portsSettled s i ∨ places s i = 0 then s
  else
    let up (l : Nat) : Bool := portActive s i (physPort s i (wayPort s i l))
    s.emit .portTable i.val [myPlace s i, s.fld i .LINK_IDENT_STRAP + 2 ^ 18 * i.val, bitOf (up 0) + 2 * bitOf (up 1)]

/-- Set STATE of a port. -/
def setPort (s : State) (i : SetId) (p v : Nat) : State :=
  reportTable s (showStage (s.setFld i .LINK_PORTp_STAT_0_STATE p v)) i

/-- The logical port that a physical port serves (R339). -/
def logPort (s : State) (i : SetId) (p : Nat) : Nat := s.fld i .LINK_PORTp_STAT_0_LPORT p

/-- The logical port of a route code (Table 12-1). -/
def routePort (c : Nat) : Option Nat :=
  match c with
  | 1 => some 1
  | 2 => some 0
  | 3 => some 2
  | 4 => some 3
  | 5 => some 4
  | _ => none

/-- A feature is in force on a port (Table 12-10). -/
def featOn (s : State) (i : SetId) (p n : Nat) : Bool := bit (s.fld i .LINK_PORTp_STAT_1_FEAT p) n

/-- Bundles of a port (Table 12-1). -/
def bundlesOf (p : Nat) : Nat := if p < 2 then 8 else if p < 4 then 2 else 32

/-- Active bundles. -/
def bundleCount (s : State) (i : SetId) (p : Nat) : Nat :=
  ((List.range 32).filter fun b => bit (s.fld i .LINK_PORTp_STAT_0_BUNDLES p) b).length

/-- DETAIL of a link fault (R347): the logical port in bits 2:0, the peer's location, set index and port, when known, from bit 8. -/
def linkDetail (s : State) (i : SetId) (p : Nat) : Nat :=
  logPort s i p + 256 * (s.fld i .LINK_PORTp_STAT_1_PEER_LOC p + 2 ^ 18 * s.fld i .LINK_PORTp_STAT_1_PEER_SET p +
    2 ^ 19 * s.fld i .LINK_PORTp_STAT_1_PEER_PORT p)

/-- A fault of a port (Table 12-11), under the event bit that shows it. -/
def linkFault (s : State) (i : SetId) (p : Nat) (c : FC) (ev : Option Field) : State :=
  let s := match ev with | some f => s.setFld i f p 1 | none => s
  report s i { c.fr with die := linkDie i, unit := p, detail := linkDetail s i p }

/-! ## Fabric time (12.9) -/

/-- The route code of the parent port in use (R346). -/
def parentCode (s : State) (i : SetId) : Nat :=
  if (s.st i).altParent then s.fld i .LINK_FT_CFG_ALT else s.fld i .LINK_FT_CFG_PARENT

/-- The physical port from which the set takes time. -/
def parentPort (s : State) (i : SetId) : Option Nat := (routePort (parentCode s i)).map (physPort s i)

/-- F_TIME_HOLDOVER (R346). -/
def holdoverReport (s : State) (i : SetId) : State :=
  report (s.setFld i .LINK_FT_STAT_HOLD 0 1) i { FC.timeHoldover.fr with die := linkDie i }

/-- The set runs in holdover when the link to its parent is lost (R346). -/
def holdover (s : State) (i : SetId) (p : Nat) : State :=
  if s.fld i .LINK_FT_STAT_STATE = 1 ∧ parentPort s i = some p then holdoverReport (s.setFld i .LINK_FT_STAT_STATE 0 2) i else s

/-! ## Flits out (12.3, R329, R333) -/

/-- Flits that a port's replay store holds (R333). -/
def storeSize (p : Nat) : Nat := if p < 2 then 16384 else if p < 4 then 4096 else 1024

/-- Flits of a class that the receiving port buffers (Table 12-5). -/
def classRoom (p c : Nat) : Nat := if c = 0 then (if p < 2 then 4096 else 2048) else if c < 3 then 512 else if c = 3 then 256 else 128

/-- Flits of class 0 that the receive buffer of a port still holds: those of its frames that are yet to be forwarded or consumed, but
for what waits in the fold reserve, and of the frame that is arriving (R167, R217). -/
def heldFlits (s : State) (i : SetId) (p : Nat) : Nat :=
  ((circ s i).buf.filterMap fun f =>
    if f.via = some p ∧ !(f.saved.isSome && f.fwd.isEmpty) then some ((f.h.len + 13) / 13) else none).foldl (· + ·) 0 +
    match SMap.get none (lport s i p).parts 0 with
    | some f => f.words.length / 13
    | none => 0

/-- The cumulative count of flits of a class that a port has freed (R329): those accepted, but for those of class 0 that its buffer still
holds. -/
def freedOf (s : State) (i : SetId) (p c : Nat) : Nat :=
  (SMap.get 0 (lport s i p).accepted c + 65536 - if c = 0 then heldFlits s i p % 65536 else 0) % 65536

/-- The receive buffer of a port is full: it withholds data-channel credits (R167). -/
def bufferFull (s : State) (i : SetId) (p : Nat) : Bool := classRoom p 0 ≤ heldFlits s i p

/-- The bytes of a flit (Tables 12-3, 12-4): header up to SEQ, payload, then what the moment of sending gives. -/
def flitBytes (s : State) (i : SetId) (p : Nat) (head : List Byte) (seq nak : Nat) (payload : List Byte) (tstype tsseq stamp : Nat) : List Byte :=
  let l := lport s i p
  let b := slice head 0 2 ++ leBytes 2 seq ++ leBytes 2 (l.rxSeq + 65535) ++ leBytes 1 nak ++ leBytes 1 0 ++ slice head 8 8 ++
    slice payload 0 468 ++ (List.range 5).flatMap (fun c => leBytes 2 (freedOf s i p c)) ++
    leBytes 8 stamp ++ leBytes 1 tstype ++ leBytes 1 tsseq
  b ++ leBytes 8 (crc64 b)

/-- An IDLE flit carries ACK, credits and time (R327); it may carry NAK, DOWN or a step of a time exchange. -/
def sendIdle (s : State) (i : SetId) (p : Nat) (nak down : Bool) (tstype tsseq stamp : Nat) : State :=
  s.emit .flit i.val [p] (flitBytes s i p (leBytes 1 (7 + 32 * bitOf down)) (lport s i p).txSeq (bitOf nak) [] tstype tsseq stamp)

/-- A stored flit is sent, with the TSTAMP and the CRC of this sending (R333). -/
def sendStored (s : State) (i : SetId) (p : Nat) (e : Nat × List Byte) : State :=
  s.emit .flit i.val [p] (flitBytes s i p e.2 e.1 0 (slice e.2 16 468) 0 0 (s.time i))

/-- A class has room at the receiver (R329). -/
def hasCredit (s : State) (i : SetId) (p c : Nat) : Bool :=
  (SMap.get 0 (lport s i p).sent c + 65536 - SMap.get 0 (lport s i p).peerFreed c) % 65536 < classRoom p c

/-- The order in which a Pot link sends data flits and flits of the other channels while data flits wait: of every hundred, at most one
of the others (R322). `run` counts the data flits since the last one; the first argument bounds the list. -/
def potOrder : Nat → Nat → List (Nat × List Byte) → List (Nat × List Byte) → List (Nat × List Byte)
  | 0, _, d, c => d ++ c
  | n + 1, run, d, c =>
    match d, c with
    | [], c => c
    | d, [] => d
    | x :: d, y :: c => if 99 ≤ run then y :: potOrder n 0 (x :: d) c else x :: potOrder n (run + 1) d (y :: c)

/-- The order in which a port's waiting flits are tried. -/
def sendOrder (s : State) (i : SetId) (p : Nat) : List (Nat × List Byte) :=
  let l := (lport s i p).waiting
  let data (e : Nat × List Byte) : Bool := e.1 < 3 && hasCredit s i p e.1
  if p = 4 then potOrder l.length (lport s i p).dataRun (l.filter data) (l.filter fun e => !data e) else l

/-- The flits that wait go out in order: one that lacks credit holds the later flits of its class only, and a full replay store holds
all (R329, R333). -/
def sendFlits (s : State) (i : SetId) (p : Nat) : State :=
  if !portActive s i p then s
  else
    let l := sendOrder s i p
    let s := onLink s i p fun l => { l with waiting := [] }
    l.foldl (fun s e =>
      let q := lport s i p
      if q.waiting.any (fun w => w.1 == e.1) ∨ storeSize p ≤ q.store.length ∨ !hasCredit s i p e.1 then
        onLink s i p fun l => { l with waiting := l.waiting ++ [e] }
      else
        let s := sendStored s i p (q.txSeq, e.2)
        onLink s i p fun l => { l with store := l.store ++ [(l.txSeq, e.2)], txSeq := (l.txSeq + 1) % 65536
                                       sent := SMap.upd 0 l.sent e.1 fun n => (n + 1) % 65536
                                       dataRun := if e.1 < 3 then l.dataRun + 1 else 0 }) s

/-- The flits of a frame (R327), 13 words to a flit, from SOF to EOF. -/
def frameFlits (c dest src : Nat) (words : List (List Byte)) : List (Nat × List Byte) :=
  let n := (words.length + 12) / 13
  (List.range n).map fun j =>
    let w := (words.drop (13 * j)).take 13
    (c, leBytes 1 (c + 8 * bitOf (j = 0) + 16 * bitOf (j + 1 = n)) ++ leBytes 1 w.length ++ leBytes 6 0 ++ leBytes 4 dest ++
      leBytes 4 src ++ slice w.flatten 0 468)

/-! ## Routing (R330, R331) -/

/-- The way along a line toward a place: route code 1 sunwise, 2 widdershins, 7 none. -/
def lineRoute (line : List Nat) (p q : Nat) : Nat :=
  if !line.contains q ∨ !line.contains p then 7 else if line.idxOf p < line.idxOf q then 1 else 2

/-- A route code leads to a port that is not lost. -/
def routeUp (s : State) (i : SetId) (c : Nat) : Bool :=
  match routePort c with
  | some l => portActive s i (physPort s i (wayPort s i l))
  | none => false

/-- The route code toward another set (R330); 7 for none. -/
def routeTo (s : State) (i : SetId) (dest : Nat) : Nat :=
  let c := dest / 256
  let q := dest % 256
  let p := myPlace s i
  let n := places s i
  let r :=
    if c = s.fld i .CIRC_CFG_CIRCLE then
      if (circ s i).line.isEmpty then (if (q + n - p) % n ≤ n / 2 then 1 else 2) else lineRoute (circ s i).line p q
    else if s.fld i .LINK_RTc_VALID c = 0 then 7
    else if routeUp s i (s.fld i .LINK_RTc_PORT c) then s.fld i .LINK_RTc_PORT c else s.fld i .LINK_RTc_ALT c
  if routeUp s i r then r else 7

/-- Leaving by a logical port crosses a dateline edge (R330). -/
def datelineOut (s : State) (i : SetId) (l : Nat) : Bool :=
  let n := places s i
  (l == 1 && myPlace s i + 1 == n) || (l == 0 && myPlace s i == 0) ||
    ((l == 2 || l == 3) && s.fld i .LINK_PORTp_CFG_0_DATELINE l == 1)

/-- The class in which a frame goes on (R330): a data frame returns to D0 when it passes between circle and other ports, and is D1
from a dateline edge. -/
def classOn (s : State) (i : SetId) (c from_ dest : Nat) : Nat :=
  if c = 1 ∨ c = 2 then
    let c := if decide (from_ < 2) != decide (dest < 2) then 1 else c
    if datelineOut s i dest then 2 else c
  else c

/-- A frame is discarded (R331): NOROUTE goes to its originator when a route to it remains. -/
def discardFrame (s : State) (i : SetId) (c src : Nat) : State :=
  if (c = 1 ∨ c = 2 ∨ c = 3) ∧ (src = s.place i ∨ routeTo s i src ≠ 7) then s.emit .noRoute i.val [src, c] else s

/-- A frame of classes 1 to 4 for another set goes on (R330). -/
def forwardFrame (s : State) (i : SetId) (p c : Nat) (f : PartFrame) : State :=
  match routePort (routeTo s i f.dest) with
  | none => discardFrame s i c f.src
  | some l =>
    let out := physPort s i (wayPort s i l)
    let c' := classOn s i c (dirOf s i (logPort s i p)) (dirOf s i l)
    if c' = 2 ∧ !featOn s i out 1 then discardFrame s i c f.src
    else sendFlits (onLink s i out fun x => { x with waiting := x.waiting ++ frameFlits c' f.dest f.src f.words }) i out

/-! ## Loss (R335) -/

/-- What a lost link held is discarded (R331): frames in its buffers, frames waiting for it and frames in its replay store. -/
def dropLink (s : State) (i : SetId) (p : Nat) : State :=
  let l := lport s i p
  let outs := ((l.store.map (·.2)) ++ l.waiting.map (·.2)).filter fun d => bit (leAt d 0 1) 3
  let ins := l.parts.filterMap fun e => e.2.map fun f => (e.1, f.src)
  let s := onLink s i p fun l => { alignAt := l.alignAt, tsSeq := l.tsSeq }
  let s := onFrames s i (fun f => f.via == some p) fun f => { f with via := none }
  let s := outs.foldl (fun s d => discardFrame s i (leAt d 0 1 % 8) (leAt d 12 4)) s
  ins.foldl (fun s e => discardFrame s i e.1 e.2) s

/-- The place at the far end of a logical circle port. -/
def neighbour (s : State) (i : SetId) (l : Nat) : Nat :=
  let n := places s i
  if l = 1 then (myPlace s i + 1) % n else (myPlace s i + n - 1) % n

/-- The circle link of a logical circle port: link j joins places j and j + 1. -/
def circleLink (s : State) (i : SetId) (l : Nat) : Nat := if l = 1 then myPlace s i else neighbour s i 0

/-- A neighbour set is lost (R335, R431): F_SET_LOST, and its circle folds or stops. -/
def setGone (s : State) (i : SetId) (q : Nat) : State :=
  if (circ s i).gone.contains q ∨ q = myPlace s i ∨ places s i ≤ q then s
  else
    let s := report s i { FC.setLost.fr with die := linkDie i, detail := q }
    beginFold s i { cuts := [], gone := [q], stand := [] }

/-- The place at the far end stands at the end of the line, so this link was its only one (R335). -/
def lineEnd (s : State) (i : SetId) (q : Nat) : Bool :=
  let l := (circ s i).line
  !l.isEmpty && (l.head? == some q || l.getLast? == some q)

/-- A link is lost (R335, Table 12-6): F_LINK_LOST; what it held goes; a circle link folds the circle or stops it; routes switch to
ALT by the port's state; holdover when it led to the parent. The port detects again, or stays DISABLED. -/
def loseLink (s : State) (i : SetId) (p : Nat) : State :=
  if portState s i p < 3 ∨ portState s i p = 9 then s
  else
    let up := portState s i p = 7 ∨ portState s i p = 8
    let s := report (s.setFld i .LINK_PORTp_EVT_LOST p 1) i { FC.linkLost.fr with
      action := if dirOf s i (logPort s i p) < 2 then 6 else 0, die := linkDie i, unit := p, detail := linkDetail s i p }
    let s := almLink s i p 12 4
    let s := setPort s i p (if s.fld i .LINK_PORTp_CTL_DISABLE p = 1 ∨ (s.st i).lost then 0 else 2)
    let s := dropLink s i p
    let s := if up then holdover s i p else s
    let l := dirOf s i (logPort s i p)
    if up ∧ l < 2 ∧ !(s.st i).lost then
      if lineEnd s i (neighbour s i l) then setGone s i (neighbour s i l)
      else beginFold s i { cuts := (circDirs s i (logPort s i p)).map (circleLink s i), gone := [], stand := [] }
    else s

/-- The peer's set has sent DOWN (R335): the link is lost, and so is the set at its far end. -/
def downReceived (s : State) (i : SetId) (p : Nat) : State :=
  let s := s.setFld i .LINK_PORTp_EVT_DOWN_RX p 1
  let l := dirOf s i (logPort s i p)
  let s := if l < 2 ∧ portActive s i p then setGone s i (neighbour s i l) else s
  loseLink s i p

/-- SET_LOSS_CONFIRM (R335): both neighbours of a place confirm that its two circle links were lost within 100 µs of each other. -/
def execSetLossConfirm (i : SetId) (place : Nat) (s : State) : Out :=
  .next (if (s.st i).lost then s else settle (setGone s i place) i)

/-- DOWN_END (R335, R431): after 1 ms of DOWN the link die of a lost set turns its transmitters off; of a lost package, its rails go. -/
def execDownEnd (i : SetId) (s : State) : Out :=
  .next (if (s.st i).lost then
      let s := (List.range 5).foldl (fun s p =>
        let s := loseLink s i p
        if portState s i p = 0 then s else (setPort s i p 0).emit .linkOff i.val [p]) s
      if s.pkgLost then cutRails s i else s
    else s)

/-! ## Bundles and retraining (R325, R334) -/

/-- A bundle is excluded (R325): F_LINK_DEGRADED. Without the feature the width is whole or half (Table 12-10). -/
def excludeBundle (s : State) (i : SetId) (p b : Nat) : State :=
  let m := s.fld i .LINK_PORTp_STAT_0_BUNDLES p
  if !bit m b then s
  else
    let m := putBits m b 1 0
    let half := bundlesOf p / 2
    let on := (List.range 32).filter fun x => bit m x
    let m := if featOn s i p 2 ∨ on.length < half ∨ portState s i p < 7 then m
      else (on.take half).foldl (fun a x => a + 2 ^ x) 0
    linkFault (s.setFld i .LINK_PORTp_STAT_0_BUNDLES p m) i p .linkDegraded (some .LINK_PORTp_EVT_DEGRADED)

/-- Fewer bundles than the port may run on (R325, Table 12-10). -/
def tooFew (s : State) (i : SetId) (p : Nat) : Bool :=
  bundleCount s i p < s.fld i .LINK_PORTp_CFG_0_MIN_BUNDLES p ||
    (portState s i p ≥ 7 && !featOn s i p 2 && bundleCount s i p < bundlesOf p / 2)

/-- A retrain is triggered (R334): without fast retrain it is a loss. SEQ state, replay store, credits and buffers stay; a time
exchange in progress is discarded (R344). -/
def triggerRetrain (s : State) (i : SetId) (p : Nat) : State :=
  if portState s i p ≠ 7 then s
  else if !featOn s i p 4 then loseLink s i p
  else onLink ((almLink (setPort s i p 8) i p 8 4).satFld i .LINK_PORTp_CNT_1_RETRAINS p 1) i p fun l => { l with exch := none, nakCount := 0 }

/-- FEC_ALIGN_LOSS (R325, R334): the second loss of a bundle within 1 s excludes it; each loss triggers a retrain. -/
def execFecAlignLoss (i : SetId) (port : PortId) (bundle : Fin 32) (s : State) : Out :=
  let p := port.val
  let b := bundle.val
  if portState s i p ≠ 7 ∨ !bit (s.fld i .LINK_PORTp_STAT_0_BUNDLES p) b then .next s
  else
    let now := s.time i
    let last := SMap.get 0 (lport s i p).alignAt b
    let s := onLink s i p fun l => { l with alignAt := SMap.put 0 l.alignAt b (now + 1) }
    let s := if last ≠ 0 ∧ now + 1 < last + 1000000000 then excludeBundle s i p b else s
    .next (settle (if tooFew s i p then loseLink s i p else triggerRetrain s i p) i)

/-- CRC_SILENCE (R334): no flit has passed its CRC for 2 µs. -/
def execCrcSilence (i : SetId) (port : PortId) (s : State) : Out := .next (settle (triggerRetrain s i port.val) i)

/-- Write RETRAIN (R334): ignored unless ACTIVE. An excluded bundle may return through it (R325). -/
def askRetrain (s : State) (i : SetId) (p : Nat) : State :=
  if portState s i p ≠ 7 then s else triggerRetrain (onLink s i p fun l => { l with asked := true }) i p

/-- PORT_RETRAIN (R334). -/
def execPortRetrain (i : SetId) (port : PortId) (s : State) : Out := .next (settle (askRetrain s i port.val) i)

/-- Every stored flit is sent again (R333, R334). -/
def replayAll (s : State) (i : SetId) (p : Nat) : State :=
  (lport s i p).store.foldl (fun s e => sendStored s i p e) s

/-- RETRAIN (R334): a retrain, of this end or joined for the peer, has succeeded on these bundles; the others are excluded (R325),
and replay goes on from ACK + 1. -/
def execRetrain (i : SetId) (port : PortId) (bundles : Nat) (s : State) : Out :=
  let p := port.val
  let s := triggerRetrain s i p
  if portState s i p ≠ 8 then .next s
  else
    let all := 2 ^ bundlesOf p - 1
    let s := if (lport s i p).asked then s.setFld i .LINK_PORTp_STAT_0_BUNDLES p (s.fld i .LINK_PORTp_STAT_0_BUNDLES p ||| (bundles &&& all)) else s
    let s := onLink s i p fun l => { l with asked := false }
    let s := (List.range (bundlesOf p)).foldl (fun s b => if bit bundles b then s else excludeBundle s i p b) s
    .next (settle (if tooFew s i p then loseLink s i p else sendFlits (replayAll (setPort s i p 7) i p) i p) i)

/-- RETRAIN_TIMEOUT (R335, R264): the retrain of a port, or of a stack's Pot link, has not completed 18 µs after its trigger. The port's
link is lost; the stack is fenced with cause LINK. -/
def execRetrainTimeout (i : SetId) (link : LinkEnd) (s : State) : Out :=
  match link with
  | .port p => .next (if portState s i p.val = 8 then settle (loseLink s i p.val) i else s)
  | .stack st => .next (if (s.st i).lost ∨ (s.st i).selfRef then s else settle (fenceStack s i st.val 2) i)

/-! ## Training and discovery (12.6) -/

/-- A port starts to train (Table 12-7, R343): what the last run of it left goes; a port planned unused only detects. -/
def startPort (s : State) (i : SetId) (p : Nat) : State :=
  let s := dropLink s i p
  let s := onLink s i p fun _ => { tsSeq := (lport s i p).tsSeq }
  let s := s.setFld i .LINK_PORTp_STAT_0_VER p 0
  let s := s.setFld i .LINK_PORTp_STAT_0_BUNDLES p (2 ^ bundlesOf p - 1)
  let s := s.setFld i .LINK_PORTp_STAT_0_LPORT p p
  let s := s.setFld i .LINK_PORTp_STAT_0_REMAPPED p 0
  let s := s.setFld i .LINK_PORTp_STAT_0_MISSING p 0
  let s := [Field.LINK_PORTp_STAT_1_PEER_LOC, .LINK_PORTp_STAT_1_PEER_SET, .LINK_PORTp_STAT_1_PEER_PORT, .LINK_PORTp_STAT_1_FEAT,
    .LINK_PORTp_STAT_1_PEER_FW, .LINK_PORTp_STAT_1_PEER_3400].foldl (fun s f => s.setFld i f p 0) s
  setPort s i p (if s.fld i .LINK_PORTp_CTL_DISABLE p = 1 then 0 else if s.fld i .LINK_PORTp_CFG_0_PLANNED p = 1 then 2 else 1)

/-- The management processor releases the link die (12.6). -/
def releasePorts (s : State) (i : SetId) : State := (List.range 5).foldl (fun s p => startPort s i p) s

/-- Write RESCAN (R343): a port that is ACTIVE ignores it; one held DISABLED stays so. -/
def rescan (s : State) (i : SetId) (p : Nat) : State :=
  if portState s i p = 7 ∨ s.fld i .LINK_PORTp_CTL_DISABLE p = 1 ∨ (s.st i).lost then s
  else startPort (if portState s i p = 8 then loseLink s i p else s) i p

/-- PORT_RESCAN (R343). -/
def execPortRescan (i : SetId) (port : PortId) (s : State) : Out := .next (settle (rescan s i port.val) i)

/-- Write DISABLE (R335): 1 loses the link and holds the port DISABLED; 0 releases it to detect. -/
def writeDisable (s : State) (i : SetId) (p : Nat) (on : Bool) : State :=
  let was := s.fld i .LINK_PORTp_CTL_DISABLE p
  let s := s.setFld i .LINK_PORTp_CTL_DISABLE p (bitOf on)
  if on then setPort (loseLink s i p) i p 0
  else if was = 1 ∧ !(s.st i).lost then startPort s i p else s

/-- PORT_DISABLE (R335). -/
def execPortDisable (i : SetId) (port : PortId) (s : State) : Out := .next (settle (writeDisable s i port.val true) i)

/-- PORT_SIGNAL_DETECT (R338, Table 12-7). -/
def execPortSignalDetect (i : SetId) (port : PortId) (s : State) : Out :=
  let p := port.val
  .next (if portState s i p = 2 then setPort s i p 3
    else if portState s i p = 1 then linkFault s i p .linkExtra (some .LINK_PORTp_EVT_EXTRA)
    else s)

/-- Bundles that fail training are excluded; a port left with too few is lost (R325, R335). -/
def trained (s : State) (i : SetId) (p bundles next : Nat) : State :=
  let s := (List.range (bundlesOf p)).foldl (fun s b => if bit bundles b then s else excludeBundle s i p b) s
  if tooFew s i p then loseLink s i p else setPort s i p next

/-- PORT_EQUALISE_DONE (Table 12-7). -/
def execPortEqualiseDone (i : SetId) (port : PortId) (bundles : Nat) (s : State) : Out :=
  .next (if portState s i port.val = 3 then trained s i port.val bundles 4 else s)

/-- The identity record of a port (Table 12-8). -/
def identBytes (s : State) (i : SetId) (p : Nat) (plan : List Byte) : List Byte :=
  leBytes 2 0x4820 ++ leBytes 1 (s.fld i .LINK_CAP_QLPV) ++ leBytes 1 p ++
    leBytes 4 (s.fld i .LINK_IDENT_STRAP + 2 ^ 18 * i.val + 2 ^ 19 * s.fld i .LINK_IDENT_STRAP_VALID) ++ leBytes 4 s.fwVer ++
    leBytes 4 (s.fld i .LINK_CAP_FEAT) ++ leBytes 4 (s.fld i .LINK_PORTp_STAT_0_BUNDLES p) ++
    leBytes 4 (s.fld i .CIRC_CFG_CIRCLE + 2 ^ 10 * s.fld i .CIRC_CFG_PLACE + 2 ^ 18 * bitOf (s.fld i .CIRC_CFG_N = 0)) ++
    slice plan 0 8 ++ List.replicate 32 0

/-- PORT_ALIGN_DONE (Table 12-7, R336): the identity record goes out. -/
def execPortAlignDone (i : SetId) (port : PortId) (bundles : Nat) (s : State) : Out :=
  let p := port.val
  if portState s i p ≠ 4 then .next s
  else
    let s := trained s i p bundles 5
    .next (if portState s i p = 5 then s.emit .linkIdent i.val [p] (identBytes s i p s.cardDigest) else s)

/-- A port refuses its peer (Table 12-9). -/
def refusePort (s : State) (i : SetId) (p : Nat) (c : FC) (ev : Option Field) : State := setPort (linkFault s i p c ev) i p 9

/-- The QLP version that a port runs with its peer (R341): the highest common, 0 for none. -/
def commonVer (s : State) (i : SetId) (rec : List Byte) : Nat :=
  let v := s.fld i .LINK_CAP_QLPV &&& leAt rec 2 1
  if bit v 1 then 2 else if bit v 0 then 1 else 0

/-- The features in force (R341, Table 12-10): QLP 1.2 has none. -/
def commonFeat (s : State) (i : SetId) (rec : List Byte) : Nat :=
  if commonVer s i rec = 2 then s.fld i .LINK_CAP_FEAT &&& leAt rec 12 4 else 0

/-- A port goes to CONFIG: it sends its CONFIG record (R336), with the time of flight measured in IDENT. -/
def toConfig (s : State) (i : SetId) (p : Nat) (rec : List Byte) : State :=
  (setPort s i p 6).emit .linkConfig i.val
    [p, commonVer s i rec, commonFeat s i rec, logPort s i p, s.fld i .LINK_PORTp_STAT_0_REMAPPED p, (lport s i p).tof]

/-- The peer set that a record names: location and set index. -/
def recPeer (rec : List Byte) : Nat := leAt rec 4 4 % 2 ^ 19

/-- The planned peer set of a logical port. -/
def planPeer (s : State) (i : SetId) (l : Nat) : Nat := s.fld i .LINK_PORTp_CFG_0_PEER_LOC l + 2 ^ 18 * s.fld i .LINK_PORTp_CFG_0_PEER_SET l

/-- The ports of one kind (R339): the two circle ports, or XA with XB. -/
def kindPorts (p : Nat) : List Nat := if p < 2 then [0, 1] else if p < 4 then [2, 3] else [4]

/-- A port has finished IDENT, or has been reported missing, or is planned unused. -/
def identDone (s : State) (i : SetId) (p : Nat) : Bool :=
  s.fld i .LINK_PORTp_CFG_0_PLANNED p == 0 || (lport s i p).ident.isSome || s.fld i .LINK_PORTp_STAT_0_MISSING p == 1

/-- The physical ports of a kind whose peer set is the planned peer of a logical port. -/
def foundOn (s : State) (i : SetId) (l : Nat) : List Nat :=
  (kindPorts l).filter fun p => match (lport s i p).ident with | some r => recPeer r == planPeer s i l | none => false

/-- The remap of a kind (R339): each planned logical port with its physical port; none unless every planned peer was found on exactly
one physical port. -/
def remapOf (s : State) (i : SetId) (p : Nat) : Option (List (Nat × Nat)) :=
  let ls := (kindPorts p).filter fun l => s.fld i .LINK_PORTp_CFG_0_PLANNED l == 1
  let m := ls.map fun l => (l, foundOn s i l)
  if m.all fun e => e.2.length == 1 then some (m.flatMap fun e => e.2.map fun q => (e.1, q)) else none

/-- A port in IDENT whose peer differs from the plan, once its kind has settled (Table 12-9, R339): remapped, or accepted as it is when
only the peer's port differs (its CONFIG record decides), or refused. -/
def settlePort (s : State) (i : SetId) (p : Nat) : State :=
  match (lport s i p).ident with
  | none => s
  | some r =>
    if portState s i p ≠ 5 then s
    else
      let lp := if ¬ (p < 4 ∧ s.fld i .LINK_PORTp_CFG_0_ACCEPT_ANY p = 1) then none
        else if recPeer r = planPeer s i p then some p
        else (remapOf s i p).bind fun m => (m.find? fun e => e.2 == p).map (·.1)
      match lp with
      | none => refusePort s i p .linkCrossed (some .LINK_PORTp_EVT_CROSSED)
      | some l =>
        if l = p then toConfig s i p r
        else
          let s := s.setFld i .LINK_PORTp_STAT_0_LPORT p l
          let s := s.setFld i .LINK_PORTp_STAT_0_REMAPPED p 1
          toConfig (linkFault s i p .linkCrossed (some .LINK_PORTp_EVT_CROSSED)) i p r

/-- A kind is decided when all its ports have finished IDENT or are missing (R339). -/
def settleKind (s : State) (i : SetId) (p : Nat) : State :=
  if (kindPorts p).all fun q => identDone s i q then (kindPorts p).foldl (fun s q => settlePort s i q) s else s

/-- PORT_MISSING (R338): no signal after DETECT × 10 ms. -/
def execPortMissing (i : SetId) (port : PortId) (s : State) : Out :=
  let p := port.val
  if portState s i p ≠ 2 then .next s
  else
    let t := linkFault (s.setFld i .LINK_PORTp_STAT_0_MISSING p 1) i p .linkMissing (some .LINK_PORTp_EVT_MISSING)
    .next (showStage (settleKind (reportTable s t i) i p))

/-- A peer's identity record (R338, Table 12-9): the first row that matches decides. -/
def identArrives (s : State) (i : SetId) (p : Nat) (rec : List Byte) : State :=
  if portState s i p ≠ 5 ∨ (lport s i p).ident.isSome then s
  else
    let s := onLink s i p fun l => { l with ident := some rec }
    let loc := leAt rec 4 4
    let s := s.setFld i .LINK_PORTp_STAT_1_PEER_LOC p loc
    let s := s.setFld i .LINK_PORTp_STAT_1_PEER_SET p (loc / 2 ^ 18)
    let s := s.setFld i .LINK_PORTp_STAT_1_PEER_PORT p (leAt rec 3 1)
    let s := s.setFld i .LINK_PORTp_STAT_1_PEER_FW p (leAt rec 8 4)
    let s := s.setFld i .LINK_PORTp_STAT_1_PEER_3400 p (bitOf (leAt rec 0 2 = 0x3400))
    let s := s.setFld i .LINK_PORTp_STAT_1_FEAT p (commonFeat s i rec)
    let s :=
      if !bit loc 19 ∨ s.fld i .LINK_IDENT_STRAP_VALID = 0 then refusePort s i p .strapInvalid none
      else if commonVer s i rec = 0 then refusePort s i p .linkVersion (some .LINK_PORTp_EVT_VERSION)
      else if leAt rec 0 2 = 0x3400 ∧ s.fld i .LINK_PORTp_CFG_0_PEER_3400 p = 0 then
        refusePort s i p .linkCrossed (some .LINK_PORTp_EVT_CROSSED)
      else if leAt rec 0 2 = 0x4820 ∧ slice rec 24 8 ≠ slice s.cardDigest 0 8 then
        refusePort s i p .linkPlan (some .LINK_PORTp_EVT_PLAN)
      else if recPeer rec = planPeer s i p ∧ leAt rec 3 1 % 8 = s.fld i .LINK_PORTp_CFG_0_PEER_PORT p then toConfig s i p rec
      else s
    settleKind s i p

/-- IDENT_RECORD (R338). -/
def execIdentRecord (i : SetId) (port : PortId) (rec : List Byte) (s : State) : Out :=
  .next (identArrives s i port.val (slice rec 0 64))

/-- CONFIG_RECORD (R336, R338, R339, R341): the port goes ACTIVE, with its version, features and time of flight; a peer port that
differs is accepted only when the peer was remapped to the logical port expected. -/
def execConfigRecord (i : SetId) (port : PortId) (lp : Fin 8) (remapped : Bool) (tof : Nat) (s : State) : Out :=
  let p := port.val
  match (lport s i p).ident with
  | none => .next s
  | some rec =>
    if portState s i p ≠ 6 then .next s
    else
      let want := s.fld i .LINK_PORTp_CFG_0_PEER_PORT (logPort s i p)
      if !(leAt rec 3 1 % 8 = want ∧ (!remapped || lp.val == want)) ∧ !(remapped ∧ lp.val = want) then
        .next (refusePort s i p .linkCrossed (some .LINK_PORTp_EVT_CROSSED))
      else
        let s := s.setFld i .LINK_PORTp_STAT_0_VER p (commonVer s i rec)
        let s := s.setFld i .LINK_PORTp_STAT_0_TOF p tof
        let s := if leAt rec 8 4 ≠ s.fwVer % 2 ^ 32 then linkFault s i p .linkFwmix (some .LINK_PORTp_EVT_FWMIX) else s
        let s := if tof < s.fld i .LINK_PORTp_CFG_1_TOF_MIN p ∨ s.fld i .LINK_PORTp_CFG_1_TOF_MAX p < tof then
            linkFault s i p .linkLength (some .LINK_PORTp_EVT_LENGTH) else s
        .next (settle (setPort s i p 7) i)

/-- PORT_TABLE_REPORT (R340): the port table of a place, with its location and set index and which of its circle ports (bit 0
widdershins, bit 1 sunwise) reach their planned places, comes to the circle's lowest place. -/
def execPortTableReport (i : SetId) (place loc : Nat) (up : Fin 4) (s : State) : Out :=
  let l := loc % 2 ^ 19
  let twice := (circ s i).tables.any fun e => e.1 != place && (match e.2 with | some t => t.1 == l | none => false)
  let s := onCirc s i fun c => { c with tables := SMap.put none c.tables place (some (l, up.val)), dup := c.dup || twice }
  .next (if twice then report s i { FC.strapDup.fr with die := linkDie i, detail := l } else s)

end Sys2Proof.Machine
end

