-- ==== Sys2Proof/Machine/Flits.lean ====
section
/-! DEFINITION. Flits in, fabric time, and answers that do not come (12.3 to 12.5, 12.9, R331). -/

namespace Sys2Proof.Machine

/-! ## Fabric time (R344 to R346) -/

/-- The asymmetry trim of a port, 0.01 ns, from the calibration block in force (Table 16-3); 0 without a valid block (R447). -/
def asymTrim (s : State) (i : SetId) (p : Nat) : Int :=
  if s.pfld .ALM_STAT_CAL_BAD = 1 then 0 else signed 16 (leNat (readMem s.cal (3840 + 10 * i.val + 2 * p) 2))

/-- The port's exchanges set the set's time: it leads to the parent, and the set is no root. -/
def takesTime (s : State) (i : SetId) (p : Nat) : Bool := s.fld i .LINK_FT_STAT_STATE != 3 && parentPort s i == some p

/-- A SYNC reaches the child (R344): it notes t2 and sends DREQ, stamped t3. The root takes no time. In IDENT the exchanges measure the
time of flight of any port (Table 12-7). -/
def timeSync (s : State) (i : SetId) (p seq t1 : Nat) : State :=
  if (!takesTime s i p ∧ portState s i p ≠ 5) ∨ portState s i p < 5 ∨ 7 < portState s i p then s
  else
    let t := s.time i
    sendIdle (onLink s i p fun l => { l with exch := some (seq, t1, t, t) }) i p false false 2 seq t

/-- A DREQ reaches the parent (R344): DRESP carries t4. -/
def timeDreq (s : State) (i : SetId) (p seq : Nat) : State :=
  if portState s i p < 5 ∨ 7 < portState s i p then s else sendIdle s i p false false 3 seq (s.time i)

/-- A DRESP reaches the child (R344, R345): delay and offset; the first lock steps the time, later ones slew it. -/
def timeDresp (s : State) (i : SetId) (p seq t4 : Nat) : State :=
  match (lport s i p).exch with
  | none => s
  | some (q, t1, t2, t3) =>
    let s := onLink s i p fun l => { l with exch := none }
    let a : Int := (t2 : Int) - t1
    let b : Int := (t4 : Int) - t3
    let s := if q = seq ∧ portState s i p = 5 then onLink s i p fun l => { l with tof := ((a + b) / 2).toNat } else s
    if q ≠ seq ∨ !takesTime s i p then s
    else
      let trim := if featOn s i p 6 then asymTrim s i p else 0
      let o := 5 * (a - b) - Int.tdiv trim 10
      let s := s.setFld i .LINK_FT_STAT_OFFSET 0 (unsigned 16 o)
      let s := s.setFld i .LINK_FT_STAT_DELAY 0 ((a + b) / 2).toNat
      if s.fld i .LINK_FT_STAT_STATE = 0 then
        (s.setFld i .LINK_FT_TIME 0 (unsigned 64 ((s.time i : Int) - Int.tdiv o 10))).setFld i .LINK_FT_STAT_STATE 0 1
      else (s.onSet i fun t => { t with slew := -o }).setFld i .LINK_FT_STAT_STATE 0 1

/-- One microsecond passes: fabric time advances, slewed by at most 1 ns per 10 µs (R345); a full receive buffer withholds credits for as
long (R167, Table 6-10). -/
def tickTime (s : State) (i : SetId) : State :=
  let d : Int := if (s.st i).slew = 0 then 0 else if 0 < (s.st i).slew then 1 else -1
  let f := (s.st i).slewFrac + d
  let c : Int := if f = 10 then 1 else if f = -10 then -1 else 0
  let s := s.onSet i fun t => { t with slew := t.slew - d, slewFrac := f - 10 * c }
  let s := ([0, 1].filter fun l => bufferFull s i (physPort s i (wayPort s i l))).foldl (fun s l => s.addFld i .LINK_XP_CNTp_HOLD l 1) s
  s.setFld i .LINK_FT_TIME 0 ((s.time i : Int) + 1000 + c).toNat

/-- One microsecond passes at a set: fabric time goes on, and what can move on its circle moves, as frames do that waited for a core since
pruned (R422). -/
def tickSet (s : State) (i : SetId) : State := circPump (tickTime s i) i

/-- TIME_SYNC (R344). -/
def execTimeSync (i : SetId) (port : PortId) (seq t1 : Nat) (s : State) : Out := .next (timeSync s i port.val (seq % 256) t1)

/-- TIME_DREQ (R344). -/
def execTimeDreq (i : SetId) (port : PortId) (seq : Nat) (s : State) : Out := .next (timeDreq s i port.val (seq % 256))

/-- TIME_DRESP (R344, R345). -/
def execTimeDresp (i : SetId) (port : PortId) (seq t4 : Nat) (s : State) : Out := .next (timeDresp s i port.val (seq % 256) t4)

/-- TIME_EXCHANGE_TICK (R344): the parent starts an exchange with the child on a port. -/
def execTimeExchangeTick (i : SetId) (port : PortId) (s : State) : Out :=
  let p := port.val
  if portState s i p < 5 ∨ 7 < portState s i p then .next s
  else
    let q := ((lport s i p).tsSeq + 1) % 256
    .next (sendIdle (onLink s i p fun l => { l with tsSeq := q }) i p false false 1 q (s.time i))

/-- TIME_ALT_PARENT (R346): a set in holdover takes its alternate parent, or reports that it has none; when the root is lost, the
next-ranked root serves as root from its present time. -/
def execTimeAltParent (i : SetId) (rootLost : Bool) (s : State) : Out :=
  if s.fld i .LINK_FT_STAT_STATE ≠ 2 ∧ !rootLost then .next s
  else if rootLost ∧ s.fld i .LINK_FT_CFG_RANK ≠ 0 ∧ !(s.st i).lost then
    .next ((s.onSet i fun t => { t with slew := 0 }).setFld i .LINK_FT_STAT_STATE 0 3)
  else if s.fld i .LINK_FT_STAT_STATE ≠ 2 then .next s
  else
    let other := if (s.st i).altParent then s.fld i .LINK_FT_CFG_PARENT else s.fld i .LINK_FT_CFG_ALT
    if routeUp s i other then .next (s.onSet i fun t => { t with altParent := !t.altParent })
    else .next (holdoverReport s i)

/-- HOLDOVER_REPORT (R346): each second in holdover. -/
def execHoldoverReport (i : SetId) (s : State) : Out :=
  .next (if s.fld i .LINK_FT_STAT_STATE = 2 then holdoverReport s i else s)

/-! ## Flits in (R326 to R333) -/

/-- A word delivered locally (R328): its data, corrected where the class allows it, and whether it is uncorrectable. -/
def deliverWord (two : Bool) (w : List Byte) : List Byte × Bool :=
  match decodeWord two w with
  | .valid => (w.take 32, false)
  | .fixed e => (fixBytes (w.take 32) e, false)
  | .bad _ => (w.take 32, true)

/-- F_LINK_WORD of one word (R328, R418): TILE and LOAD payloads carry the row of KIND 1, words in no region that of KIND 0. -/
def linkWord (s : State) (i : SetId) (p : Nat) (weights : Bool) (n : Nat) : State :=
  let s := (s.setFld i .LINK_PORTp_EVT_WORD p 1).satFld i .LINK_PORTp_CNT_1_WORDS p 1
  report s i { FC.linkWord.fr with sev := 2, action := if weights then 2 else 5, die := linkDie i, unit := p, detail := n }

/-- A frame is delivered at this set: its words are decoded, and those that cannot be corrected are marked. -/
def deliverFrame (s : State) (i : SetId) (p c : Nat) (f : PartFrame) : State :=
  let ws := f.words.map (deliverWord (c == 0))
  let raw := ws.flatMap (·.1)
  let bad := (List.range ws.length).filter fun j => match ws[j]? with | some w => w.2 | none => false
  let s := bad.foldl (fun s j => linkWord s i p (c = 0 ∧ j ≠ 0) j) s
  if c = 0 then
    let pay := (bad.filter (· != 0)).map (· - 1)
    if leAt raw 0 1 = 3 then loadArrives s i f.src raw pay
    else match circDirs s i (logPort s i p) with
      | [d] => circPump (frameArrives s i d raw pay (some p)) i
      | [_, _] => circPump (frameArrives s i (leAt raw 1 1 % 2) raw pay (some p)) i
      | _ => s
  else if c = 4 ∧ portState s i p = 5 then identArrives s i p (slice raw 0 64)
  else s.emit .frameIn i.val ([p, c, f.src] ++ bad) raw

/-- The payload of an accepted flit (R327): words join their frame; a whole one is delivered here or goes on (R330). Until the port
is ACTIVE only frames of its own discovery pass. -/
def takePayload (s : State) (i : SetId) (p : Nat) (d : List Byte) : State :=
  let h := leAt d 0 1
  let c := h % 8
  if 4 < c ∨ (portState s i p ≠ 7 ∧ c ≠ 4) then s
  else
    let ws := (List.range (min 13 (leAt d 1 1 % 16))).map fun j => slice d (16 + 36 * j) 36
    let part := if bit h 3 then some { dest := leAt d 8 4 % 2 ^ 18, src := leAt d 12 4 % 2 ^ 18, words := [] }
      else SMap.get none (lport s i p).parts c
    let s := onLink s i p fun l => { l with accepted := SMap.upd 0 l.accepted c fun n => (n + 1) % 65536 }
    match part with
    | none => s
    | some f =>
      let f := { f with words := f.words ++ ws }
      if !bit h 4 then onLink s i p fun l => { l with parts := SMap.put none l.parts c (some f) }
      else
        let s := onLink s i p fun l => { l with parts := SMap.put none l.parts c none }
        if c = 0 ∨ f.dest = s.place i ∨ portState s i p ≠ 7 then deliverFrame s i p c f else forwardFrame s i p c f

/-- NAK goes out in the next flit, once until the expected SEQ has arrived (R333). -/
def nakFlit (s : State) (i : SetId) (p : Nat) : State :=
  if (lport s i p).naked then s
  else sendIdle (onLink s i p fun l => { l with naked := true }) i p true false 0 0 (s.time i)

/-- ACK, NAK and CR of an accepted flit (R329, R333): acknowledged flits leave the store; on a NAK the rest go again, and the eighth
NAK of one SEQ retrains the port (R334). -/
def takeAck (s : State) (i : SetId) (p : Nat) (d : List Byte) : State :=
  let a := leAt d 4 2
  let s := onLink s i p fun l => { l with
    store := l.store.filter fun e => !decide ((a + 65536 - e.1) % 65536 < 32768)
    peerFreed := (List.range 5).foldl (fun m c => SMap.put 0 m c (leAt d (484 + 2 * c) 2)) l.peerFreed }
  if !bit (leAt d 6 1) 0 then s
  else
    let n := (a + 1) % 65536
    let s := onLink s i p fun l => { l with nakSeq := n, nakCount := if l.nakCount ≠ 0 ∧ l.nakSeq = n then l.nakCount + 1 else 1 }
    if 8 ≤ (lport s i p).nakCount then triggerRetrain s i p
    else replayAll ((almLink s i p 0 8).addFld i .LINK_PORTp_CNT_1_REPLAYS p 1) i p

/-- The time field of an accepted flit (R344). -/
def takeTime (s : State) (i : SetId) (p : Nat) (d : List Byte) : State :=
  let q := leAt d 503 1
  let t := leAt d 494 8
  match leAt d 502 1 with
  | 1 => timeSync s i p q t
  | 2 => timeDreq s i p q
  | 3 => timeDresp s i p q t
  | _ => s

/-- FLIT_RECEIVE (R326 to R333, R335): a flit whose CRC fails, or whose SEQ is not the next, is discarded and NAKed; the next in
order is accepted, and an IDLE is not counted. -/
def execFlitReceive (i : SetId) (port : PortId) (flit : List Byte) (s : State) : Out :=
  let p := port.val
  let d := slice flit 0 512
  if (s.st i).lost ∨ portState s i p < 5 ∨ portState s i p = 8 then .next s
  else if crc64 (d.take 504) ≠ leAt d 504 8 then .next (nakFlit (s.addFld i .LINK_PORTp_CNT_0_CRC_FAIL p 1) i p)
  else if leAt d 2 2 ≠ (lport s i p).rxSeq then .next (nakFlit s i p)
  else
    let idle := leAt d 0 1 % 8 = 7
    let s := onLink s i p fun l => { l with naked := false, rxSeq := if idle then l.rxSeq else (l.rxSeq + 1) % 65536 }
    let s := takeTime (takeAck s i p d) i p d
    if bit (leAt d 0 1) 5 ∧ featOn s i p 3 then .next (settle (downReceived s i p) i)
    else
      let s := if idle then s else takePayload s i p d
      let s := sendFlits s i p
      .next (settle (if idle ∨ portState s i p < 5 ∨ portState s i p = 8 then s else sendIdle s i p false false 0 0 (s.time i)) i)

/-! ## Answers that do not come (R331) -/

/-- NOROUTE_TIMEOUT (R331, R305, R310, R318): the originator treats its frame as NOROUTE. -/
def execNorouteTimeout (i : SetId) (what : NoAnswer) (s : State) : Out :=
  match what with
  | .send k c =>
    match sendOf s i k.val c.val .running with
    | some e => .next (settle (requestGo (sendFail s i k.val c.val 4 e) i k.val) i)
    | none => .next s
  | .signal k n => .next (settle (remoteReply s i k.val n.val 6) i)
  | .window k pos =>
    match (s.core i k.val).memoryQ[pos]? with
    | some e => .next (if e.phase = .running then settle (haltSlot s i k.val e.slot .winClosed e.pc e.tag 0 e.a2) i else s)
    | none => .next s
  | .barrier p =>
    match nodeOf s i p with
    | some x => .next (settle (breakNode s i x p none) i)
    | none => .next s

end Sys2Proof.Machine
end

