-- ==== Sys2Proof/Machine/Card.lean ====
section
/-! DEFINITION. The dance card: its layout, its first checks, and the plans that it lays out (14.4). -/

namespace Sys2Proof.Machine

/-! ## Layout (Tables 14-3 to 14-6) -/

/-- Bytes of the card: of the card region of NVM, or of the copy that was verified, which keeps its addresses. -/
def cardAt (m : SMap Byte) (off n : Nat) : List Byte := (List.range n).map fun j => SMap.get 0xFF m (0x100_0000 + off + j)

/-- The card region of NVM as a copy. -/
def cardCopy (s : State) : SMap Byte := SMap.keep (fun k => 0x100_0000 ≤ k && k < 0x700_0000) s.nvm

/-- The header. -/
def cardHdr (m : SMap Byte) : List Byte := cardAt m 0 4096

/-- The card digest (R384). -/
def cardDigestOf (m : SMap Byte) : List Byte := sha256 ((cardHdr m).take 3936)

/-- A section entry (Table 14-4). -/
structure Sec where
  typ : Nat
  off : Nat
  len : Nat
  digest : List Byte
  rsv : Bool
deriving DecidableEq, Repr

/-- NSEC. -/
def nsec (m : SMap Byte) : Nat := leAt (cardHdr m) 6 2

/-- The section table. -/
def secs (m : SMap Byte) : List Sec :=
  let h := cardHdr m
  (List.range (min (nsec m) 64)).map fun j =>
    let e := slice h (480 + 48 * j) 48
    { typ := leAt e 0 2, off := leAt e 4 4, len := leAt e 8 4, digest := slice e 16 32, rsv := leAt e 2 2 == 0 && leAt e 12 4 == 0 }

/-- The index of the section of a type; 0xFF where there is none. -/
def secIx (m : SMap Byte) (t : Nat) : Nat := ((secs m).findIdx? fun x => x.typ == t).getD 0xFF

/-- A section's bytes. -/
def secData (m : SMap Byte) (t : Nat) : List Byte :=
  match (secs m).find? fun x => x.typ == t with
  | some x => cardAt m x.off x.len
  | none => []

/-- A LOCATIONS entry (Table 14-6). -/
structure Loc where
  loc : Nat
  profile : Nat
  idle : Nat
  arrmap : Nat
  logical : List Nat
  pkg : Nat
  plan : List Nat
  seed : List Nat
  rsv : Bool
deriving DecidableEq, Repr

/-- The entry that 80 bytes spell. -/
def locOf (e : List Byte) : Loc :=
  { loc := leAt e 0 4 % 2 ^ 18, profile := leAt e 4 1, idle := leAt e 5 1 % 4, arrmap := leAt e 8 40
    logical := [leAt e 48 4, leAt e 52 4], pkg := leAt e 56 4, plan := [leAt e 60 4, leAt e 64 4], seed := [leAt e 68 4, leAt e 72 4]
    rsv := leAt e 0 4 < 2 ^ 18 && leAt e 5 1 < 4 && leAt e 6 2 == 0 && leAt e 76 4 == 0 && leAt e 48 4 < 2 ^ 18 && leAt e 52 4 < 2 ^ 18 }

/-- The LOCATIONS entries. -/
def locs (m : SMap Byte) : List Loc :=
  let d := secData m 1
  (List.range (d.length / 80)).map fun j => locOf (slice d (80 * j) 80)

/-- The index of this package's entry (R386). -/
def myLoc (s : State) (m : SMap Byte) : Option Nat := (locs m).findIdx? fun e => e.loc == s.fld 0 .LINK_IDENT_STRAP

/-- Set s is idle in an entry. -/
def Loc.isIdle (e : Loc) (s : SetId) : Bool := bit e.idle s.val

/-- A POWER profile. -/
def profileOf (m : SMap Byte) (k : Nat) : Nat := leAt (secData m 2) (8 * k) 8

/-- The catalogue (Table 7-1). -/
def catOf (e : List Byte) : CatEnt :=
  { piece := leAt e 0 4, version := leAt e 4 2, owner := leAt e 6 1, partner := leAt e 7 1, addr := leAt e 8 8, paddr := leAt e 16 8
    aux := leAt e 24 8, len := leAt e 32 4, flags := leAt e 36 2, digest := slice e 48 32 }

/-- The entries of some catalogue bytes. -/
def catEnts (d : List Byte) : List CatEnt := (List.range (d.length / 80)).map fun j => catOf (slice d (80 * j) 80)

/-- A CIRCLES entry (Table 14-5). -/
structure CircEnt where
  circle : Nat
  reader : Nat
  tierReader : Nat
  backup : Nat
  seedVer : Nat
  startVer : Nat
deriving DecidableEq, Repr

/-- The CIRCLES entries. -/
def circEnts (m : SMap Byte) : List CircEnt :=
  let d := secData m 6
  (List.range (d.length / 32)).map fun j =>
    let e := slice d (32 * j) 32
    { circle := leAt e 0 2, reader := leAt e 4 4, tierReader := leAt e 8 4, backup := leAt e 12 4, seedVer := leAt e 16 2, startVer := leAt e 18 2 }

/-! ## Verdicts (R389) -/

/-- A failed check: its cause (Table 14-8), the section and the index. -/
structure Bad where
  cause : Nat
  sec : Nat
  ix : Nat
deriving DecidableEq, Repr

/-- A check that must hold. -/
def need (ok : Bool) (cause sec ix : Nat) : Option Bad := if ok then none else some { cause := cause, sec := sec, ix := ix }

/-- The first of some checks that fails. -/
def firstBad (l : List (Option Bad)) : Option Bad := l.findSome? id

/-- Bytes that must be zero. -/
def zeros (d : List Byte) (off n : Nat) : Bool := (slice d off n).all (· == 0)

/-! ## Checks 1 to 5 (R388) -/

/-- Check 1: the header, the owner, the signature. -/
def checkHeader (s : State) (m : SMap Byte) : Option Bad :=
  let h := cardHdr m
  let size := leAt h 8 4
  let okey := slice h 96 384
  let hash := match ownerSlot s with
    | some n => ownerHash s n
    | none => []
  firstBad [need (leAt h 0 4 == 0x4443_3438) 5 0xFF 0, need (leAt h 4 2 == 1) 3 0xFF 0,
    need (4096 ≤ size && size ≤ 100663296 && zeros h 18 78 && zeros h 3936 160) 5 0xFF 0, need (sha256 okey == hash) 2 0xFF 0,
    need (pssVerify 384 (leNat okey) 65537 (h.take 3552) (slice h 3552 384)) 1 0xFF 0]

/-- Check 2: figure descriptors and stream formats. -/
def checkVersions (m : SMap Byte) : Option Bad :=
  need (leAt (cardHdr m) 16 1 == 2 && leAt (cardHdr m) 17 1 < 4) 3 0xFF 0

/-- Check 3: the section table (R385). -/
def checkSections (m : SMap Byte) : Option Bad :=
  let h := cardHdr m
  let size := leAt h 8 4
  let l := secs m
  firstBad ([need (1 ≤ nsec m && nsec m ≤ 64) 5 0xFF 0] ++
    (l.zipIdx.map fun p =>
      let before := l.take p.2
      need (p.1.rsv && 1 ≤ p.1.typ && p.1.typ ≤ 7 && p.1.off % 32 == 0 && 4096 ≤ p.1.off && p.1.off + p.1.len ≤ size &&
        before.all fun q => q.typ != p.1.typ && q.off + q.len ≤ p.1.off && q.off ≤ p.1.off) 5 p.2 0) ++
    [need ([1, 2, 3, 5, 6].all fun t => l.any fun x => x.typ == t) 5 0xFF 0, need (zeros h (480 + 48 * l.length) (3072 - 48 * l.length)) 5 0xFF 0])

/-- A section's digest. -/
def digestHolds (m : SMap Byte) (t : Nat) : Bool :=
  match (secs m).find? fun x => x.typ == t with
  | some x => sha256 (cardAt m x.off x.len) == x.digest
  | none => true

/-- An array of this package is enabled (R4). -/
def arrEnabled (s : State) (a : Nat) : Bool := bit (s.pfld .ARR_MAPm_EN (a / 64)) (a % 64)

/-- R41 on a profile; a T_MARK outside 1 to 100 or a LEND of 0b10, which R41's list does not name, is refused with them (DESIGN CHOICE,
log entry 91): in order, CLASS, COOL, ENV, P_PLAN, T_MARK, LEND, SPRINT_OK in the places of PD_CLASS. -/
def powerOk (v : Nat) : Bool :=
  let cool := bits v 1 4
  let env := bits v 5 9
  let plan := bits v 14 9
  let mark := bits v 23 7
  let lend := bits v 30 2
  let most := if cool = 1 then 260 else if cool = 2 then 360 else 460
  1 ≤ cool && cool ≤ 4 && 180 ≤ env && env ≤ 460 && env ≤ most && plan ≤ env && 1 ≤ mark && mark ≤ 100 && lend != 2 &&
    !(bit v 32 && cool == 1)

/-- Check 4: LOCATIONS, this package's entry, its arrays, its power profile. -/
def checkLocation (s : State) (m : SMap Byte) : Option Bad :=
  let l := locs m
  let sx := secIx m 1
  let px := secIx m 2
  let d := secData m 1
  let p := secData m 2
  firstBad ([need (digestHolds m 1) 4 sx 0, need (d.length % 80 == 0) 5 sx 0] ++
    (l.zipIdx.map fun e => need (e.1.rsv && (l.take e.2).all fun q => q.loc ≤ e.1.loc) 5 sx e.2) ++
    [match myLoc s m with
    | none => some { cause := 8, sec := sx, ix := 0 }
    | some k =>
      let e := locOf (slice d (80 * k) 80)
      firstBad [need ((List.range 320).all fun a => !bit e.arrmap a || arrEnabled s a) 6 sx k, need (digestHolds m 2) 4 px 0,
        need (p.length % 8 == 0 && p.length ≤ 128) 5 px 0, need (8 * e.profile < p.length) 7 px e.profile,
        need (profileOf m e.profile < 2 ^ 33) 5 px e.profile, need (powerOk (profileOf m e.profile)) 7 px e.profile]])

/-- Check 5: the digest of every other section. -/
def checkDigests (m : SMap Byte) : Option Bad :=
  firstBad ((secs m).zipIdx.map fun p => need (sha256 (cardAt m p.1.off p.1.len) == p.1.digest) 4 p.2 0)

/-! ## Record lists (R387) -/

/-- The number of the record that starts at an offset of a section, counted from the section's start. -/
def recNumber : Nat → List Byte → Nat → Nat → Nat
  | 0, _, _, k => k
  | f + 1, d, target, k =>
    if target = 0 then k
    else match parseOne d with
      | some (_, n) => if target < n then k else recNumber f (d.drop n) (target - n) (k + 1)
      | none => k

/-- The records of the list at an offset of a section, with their numbers. -/
def listAt (d : List Byte) (off : Nat) : Except Nat (List (Nat × PlanRec)) :=
  parseNum (d.length / 16 + 1) (recNumber (d.length / 16 + 1) d off 0) (d.drop off)

/-- The records of a list; none of a malformed one. -/
def recsAt (d : List Byte) (off : Nat) : List (Nat × PlanRec) :=
  match listAt d off with
  | .ok l => l
  | .error _ => []

/-- A list is well formed, and each record writes where a list of its scope may. -/
def checkList (d : List Byte) (sec off : Nat) (setScope : Bool) : Option Bad :=
  if d.length ≤ off then some { cause := 5, sec := sec, ix := 0 }
  else match listAt d off with
    | .error k => some { cause := 5, sec := sec, ix := k }
    | .ok l => firstBad (l.map fun r => need (r.2.setScope == setScope && recAllowed r.2) 15 sec r.1)

/-- No list. -/
def noList : Nat := 0xFFFF_FFFF

/-- The lists that an entry names. -/
def checkLists (m : SMap Byte) (e : Loc) (k : Nat) : Option Bad :=
  let px := secIx m 3
  let qx := secIx m 4
  firstBad ([checkList (secData m 3) px e.pkg false] ++
    ([0, 1].flatMap fun (i : SetId) =>
      let a := e.plan.getD i.val noList
      let b := e.seed.getD i.val noList
      [need (e.isIdle i == (a == noList)) 5 (secIx m 1) k,
        if a = noList then none else checkList (secData m 3) px a true, if b = noList then none else checkList (secData m 4) qx b true]))

/-! ## Plans -/

/-- Segments that ON marks are powered and filled (R139). -/
def powerSegs (s : State) (i : SetId) : State :=
  (List.range 2).foldl (fun s d => (List.range 9).foldl (fun s g =>
    if segOn s i d g then setSeg (loseSeg s i d g) i d g .ready else s) s) s

/-- The records of a set plan take effect: registers, then the die-memory segments that they power, then memory. -/
def applyPlan (s : State) (i : SetId) (l : List PlanRec) : State :=
  let reg (r : PlanRec) : Bool := match spaceOf r.addr with
    | .mmio _ => true
    | _ => false
  let s := powerSegs ((l.filter reg).foldl (fun s r => applyRec s i r) s) i
  (l.filter fun r => !reg r).foldl (fun s r => applyRec s i r) s

/-- Full plan of a set of an entry. -/
def planRecs (m : SMap Byte) (e : Loc) (i : SetId) : List (Nat × PlanRec) :=
  if e.isIdle i then [] else recsAt (secData m 3) (e.plan.getD i.val noList)

/-- Seedling plan of a set of an entry. -/
def seedRecs (m : SMap Byte) (e : Loc) (i : SetId) : List (Nat × PlanRec) :=
  if e.isIdle i ∨ e.seed.getD i.val noList = noList then [] else recsAt (secData m 4) (e.seed.getD i.val noList)

/-- A set that the card describes: its location and index, its LOGICAL, the records of its full plan, and a package in reset on which
both plans and the package list of its location have been applied. -/
structure SetPlan where
  entry : Nat
  loc : Nat
  set : SetId
  logical : Nat
  recs : List (Nat × PlanRec)
  st : State
deriving DecidableEq, Repr

/-- A package in reset with the full plans of an entry. -/
def planned (m : SMap Byte) (e : Loc) : State :=
  let s : State := {}
  let s := applyPlan s 0 ((planRecs m e 0).map (·.2))
  let s := applyPlan s 1 ((planRecs m e 1).map (·.2))
  ((recsAt (secData m 3) e.pkg).map (·.2)).foldl applyPkgRec s

/-- Every set that the card plans, in the order of LOCATIONS, SET0 first. -/
def setPlans (m : SMap Byte) : List SetPlan :=
  (locs m).zipIdx.flatMap fun e => ([0, 1] : List SetId).filterMap fun i =>
    if e.1.isIdle i then none
    else some { entry := e.2, loc := e.1.loc, set := i, logical := e.1.logical.getD i.val 0, recs := planRecs m e.1 i, st := planned m e.1 }

/-- A field of the plan. -/
def SetPlan.fld (p : SetPlan) (f : Field) (ix : Nat := 0) : Nat := p.st.fld p.set f ix

/-- The planned (circle, place). -/
def SetPlan.place (p : SetPlan) : Nat := p.st.place p.set

/-- The first record of the plan. -/
def SetPlan.first (p : SetPlan) : Nat := match p.recs with
  | (k, _) :: _ => k
  | [] => 0

end Sys2Proof.Machine
end

