-- ==== Sys2Proof/Machine/CardCheck.lean ====
section
/-! DEFINITION. The refusals at start-up that other chapters state (R388 check 6, Table 14-8). -/

namespace Sys2Proof.Machine

/-! ## LOCATION (R19, R22, R23, R388) -/

/-- No two sets hold one place, places lie in their circle, whose sets agree on N; the ring closes: each circle port is planned to the
facing port of the neighbour, or, between siblings, the Pot link is planned and the external port is not; siblings in one circle are
adjacent, and no set's double-planting partner is its sibling. -/
def locationOk (ps : List SetPlan) (p : SetPlan) : Bool :=
  let n := p.fld .CIRC_CFG_N
  let q := p.fld .CIRC_CFG_PLACE
  let c := p.fld .CIRC_CFG_CIRCLE
  let at_ (x : Nat) : Option SetPlan := ps.find? fun r => r.fld .CIRC_CFG_CIRCLE == c && r.fld .CIRC_CFG_PLACE == x
  let sib : Option SetPlan := ps.find? fun r => r.loc == p.loc && r.set != p.set && r.fld .CIRC_CFG_CIRCLE == c
  let portOk (l x : Nat) : Bool := match at_ x with
    | none => false
    | some r => r.fld .CIRC_CFG_N == n &&
      if r.loc = p.loc then (potDirs p.st p.set).contains l && p.fld .LINK_PORTp_CFG_0_PLANNED l == 0
      else p.fld .LINK_PORTp_CFG_0_PLANNED l == 1 && p.fld .LINK_PORTp_CFG_0_PEER_LOC l == r.loc &&
        p.fld .LINK_PORTp_CFG_0_PEER_SET l == r.set.val && p.fld .LINK_PORTp_CFG_0_PEER_PORT l == 1 - l
  2 ≤ n && n ≤ 256 && q < n && (ps.filter fun r => r.place == p.place).length == 1 && portOk 1 ((q + 1) % n) && portOk 0 ((q + n - 1) % n) &&
    (match sib with
    | none => true
    | some r =>
      let x := r.fld .CIRC_CFG_PLACE
      ((x + 1) % n == q || (q + 1) % n == x) && (p.fld .CIRC_CFG_DOUBLE == 0 || (q + n / 2) % n != x))

/-- LOGICAL agrees with the CIRC_CFG records. -/
def logicalOk (p : SetPlan) : Bool := p.logical % 1024 == p.fld .CIRC_CFG_CIRCLE && p.logical / 1024 == p.fld .CIRC_CFG_PLACE

/-! ## REGIONS (R141 to R144, R357) -/

/-- Two entries overlap. -/
def Rgn.meets (a b : Rgn) : Bool := a.base < b.base + b.size && b.base < a.base + a.size

/-- The region table. -/
def regionsOk (p : SetPlan) : Bool :=
  let l := rgns p.st p.set
  l.all fun r => r.size != 0 && populated r.base r.size && (match spaceOf r.base with | .mmio _ => false | _ => true) && r.kind < 6 &&
    (!r.shared || !r.wr) && l.all fun q => q.job == r.job || !r.meets q || (r.shared && q.shared)

/-- Window w. -/
def windowOk (p : SetPlan) (w : Nat) : Bool :=
  let base := p.fld .MEM_WINw_0_BASE w
  let size := 4096 * p.fld .MEM_WINw_1_SIZE w
  size == 0 || (base % 4096 == 0 && p.fld .MEM_WINw_0_HOME w < 80 && (match spaceOf base with | .buf _ _ => false | _ => true) &&
    (rgns p.st p.set).any fun r => r.job == p.fld .MEM_WINw_0_JOB w && r.wr && r.base ≤ base && base + size ≤ r.base + r.size)

/-- The HDM ranges of the package, as set s sees its own. -/
def hdmOk (p : SetPlan) : Bool :=
  let size (x : Nat) : Nat := p.st.pfld .HB_HDMs_SIZE x
  let base := p.st.pfld .HB_HDMs_BASE p.set.val
  let n := size p.set.val * 0x1000_0000
  size 0 + size 1 ≤ 256 && (n == 0 || (base % 4 == 0 && (rgns p.st p.set).any fun r =>
    r.kind == 0 && spaceOf r.base == .hbm && r.base ≤ base * 0x400_0000 && base * 0x400_0000 + n ≤ r.base + r.size))

/-! ## SYNC (R296, R298, R308, R311, R313) -/

/-- Counter ranges of jobs. -/
def syncJobsOk (p : SetPlan) : Bool :=
  let l := (fieldIndices (p.st.st p.set).regs .SYNC_JOBj_COUNT).map fun j => (j, p.fld .SYNC_JOBj_BASE j, p.fld .SYNC_JOBj_COUNT j)
  l.all fun a => a.2.1 + a.2.2 ≤ 65536 && l.all fun b => a.1 == b.1 || !(a.2.1 < b.2.1 + b.2.2 && b.2.1 < a.2.1 + a.2.2)

/-- Kinds and flags of counters. -/
def countersOk (p : SetPlan) : Bool :=
  let ix (f : Field) : List Nat := fieldIndices (p.st.st p.set).regs f
  let kind (x : Nat) : Nat := p.fld .SYNC_CTRp_0_KIND x
  ((ix .SYNC_CTRp_0_KIND).all fun x => kind x != 3) && ((ix .SYNC_CTRp_0_RETURN).all fun x => kind x == 0) &&
    (ix .SYNC_CTRp_0_HOST_OK).all fun x => kind x != 2 && p.fld .SYNC_CTRp_0_RETURN x == 0

/-- The counters that hardware units signal are not barriers (R301): TURN_CTR, the tier counter of a set that trusts a tier, and ARRIVE of each
receive endpoint. -/
def unitCtrsOk (p : SetPlan) : Bool :=
  let plain (j v : Nat) : Bool := match ctrOf p.st p.set j v with
    | some x => p.fld .SYNC_CTRp_0_KIND x != 2
    | none => true
  let j := p.fld .CIRC_CFG_JOB
  plain j (p.fld .CIRC_CFG_TURN_CTR) && (p.fld .CIRC_CFG_TIER_TRUSTED == 0 || plain j (p.fld .CIRC_AUX_TIER_CTR)) &&
    (fieldIndices (p.st.st p.set).regs .CHAN_RXk_c_0_VALID).all fun x => plain (p.fld .CHAN_RXk_c_0_JOB x) (p.fld .CHAN_RXk_c_1_ARRIVE x)

/-- A node of a barrier tree: the plan and entry that hold it, its name and its parent's, and its counts. -/
structure BNode where
  plan : Nat
  entry : Nat
  place : Nat
  ctr : Nat
  loc : Nat
  children : Nat
  root : Bool
  parent : Nat
  pctr : Nat
deriving DecidableEq, Repr

/-- The nodes of the card. -/
def bnodes (ps : List SetPlan) : List BNode :=
  ps.zipIdx.flatMap fun p => (fieldIndices (p.1.st.st p.1.set).regs .SYNC_BNODEi_0_VALID).map fun i =>
    { plan := p.2, entry := i, place := p.1.place, ctr := p.1.fld .SYNC_BNODEi_0_CTR i, loc := p.1.fld .SYNC_BNODEi_0_LOCAL i
      children := p.1.fld .SYNC_BNODEi_0_CHILDREN i, root := p.1.fld .SYNC_BNODEi_0_ROOT i == 1, parent := p.1.fld .SYNC_BNODEi_0_PARENT i
      pctr := p.1.fld .SYNC_BNODEi_1_PCTR i }

/-- The parent of a node. -/
def BNode.up (l : List BNode) (n : BNode) : Option BNode := if n.root then none else l.find? fun x => x.place == n.parent && x.ctr == n.pctr

/-- The way up from a node ends at a root. -/
def BNode.rooted (l : List BNode) : Nat → BNode → Bool
  | 0, _ => false
  | f + 1, n => n.root || (match n.up l with
    | some x => BNode.rooted l f x
    | none => false)

/-- A node satisfies R308. -/
def BNode.ok (l : List BNode) (n : BNode) : Bool :=
  (l.filter fun x => x.place == n.place && x.ctr == n.ctr).length == 1 && n.rooted l (l.length + 1) &&
    (l.filter fun x => !x.root && x.parent == n.place && x.pctr == n.ctr).length == n.children && n.children ≤ 16 && (n.loc != 0 || n.children != 0)

/-- The nodes joined to some nodes by parent links. -/
def joined (l : List BNode) : Nat → List BNode → List BNode
  | 0, c => c
  | f + 1, c => joined l f (l.filter fun n => c.contains n || c.any fun x => n.up l == some x || x.up l == some n)

/-- A record writes an entry of the node table, or a counter's register. -/
def recWrites (r : PlanRec) (g : Reg) (ix : Nat) : Bool :=
  match spaceOf r.addr with
  | .mmio o => (piecesOf .set o r.data).any fun q => match q.1 with
      | some (h, x, _) => h == g && x == ix
      | none => false
  | _ => false

/-- The first record of the card that satisfies a test on plan and record. -/
def firstRec (ps : List SetPlan) (t : Nat → PlanRec → Bool) : Nat :=
  (ps.zipIdx.findSome? fun p => p.1.recs.findSome? fun r => if t p.2 r.2 then some r.1 else none).getD 0

/-- The barrier trees (R308): INDEX is the first record that writes a node of the failing barrier, or the counter that no node names.
-/
def checkTrees (ps : List SetPlan) (sec : Nat) : Option Bad :=
  let l := bnodes ps
  match l.find? fun n => !n.ok l with
  | some n =>
    let c := joined l (l.length + 1) [n]
    some { cause := 10, sec := sec, ix := firstRec ps fun k r => c.any fun x =>
      x.plan == k && (recWrites r .SYNC_BNODEi_0 x.entry || recWrites r .SYNC_BNODEi_1 x.entry) }
  | none => firstBad (ps.zipIdx.flatMap fun p => (fieldIndices (p.1.st.st p.1.set).regs .SYNC_CTRp_0_KIND).map fun x =>
      if p.1.fld .SYNC_CTRp_0_KIND x = 2 ∧ !(l.any fun n => n.plan == p.2 && n.ctr == x) then
        some { cause := 10, sec := sec, ix := firstRec ps fun k r => k == p.2 && recWrites r .SYNC_CTRp_0 x }
      else none)

/-- The receive endpoints that send endpoints of the card name. -/
def chanTargets (ps : List SetPlan) : List (Nat × Nat × Nat) :=
  ps.flatMap fun p => (fieldIndices (p.st.st p.set).regs .CHAN_TXk_c_0_VALID).map fun x =>
    (p.fld .CHAN_TXk_c_0_DPLACE x, p.fld .CHAN_TXk_c_0_DCORE x, p.fld .CHAN_TXk_c_0_DCHAN x)

/-- Rings hold at least 129 units, and at most one send endpoint names each receive endpoint (R313). -/
def chansOk (ps : List SetPlan) (p : SetPlan) : Bool :=
  let l := (chanTargets ps).filter fun t => t.1 == p.place
  ((fieldIndices (p.st.st p.set).regs .CHAN_RXk_c_0_VALID).all fun x => 129 ≤ p.fld .CHAN_RXk_c_1_SIZE x) && l.eraseDups.length == l.length

/-! ## CIRCULATION (R187, R212, R217, R394, R423) -/

/-- The range lies wholly within one stack. -/
def oneStack (a n : Nat) : Bool := spaceOf a == .hbm && populated a n && stackOf a == stackOf (a + n - 1)

/-- The copy of a piece at an address of a set lies in one stack, in each bank. -/
def copyFits (p : SetPlan) (e : CatEnt) (a : Nat) : Bool :=
  oneStack a (32 * e.len) && (p.fld .CIRC_CFG_BANKS == 0 || oneStack (a + 4096 * p.fld .CIRC_BANKOFS_OFS) (32 * e.len))

/-- A catalogue entry meets R187 and R212 as a piece of a circle: its copies fit at the owner and at the partner, whose own plans say where
bank 1 lies; a TIER piece needs the trust of the circle's sets. -/
def pieceOk (ps : List SetPlan) (c : Nat) (e : CatEnt) : Bool :=
  let l := ps.filter fun p => p.fld .CIRC_CFG_CIRCLE == c
  1 ≤ e.len && e.len ≤ 2097152 && (!bit e.flags 1 || l.all fun p => p.fld .CIRC_CFG_TIER_TRUSTED == 1) &&
    match l.find? fun p => p.fld .CIRC_CFG_PLACE == e.owner with
    | none => false
    | some p =>
      let n := p.fld .CIRC_CFG_N
      copyFits p e e.addr && if p.fld .CIRC_CFG_DOUBLE = 1 then
        e.partner == (e.owner + n / 2) % n && (match l.find? fun q => q.fld .CIRC_CFG_PLACE == e.partner with
          | some q => copyFits q e e.paddr
          | none => false)
      else e.partner == 0xFF && e.paddr == 0

/-- The catalogue: its form, and every piece as one of some circle of the card, since entries name no circle. -/
def checkCatalogue (m : SMap Byte) (ps : List SetPlan) : Option Bad :=
  let sx := secIx m 5
  let d := secData m 5
  let l := catEnts d
  let key (e : CatEnt) : Nat := e.piece * 65536 + e.version
  firstBad ([need (d.length % 80 == 0) 5 sx 0] ++ (l.zipIdx.map fun e =>
      firstBad [need (e.1.flags < 16 && zeros d (80 * e.2 + 38) 10 && (e.2 == 0 || key (l.getD (e.2 - 1) e.1) < key e.1)) 5 sx e.2,
        need (ps.any fun p => pieceOk ps (p.fld .CIRC_CFG_CIRCLE) e.1) 11 sx e.2]))

/-- Jobs that a plan uses: those of its regions and of slots that run. -/
def jobsUsed (s : State) (i : SetId) : List Nat :=
  ((rgns s i).map (·.job) ++ (fieldIndices (s.st i).regs .CORE_SLOTn_PC_RUN).map fun x => s.fld i .CORE_SLOTn_PC_JOB x).eraseDups

/-- The seedling plan of a set (R394). -/
def seedOk (m : SMap Byte) (p : SetPlan) (seed : List PlanRec) : Bool :=
  let q := applyPlan {} p.set seed
  let a := jobsUsed p.st p.set
  let b := jobsUsed q p.set
  let ofs := 4096 * p.fld .CIRC_BANKOFS_OFS
  let spots (e : CatEnt) : List Nat :=
    let own := if e.owner = p.fld .CIRC_CFG_PLACE then [e.addr] else []
    let part := if e.partner = p.fld .CIRC_CFG_PLACE then [e.paddr] else []
    let l := own ++ part
    if p.fld .CIRC_CFG_BANKS = 1 then l ++ l.map (· + ofs) else l
  (a.all b.contains) && (b.all a.contains) && (catEnts (secData m 5)).all fun e =>
    bit e.flags 0 || (spots e).all fun x => (rgns q p.set).all fun r => !(x < r.base + r.size && r.base < x + 32 * e.len)

/-- Every piece of a circle's seedling version has SEEDLING. -/
def seedFlagsOk (m : SMap Byte) : Bool :=
  (circEnts m).all fun c => c.seedVer == c.startVer || (catEnts (secData m 5)).all fun e => e.version != c.seedVer || bit e.flags 0

/-- The full tile map of a set of this package. -/
def fullMap (f : CardFacts) (i : SetId) : List (List Byte) := if i = 0 then f.full0 else f.full1

/-- The seedling tile map of a set of this package. -/
def seedMap (f : CardFacts) (i : SetId) : List (List Byte) := if i = 0 then f.seed0 else f.seed1

/-- The tiles of TIER pieces in a plan of a set of this package. -/
def tierTilesOf (f : CardFacts) (i : SetId) (seedling : Bool) : List TileId :=
  if i = 0 then (if seedling then f.seedTier0 else f.tier0) else if seedling then f.seedTier1 else f.tier1

/-- The fold reserve of a set of this package: base, size, and what it must hold. -/
def reserveOf (f : CardFacts) (i : SetId) : Nat × Nat × Nat := if i = 0 then f.reserve0 else f.reserve1

/-- The fold reserve is a KIND 1 region in HBM, and no smaller than the largest stored (stage, half) of the revolution (R217). -/
def reserveOk (p : SetPlan) (r : Nat × Nat × Nat) : Bool :=
  r.2.2 ≤ r.2.1 && (r.2.2 == 0 || (rgns p.st p.set).any fun q =>
    q.kind == 1 && spaceOf q.base == .hbm && q.base ≤ r.1 && r.1 + r.2.1 ≤ q.base + q.size)

/-- The pruning entry of a core leaves every tile that the full map gives to cores a taker (R423). -/
def pruneOk (p : SetPlan) (full : List (List Byte)) (k : Nat) : Bool :=
  let base := p.fld .SET_PRUNE_BASE_BASE
  let e := readMem (p.st.st p.set).mem (base + 32 * k) 32
  if base = 0 ∨ e.all (· == 0) then true
  else
    let tiles (l : List (List Byte)) : List MapTile := l.flatMap fun x => (tmapEnt x).tiles
    let map := if leAt e 16 8 = 0 then full else (List.range (leAt e 24 4)).map fun j => readMem (p.st.st p.set).mem (leAt e 16 8 + 16 * j) 16
    let new := tiles map
    (tiles full).all fun t => t.cores.isEmpty || new.any fun u => u.id == t.id && u.cores.any fun c => c != k

/-! ## ROUTES (R330, R332, R342, R345) -/

/-- The set that a logical port leads to. -/
def SetPlan.peer (ps : List SetPlan) (p : SetPlan) (l : Nat) : Option SetPlan :=
  if p.fld .LINK_PORTp_CFG_0_PLANNED l = 0 then none
  else ps.find? fun r => r.loc == p.fld .LINK_PORTp_CFG_0_PEER_LOC l && r.set.val == p.fld .LINK_PORTp_CFG_0_PEER_SET l

/-- The direction or port by which a frame leaves for a destination, all links being up (R330). -/
def SetPlan.way (p : SetPlan) (dest : Nat) : Option Nat :=
  let c := dest / 256
  let n := p.fld .CIRC_CFG_N
  if c = p.fld .CIRC_CFG_CIRCLE then some (if (dest % 256 + n - p.fld .CIRC_CFG_PLACE) % n ≤ n / 2 then 1 else 0)
  else if p.fld .LINK_RTc_VALID c = 0 then none
  else (routePort (p.fld .LINK_RTc_PORT c)).map (dirOf p.st p.set)

/-- A buffer: the set that sends into it, the direction or port, the class. -/
def bufKey (p : SetPlan) (l c : Nat) : Nat := ((p.loc * 2 + p.set.val) * 8 + l) * 4 + c

/-- The buffers that a frame takes from a set to a destination, and whether it arrives. -/
def walk (ps : List SetPlan) (dest : Nat) : Nat → SetPlan → Option Nat → Nat → List Nat × Bool
  | 0, _, _, _ => ([], false)
  | f + 1, p, from_, c =>
    if p.place = dest then ([], true)
    else match p.way dest with
      | none => ([], false)
      | some l =>
        let c' := classOn p.st p.set c (from_.getD l) l
        match p.peer ps (wayPort p.st p.set l) with
        | none => ([], false)
        | some q =>
          let back := if l = 1 then 0 else if l = 0 then 1 else l
          let (bs, ok) := walk ps dest f q (some back) c'
          (bufKey p l c' :: bs, ok)

/-- The walk between two sets. -/
def walkFrom (ps : List SetPlan) (p q : SetPlan) : List Nat × Bool := walk ps q.place (2 * ps.length + 2) p none 1

/-- Pairs of buffers held and wanted. -/
def pairsOf : List Nat → List (Nat × Nat)
  | a :: b :: t => (a, b) :: pairsOf (b :: t)
  | _ => []

/-- Edges that lead to no further edge are taken away, again and again. -/
def trimEdges : Nat → List (Nat × Nat) → List (Nat × Nat)
  | 0, l => l
  | f + 1, l => trimEdges f (l.filter fun e => l.any fun x => x.1 == e.2)

/-- The routes leave no cycle of buffer dependencies (R330). -/
def noCycle (ps : List SetPlan) : Bool :=
  let es := (ps.flatMap fun p => ps.flatMap fun q => pairsOf (walkFrom ps p q).1).eraseDups
  (trimEdges (es.length + 1) es).isEmpty

/-- Every circle reaches every other (R342). -/
def circlesReach (ps : List SetPlan) : Bool :=
  let cs := (ps.map fun p => p.fld .CIRC_CFG_CIRCLE).eraseDups
  cs.all fun a => cs.all fun b => a == b || ps.any fun p => p.fld .CIRC_CFG_CIRCLE == a && ps.any fun q => q.fld .CIRC_CFG_CIRCLE == b && (walkFrom ps p q).2

/-- The sets that a set forwards a reader's LOAD frames to; none when it has no entry for the reader. -/
def loadNext (ps : List SetPlan) (reader : Nat) (p : SetPlan) : Option (List SetPlan) :=
  match (List.range 16).find? fun r => p.fld .LINK_LOADRTi_VALID r == 1 && p.fld .LINK_LOADRTi_READER r == reader with
  | none => none
  | some r =>
    let dirs := [(0, 1), (1, 0), (2, 2), (3, 3), (4, 4)].filter fun b => bit (p.fld .LINK_LOADRTi_FWD r) b.1
    some (dirs.filterMap fun b => p.peer ps (wayPort p.st p.set b.2))

/-- The places that a reader's LOAD frames reach, each once; none when one is reached twice or has no entry. -/
def loadTree (ps : List SetPlan) (reader : Nat) : Nat → List SetPlan → List Nat → Option (List Nat)
  | 0, _, seen => some seen
  | _, [], seen => some seen
  | f + 1, p :: t, seen =>
    if seen.contains p.place then none
    else match loadNext ps reader p with
      | none => none
      | some l => loadTree ps reader f (t ++ l) (seen ++ [p.place])

/-- The load routes of a circle's reader form a tree that reaches every holder of its pieces (R332). -/
def loadRoutesOk (m : SMap Byte) (ps : List SetPlan) (c : CircEnt) : Bool :=
  if c.reader = 0xFFFF_FFFF then true
  else match ps.find? fun p => p.place == c.reader with
    | none => false
    | some r => match loadTree ps c.reader (ps.length + 2) [r] [] with
      | none => false
      | some seen => ps.all fun p => p.fld .CIRC_CFG_CIRCLE != c.circle || seen.contains p.place ||
          (catEnts (secData m 5)).all fun e => e.owner != p.fld .CIRC_CFG_PLACE && e.partner != p.fld .CIRC_CFG_PLACE

/-- A set's depth in the time tree is at most the fuel. -/
def timeDepthOk (ps : List SetPlan) : Nat → SetPlan → Bool
  | 0, p => p.fld .LINK_FT_CFG_PARENT == 0
  | f + 1, p => p.fld .LINK_FT_CFG_PARENT == 0 || (match (routePort (p.fld .LINK_FT_CFG_PARENT)).bind fun l => p.peer ps (wayPort p.st p.set l) with
    | some q => timeDepthOk ps f q
    | none => false)

/-! ## HOST (R17, R272, R364) -/

/-- The pages that a package list binds. -/
def boundPages (s : State) : List Nat := fieldIndices s.regs .HB_PAGEt_CFG_BOUND

/-- Shares of the host port. -/
def sharesOk (s : State) : Bool := s.pfld .HB_HOSTCFG_SHARE0 + s.pfld .HB_HOSTCFG_SHARE1 ≤ 100

/-- Vector ranges of bound pages. -/
def vectorsOk (s : State) : Bool :=
  let l := ((boundPages s).filter fun t => s.pfld .HB_PAGEt_CFG_VEC_COUNT t != 0).map fun t => (t, s.pfld .HB_PAGEt_CFG_VEC_FIRST t, s.pfld .HB_PAGEt_CFG_VEC_COUNT t)
  l.all fun a => 16 ≤ a.2.1 && a.2.1 + a.2.2 ≤ 2048 && a.2.2 ≤ 64 && l.all fun b => a.1 == b.1 || !(a.2.1 < b.2.1 + b.2.2 && b.2.1 < a.2.1 + a.2.2)

/-- In promenade, pages are bound at place 0 (R272). -/
def pagesOk (s : State) : Bool :=
  (boundPages s).all fun t => !promenade s (pageSet s t) || s.fld (pageSet s t) .CIRC_CFG_PLACE == 0

/-! ## MEMSIDE (R226, R227) -/

/-- The geometry of the key-value store. -/
def storeOk (p : SetPlan) : Bool :=
  let d := p.fld .MSE_KVCFG_D
  let fmt := p.fld .MSE_KVCFG_FMT
  let w := p.fld .MSE_STRIPE_W
  let h := p.fld .MSE_KVCFG_HKV
  let n := p.fld .MSE_KVCFG_DIRLEN
  (w == 1 || w == 2 || w == 3 || w == 6) && (p.fld .MSE_KVCFG_LAYERS == 0 || (d % 8 == 0 && 8 ≤ d && d ≤ 256 && 1 ≤ h && h ≤ 128 && 1 ≤ n && n ≤ 1024 &&
    (fmt == 0x10 || fmt == 0x11 || ((fmt == 0x01 || fmt == 0x03) && p.fld .MSE_KVCFG_DYN == 0))))

/-! ## Check 6 -/

/-- REGIONS of a plan: the region table and the windows (R141, R142, R144). -/
def spacesOk (p : SetPlan) : Bool := regionsOk p && (List.range 64).all (windowOk p)

/-- SYNC of a plan alone (R296, R298, R301, R311). -/
def syncOk (p : SetPlan) : Bool := syncJobsOk p && countersOk p && unitCtrsOk p

/-- The plans that the card's sets run in seedling service: seedling lists, and full lists of sets that have none; empty when no set has one
(R392). -/
def seedPlans (m : SMap Byte) (ps : List SetPlan) : List SetPlan :=
  let l := locs m
  let seed (p : SetPlan) : List (Nat × PlanRec) := seedRecs m (l.getD p.entry (locOf [])) p.set
  if ps.all fun p => (seed p).isEmpty then []
  else ps.map fun p => if (seed p).isEmpty then p else { p with recs := seed p, st := applyPlan {} p.set ((seed p).map (·.2)) }

/-- The refusals of REGIONS, SYNC and MEMSIDE over seedling lists, whose sets start from them as from full lists (R388 check 6, R392). -/
def checkSeeds (m : SMap Byte) (k : Nat) (ps : List SetPlan) : List (Option Bad) :=
  let qs := seedPlans m ps
  let sx := secIx m 4
  let mine := qs.filter fun p => p.entry == k
  (mine.map fun p => need (spacesOk p) 9 sx p.first) ++ (mine.map fun p => need (syncOk p) 10 sx p.first) ++ [checkTrees qs sx] ++
    (qs.map fun p => need (chansOk qs p) 10 sx p.first) ++ mine.map fun p => need (storeOk p) 14 sx p.first

/-- The checks on every set of the card and on this package, in the order of Table 14-8 after form and fields (log entry 23). -/
def checkPlans (m : SMap Byte) (k : Nat) (f : CardFacts) : Option Bad :=
  let l := locs m
  let ps := setPlans m
  let lx := secIx m 1
  let px := secIx m 3
  let mine := ps.filter fun p => p.entry == k
  let pkg := planned m (l.getD k (locOf []))
  let pk := recNumber (secData m 3).length (secData m 3) (l.getD k (locOf [])).pkg 0
  firstBad ((l.zipIdx.map fun e => checkLists m e.1 e.2) ++
    [need ((secData m 6).length % 32 == 0 && (List.range ((secData m 6).length / 32)).all fun j =>
      zeros (secData m 6) (32 * j + 2) 2 && zeros (secData m 6) (32 * j + 20) 12) 5 (secIx m 6) 0] ++
    (l.zipIdx.map fun e => need ((l.filter fun q => q.loc == e.1.loc).length == 1) 8 lx e.2) ++
    (ps.map fun p => need (logicalOk p && locationOk ps p) 8 lx p.entry) ++
    (mine.flatMap fun p => [need (spacesOk p && hdmOk p) 9 px p.first]) ++
    (mine.map fun p => need (syncOk p) 10 px p.first) ++ [checkTrees ps px] ++
    (ps.map fun p => need (chansOk ps p) 10 px p.first) ++ [checkCatalogue m ps, need (seedFlagsOk m) 11 (secIx m 5) 0] ++
    (mine.map fun p => need ((l.getD k (locOf [])).seed.getD p.set.val noList == noList ||
      seedOk m p ((seedRecs m (l.getD k (locOf [])) p.set).map (·.2))) 11 (secIx m 4) 0) ++
    (mine.map fun p => need (p.fld .CIRC_CFG_FOLD_OK == 0 || reserveOk p (reserveOf f p.set)) 11 px p.first) ++
    (mine.map fun p => need ((List.range 80).all (pruneOk p (fullMap f p.set))) 11 px p.first) ++
    [need (noCycle ps && circlesReach ps) 12 px 0] ++ ((circEnts m).zipIdx.map fun c => need (loadRoutesOk m ps c.1) 12 (secIx m 6) c.2) ++
    (ps.map fun p => need (timeDepthOk ps 24 p) 12 px p.first) ++ [need (sharesOk pkg && vectorsOk pkg && pagesOk pkg) 13 px pk] ++
    (mine.map fun p => need (storeOk p) 14 px p.first) ++ checkSeeds m k ps)

/-- Checks 1 to 6 of R388. -/
def checkCard (s : State) (m : SMap Byte) (f : CardFacts) : Option Bad :=
  match firstBad [checkHeader s m, checkVersions m] with
  | some b => some b
  | none => match checkSections m with
    | some b => some b
    | none => match checkLocation s m with
      | some b => some b
      | none => match checkDigests m with
        | some b => some b
        | none => checkPlans m ((myLoc s m).getD 0) f

end Sys2Proof.Machine
end

