-- ==== Sys2Proof/Machine/Power.lean ====
section
/-! DEFINITION. The power manager: envelope, lending, sprint, thermal limits, ageing and rail faults (chapter 2, R429 to R432). -/

namespace Sys2Proof.Machine


/-- Setpoint of a die's rail. -/
def vset (s : State) (n : Nat) : Nat := s.pfld .PD_TEMPOn_VSET n

/-- V_f of a die. -/
def vfloor (s : State) (n : Nat) : Nat := s.pfld .PD_TEMPOn_VF n


/-- F_TEMPO_FLOOR (R57): the cause bit, the die, and the report; the cause's number in a record is its bit in PD_FLOOR_EVT plus 1, and
DETAIL the die's MARGIN (DESIGN CHOICE: the spec names no DETAIL; log entry 91). -/
def floorFault (s : State) (n cause : Nat) : State :=
  let f : Field := match cause with
    | 0 => .PD_FLOOR_EVT_ENVELOPE
    | 1 => .PD_FLOOR_EVT_THERMAL
    | 2 => .PD_FLOOR_EVT_AGEING
    | 3 => .PD_FLOOR_EVT_SUPPLY
    | _ => .PD_FLOOR_EVT_UNEXPLAINED
  let s := (s.setPfld f 0 1).setPfld .PD_FLOOR_EVT_DIE 0 n
  let r := { FC.tempoFloor.fr with die := n, cause := cause + 1, detail := s.pfld .PD_TEMPOn_MARGIN n }
  let s := reportPkg s r
  if 4 ≤ cause then ringAdd s (({ r with place := s.place 0, time := s.time 0 } : FRec).bytes 0) else s

/-- A die is held below V_f, for the envelope or for heat. -/
def belowFloor (s : State) (n : Nat) : Bool :=
  (s.pm.envLow.contains n || s.pm.thermLow.contains n) && decide (vset s n < vfloor s n)

/-- ACTIVE: a breach condition persists (Table 2-13). -/
def showBreach (s : State) : State :=
  s.setPfld .PD_FLOOR_EVT_ACTIVE 0 (bitOf (!s.pm.breach.isEmpty || (List.range 16).any (belowFloor s)))

/-! ## V_f (2.4, R58, R447) -/

/-- A trim of the calibration block in force: V_f of die n at 25 + 10 j °C in a class. -/
def trimAt (s : State) (n cls j : Nat) : Nat := leNat (readMem s.cal (704 + 32 * n + 16 * cls + 2 * j) 2)

/-- V_f from trims, temperature, guard and the 10 mV band, before the limit of V_class; V_class and the guard without a valid block
(R447). -/
def rawFloor (s : State) (n : Nat) : Nat :=
  let age := 5 * s.pfld .PD_TEMPOn_AGE n
  if s.pfld .ALM_STAT_CAL_BAD = 1 then vClass s + age
  else
    let c := s.pfld .PD_CLASS_CLASS
    let t := s.pfld .PD_TEMPOn_TJ n
    let base :=
      if t ≤ 25 then trimAt s n c 0
      else if 95 ≤ t then trimAt s n c 7
      else
        let j := (t - 25) / 10
        let a : Int := trimAt s n c j
        let b : Int := trimAt s n c (j + 1)
        (a + (b - a) * (((t - 25) % 10 : Nat) : Int) / 10).toNat
    base + age + 10

/-- V_f of a die: at most V_class (R58); V_class in the preload state (R42). -/
def floorOf (s : State) (n : Nat) : Nat :=
  if 16 ≤ n then 780 else if s.pfld .PD_CLASS_ACCEPTED = 0 then vClass s else min (vClass s) (rawFloor s n)

/-- V_f is computed anew; a rail below it rises to it unless it is held below. -/
def showFloor (s : State) (n : Nat) : State :=
  let s := s.setPfld .PD_TEMPOn_VF n (floorOf s n)
  if vset s n = 0 ∨ s.pm.envLow.contains n ∨ s.pm.thermLow.contains n ∨ vfloor s n ≤ vset s n then s
  else s.setPfld .PD_TEMPOn_VSET n (vfloor s n)

/-! ## Envelope (R43 to R46) -/

/-- The envelope in force, W. -/
def envelope (s : State) : Nat :=
  if s.pfld .PD_CLASS_ACCEPTED = 0 then 1800 else 10 * min (s.pfld .PD_CLASS_ENV) (s.pfld .PD_ENV_CAP_CAP)

/-- The lower end of a compute or base-die rail's range in millivolts (Table 18-5), which R45 and R56 may use. -/
def railLow : Nat := 550

/-- A rail 5 mV lower, within its range (R45, R56). -/
def stepDown (v : Nat) : Nat := if v < railLow + 5 then v else v - 5

/-- The compute or base die that draws most, of those whose rail stands above `lo`. -/
def hottestLoad (s : State) (dies : List Nat) (lo : Nat → Nat) : Option Nat :=
  ((List.range 16).filter fun n => lo n < vset s n).foldl (fun b n =>
    match b with
    | none => some n
    | some m => if dies.getD m 0 < dies.getD n 0 then some n else b) none

/-- The mean is over the envelope (R45): rails go to V_f; when all stand there, the rail of the die that draws most goes 5 mV lower,
with F_TEMPO_FLOOR for a die newly below V_f. No rail goes below its range (Table 18-5; DEDUCED, log entry 91). -/
def throttle (s : State) (dies : List Nat) : State :=
  if (List.range 16).any fun n => vset s n ≠ 0 && vfloor s n < vset s n then
    (List.range 16).foldl (fun s n => if vfloor s n < vset s n then s.setPfld .PD_TEMPOn_VSET n (vfloor s n) else s) s
  else match hottestLoad s dies fun _ => railLow + 4 with
    | none => s
    | some n =>
      let s := s.setPfld .PD_TEMPOn_VSET n (stepDown (vset s n))
      if s.pm.envLow.contains n then s
      else floorFault (showBreach (onPm s fun p => { p with envLow := p.envLow ++ [n] })) n 0

/-- The demand has fallen: dies below V_f return to it before any rises above it (R45). -/
def unthrottle (s : State) : State :=
  let l := s.pm.envLow
  let s := l.foldl (fun s n => if s.pm.thermLow.contains n ∨ vset s n = 0 then s else s.setPfld .PD_TEMPOn_VSET n (vfloor s n)) s
  showBreach (onPm s fun p => { p with envLow := [] })

/-- One microsecond of a sprint or of a cooldown (R53, R54, R55): a sprint whose duration has elapsed ends. -/
def sprintTick (s : State) : State :=
  if s.pfld .PD_SPRINT_STAT_ACTIVE = 1 then
    let s := drawReserve s 1
    if s.pm.sprintUs + 1 < 1000 then onPm s fun p => { p with sprintUs := p.sprintUs + 1 }
    else
      let s := onPm s fun p => { p with sprintUs := 0 }
      let s := s.setPfld .PD_SPRINT_STAT_LEFT 0 (s.pfld .PD_SPRINT_STAT_LEFT - 1)
      let s : State := { s with sprintRan := s.sprintRan + 1 }
      if s.pfld .PD_SPRINT_STAT_LEFT = 0 then sprintEnd s 1 else s
  else if s.pfld .PD_SPRINT_STAT_COOL_LEFT = 0 then s
  else if s.pm.coolUs + 1 < 10000 then onPm s fun p => { p with coolUs := p.coolUs + 1 }
  else onPm (s.setPfld .PD_SPRINT_STAT_COOL_LEFT 0 (s.pfld .PD_SPRINT_STAT_COOL_LEFT - 1)) fun p => { p with coolUs := 0 }

/-- In sprint, input power above 5.0 kW lowers the rail of the die that draws most, of those above V_f, by a free amount (R53; log entry
92). -/
def capSprint (s : State) (dies : List Nat) : State :=
  match hottestLoad s dies (vfloor s) with
  | none => s
  | some n => freeRail s n (vfloor s n) (vset s n - 1)

/-- POWER_SAMPLE (R43, R45): a microsecond has passed with these watts drawn, by the package and by each die; fabric time advances. In the
preload state every rail is held (R42). -/
def execPowerSample (watts : Nat) (dies : List Nat) (mv : Nat) (deciAmps : Nat) (s : State) : Out :=
  if !s.pins.pwrGood then .next s
  else
    let s := onPm s fun p => { p with samples := (watts :: p.samples).take 1000 }
    let n := s.pm.samples.length
    let mean := s.pm.samples.foldl (· + ·) 0 / (if n = 0 then 1 else n)
    let s := s.setPfld .PD_POWER_MEAN_1MS 0 mean
    let s := s.setPfld .PD_POWER_PEAK_1US 0 (max watts (s.pfld .PD_POWER_PEAK_1US))
    let s := (s.setPfld .PD_SENSE_VIN 0 mv).setPfld .PD_SENSE_IIN 0 deciAmps
    let s := sprintTick (tickSet (tickSet s 0) 1)
    if s.pfld .PD_SPRINT_STAT_ACTIVE = 1 then .next (if 5000 < watts then capSprint s dies else s)
    else if s.pins.perst ∨ s.pfld .PD_CLASS_ACCEPTED = 0 then .next s
    else if envelope s < mean then .next (throttle s dies)
    else if s.pm.envLow.isEmpty then .next s
    else .next (unthrottle s)

/-- A write of PD_ENV_CAP.CAP (R46): it ends a sprint; a value outside P_PLAN to ENV is not applied. -/
def writeCap (s : State) (v : Nat) : State :=
  let s := sprintEnd s 3
  if v < s.pfld .PD_CLASS_P_PLAN ∨ s.pfld .PD_CLASS_ENV < v then s.setPfld .PD_ENV_CAP_CAP_ERR 0 1
  else s.setPfld .PD_ENV_CAP_CAP 0 v

/-- ENV_CAP_WRITE (R46). -/
def execEnvCapWrite (v : Nat) (s : State) : Out := .next (writeCap s (v % 512))

/-! ## Lending (R49, R50) -/

/-- The dies that a core's share may go to: other compute and base dies of its set, and of the sibling when LEND is 0b11, of sets in
service. -/
def lendTo (s : State) (i : SetId) (k : Nat) : List Nat :=
  (List.range 16).filter fun n => n ≠ coreDie i k && !(s.st (dieSet n)).lost && (dieSet n == i || s.pfld .PD_CLASS_LEND == 3)

/-- Every slot of the core that runs is blocked in WAIT. -/
def allWaiting (s : State) (i : SetId) (k : Nat) : Bool :=
  let st := (List.range 8).map fun n => slotState s i k n
  st.contains 4 && st.all fun x => x == 4 || x == 0 || x == 6

/-- A core's share: its die's allocation divided by the cores of the die that are enabled (R49). -/
def coreShare (s : State) (i : SetId) (k : Nat) : Nat :=
  let d := coreDie i k
  SMap.get 0 s.pm.alloc d / max 1 ((List.range 80).filter fun c => coreDie i c = d && !corePruned s i c).length

/-- LEND_THRESHOLD (R49): every slot of the core has been blocked in WAIT for longer than the threshold; the core lends its share. -/
def execLendThreshold (i : SetId) (core : CoreId) (s : State) : Out :=
  let k := core.val
  if s.pfld .PD_CLASS_LEND = 0 ∨ (s.st i).lost ∨ (s.core i k).stopped ∨ !allWaiting s i k ∨ (s.core i k).lender then .next s
  else .next (lendShare (s.onCore i k fun c => { c with lender := true }) (80 * i.val + k) (coreShare s i k) (lendTo s i k))

/-- LEND_RECLAIM (R50): a lender whose WAIT has been satisfied; its share is revoked and the rail of the die that had it is lowered. -/
def execLendReclaim (i : SetId) (core : CoreId) (s : State) : Out :=
  let k := core.val
  if !(s.core i k).lender ∨ allWaiting s i k then .next s
  else .next (revokeLoans (s.onCore i k fun c => { c with lender := false }) fun x => x.who == 80 * i.val + k)

/-! ## Sprint (R52 to R55) -/

/-- Any logic die is above a temperature: compute, base and link dies, the host bridge, the power die. -/
def anyAbove (s : State) (t : Nat) : Bool :=
  ((List.range 18).any fun n => t < s.pfld .PD_TEMPOn_TJ n) || decide (t < s.pfld .PD_SENSE_TJ_HB) || decide (t < s.pfld .PD_SENSE_TJ_PD)

/-- The reserve is charged before a sprint that it does not cover (R55): 60 s, or what is left of 720,000 s, with a prompt record. -/
def chargeReserve (s : State) (dur : Nat) : State :=
  if dur ≤ reserveLeft s then s
  else
    let used := s.pfld .PD_SPRINT_LIFE_USED
    let add := min 60 (720000 - used)
    if add = 0 then s
    else
      let s := s.setPfld .PD_SPRINT_LIFE_USED 0 (used + add)
      let s := s.setPfld .PD_SPRINT_LIFE_RESERVE 0 (s.pfld .PD_SPRINT_LIFE_RESERVE + 1000 * add)
      promptWrite (s.setAlm 104 4 (used + add)) 1 (leBytes 4 (used + add))

/-- A refused request (R52). -/
def refuseSprint (s : State) (c : Nat) : State := s.setPfld .PD_SPRINT_STAT_REFUSE 0 c

/-- A sprint request (R52): the first cause in the order of REFUSE's codes counts, BADREQ last. -/
def requestSprint (s : State) (dur : Nat) : State :=
  if s.pfld .PD_CLASS_SPRINT_OK = 0 ∨ s.pfld .PD_CLASS_ACCEPTED = 0 then refuseSprint s 1
  else if s.pfld .PD_SPRINT_STAT_ACTIVE = 1 then refuseSprint s 2
  else if s.pfld .PD_SPRINT_STAT_COOL_LEFT ≠ 0 then refuseSprint s 3
  else if s.pfld .PD_ENV_CAP_CAP < s.pfld .PD_CLASS_ENV then refuseSprint s 4
  else if anyAbove s 90 then refuseSprint s 5
  else if s.pfld .PD_FLOOR_EVT_ACTIVE = 1 then refuseSprint s 6
  else if s.pfld .PD_SPRINT_LIFE_EXHAUSTED = 1 ∨ (720000 ≤ s.pfld .PD_SPRINT_LIFE_USED ∧ reserveLeft s = 0) then refuseSprint s 7
  else if dur = 0 ∨ 1500 < dur then refuseSprint s 8
  else
    let s := chargeReserve s dur
    let d := min dur (reserveLeft s)
    let s := (s.setPfld .PD_SPRINT_STAT_ACTIVE 0 1).setPfld .PD_SPRINT_STAT_LEFT 0 d
    let s := onPm { s with sprintRan := 0 } fun p => { p with sprintUs := 0 }
    (List.range 16).foldl (fun s n =>
      if vset s n = 0 ∨ s.pm.envLow.contains n ∨ s.pm.thermLow.contains n then s else freeRail s n (vset s n) (max 900 (vset s n))) s

/-- SPRINT_REQUEST (R52): a write of PD_SPRINT_CTL. -/
def execSprintRequest (dur : Nat) (go : Bool) (s : State) : Out := .next (if go then requestSprint s (dur % 2048) else s)

/-- SPRINT_DURATION_END (R53). -/
def execSprintDurationEnd (s : State) : Out :=
  if s.pfld .PD_SPRINT_STAT_ACTIVE = 0 then .next s
  else
    let left := s.pfld .PD_SPRINT_STAT_LEFT
    let s := drawReserve s (1000 * left - s.pm.sprintUs)
    let s := onPm s fun p => { p with sprintUs := 0 }
    .next (sprintEnd { s with sprintRan := s.sprintRan + left } 1)

/-- SPRINT_COOLDOWN_END (R54). -/
def execSprintCooldownEnd (s : State) : Out := .next (onPm (s.setPfld .PD_SPRINT_STAT_COOL_LEFT 0 0) fun p => { p with coolUs := 0 })

/-! ## Heat, floors, ageing (R56 to R58) -/

/-- A rail is removed by the power die (R56, R429, R431): the die's set is lost, or the package with the host bridge or the power
die. -/
def removeRail (s : State) (n : Nat) (c : FC) : State :=
  let s := reportPkg s { c.fr with sev := if n < 18 then 3 else 4, action := if n < 18 then 8 else 9, die := n }
  if n < 18 then
    let s := s.setPfld .PD_TEMPOn_VSET n 0
    sprintEnd (loseSet s (dieSet n)) 4
  else losePackage s

/-- A compute or base die at 105 °C outside sprint (R56): its rail goes 5 mV lower at each reading, below V_f if needed, until 103 °C; once
it is set below V_f, F_TEMPO_FLOOR. -/
def thermalStep (s : State) (n : Nat) : State :=
  let s := s.setPfld .PD_TEMPOn_VSET n (stepDown (vset s n))
  let s := onPm s fun p => { p with thermLow := if p.thermLow.contains n then p.thermLow else p.thermLow ++ [n] }
  if vset s n < vfloor s n ∧ !s.pm.thermRep.contains n then
    floorFault (showBreach (onPm s fun p => { p with thermRep := p.thermRep ++ [n] })) n 1
  else showBreach s

/-- A die has cooled to 103 °C. -/
def thermalDone (s : State) (n : Nat) : State :=
  let s := onPm s fun p => { p with thermLow := p.thermLow.filter (· != n), thermRep := p.thermRep.filter (· != n) }
  showBreach (if vset s n < vfloor s n ∧ vset s n ≠ 0 ∧ !s.pm.envLow.contains n then s.setPfld .PD_TEMPOn_VSET n (vfloor s n) else s)

/-- JUNCTION_SENSE (R56): the hottest junction sensor of a die (0 to 17 as PD_TEMPOn, 18 host bridge, 19 power die), °C, and the
lowest replica margin of its last millisecond. At 105 °C a sprint ends, before anything else (R53); outside sprint the rail of a compute or
base die is lowered, but not in the preload state (R42) and not a link die's (R39). -/
def execJunctionSense (die : Fin 20) (temp margin : Nat) (s : State) : Out :=
  let n := die.val
  if !s.pins.pwrGood then .next s
  else
    let s := if n < 18 then (s.setPfld .PD_TEMPOn_TJ n temp).setPfld .PD_TEMPOn_MARGIN n margin
      else if n = 18 then s.setPfld .PD_SENSE_TJ_HB 0 temp else s.setPfld .PD_SENSE_TJ_PD 0 temp
    let s := if n < 18 ∧ 1000 ≤ margin then showBreach (onPm s fun p => { p with breach := p.breach.filter (· != n) }) else s
    let off := n < 18 ∧ vset s n = 0
    if off then .next s
    else if 115 ≤ temp then
      .next (removeRail { (sprintEnd s 2) with pins := { s.pins with thermTrip := true } } n .thermTrip)
    else
      let s := if n < 16 then showFloor s n else s
      if 105 ≤ temp ∧ s.pfld .PD_SPRINT_STAT_ACTIVE = 1 then .next (sprintEnd s 2)
      else if 16 ≤ n ∨ s.pfld .PD_CLASS_ACCEPTED = 0 then .next s
      else if 105 ≤ temp ∨ (s.pm.thermLow.contains n ∧ 103 < temp) then .next (thermalStep s n)
      else if s.pm.thermLow.contains n then .next (thermalDone s n)
      else .next (showBreach s)

/-- RAIL_FAULT (R429, R431): a rail monitor finds a failed regulator. -/
def execRailFault (die : Fin 20) (s : State) : Out := .next (removeRail s die.val .rail)

/-- The cause of a breach (R57). Where several hold, the first in the order of R57's list counts (DESIGN CHOICE: the spec gives no order;
log entry 91). -/
def breachCause (s : State) (n : Nat) : Nat :=
  if s.pm.envLow.contains n then 0
  else if s.pm.thermLow.contains n ∨ 95 < s.pfld .PD_TEMPOn_TJ n then 1
  else if n < 16 ∧ s.pfld .PD_CLASS_ACCEPTED = 1 ∧ 0 < s.pfld .PD_TEMPOn_AGE n ∧ vClass s < rawFloor s n then 2
  else if s.pfld .PD_SENSE_VIN < 10800 ∨ 13200 < s.pfld .PD_SENSE_VIN then 3
  else 4

/-- FLOOR_BREACH (R57): a replica path of a die has been below 1,000 for more than 1 µs. -/
def execFloorBreach (die : Fin 18) (margin : Nat) (s : State) : Out :=
  let n := die.val
  if 1000 ≤ margin then .next s
  else
    let s := s.setPfld .PD_TEMPOn_MARGIN n margin
    let s := onPm s fun p => { p with breach := if p.breach.contains n then p.breach else p.breach ++ [n] }
    .next (floorFault (showBreach s) n (breachCause s n))

/-- AGEING_STEP (R58): the guard of a compute or base die rises by 5 mV, kept in the almanac; a V_f above V_class is cut to it, with
F_TEMPO_FLOOR. -/
def execAgeingStep (die : Fin 16) (s : State) : Out :=
  let n := die.val
  let a := min 255 (s.pfld .PD_TEMPOn_AGE n + 1)
  let s := (s.setPfld .PD_TEMPOn_AGE n a).setAlm (8920 + n) 1 a
  let s := promptWrite s 2 (leBytes 1 n ++ leBytes 1 a)
  let s := showFloor s n
  .next (if s.pfld .PD_CLASS_ACCEPTED = 1 ∧ vClass s < rawFloor s n then floorFault s n 2 else s)

/-! ## The management processor (R432, R437) -/

/-- MP_WATCHDOG (R432, R431): the second expiry within 1 s loses the package; else F_MP_RESET, and the management processor
restarts: reports wait, and vendor commands in progress fail. -/
def execMpWatchdog (s : State) : Out :=
  let now := s.time 0
  let last := s.mg.watchdogAt
  let s := { s with mg := { s.mg with watchdogAt := now + 1 } }
  if last ≠ 0 ∧ now + 1 ≤ last + 1000000000 then .next (losePackage s)
  else
    let s := { s with mpDown := true, mg := { s.mg with image := [], imageLen := 0, supp := [], suppLen := 0 } }
    .next (reportPkg s { FC.mpReset.fr with die := 18 })

/-- MP_RESTART_DONE (R432): reports that waited are delivered in order. -/
def execMpRestartDone (s : State) : Out :=
  if !s.mpDown then .next s
  else .next (s.mpQueue.foldl (fun s e => deliver s (if e.1 = 0 then 0 else 1) e.2) { s with mpDown := false, mpQueue := [] })

/-- The record that 32 bytes spell (Table 15-9). -/
def frecOf (d : List Byte) : FRec :=
  let src := leAt d 4 4
  { code := leAt d 0 2, sev := leAt d 2 1, action := leAt d 3 1, place := src % 2 ^ 18, die := bits src 19 5, unit := bits src 24 7
    sub := leAt d 8 1, cause := leAt d 9 1, job := leAt d 10 2, sess := leAt d 12 2, tag := leAt d 14 2, time := leAt d 16 8, detail := leAt d 24 8 }

/-- FAULT_RECORD (R437): a record reaches the management processor; one of severity set lost or higher ends a sprint (R53). -/
def execFaultRecord (i : SetId) (rec : List Byte) (s : State) : Out :=
  let r := frecOf (slice rec 0 32)
  let s := if s.mpDown then { s with mpQueue := s.mpQueue ++ [(i.val, r)] } else deliver s i r
  .next (if 3 ≤ r.sev then sprintEnd s 4 else s)

/-- REFCLK_STABLE (R477): REFCLK_SYS has been in tolerance for 1 ms. -/
def execRefclkStable (s : State) : Out := .next { s with pins := { s.pins with refOk := true } }

/-- REFCLK_LOSS (R477): while the sets run, the loss of the package. -/
def execRefclkLoss (s : State) : Out :=
  let run := (s.st 0).locked || (s.st 1).locked
  let s := { s with pins := { s.pins with refOk := false } }
  .next (if run then losePackage s else s)

end Sys2Proof.Machine
end

