-- ==== Sys2Proof/Machine/Startup.lean ====
section
/-! DEFINITION. Power, reset and start-up (14.2, 14.5, 14.6, 17.6, 18.2, 18.5). -/

namespace Sys2Proof.Machine

/-! ## Firmware (R376) -/

/-- The checks of R376 on an image read by `rd`. -/
def fwOk (s : State) (rd : Nat → Nat → List Byte) : Bool :=
  let h := rd 0 1024
  let size := leAt h 8 4
  let vkey := slice h 64 384
  leAt h 0 4 == 0x4657_3438 && leAt h 4 2 == 1 && leAt h 6 2 < 2 && 1 ≤ size && size ≤ 16776192 && leAt h 16 1 ≤ 64 && zeros h 17 15 && zeros h 832 192 &&
    sha256 vkey == s.fuses.fwHash && pssVerify 384 (leNat vkey) 65537 (h.take 448) (slice h 448 384) &&
    sha256 (rd 1024 size) == slice h 32 32 && s.fuses.svn ≤ leAt h 16 1

/-- The ASCII string "DeviceID". -/
def deviceLabel : List Byte := [0x44, 0x65, 0x76, 0x69, 0x63, 0x65, 0x49, 0x44]

/-- The public key of the RSA-3072 pair generated from an HMAC_DRBG with this seed (R403). -/
def keyFrom (seed : List Byte) : List Byte :=
  let g := drbgSeed seed
  Config.rsaPublic g.key g.v

/-- The security engine takes its identity for the firmware in force (R403): DeviceID from the UDS, the CDI, and Alias from it. -/
def takeIdentity (s : State) (digest : List Byte) (svn : Nat) : SecEngine :=
  let cdi := hmac s.fuses.uds (digest ++ leBytes 1 svn)
  { deviceKey := keyFrom (hmac s.fuses.uds deviceLabel), cdi := cdi, aliasKey := keyFrom cdi }

/-- The image in NVM becomes the one in force: its digest, versions, and whether it raises FW_SVN; the identity follows it. -/
def fwTake (s : State) : State :=
  let h := s.nvmBytes 0 1024
  { s with fwVer := leAt h 12 4, sec := takeIdentity s (slice h 32 32) (leAt h 16 1), mg := { s.mg with bodyDigest := slice h 32 32, svn := leAt h 16 1, raiseSvn := bit (leAt h 6 2) 0 } }

/-- The stage and the cause in HB_BOOT. -/
def bootAt (s : State) (st cause : Nat) : State :=
  ((((toStage s st).setPfld .HB_BOOT_CAUSE 0 cause).setPfld .HB_BOOT_SECTION 0 0).setPfld .HB_BOOT_INDEX 0 0).setPfld .HB_BOOT_ACT_PENDING 0 0

/-- Step 4 of Table 14-9: the firmware runs; blocks 2 to 4 are measured, the almanac is taken over (R445). -/
def step4 (s : State) : State := almRestore (measTaken (measTaken (measTaken (bootAt (fwTake s) 2 0) 2) 3) 4)

/-- Step 3: the ROM verifies the image in NVM. -/
def step3 (s : State) (nvmOk : Bool) : State :=
  if !nvmOk then bootAt s 1 16 else if fwOk s s.nvmBytes then step4 s else bootAt s 1 1

/-! ## Power and reset (R390, R393, R459, R479 to R481) -/

/-- The package after a reset of every die: what the host, the NVM, the fuses and the pins hold is kept. -/
def coldReset (s : State) : State :=
  let s := match s.almBusy with
    | some c => spoilCopy s c
    | none => s
  { State.reset with pending := s.pending, out := s.out, freeCtr := s.freeCtr, hostMem := s.hostMem, nvm := s.nvm, fuses := s.fuses, pins := s.pins, sec := s.sec }

/-- What reports the arrays stands as long as the device is powered (R5, Table 17-4: FUSE). -/
def keepArrays (t s : State) : State :=
  let t := (List.range 5).foldl (fun t m => t.setPfld .ARR_MAPm_EN m (s.pfld .ARR_MAPm_EN m)) t
  ([0, 1] : List SetId).foldl (fun t i => (List.range 80).foldl (fun t k => t.setFld i .CORE_CAP_ARRAYS k (s.fld i .CORE_CAP_ARRAYS k)) t) t

/-- The rails of dies `ns` at `mv`. -/
def railsAt (s : State) (ns : List Nat) (mv : Nat) : State := ns.foldl (fun s n => s.setPfld .PD_TEMPOn_VSET n mv) s

/-- The compute dies and the base dies, whose rails the power die removes and restores with PERST_N (R42, R481). -/
def coreDies : List Nat := List.range 16

/-- PERST_ASSERT (R393, R475, R481): asserted for `us` microseconds; less than 100 is ignored. The compute and base-die rails go; those of
the host bridge and the link dies are held. -/
def execPerstAssert (us : Nat) (s : State) : Out :=
  if us < 100 then .next s
  else
    let t := railsAt (keepArrays (coldReset s) s) (if s.pins.pwrGood then coreDies else List.range 18) 0
    .next { t with pins := { t.pins with perst := true, thermTrip := false } }

/-- VIN_RISE (R474, R475, R479, R480): VIN, which has been as low as `low` mV, reaches 10.8 V; PWR_GOOD is released and SB_ADDR sampled;
THERMTRIP_N is high again, VIN having been removed. The link dies' rails come up, those behind PERST_N do not yet (R42, R474). -/
def execVinRise (low mv : Nat) (sbAddr : Fin 4) (s : State) : Out :=
  if s.pins.pwrGood ∨ !(s.pins.fell ∨ low < 9000) ∨ mv < 10800 then .next s
  else
    let s := { s with pins := { s.pins with pwrGood := true, fell := false, thermTrip := false, sbAddr := sbAddr.val } }
    .next ((railsAt (railsAt s coreDies 0) [linkDie 0, linkDie 1] 780).setPfld .PD_SENSE_VIN 0 mv)

/-- VIN_FAULT (R479): VIN has been at `mv` for 20 µs; outside 10.2 V to 14.0 V every rail goes, abruptly. -/
def execVinFault (mv : Nat) (s : State) : Out :=
  if !s.pins.pwrGood ∨ (10200 ≤ mv ∧ mv ≤ 14000) then .next s
  else
    let s := railsAt (coldReset s) (List.range 18) 0
    .next { s with pins := { s.pins with pwrGood := false, fell := mv < 9000, refOk := false, tap := 3 } }

/-- ARRAYS of CORE_CAP in a set, as ARR_MAP (Table 3-21). -/
def showCoreArrays (s : State) (i : SetId) : State :=
  (List.range 80).foldl (fun s k =>
    let on (p : Nat) : Nat := bitOf (!s.fuses.arraysOff.contains (160 * i.val + 2 * k + p))
    s.setFld i .CORE_CAP_ARRAYS k (on 0 + 2 * on 1)) s

/-- ARR_MAP0 to ARR_MAP4 from the fuses, and what reports them in the sets (R4, R5). -/
def showArrays (s : State) : State :=
  let s := (List.range 5).foldl (fun s m => s.setPfld .ARR_MAPm_EN m
    (((List.range 64).filter fun n => !s.fuses.arraysOff.contains (64 * m + n)).foldl (fun a n => a + 2 ^ n) 0)) s
  showCoreArrays (showCoreArrays s 0) 1

/-- LINK_IDENT of a set from the straps (R337, R472). -/
def showStrap (s : State) (i : SetId) (strap : Nat) : State :=
  let s := s.setFld i .LINK_IDENT_STRAP 0 strap
  let s := s.setFld i .LINK_IDENT_STRAP_VALID 0 (bitOf (strap % 2 ^ 18 != 0x3_FFFF))
  if strap % 2 ^ 18 = 0x3_FFFF then fenceSet s i { FC.strapInvalid.fr with die := linkDie i } else s

/-- COLD_START (R42, R390): PERST_N is deasserted and the rails stand at 0.78 V; steps 0 to 4 of Table 14-9. `nvmOk` when the NVM answers
as R373 asks. -/
def execColdStart (strap : Nat) (nvmOk : Bool) (s : State) : Out :=
  if !s.pins.pwrGood ∨ !s.pins.perst then .next s
  else
    let s := { s with pins := { s.pins with perst := false, tap := if s.pins.tap = 3 then 3 else 0 } }
    let s := showOwner (showArrays (railsAt s coreDies 780))
    let s := showStrap (showStrap s 0 strap) 1 strap
    .next (step3 (measTaken (measTaken s 1) 8) nvmOk)

/-- TAP_INSTRUCTION (R474): the instruction in force (0 BYPASS, 1 SAMPLE/PRELOAD, 2 EXTEST, 3 IDCODE) and what it shifts out: the
identification code, the levels of the lands as they are given, or a bypass bit. -/
def execTapInstruction (ir : Fin 4) (lands : List Byte) (s : State) : Out :=
  if !s.pins.pwrGood then .next s
  else
    let ir := if (ir = 1 ∨ ir = 2) ∧ !s.pins.perst then 0 else ir.val
    let s := { s with pins := { s.pins with tap := ir } }
    .next (s.emit .tap 0 [ir, if ir = 3 then 0x1482_0001 else 0] (if ir = 1 ∨ ir = 2 then lands else []))

/-! ## The card (R388, R389, R464, R447) -/

/-- Fields that a package record wrote return to reset. -/
def undoRec (s : State) (r : PlanRec) : State :=
  (piecesOf .pkg r.addr r.data).foldl (fun s p => match p.1 with
    | some (g, ix, off) => g.fields.foldl (fun s f =>
        if f.info.recOk && touched f.info off p.2.length then s.setPfld f ix f.info.rst else s) s
    | none => s) s

/-- Every page is unbound. -/
def unbindPages (s : State) : State := (fieldIndices s.regs .HB_PAGEt_CFG_BOUND).foldl (fun s t => s.setPfld .HB_PAGEt_CFG_BOUND t 0) s

/-- The preloadPack state of R42: compute and base rails that stand are at 0.78 V. -/
def preloadPack (s : State) : State :=
  let s := s.setPfld .PD_CLASS_ACCEPTED 0 0
  let s := onPm s fun p => { p with envLow := [], thermLow := [], thermRep := [], loans := [], alloc := [] }
  showBreach ((List.range 16).foldl (fun s n =>
    let s := s.setPfld .PD_TEMPOn_VF n 780
    if vset s n = 0 then s else s.setPfld .PD_TEMPOn_VSET n 780) s)

/-- A refusal (R389). -/
def refuseCard (s : State) (b : Bad) : State :=
  let s := preloadPack (unbindPages (toStage s 4))
  let s := (s.setPfld .HB_BOOT_CAUSE 0 b.cause).setPfld .HB_BOOT_SECTION 0 b.sec
  onMg (s.setPfld .HB_BOOT_INDEX 0 b.ix) fun m => { m with cardOk := false }

/-- The power section is accepted (R41, R460): PD_CLASS takes the profile, CAP the envelope, rails their range; the allocations of the
dies are free values (R49; log entry 92). -/
def acceptPower (s : State) (v : Nat) : State :=
  let s := { s with regs := putReg s.regs (fun f => f.card) .PD_CLASS 0 0 (leBytes 8 v) }
  let s := (s.setPfld .PD_CLASS_ACCEPTED 0 1).setPfld .PD_ENV_CAP_CAP 0 (bits v 5 9)
  let s := (List.range 16).foldl (fun s n => (onPm s fun p => { p with alloc := SMap.put 0 p.alloc n (s.free 10) }).spend) s
  normalRails ((List.range 16).foldl (fun s n => showFloor s n) s)

/-- The calibration block is read and measured (R447, step 5). -/
def readCal (s : State) : State :=
  let d := s.nvmBytes calBase 53024
  let m : SMap Byte := writeMem [] 0 d
  let ok := calValid m
  let s := (s.setPfld .ALM_STAT_CAL_BAD 0 (bitOf (!ok))).setPfld .ALM_STAT_CAL_ORIGIN 0 (if ok then leAt d 6 1 else 0)
  measTaken { (onMg s fun x => { x with meas7 := sha256 d }) with cal := if ok then m else [] } 7

/-- A page's identity as the card binds it (Table 13-14). -/
def showPage (s : State) (t : Nat) : State :=
  let s := (s.setPfld .HB_PAGE_ID_PAGE t t).setPfld .HB_PAGE_ID_SET t (s.pfld .HB_PAGEt_CFG_SET t)
  s.setPfld .HB_PAGE_ID_VECS t (s.pfld .HB_PAGEt_CFG_VEC_COUNT t)

/-- The package lock point (R464). -/
def lockPackage (s : State) (l : List PlanRec) : State :=
  let s := showHeld (l.foldl (fun s r => applyPkgRec s r) (unbindPages s))
  (fieldIndices s.regs .HB_PAGEt_CFG_BOUND).foldl (fun s t => showPage s t) s

/-- The card is read from step 5 on (R388, R389): refused, or accepted as far as the set plans. -/
def verifyCard (s : State) (f : CardFacts) : State :=
  let m := cardCopy s
  let first := match firstBad [checkHeader s m, checkVersions m] with
    | some b => some b
    | none => match checkSections m with
      | some b => some b
      | none => checkLocation s m
  match first with
  | some b => refuseCard s b
  | none =>
    let k := (myLoc s m).getD 0
    let e := (locs m).getD k (locOf [])
    let pkg := (recsAt (secData m 3) e.pkg).map (·.2)
    let s := acceptPower (readCal s) (profileOf m e.profile)
    let s := lockPackage s (pkg.filter fun r => !r.setScope && recAllowed r)
    match (match checkDigests m with | some b => some b | none => checkPlans m k f) with
    | some b => refuseCard (showHeld (pkg.foldl (fun s r => undoRec s r) s)) b
    | none =>
      let s := bootAt { s with svers := leAt (cardHdr m) 17 1, cardDigest := cardDigestOf m } 5 0
      measTaken (onMg s fun x => { x with
        card := m, cardOk := true, facts := f, trained := [], ownerKey := slice (cardHdr m) 96 384
        spare := (List.range 320).filter fun a => !bit e.arrmap a }) 5

/-- CARD_VERIFY (R388): from step 5, once the firmware runs or a restart has come so far, an owner is active (R380) and REFCLK_SYS is
good (R477). -/
def execCardVerify (facts : CardFacts) (s : State) : Out :=
  if !(stage s = 2 ∨ stage s = 11) ∨ !s.pins.refOk then .next s
  else if (ownerSlot s).isNone then .next (bootAt s 3 0)
  else .next (verifyCard s facts)

/-- A loopback runs on some stack: it carries no other traffic (R270). -/
def loopbackRuns (s : State) : Bool :=
  ([0, 1] : List SetId).any fun i => (List.range 6).any fun st => s.fld i .MEM_HBM_LBs_BUSY st == 1

/-- HBM_TRAIN_DONE (R390, R264, step 6): stacks are trained and filled with zero words, and leave self-refresh (R260); those that fail are
fenced. A stack on which a loopback runs is not trained before its end. -/
def execHbmTrainDone (failed : List (Fin 12)) (s : State) : Out :=
  if stage s ≠ 5 ∨ !s.mg.trained.isEmpty ∨ loopbackRuns s then .next s
  else
    let s := ([0, 1] : List SetId).foldl (fun s i => s.onSet i fun t => { t with
      selfRef := false
      mem := zeroMem t.mem 0 0x090_0000_0000, chk := SMap.keep (fun k => 0x090_0000_0000 / 32 ≤ k) t.chk }) s
    let s := failed.foldl (fun s x => fenceStack s (if x.val < 6 then 0 else 1) (x.val % 6) 3) s
    .next (onMg s fun m => { m with trained := [0, 1] })

/-! ## The set lock point (R391, R395, R402, R406) -/

/-- The entries of the supplement in NVM that names the card in force, with its version (R402). -/
def suppStored (s : State) : Option (Nat × List CatEnt) :=
  let h := s.nvmBytes 0x700_0000 64
  if leAt h 0 4 = 0x5355_5050 ∧ leAt h 4 2 = 1 ∧ slice h 16 32 = s.cardDigest then
    some (leAt h 6 2, catEnts (s.nvmBytes (0x700_0000 + 64) (80 * leAt h 8 4)))
  else none

/-- The circulation unit takes the catalogue, the circle's entry and the tile map; a stored supplement of this card replaces its
entries, and its version is in force. -/
def startCirc (s : State) (i : SetId) (seedling : Bool) : State :=
  let m := s.mg.card
  let cat := catEnts (secData m 5)
  let ce : Option CircEnt := (circEnts m).find? fun c => c.circle == s.fld i .CIRC_CFG_CIRCLE
  let seedVer := (ce.map (·.seedVer)).getD 0
  let cardVer := (ce.map (·.startVer)).getD 0
  let (ver, cat) : Nat × List CatEnt := match suppStored s with
    | some (v, l) => (v, cat.map fun (e : CatEnt) => if bit e.flags 0 && e.version == seedVer && seedVer != cardVer then e
                                                     else (l.find? fun (x : CatEnt) => x.piece == e.piece).getD e)
    | none => (cardVer, cat)
  let tm := (if seedling then seedMap s.mg.facts i else fullMap s.mg.facts i).map tmapEnt
  let rs := reserveOf s.mg.facts i
  let s := onCirc s i fun _ => { cat := cat, reader := (ce.map (·.reader)).getD 0xFFFF_FFFF, tierReader := (ce.map (·.tierReader)).getD 0xFFFF_FFFF
                                 backup := (ce.map (·.backup)).getD 0xFFFF_FFFF, seedVer := seedVer, startVer := ver, tmap := tm, seedling := seedling
                                 tierTiles := tierTilesOf s.mg.facts i seedling, reserve := (rs.1, rs.2.1) }
  s.setFld i .CIRC_REV_VERSION 0 (if seedling then seedVer else ver)

/-- A plan has been applied: what hardware computes from it, and what fills and restarts restore. -/
def planTaken (s : State) (i : SetId) (l : List PlanRec) : State :=
  let s := s.onSet i fun t => { t with
    plan := (l.filter fun r => match spaceOf r.addr with | .mmio _ => false | _ => true).map fun r => (r.addr, r.data), locked := true }
  let s := (List.range 6).foldl (fun s x => s.setFld i .MSE_STKs_1_UNRSV x (s.fld i .MSE_STKs_1_FRAMES x)) s
  s.setFld i .MSE_KVCFG_FSIZE 0 (if s.fld i .MSE_KVCFG_LAYERS = 0 then 0 else (kvGeo s i).fsize)

/-- Jobs that the plan makes ACTIVE start, with their slots that RUN. -/
def startJobs (s : State) (i : SetId) : State :=
  ((fieldIndices (s.st i).regs .MEM_JOBj_STATE).filter fun j => s.fld i .MEM_JOBj_STATE j = 1).foldl (fun s j => startJob s i j) s

/-- A set passes the lock point: its plan, its circulation unit, its place in the time tree; an idle set keeps its registers at reset. -/
def lockSet (s : State) (i : SetId) (e : Loc) : State :=
  if (s.st i).lost then s
  else if e.isIdle i then s.onSet i fun t => { t with locked := true }
  else
    let m := s.mg.card
    let seedling := e.seed.getD i.val noList != noList
    let l := ((if seedling then seedRecs m e i else planRecs m e i)).map (·.2)
    let s := startCirc (planTaken (applyPlan s i l) i l) i seedling
    if s.fld i .LINK_FT_CFG_PARENT = 0 then s.setFld i .LINK_FT_STAT_STATE 0 3 else s

/-- A set that has locked starts: jobs, the link die, the load (R207). An idle set only trains its links (R21). -/
def goSet (s : State) (i : SetId) : State :=
  if (s.st i).lost then s
  else if places s i = 0 then releasePorts s i
  else
    let s := settle (startJobs s i) i
    beginLoad (releasePorts s i) i (circ s i).cat

/-- SET_LOCK (R391, R395): steps 7 and 8; both sets pass the lock point together, `ms` after the start. -/
def execSetLock (ms : Nat) (s : State) : Out :=
  if stage s ≠ 5 ∨ !s.mg.cardOk ∨ s.mg.trained.isEmpty ∨ loopbackRuns s then .next s
  else
    let m := s.mg.card
    let e := (locs m).getD ((myLoc s m).getD 0) (locOf [])
    let old := (s.nvmBytes 0x700_0000 4 != [0xFF#8, 0xFF#8, 0xFF#8, 0xFF#8]) && (suppStored s).isNone
    let s := if old then s.nvmErase 0x700_0000 0x40_0000 else s
    let s := lockSet (lockSet s 0 e) 1 e
    let s := measTaken { s with warm := false } 6
    let s := (bootAt s 6 0).setPfld .HB_BOOT_T_LOCK_MS 0 ms
    .next (showStage (goSet (goSet s 0) 1))

/-! ## Service (R340, R377, R395, R396) -/

/-- FW_SVN is burnt up to the image's SVN when an image that asks for it first serves (R377). -/
def burnSvn (s : State) : State :=
  if s.mg.raiseSvn then showOwner { s with fuses := { s.fuses with svn := max s.fuses.svn s.mg.svn }, mg := { s.mg with raiseSvn := false } } else s

/-- What discovery has left out of the circle, as the reports of port tables show it (R340). -/
def startLoss (s : State) (i : SetId) : FoldLoss :=
  let n := places s i
  let me := myPlace s i
  let own (l : Nat) : Bool := portActive s i (physPort s i (wayPort s i l))
  let up (q l : Nat) : Bool := if q = me then own l else match SMap.get none (circ s i).tables q with
    | some t => bit t.2 l
    | none => false
  let here (q : Nat) : Bool := q == me || (SMap.get none (circ s i).tables q).isSome
  { gone := (List.range n).filter fun q => !here q
    cuts := (List.range n).filter fun j => here j && here ((j + 1) % n) && !(up j 1 && up ((j + 1) % n) 0)
    stand := [] }

/-- The circle may start at this place: anywhere but at the place that gathers the port tables; there, whole or as a fold in loading has
left it (R214), or as the line that a degraded plan leaves besides, which it announces. -/
def mayStart (s : State) (i : SetId) : Option State :=
  let c := circ s i
  let l := startLoss s i
  if myPlace s i ≠ 0 ∧ c.tables.isEmpty then some s
  else if c.dup then none
  else if (l.cuts.all c.cuts.contains) ∧ (l.gone.all c.gone.contains) then some s
  else
    let cuts := union c.cuts l.cuts
    let gone := union c.gone l.gone
    let asked := c.stand.filter fun x => !gone.contains x.lost
    if !mayFold s i l ∨ !piecesServed s i gone asked ∨ noLine s i cuts gone then none
    else match lineOf (places s i) cuts gone with
    | none => none
    | some line =>
      let epoch := (s.fld i .CIRC_STAT_EPOCH + 1) % 65536
      let stand := asked ++ gone.flatMap (standInOf s i)
      let l : FoldLoss := { cuts := cuts, gone := gone, stand := stand }
      if stand.any (fun x => !serves (places s i) gone x.by_) ∨ copyLost s i l then none
      else some (takeFold (sendRefold s i epoch 1 line stand) i epoch line l)

/-- The place enters service in a state of Table 7-10: 1 seedling, 2 serving, or folded. -/
def enter (s : State) (i : SetId) (st : Nat) : State :=
  match mayStart s i with
  | none => s
  | some s =>
    let s := s.setFld i .CIRC_STAT_STATE 0 (if (circ s i).line.isEmpty then st else 4)
    let s := if promenade s i then onCirc s i fun c => { c with up := true } else circPump (enterService s i 1) i
    showStage (burnSvn s)

/-- Every piece of a kind that this set loads is digested clean. -/
def allClean (s : State) (i : SetId) (p : CatEnt → Bool) : Bool := (circ s i).cat.all fun e => !p e || !loads s i e || (pieceSt s i e).clean

/-- The set waits for its circle to start. -/
def waitsStart (s : State) (i : SetId) : Bool :=
  (s.st i).locked && !(s.st i).lost && places s i != 0 && !(circ s i).up && s.fld i .CIRC_STAT_STATE == 0 && (circ s i).fold.isNone

/-- SEEDLING_START (R395): every seedling piece of the circle is clean; the set enters seedling service, `sec` s after the start. -/
def execSeedlingStart (i : SetId) (sec : Nat) (s : State) : Out :=
  if waitsStart s i ∧ (circ s i).seedling ∧ allClean s i (fun e => bit e.flags 0) then
    let s := s.setPfld .HB_BOOT_T_SEED_S 0 sec
    .next (settle (enter s i 1) i)
  else .next s

/-- The leader asks for the promotion and commits it (R396, R204). -/
def askPromotion (s : State) (i : SetId) : State :=
  let c : Change := { kind := 2, ver := (circ s i).startVer, s := s.fld i .CIRC_REV_REV + 3, ep := (s.fld i .CIRC_STAT_EPOCH + 1) % 65536, confirmed := false }
  let s := toOthers (holdChange s i c) i 8 [c.kind, c.ver, c.s, c.ep]
  tryConfirm (onCirc s i fun u => { u with req := some { kind := 2, ver := c.ver, ready := [], acks := [myPlace s i] } }) i

/-- FULL_LOAD_DONE (R395, R396): the full load is complete at every place; a circle without a seedling plan starts, `sec` s after the
start of the package, and the leader of one in seedling service asks for the promotion. -/
def execFullLoadDone (i : SetId) (sec : Nat) (s : State) : Out :=
  if !allClean s i (fun _ => true) then .next s
  else if waitsStart s i ∧ !(circ s i).seedling then .next (settle (enter (s.setPfld .HB_BOOT_T_FULL_S 0 sec) i 2) i)
  else if (circ s i).seedling ∧ circulates s i ∧ isLeader s i ∧ (circ s i).chg.isNone ∧ (circ s i).req.isNone then
    .next (settle (askPromotion s i) i)
  else .next s

/-- Every job of a set ends as KILL ends it, at once and to the end (Table 5-6); with `fill` its regions are filled. -/
def killJobs (s : State) (i : SetId) (fill : Bool) : State :=
  let js := (fieldIndices (s.st i).regs .MEM_JOBj_STATE).filter fun j => s.fld i .MEM_JOBj_STATE j ≠ 0
  let s := js.foldl (fun s j => clearCtrs (leaveJob s i j .byKill) i j) s
  let s := if fill then js.foldl (fun s j => (fillRegions s i j).foldl (fun s r => zeroFill s i r.base r.size) s) s else s
  let s := js.foldl (fun s j => (setTeardown s i j none).setFld i .MEM_JOBj_STATE j 0) s
  (endSessions s i (fun _ => true) FC.sessKilled.num 5).onSet i fun t => { t with killed := [] }

/-- PROMOTE (R396): having handled the last turn before S, the place makes the promotion, `sec` s after the start, and enters
revolution S. The mode stays what it is, whatever the full list writes (R32; log entry 86). -/
def execPromote (i : SetId) (sec : Nat) (s : State) : Out :=
  match (circ s i).chg with
  | some c =>
    if c.kind = 2 ∧ c.confirmed ∧ circulates s i ∧ (circ s i).first.isNone ∧ s.fld i .CIRC_REV_REV + 1 = c.s then
      let m := s.mg.card
      let e := (locs m).getD ((myLoc s m).getD 0) (locOf [])
      let l := (planRecs m e i).map (·.2)
      let mode := s.fld i .CIRC_CFG_MODE
      let s := (planTaken (applyPlan (killJobs s i true) i l) i l).setFld i .CIRC_CFG_MODE 0 mode
      let s := onCirc s i fun u => { u with tmap := (fullMap s.mg.facts i).map tmapEnt, tierTiles := tierTilesOf s.mg.facts i false }
      let s := settle (startJobs (s.setPfld .HB_BOOT_T_FULL_S 0 sec) i) i
      .next (settle (circPump (enterService s i c.s) i) i)
    else .next s
  | none => .next s

/-- ALIAS_READY (R404): the Alias certificate has been issued. -/
def execAliasReady (s : State) : Out := .next (if fromStep4 s then s.setPfld .SEC_STAT_ALIAS_READY 0 1 else s)

end Sys2Proof.Machine
end

