-- ==== Sys2Proof/Machine/Trust.lean ====
section
/-! DEFINITION. Firmware transfer, nonces, enrolment, and the card and the supplement in NVM (14.1 to 14.3, 14.8, 14.10). -/

namespace Sys2Proof.Machine

/-! ## The CXL mailbox (R366) -/

/-- The answer to a CXL command with its return code (log entry 3): 0 success, 2 invalid input, 3 unsupported, 4 internal error, 6 busy,
10 firmware verification failed. Completion raises vector 1 (R364). -/
def boxAnswer (s : State) (op code : Nat) (data : List Byte := []) : State := raiseVector (s.emit .mailbox 0 [op, code] data) 1

/-- The mailbox answers while the firmware runs or in RECOVERY, unless the management processor restarts; BUSY while the package
restarts. In RECOVERY it knows Identify and the firmware commands only (R378). -/
def boxCmd (s : State) (op : Nat) (run : State → State) : State :=
  if stage s = 0 ∨ s.pkgLost then s
  else if stage s = 11 ∨ s.mpDown then boxAnswer s op 6
  else if stage s = 1 ∧ ¬ [0x0001, 0x0200, 0x0201, 0x0202].contains op then boxAnswer s op 3
  else run s

/-- RECOVERY with cause NVM: the NVM answers nothing, and no image can be written (R373). -/
def nvmDead (s : State) : Bool := stage s == 1 && s.pfld .HB_BOOT_CAUSE == 16

/-- The CXL timestamp: 0 until it is set, then it runs with fabric time (log entry 3). -/
def cxlTime (s : State) : Nat := if s.mg.timestamp = 0 then 0 else s.mg.timestamp + (s.time 0 - s.mg.stampAt)

/-- Bytes of the staged image. -/
def staged (s : State) (a n : Nat) : List Byte := readMem s.mg.image a n

/-- Program the staged image into the firmware region of 16 MiB (Table 14-1). -/
def programFw (s : State) : State := (s.nvmErase 0 0x100_0000).nvmWrite 0 (staged s 0 (min s.mg.imageLen 0x100_0000))

/-- A piece of an image arrives: in RECOVERY it goes to the region as it arrives (R378), otherwise to the staging memory (R379). `fresh`
starts an image. -/
def takePiece (s : State) (fresh : Bool) (off : Nat) (data : List Byte) : State :=
  if stage s = 1 then (if fresh then s.nvmErase 0 0x100_0000 else s).nvmWrite off data
  else onMg s fun m => { m with
    image := writeMem (if fresh then [] else m.image) off data
    imageLen := max (if fresh then 0 else m.imageLen) (off + data.length) }

/-- The image is whole: outside RECOVERY it is verified before the region is written, and refused when it fails (R379). -/
def wholeImage (s : State) : State :=
  if stage s = 1 then boxAnswer s 0x0201 0
  else if fwOk s (staged s) then boxAnswer (onMg (programFw s) fun m => { m with image := [], imageLen := 0 }) 0x0201 0
  else boxAnswer (onMg s fun m => { m with image := [], imageLen := 0 }) 0x0201 10

/-- TRANSFER_FW (R378, R379): action 0 the full image, 1 its start, 2 a further piece, 3 its end, 4 abort. -/
def execTransferFw (action : Fin 5) (off : Nat) (data : List Byte) (s : State) : Out :=
  .next (boxCmd s 0x0201 fun s =>
    if nvmDead s then boxAnswer s 0x0201 4
    else if action = 4 then boxAnswer (onMg s fun m => { m with image := [], imageLen := 0 }) 0x0201 0
    else if 0x100_0000 < off + data.length then boxAnswer s 0x0201 2
    else
      let s := takePiece s (action = 0 || action = 1) off data
      if action = 0 ∨ action = 3 then wholeImage s else boxAnswer s 0x0201 0)

/-- ACTIVATE_FW (R378, R379): running, only activation at the next restart; in RECOVERY the region is verified and the start goes on. -/
def execActivateFw (atRestart : Bool) (s : State) : Out :=
  .next (boxCmd s 0x0202 fun s =>
    if nvmDead s then boxAnswer s 0x0202 4
    else if stage s = 1 then
      if fwOk s s.nvmBytes then boxAnswer (step4 s) 0x0202 0 else boxAnswer (s.setPfld .HB_BOOT_CAUSE 0 1) 0x0202 10
    else if atRestart then boxAnswer (s.setPfld .HB_BOOT_ACT_PENDING 0 1) 0x0202 0
    else boxAnswer s 0x0202 2)

/-- GET_FW_INFO (R379): one slot, which is active and, with an image pending, staged; its revision string is free. -/
def execGetFwInfo (s : State) : Out :=
  .next (boxCmd s 0x0200 fun s =>
    boxAnswer s.spend 0x0200 0 (leBytes 1 1 ++ leBytes 1 (1 + 8 * s.pfld .HB_BOOT_ACT_PENDING) ++ List.replicate 14 0 ++ s.freeBytes 16 ++ List.replicate 48 0))

/-- IDENTIFY (R378): the identity that CXL defines; its values are free. -/
def execIdentify (s : State) : Out := .next (boxCmd s 0x0001 fun s => boxAnswer s.spend 0x0001 0 (s.freeBytes 18))

/-! ## Reading (Table 14-12) -/

/-- GET_BOOT (R407). -/
def execGetBoot (v : Via) (s : State) : Out :=
  .next (vendorCmd s v { op := 0xC000, open_ := true, stageOk := true } [] fun s =>
    answer s v 0xC000 0 0 (leBytes 8 (composeReg s.regs .HB_BOOT 0) ++ leBytes 8 (composeReg s.regs .HB_BOOT_T 0) ++ leBytes 8 (composeReg s.regs .HB_OWNER 0)))

/-- NONCE (R383): 32 bytes whose value the manual leaves open. -/
def execNonce (v : Via) (s : State) : Out :=
  .next (vendorCmd s v { op := 0xC001, stageOk := fromStep4 s } [] fun s =>
    let n := s.freeBytes 32
    answer (onMg s.spend fun m => { m with nonces := m.nonces ++ [n] }) v 0xC001 0 0 n)

/-- NONCE_EXPIRE (R383): the oldest nonce has gone unused for 60 s. -/
def execNonceExpire (s : State) : Out := .next (onMg s fun m => { m with nonces := m.nonces.drop 1 })

/-- VENDOR_UNKNOWN (R407): a command that is not listed answers INPUT. -/
def execVendorUnknown (v : Via) (op : Nat) (s : State) : Out :=
  .next (if stage s = 0 ∨ s.pkgLost ∨ (stage s = 1 ∧ v.mctp) then s
    else if stage s = 11 ∨ s.mpDown then answer s v op 1 else answer s v op 4)

/-! ## The card in NVM (R375, R407) -/

/-- CARD_WRITE and CARD_CHECK are accepted in REFUSED, ENROL, and from the set lock point onward. -/
def cardStage (s : State) : Bool := stage s == 3 || stage s == 4 || 6 ≤ stage s

/-- CARD_WRITE (R375). -/
def execCardWrite (v : Via) (off : Nat) (data : List Byte) (s : State) : Out :=
  .next (vendorCmd s v { op := 0xC002, writes := true, stageOk := cardStage s } (placed off data) fun s =>
    if 0x10_0000 < data.length ∨ 0x600_0000 < off + data.length then answer s v 0xC002 4
    else answer (s.nvmWrite (0x100_0000 + off) data) v 0xC002 0)

/-- CARD_CHECK (R407): checks 1 to 6 of R388 on the card in NVM; a failure answers VERIFY with its cause, section and index. -/
def execCardCheck (v : Via) (facts : CardFacts) (s : State) : Out :=
  .next (vendorCmd s v { op := 0xC003, stageOk := cardStage s } [] fun s =>
    match checkCard s (cardCopy s) facts with
    | none => answer s v 0xC003 0
    | some b => answer s v 0xC003 5 b.cause (leBytes 1 b.sec ++ leBytes 3 b.ix))

/-! ## Supplements (R202, R401) -/

/-- SUPP_WRITE. -/
def execSuppWrite (v : Via) (off : Nat) (data : List Byte) (s : State) : Out :=
  .next (vendorCmd s v { op := 0xC004, writes := true, stageOk := stage s == 9 } (placed off data) fun s =>
    if 0x40_0000 < off + data.length then answer s v 0xC004 4
    else answer (onMg s fun m => { m with supp := writeMem m.supp off data, suppLen := max m.suppLen (off + data.length) }) v 0xC004 0)

/-- R202 on one entry against the card's. -/
def suppFits (card : List CatEnt) (e : CatEnt) : Bool :=
  card.any fun c => c.piece == e.piece && c.owner == e.owner && c.partner == e.partner && c.addr == e.addr && c.paddr == e.paddr &&
    c.aux == e.aux && c.flags == e.flags && e.len ≤ c.len

/-- The sets in service. -/
def servingSets (s : State) : List SetId := ([0, 1] : List SetId).filter fun i => (s.st i).locked && !(s.st i).lost && places s i != 0

/-- The supplement is accepted: it replaces the one in NVM, and its pieces are loaded into the bank not in service (R202, R401). -/
def takeSupp (s : State) (raw : List Byte) (l : List CatEnt) : State :=
  let s := (s.nvmErase 0x700_0000 0x40_0000).nvmWrite 0x700_0000 raw
  (servingSets s).foldl (fun s i => beginLoad (onCirc s i fun c => { c with other := l }) i l) s

/-- SUPP_COMMIT (R401). -/
def execSuppCommit (v : Via) (s : State) : Out :=
  .next (vendorCmd s v { op := 0xC005, writes := true, stageOk := stage s == 9 } [] fun s =>
    let h := readMem s.mg.supp 0 64
    let n := 64 + 80 * leAt h 8 4
    if leAt h 0 4 ≠ 0x5355_5050 ∨ leAt h 4 2 ≠ 1 ∨ 0x40_0000 < n + 384 ∨ s.mg.suppLen < n + 384 then answer s v 0xC005 4
    else
      let body := readMem s.mg.supp 0 n
      let sig := readMem s.mg.supp n 384
      let signed_ := match ownerKey s with
        | some k => pssVerify 384 (leNat k) 65537 body sig
        | none => false
      let l := catEnts (body.drop 64)
      if !signed_ ∨ slice h 16 32 ≠ s.cardDigest then answer s v 0xC005 5
      else if !l.all (suppFits (catEnts (secData s.mg.card 5))) ∨ (servingSets s).any fun i => s.fld i .CIRC_CFG_BANKS == 0 then
        answer ((servingSets s).foldl (fun s i => s.setFld i .CIRC_SWITCH_STAT_RESULT 0 5) s) v 0xC005 5 5
      else answer (onMg (takeSupp s (body ++ sig) l) fun m => { m with supp := [], suppLen := 0 }) v 0xC005 0)

/-! ## The owner (R381, R382) -/

/-- Enrolment is open (R381): stage ENROL, no active owner, and a slot remains. -/
def enrolOpen (s : State) : Bool := stage s == 3 && (ownerSlot s).isNone && (nextOwnerSlot s).isSome

/-- ENROL_BEGIN (R381): the new modulus; a nonce is returned and the request pends. -/
def execEnrolBegin (v : Via) (modulus : List Byte) (s : State) : Out :=
  .next (vendorCmd s v { op := 0xC008, writes := true, stageOk := enrolOpen s } modulus fun s =>
    if v.mctp then answer s v 0xC008 3
    else if modulus.length ≠ 384 then answer s v 0xC008 4
    else
      let n := s.freeBytes 32
      answer (showOwner (onMg s.spend fun m => { m with enrol := some (modulus, n) })) v 0xC008 0 0 n)

/-- The pending request is cleared. -/
def clearEnrol (s : State) : State := showOwner (onMg s fun m => { m with enrol := none })

/-- ENROL_CONFIRM (R381): the signature of the new key; the hash is burnt and the card is read again from step 5. -/
def execEnrolConfirm (v : Via) (sig : List Byte) (s : State) : Out :=
  .next (vendorCmd s v { op := 0xC009, writes := true, stageOk := enrolOpen s } sig fun s =>
    if v.mctp then answer s v 0xC009 3
    else match s.mg.enrol, nextOwnerSlot s with
    | some (modulus, nonce), some n =>
      if pssVerify 384 (leNat modulus) 65537 (sha256 (nonce ++ sha256 modulus)) sig then
        let s := { s with fuses := { s.fuses with owners := SMap.put [] s.fuses.owners n (sha256 modulus) } }
        let s := measTaken (clearEnrol (onMg s fun m => { m with ownerKey := modulus })) 8
        answer (toStage s 2) v 0xC009 0
      else answer (clearEnrol s) v 0xC009 5
    | _, _ => answer s v 0xC009 2)

/-- ENROL_TIMEOUT (R381): 60 s have passed. -/
def execEnrolTimeout (s : State) : Out := .next (if s.mg.enrol.isSome then clearEnrol s else s)

/-- OWNER_RELEASE (R382): the revoke bit of the active slot is burnt; the card in force stays. -/
def execOwnerRelease (v : Via) (s : State) : Out :=
  .next (vendorCmd s v { op := 0xC00A, writes := true, owner := true, stageOk := fromStep4 s } [] fun s =>
    match ownerSlot s with
    | none => answer s v 0xC00A 2
    | some n => answer (measTaken (showOwner { s with fuses := { s.fuses with revoked := putBits s.fuses.revoked n 1 1 } }) 8) v 0xC00A 0)

/-! ## Warm restart and shutdown (R398 to R400, R460) -/

/-- Steps 0 to 3 of Table 14-10: jobs killed and sessions ended, pages disabled, the sprint reserve returned in whole seconds and the
almanac written, DOWN sent, the stacks in self-refresh (R260). -/
def stopAll (s : State) : State :=
  let s := killJobs (killJobs (toStage s 11) 0 false) 1 false
  let s := (fieldIndices s.regs .SESS_RING_ENABLE).foldl (fun s t => disableRing s (pageSet s t) t) s
  let s := sprintEnd s 1
  let used := s.pfld .PD_SPRINT_LIFE_USED - s.pfld .PD_SPRINT_LIFE_RESERVE / 1000
  let s := ((s.setPfld .PD_SPRINT_LIFE_USED 0 used).setPfld .PD_SPRINT_LIFE_RESERVE 0 0).setAlm 104 4 used
  let s := ([0, 1] : List SetId).foldl (fun s i => s.onSet i fun t => { t with selfRef := true, patrol := [] }) s
  sendDown (sendDown (almFinal s) 0) 1

/-- A set's die registers and units return to reset (R459); straps, fuses, what pages have been told, and what its stacks hold in
self-refresh (R260) are kept. -/
def resetSet (s : State) (i : SetId) : State :=
  let strap := s.fld i .LINK_IDENT_STRAP
  let valid := s.fld i .LINK_IDENT_STRAP_VALID
  let hbm (k : Nat) : Bool := k < 0x090_0000_0000
  let t := s.st i
  let s := s.putSet i { SetSt.reset i with
    selfRef := t.selfRef, mem := SMap.keep hbm t.mem, chk := SMap.keep (fun k => hbm (32 * k)) t.chk }
  let s := (s.setFld i .LINK_IDENT_STRAP 0 strap).setFld i .LINK_IDENT_STRAP_VALID 0 valid
  showCoreArrays s i

/-- Step 4 of Table 14-10: the logic dies reset, the management processor's working state cleared, SEC_STAT rebuilt, the preload
state, and the firmware verified; RECOVERY when it fails. -/
def restartStep4 (s : State) : State :=
  let now := cxlTime s
  let s := preloadPack (resetSet (resetSet { s with warm := true } 0) 1)
  let s := Reg.fields .SEC_STAT |>.foldl (fun s f => s.setPfld f 0 0) s
  let s := (s.setPfld .HB_BOOT_T_LOCK_MS 0 0).setPfld .HB_BOOT_T_SEED_S 0 0
  let s := ((s.setPfld .HB_BOOT_T_FULL_S 0 0).setPfld .HB_BOOT_ACT_PENDING 0 0).setPfld .ALM_STAT_CAL_UNLOCKED 0 0
  let s := { s with cardDigest := [], svers := 0, cal := [], mg := { ({} : Mgmt) with
    bodyDigest := s.mg.bodyDigest, svn := s.mg.svn, raiseSvn := s.mg.raiseSvn, ownerKey := s.mg.ownerKey, eids := s.mg.eids
    timestamp := now } }
  let s := showOwner (measTaken (measTaken s 1) 8)
  if fwOk s s.nvmBytes then measTaken (measTaken (measTaken (fwTake s) 2) 3) 4 else bootAt s 1 1

/-- RESTART (R398): Table 14-10; the start then goes on from step 5 of Table 14-9 with CARD_VERIFY. -/
def execRestart (v : Via) (s : State) : Out :=
  .next (vendorCmd s v { op := 0xC006, writes := true, stageOk := running s } [] fun s => restartStep4 (stopAll (answer s v 0xC006 0)))

/-- SHUTDOWN (R400): steps 0 to 3 of Table 14-10, then OFF. -/
def execShutdown (v : Via) (s : State) : Out :=
  .next (vendorCmd s v { op := 0xC007, writes := true, stageOk := running s } [] fun s =>
    let s := stopAll (answer s v 0xC007 0)
    toStage (onCirc (onCirc s 0 fun c => { c with up := false }) 1 fun c => { c with up := false }) 12)

end Sys2Proof.Machine
end

