-- ==== Sys2Proof/Machine/Mgmt.lean ====
section
/-! DEFINITION. The CXL mailbox's generic commands, MCTP, SPDM and measurements (13.9, 14.9). -/

namespace Sys2Proof.Machine

/-! ## CXL mailbox (R366) -/

/-- CXL_MAILBOX_COMMAND (R366): events, logs and the timestamp. The contents of CXL's own logs are free. -/
def execCxlMailboxCommand (c : MboxCmd) (s : State) : Out :=
  .next (match c with
    | .getEvents log => boxCmd s 0x0100 fun s => boxAnswer s 0x0100 0 ((s.cxlLog.filter fun e => e.1 = log.val).flatMap (·.2))
    | .clearEvents log n => boxCmd s 0x0101 fun s =>
      let mine := s.cxlLog.filter fun e => e.1 = log.val
      if mine.length < n then boxAnswer s 0x0101 2
      else boxAnswer { s with cxlLog := (s.cxlLog.filter fun e => e.1 ≠ log.val) ++ mine.drop n } 0x0101 0
    | .getTimestamp => boxCmd s 0x0300 fun s => boxAnswer s 0x0300 0 (leBytes 8 (cxlTime s))
    | .setTimestamp t => boxCmd s 0x0301 fun s => boxAnswer (onMg s fun m => { m with timestamp := t % 2 ^ 64, stampAt := s.time 0 }) 0x0301 0
    | .supportedLogs => boxCmd s 0x0400 fun s => boxAnswer s.spend 0x0400 0 (s.freeBytes 28)
    | .getLog off len => boxCmd s 0x0401 fun s => if 0x10_0000 < off + len then boxAnswer s 0x0401 2 else boxAnswer s.spend 0x0401 0 (s.freeBytes len)
    | .other op => boxCmd s op fun s => boxAnswer s op 3)

/-! ## MCTP (R367, R369) -/

/-- An answer of the MCTP endpoint: the binding, the control command, the completion code; data. -/
def mctpAnswer (s : State) (b : Fin 2) (cmd code : Nat) (data : List Byte := []) : State := s.emit .mctp 0 [b.val, cmd, code] data

/-- MCTP_CONTROL (R367, R369): binding 0 is PCIe VDM, 1 is I3C. The endpoint exists from step 4; none in RECOVERY. In-band interrupts of the
I3C port are enabled and disabled whatever PERST_N (R369: the binding works with PCIe down). -/
def execMctpControl (b : Fin 2) (c : MctpReq) (s : State) : Out :=
  .next (if !fromStep4 s ∨ s.mpDown ∨ s.pkgLost then
      match c with
      | .ibi on => if b = 1 ∧ s.pins.pwrGood then { s with ibiOn := on } else s
      | _ => s
    else match c with
    | .setEid e => if e % 256 = 0 ∨ e % 256 = 255 then mctpAnswer s b 1 2
        else mctpAnswer (onMg s fun m => { m with eids := SMap.put 0 m.eids b.val (e % 256) }) b 1 0 (leBytes 1 0 ++ leBytes 1 e ++ leBytes 1 0)
    | .getEid => mctpAnswer s b 2 0 (leBytes 1 (SMap.get 0 s.mg.eids b.val))
    | .getTypes => mctpAnswer s b 5 0 [4#8, 0x00#8, 0x05#8, 0x06#8, 0x7E#8]
    | .ibi on => if b = 1 then { s with ibiOn := on } else s
    | .other cmd => mctpAnswer s b cmd 5)

/-! ## SPDM (R368, R404) -/

/-- An SPDM answer: the response code and its parameters; data. -/
def spdmAnswer (s : State) (args : List Nat) (data : List Byte := []) : State := s.emit .spdm 0 args data

/-- An ERROR response: 1 InvalidRequest, 3 Busy, 4 UnexpectedRequest, 7 UnsupportedRequest. -/
def spdmError (s : State) (code : Nat) : State := spdmAnswer s [0x7F, code]

/-- The responder answers from step 4; Busy until the Alias certificate is ready, and while the management processor restarts. -/
def spdmCmd (s : State) (run : State → State) : State :=
  if !fromStep4 s ∨ s.pkgLost then s else if s.pfld .SEC_STAT_ALIAS_READY = 0 ∨ s.mpDown then spdmError s 3 else run s

/-- The capabilities of R368 by their SPDM flags: CERT, CHAL, MEAS with signatures, ENCRYPT, MAC, KEY_EX, HBEAT, KEY_UPD. -/
def spdmCaps : Nat := 2 + 4 + 16 + 64 + 128 + 512 + 8192 + 16384

/-- SPDM_OPEN follows the sessions. -/
def showSpdm (s : State) : State := s.setPfld .SEC_STAT_SPDM_OPEN 0 (bitOf (s.mg.sessions != 0))

/-- Inside a secured session. -/
def inSession (s : State) (run : State → State) : State := if s.mg.sessions = 0 then spdmError s 4 else run s

/-- The certificate chain of slot 0 (R404). -/
def certs (s : State) : List Byte := Config.certChain s.sec.deviceKey s.sec.aliasKey s.mg.bodyDigest s.fwVer s.mg.svn

/-- SPDM_REQUEST (R368, R404): the bytes of a certificate chain are unknown, but they follow the keys and the image; signatures and key
shares are the security engine's, free values. -/
def execSpdmRequest (r : SpdmReq) (s : State) : Out :=
  .next (spdmCmd s fun s => match r with
    | .getVersion => spdmAnswer s [0x04, 0x12, 0x13]
    | .getCapabilities => spdmAnswer s [0x61, spdmCaps]
    | .negotiate sig hash dhe aead => if sig && hash && dhe && aead then spdmAnswer s [0x63] else spdmError s 1
    | .getDigests => spdmAnswer s [0x01, 1] (sha256 (certs s))
    | .getCertificate slot off len => if slot = 0 then spdmAnswer s [0x02, 0] (((certs s).drop off).take len) else spdmError s 1
    | .challenge slot => if slot = 0 then spdmAnswer s.spend [0x03, 0] (s.freeBytes 384) else spdmError s 1
    | .keyExchange => spdmAnswer (onMg s.spend fun m => { m with handshakes := m.handshakes + 1 }) [0x64] (s.freeBytes 384)
    | .finish => if s.mg.handshakes = 0 then spdmError s 4
        else spdmAnswer (showSpdm (onMg s fun m => { m with handshakes := m.handshakes - 1, sessions := m.sessions + 1 })) [0x65]
    | .heartbeat => inSession s fun s => spdmAnswer s [0x68]
    | .keyUpdate => inSession s fun s => spdmAnswer s [0x69]
    | .endSession => inSession s fun s => spdmAnswer (showSpdm (onMg s fun m => { m with sessions := m.sessions - 1 })) [0x6C]
    | .keyProg x => inSession s fun s => spdmAnswer (s.setPfld .SEC_STAT_IDE_KEYED 0 (putBits (s.pfld .SEC_STAT_IDE_KEYED) x.val 1 1)) [0x7E, x.val]
    | .other code => spdmAnswer s [0x7F, 7, code])

/-! ## Measurements (R405, R406) -/

/-- One level of R406's tree: neighbours hashed in pairs; an odd last one goes up as it is. -/
def hashPairs : List (List Byte) → List (List Byte)
  | a :: b :: t => sha256 (a ++ b) :: hashPairs t
  | l => l

/-- The Merkle root of R406. -/
def merkle : Nat → List (List Byte) → List Byte
  | 0, l => l.headD (List.replicate 32 0)
  | f + 1, l => if l.length < 2 then l.headD (List.replicate 32 0) else merkle f (hashPairs l)

/-- The root over a catalogue. -/
def catRoot (l : List CatEnt) : List Byte := merkle (l.length + 1) (l.map fun e => sha256 (leBytes 4 e.piece ++ leBytes 2 e.version ++ e.digest))

/-- The catalogue in force across all circles. -/
def catInForce (s : State) : List CatEnt := if (circ s 0).cat.isEmpty then (circ s 1).cat else (circ s 0).cat

/-- The content of a block of Table 14-11 and its DMTF value type; bit 7 marks a raw value. -/
def measBlock (s : State) : Nat → Nat × List Byte
  | 1 => (0x00, s.fuses.romDigest)
  | 2 => (0x01, s.mg.bodyDigest)
  | 3 => (0x86, leBytes 4 s.fwVer)
  | 4 => (0x87, leBytes 1 s.mg.svn ++ leBytes 1 s.fuses.svn)
  | 5 => (0x03, s.cardDigest)
  | 6 => (0x03, catRoot (catInForce s))
  | 7 => (0x03, s.mg.meas7)
  | 8 => (0x02, sha256 (((List.range 5).flatMap fun m => leBytes 8 (s.pfld .ARR_MAPm_EN m)) ++ leBytes 1 ((ownerSlot s).getD 0xFF) ++
      (match ownerSlot s with | some n => ownerHash s n | none => List.replicate 32 0)))
  | _ => (0x05, sha256 (leBytes 1 (s.pfld .HB_OWNER_STATE) ++ leBytes 1 (bitOf (s.pfld .SEC_STAT_HOLD_SEEN = 1 ∨ s.pfld .SEC_STAT_CAL_UNLOCK_SEEN = 1))))

/-- A block in DMTF measurement format. -/
def measBytes (s : State) (n : Nat) : List Byte :=
  let (t, v) := measBlock s n
  leBytes 1 n ++ leBytes 1 1 ++ leBytes 2 (v.length + 3) ++ leBytes 1 t ++ leBytes 2 v.length ++ v

/-- The blocks taken so far; block 9 is live. -/
def measHave (s : State) : List Nat := ((List.range 8).filter fun n => bit (s.pfld .SEC_STAT_MEAS) n).map (· + 1) ++ [9]

/-- GET_MEASUREMENTS (R405): one block, every block (0xFF), or their number (0). -/
def execGetMeasurements (index : Nat) (s : State) : Out :=
  .next (spdmCmd s fun s =>
    let l := measHave s
    if index = 0 then spdmAnswer s [0x60, l.length]
    else if index = 0xFF then spdmAnswer s [0x60, l.length] (l.flatMap (measBytes s))
    else if l.contains index then spdmAnswer s [0x60, 1] (measBytes s index)
    else spdmError s 1)

end Sys2Proof.Machine
end

