-- ==== Sys2Proof/Machine/HostMem.lean ====
section
/-! DEFINITION. Host accesses to memory: the apertures and the HDM window (13.4, 13.6, R420). -/

namespace Sys2Proof.Machine

/-- An answer to a host read: 0 data, 1 poison, 2 Unsupported Request. -/
def hostAnswer (s : State) (kind : Nat) (data : List Byte := []) : State := s.emit .hostData 0 [kind] data

/-- The set's region reads 0 and takes no write (R462): it is between step 4 of a warm restart and its lock point, or it is lost and a
compute, base or link die of it is unpowered. -/
def setDark (s : State) (i : SetId) : Bool :=
  s.warm || ((s.st i).lost && (([2 * i.val, 2 * i.val + 1, 16 + i.val] ++ (List.range 6).map fun m => 4 + 6 * i.val + m).any fun n => s.pfld .PD_TEMPOn_VSET n == 0))

/-! ## Words -/

/-- A word read for the host: decoded and counted, nothing stored back (R361). -/
def hostWord (s : State) (i : SetId) (a : Nat) : List Byte × Bool × State :=
  let d := readMem (s.st i).mem a 32
  if onFenced s i a then (List.replicate 32 0, true, countUncorr s i a false)
  else match decodeDiff (kindOf s i a == some 1) (chkOf s i a) with
  | .valid => (d, false, s)
  | .fixed e => (fixBytes d e, false, countCorr s i a)
  | .bad p => (d, true, countUncorr s i a p)

/-- `n` words from a word address. -/
def hostWords (i : SetId) : State → Nat → Nat → List Byte × Bool × State
  | s, _, 0 => ([], false, s)
  | s, a, n + 1 =>
    let (d, b, s) := hostWord s i a
    let (ds, bs, s) := hostWords i s (a + 32) n
    (d ++ ds, b || bs, s)

/-- Bytes of one line. -/
def hostBytes (s : State) (i : SetId) (a n : Nat) : List Byte × Bool × State :=
  let lo := a / 32 * 32
  let (d, b, s) := hostWords i s lo ((a + n + 31) / 32 - a / 32)
  ((d.drop (a - lo)).take n, b, s)


/-! ## Apertures (R361) -/

/-- An aperture access has a size and a place that R360 allows. -/
def aperFits (off n : Nat) : Bool := 1 ≤ n && n ≤ 64 && off % 64 + n ≤ 64 && off + n ≤ 0x400_0000

/-- The set and the address that an aperture maps. -/
def aperAt (s : State) (a off : Nat) : SetId × Nat := (if s.pfld .HB_APERa_SET a = 0 then 0 else 1, s.pfld .HB_APERa_BASE a * 0x400_0000 + off)

/-- The address can be reached through an aperture: populated memory outside set MMIO, powered, on no fenced stack and on none that
carries no traffic. -/
def aperOpen (s : State) (i : SetId) (x n : Nat) : Bool :=
  (match spaceOf x with
  | .mmio _ | .none => false
  | _ => true) && populated x n && powered s i x n && !onFenced s i x && !stackQuiet s i x && !setDark s i

/-- An aperture read. -/
def aperRead (s : State) (a off n : Nat) : State :=
  if !aperFits off n then hostAnswer s 2
  else if s.pfld .HB_APERa_EN a = 0 then hostAnswer s 0 (List.replicate n 0)
  else
    let (i, x) := aperAt s a off
    if !aperOpen s i x n then hostAnswer (s.setPfld .HB_APERa_RD_ERR a 1) 0 (List.replicate n 0)
    else match hostBytes s i x n with
      | (d, bad, s) => if bad then hostAnswer (s.setPfld .HB_APERa_POISON a 1) 1 d else hostAnswer s 0 d

/-- The address may be written through an aperture: in no region, or in regions of jobs that are each FREE or HELD, or ACTIVE with every
slot held (R34). -/
def mayPoke (s : State) (i : SetId) (x : Nat) : Bool :=
  ((rgns s i).filter (·.holds x)).all fun r =>
    let st := s.fld i .MEM_JOBj_STATE r.job
    st == 0 || st == 3 || (st == 1 && (jobSlots s i r.job).all fun p => slotState s i p.1 p.2 == 7)

/-- An aperture write. -/
def aperWrite (s : State) (a off : Nat) (d : List Byte) : State :=
  if !aperFits off d.length then hostAnswer s 2
  else if s.pfld .HB_APERa_EN a = 0 then s
  else
    let (i, x) := aperAt s a off
    if aperOpen s i x d.length ∧ mayPoke s i x then endDueJobs (store s i x d) i else s.setPfld .HB_APERa_WR_DROP a 1

/-! ## The HDM window (R357, R420) -/

/-- The address in the set of an offset of its range; none where no decoder can be committed (R357) or the access crosses a line. -/
def hdmAt (s : State) (i : SetId) (off n : Nat) : Option Nat :=
  let m := s.pfld .HB_CAP_MODE
  if (m = 1 ∨ m = 2) ∧ s.pfld .HB_CAP_MEM = 1 ∧ 1 ≤ n ∧ off % 64 + n ≤ 64 ∧ off + n ≤ s.pfld .HB_HDMs_SIZE i.val * 0x1000_0000 then
    some (s.pfld .HB_HDMs_BASE i.val * 0x400_0000 + off)
  else none

/-- The job of the window's region is ACTIVE; of a SHARED region, one of its jobs (R357). -/
def hdmOpen (s : State) (i : SetId) (x : Nat) : Bool :=
  !setDark s i && !stackQuiet s i x && (rgns s i).any fun r => r.holds x && s.fld i .MEM_JOBj_STATE r.job == 1

/-- A host read of the window. -/
def hdmRead (s : State) (i : SetId) (off n : Nat) : State :=
  match hdmAt s i off n with
  | none => s
  | some x =>
    if !hdmOpen s i x then hostAnswer (s.setPfld .HB_HDMs_HDM_ERR i.val 1) 1 (List.replicate n 0)
    else match hostBytes s i x n with
      | (d, bad, s) => hostAnswer s (bitOf bad) d

/-- A host write of the window: stored with fresh check bits (R420). -/
def hdmWrite (s : State) (i : SetId) (off : Nat) (d : List Byte) : State :=
  match hdmAt s i off d.length with
  | none => s
  | some x => if hdmOpen s i x then endDueJobs (store s i x d) i else s.setPfld .HB_HDMs_HDM_ERR i.val 1

end Sys2Proof.Machine
end

