-- ==== Sys2Proof/Machine/CfgSpace.lean ====
section
/-! DEFINITION. Configuration space: the function's capabilities, its DVSECs and the DOE mailbox (R356, Table 13-3). The registers of a
capability lie as PCIe, DOE and CXL lay them out (PRESUMED, log entry 102); where a capability begins is this model's choice. -/

namespace Sys2Proof.Machine

/-- Change what configuration space holds. -/
def onCfg (s : State) (f : CfgRegs → CfgRegs) : State := { s with cfg := f s.cfg }

/-- Put fields of given widths together, the lowest first. -/
def fields (l : List (Nat × Nat)) : Nat := (l.foldl (fun (p : Nat × Nat) e => (p.1 + e.2 % 2 ^ e.1 * 2 ^ p.2, p.2 + e.1)) (0, 0)).1

/-- The header of an extended capability: its ID, its version, where the next one begins. -/
def extCap (id ver next : Nat) : Nat := fields [(16, id), (4, ver), (12, next)]

/-- The size of range s and the base of range s, which mirror HB_HDMs (Tables 13-3, 13-13), in bytes. -/
def hdmRange (s : State) (x : Nat) : Nat × Nat := (s.pfld .HB_HDMs_SIZE x * 0x1000_0000, s.pfld .HB_HDMs_BASE x * 0x400_0000)

/-- The DVSEC for CXL devices (ID 0x0000): Cache_Capable, Mem_Capable, HDM_Count 2, control, and the two ranges. -/
def cxlDvsec (s : State) (o : Nat) : Nat :=
  let range (x : Nat) : Nat :=
    let (size, base) := hdmRange s x
    match o / 4 % 4 with
    | 2 => size / 2 ^ 32
    | 3 => size / 2 ^ 28 % 16 * 2 ^ 28 + bitOf (size ≠ 0) * 3
    | 0 => base / 2 ^ 32
    | _ => base / 2 ^ 28 % 16 * 2 ^ 28
  match o / 4 with
  | 0 => extCap 0x23 1 0x170
  | 1 => fields [(16, 0x1E98), (4, 2), (12, 0x3C)]
  | 2 => fields [(16, 0x0000), (3, 7), (1, 0), (2, 2)]
  | 3 => s.cfg.cxlControl
  | 6 | 7 | 8 | 9 => range 0
  | 10 | 11 | 12 | 13 => range 1
  | _ => 0

/-- The Flex Bus Port DVSEC (ID 0x0007): what the port can negotiate and what it has negotiated (R350). -/
def flexDvsec (s : State) (o : Nat) : Nat :=
  let m := s.pfld .HB_CAP_MODE
  let cxl := bitOf (1 ≤ m && m ≤ 3)
  match o / 4 with
  | 0 => extCap 0x23 1 0x190
  | 1 => fields [(16, 0x1E98), (4, 2), (12, 0x20)]
  | 2 => fields [(16, 0x0007), (3, 7), (2, 0), (1, 1), (7, 0), (1, 1)]
  | 3 => fields [(16, 0), (1, s.pfld .HB_CAP_CACHE), (1, cxl), (1, s.pfld .HB_CAP_MEM), (2, 0), (1, bitOf (m = 3)), (7, 0), (1, bitOf (m = 1 ∨ m = 2))]
  | _ => 0

/-- The Register Locator DVSEC (ID 0x0008): component registers and device registers, both in BAR0 (Table 13-4). -/
def locatorDvsec (o : Nat) : Nat :=
  match o / 4 with
  | 0 => extCap 0x23 1 0
  | 1 => fields [(16, 0x1E98), (4, 0), (12, 0x1C)]
  | 2 => fields [(16, 0x0008)]
  | 3 => fields [(3, 0), (5, 0), (8, 1), (16, 0)]
  | 5 => fields [(3, 0), (5, 0), (8, 3), (16, 0x10)]
  | _ => 0

/-- The DOE capability: control, status, and the mailboxes; a read of the read mailbox gives the object's next word. -/
def doeCap (s : State) (o : Nat) : Nat :=
  match o / 4 with
  | 0 => extCap 0x2E 1 0x130
  | 3 => fields [(1, 0), (1, 0), (1, bitOf s.cfg.doeBad), (28, 0), (1, bitOf (!s.cfg.doeOut.isEmpty))]
  | 5 => s.cfg.doeOut.headD 0
  | _ => 0

/-- The 32-bit word of configuration space at an offset. What no rule states is an unknown constant. -/
def cfgWord (s : State) (o : Nat) : Nat :=
  if o = 0x4 then fields [(1, 0), (1, s.cfg.memSpace), (1, bitOf s.busMaster), (13, 0), (4, 0), (1, 1)]
  else if o = 0x34 then 0x40
  else if o = 0x40 then fields [(8, 0x11), (8, 0), (11, 2047), (3, 0), (1, bitOf s.cfg.msixMask), (1, bitOf s.msixOn)]
  else if o = 0x44 then 4
  else if o = 0x48 then 0x8004
  else if o = 0x100 then extCap 0x1B 1 0x110
  else if o = 0x104 then fields [(8, 0), (5, 20), (3, 0), (1, bitOf s.cfg.pasidOn)]
  else if 0x110 ≤ o ∧ o < 0x130 then doeCap s (o - 0x110)
  else if 0x130 ≤ o ∧ o < 0x170 then cxlDvsec s (o - 0x130)
  else if 0x170 ≤ o ∧ o < 0x190 then flexDvsec s (o - 0x170)
  else if 0x190 ≤ o ∧ o < 0x1B0 then locatorDvsec (o - 0x190)
  else if o < 0x40 then Config.cfgHeader o % 2 ^ 32
  else 0

/-- A configuration access: 1, 2 or 4 bytes of one word below 4 KiB. -/
def cfgFits (o n : Nat) : Bool := (n == 1 || n == 2 || n == 4) && o % n == 0 && o < 4096

/-- A configuration read. -/
def cfgRead (s : State) (o n : Nat) : State :=
  if cfgFits o n then hostAnswer s 0 (leBytes n (cfgWord s (o / 4 * 4) / 256 ^ (o % 4))) else hostAnswer s 2

/-- The protocols that DOE discovery lists (R356): discovery, CMA/SPDM, secured CMA/SPDM, table access. -/
def doeProtocols : List (Nat × Nat) := [(0x0001, 0), (0x0001, 1), (0x0001, 2), (0x1E98, 2)]

/-- A DOE object has been written (R356): discovery and table access answer; SPDM objects are answered by SPDM_REQUEST (R368). The CDAT,
which describes the HDM window's latency and bandwidth, has no stated values. -/
def doeRun (s : State) : State :=
  let w := s.cfg.doeIn
  let d := w.headD 0
  let key := (d % 2 ^ 16, d / 2 ^ 16 % 256)
  let s := onCfg s fun c => { c with doeIn := [] }
  if w.length < 2 ∨ (w.getD 1 0 % 2 ^ 18) ≠ w.length then onCfg s fun c => { c with doeBad := true }
  else if key = (0x0001, 0) then
    let n := w.getD 2 0 % 256
    let (v, t) := doeProtocols.getD n (0xFFFF, 0)
    onCfg s fun c => { c with doeOut := [d, 3, fields [(16, v), (8, t), (8, if n + 1 < doeProtocols.length then n + 1 else 0)]] }
  else if key = (0x1E98, 2) then onCfg s.spend fun c => { c with doeOut := [d, 8] ++ (s.freeBytes 24 |> chunks 4 6).map leNat }
  else if doeProtocols.contains key then s
  else onCfg s fun c => { c with doeBad := true }

/-- A configuration write, but for what a change of Bus Master Enable does (R354). -/
def cfgWrite (s : State) (o : Nat) (d : List Byte) : State :=
  if !cfgFits o d.length then hostAnswer s 2
  else
    let w := o / 4 * 4
    let v := overlay (cfgWord s w) (o % 4) d
    if w = 0x4 then onCfg s fun c => { c with memSpace := bits v 1 1 }
    else if w = 0x40 then flushVectors { s with msixOn := bit v 31, cfg := { s.cfg with msixMask := bit v 30 } }
    else if w = 0x104 then onCfg s fun c => { c with pasidOn := bit v 16 }
    else if w = 0x118 then
      if bit v 0 then onCfg s fun c => { c with doeIn := [], doeOut := [], doeBad := false } else if bit v 31 then doeRun s else s
    else if w = 0x120 then onCfg s fun c => { c with doeIn := c.doeIn ++ [leNat d] }
    else if w = 0x124 then onCfg s fun c => { c with doeOut := c.doeOut.drop 1 }
    else if w = 0x13C then onCfg s fun c => { c with cxlControl := v % 2 ^ 16 }
    else s

end Sys2Proof.Machine
end

