-- ==== Sys2Proof/Machine/HostRegs.lean ====
section
/-! DEFINITION. Host accesses to registers: the operator view, tenant pages, the MSI-X table (13.5 to 13.8, 17.1, 17.2, 17.6). -/

namespace Sys2Proof.Machine

/-! ## Reading -/

/-- A register as a read returns it (R11): fields with access wo read 0. -/
def readReg (m : SMap Nat) (r : Reg) (ix : Nat) : Nat :=
  ((r.fields.filter fun f => f.info.acc != .wo).map fun f => getField m f ix * 2 ^ f.info.lo).foldl (· + ·) 0

/-- Fields that a read clears (R456). -/
def readClears : List Field := [.CORE_SB_STAT_PEAK, .PD_POWER_PEAK_1US, .MEM_HBM_TEMPs_PEAK, .MSE_STATs_SEALED]

/-- A BAR0 read clears the read-clear fields whose every bit its bytes cover. -/
def clearRead (m : SMap Nat) (r : Reg) (ix off n : Nat) : SMap Nat :=
  (r.fields.filter fun f => readClears.contains f && 8 * off ≤ f.info.lo && f.info.lo + f.info.len ≤ 8 * (off + n)).foldl (fun m f => putField m f ix 0) m

/-- A page's register (R362, R363): HB_PAGE_CAP copies SESS_CAP of its set, SYNC_HPEEK.VALUE follows the counter. -/
def readPage (s : State) (t : Nat) (r : Reg) (ix : Nat) : Nat :=
  let i := pageSet s t
  let live := s.pfld .HB_PAGEt_CFG_BOUND t == 1 && (s.pfld .HB_PAGE_ID_LOST t == 0 || r == .HB_PAGE_ID)
  if !live then 0
  else if r = .HB_PAGE_CAP then composeReg (s.st i).regs .SESS_CAP 0
  else
    let v := readReg s.regs r ix
    if r = .SYNC_HPEEK then
      match ctrOf s i (s.pfld .HB_PAGEt_CFG_JOB t) (s.pfld .SYNC_HPEEK_VID t) with
      | some p => putBits v 32 31 (s.fld i .SYNC_CTRp_1_VALUE p)
      | none => putBits v 32 31 0
    else v

/-- The instance of a page's register: 64 waits per page, one of every other. -/
def pageIx (t : Nat) (r : Reg) (w : Nat) : Nat := if r = .SYNC_HWAITw then 64 * t + w else t

/-- Bytes of the MSI-X table and of the pending bits (R364, PCIe). -/
def msixByte (s : State) (o : Nat) : Byte :=
  if o < 0x8000 then
    let e := SMap.get {} s.msix (o / 16)
    (leBytes 8 e.addr ++ leBytes 4 e.data ++ leBytes 4 (bitOf e.masked)).getD (o % 16) 0
  else BitVec.ofNat 8 (((List.range 8).filter fun b => s.msixPending.contains (8 * (o - 0x8000) + b)).foldl (fun a b => a + 2 ^ b) 0)

/-- The set whose registers a BAR0 address reaches, and the offset in its MMIO (R452). -/
def setRegion (addr : Nat) : Option (SetId × Nat) :=
  if 0x1000_0000 ≤ addr ∧ addr < 0x2000_0000 then some (0, addr - 0x1000_0000)
  else if 0x2000_0000 ≤ addr ∧ addr < 0x3000_0000 then some (1, addr - 0x2000_0000)
  else none

/-- The blocks that CXL defines: component registers, device registers and the mailbox. -/
def cxlRegion (addr : Nat) : Bool := addr < 0x1_0000 || (0x10_0000 ≤ addr && addr < 0x30_0000)

/-- A register access has a size and an alignment that R360 allows. -/
def accessFits (addr n : Nat) : Bool := (n == 4 || n == 8) && addr % n == 0

/-- A host read of `n` bytes at an offset of a BAR: R359, R360, R456, R462. -/
def hostRead (s : State) (bar addr n : Nat) : State :=
  if bar = 0 ∧ 0x3000_0000 ≤ addr ∧ addr < 0x4000_0000 then aperRead s ((addr - 0x3000_0000) / 0x400_0000) (addr % 0x400_0000) n
  else if !accessFits addr n then hostAnswer s 2
  else if bar = 0 then
    if cxlRegion addr then hostAnswer s.spend 0 (s.freeBytes n)
    else match setRegion addr with
    | some (i, o) =>
      match (if setDark s i then none else regAt .set o) with
      | some (r, ix, off) =>
        let v := readReg (s.st i).regs r ix
        hostAnswer (s.onSet i fun t => { t with regs := clearRead t.regs r ix off n }) 0 (leBytes n (v / 256 ^ off))
      | none => hostAnswer s 0 (List.replicate n 0)
    | none =>
      match regAt .pkg addr with
      | some (r, ix, off) =>
        let v := readReg s.regs r ix
        hostAnswer { s with regs := clearRead s.regs r ix off n } 0 (leBytes n (v / 256 ^ off))
      | none => hostAnswer s 0 (List.replicate n 0)
  else if bar = 2 then
    let t := addr / 0x1_0000
    match regAt .page (addr % 0x1_0000) with
    | some (r, w, off) => hostAnswer s 0 (leBytes n (readPage s t r (pageIx t r w) / 256 ^ off))
    | none => hostAnswer s 0 (List.replicate n 0)
  else hostAnswer s 0 ((List.range n).map fun j => if addr + j < 0x8100 then msixByte s (addr + j) else 0)

/-! ## Writing -/

/-- The fields that a plain write sets (R11): rw fields where `rw` allows them, and w1c fields that a written 1 clears. A rwl field takes
no value from the host (R391). -/
def plainWrite (m : SMap Nat) (rw : Bool) (r : Reg) (ix off : Nat) (d : List Byte) : SMap Nat :=
  let m := if rw then putReg m (fun f => f.acc == .rw) r ix off d else m
  let v := overlay 0 off d
  r.fields.foldl (fun m f => if f.info.acc == .w1c && bits v f.info.lo f.info.len != 0 then putField m f ix 0 else m) m

/-- The value of a register with the written bytes in place. -/
def written (m : SMap Nat) (r : Reg) (ix off : Nat) (d : List Byte) : Nat := overlay (composeReg m r ix) off d

/-- A write to a package register (R46, R52, R443). -/
def writePkg (s : State) (r : Reg) (ix off : Nat) (d : List Byte) : State :=
  let v := written s.regs r ix off d
  let plain (rw : Bool) : State := { s with regs := plainWrite s.regs rw r ix off d }
  match r with
  | .PD_ENV_CAP => if off = 0 then writeCap (plain false) (bits v 0 9) else plain false
  | .PD_SPRINT_CTL => if bit (overlay 0 off d) 16 then requestSprint s (bits (overlay 0 off d) 0 11) else s
  | .ALM_CFG => if off = 0 ∧ 1 ≤ bits v 0 6 ∧ bits v 0 6 ≤ 60 then plain true else plain false
  | _ => plain true

/-- The state that a meaning leaves. -/
def nextOf (o : Out) (s : State) : State :=
  match o with
  | .next t => t
  | _ => s

/-- ON of MEM_SEGPWRd takes new bits (R138 to R140). -/
def writeSegs (s : State) (i : SetId) (die : Nat) (v : Nat) : State :=
  (List.finRange 9).foldl (fun s g =>
    let d : CDie := if die = 0 then 0 else 1
    if bit v g.val = segOn s i die g.val then s
    else if bit v g.val then nextOf (execSegmentPowerOn i d g s) s else nextOf (execSegmentPowerOff i d g s) s) s

/-- A write to MEM_JOBj (R149, R152, R153): PM_HOLD first; KILL applies where END and KILL are written together. -/
def writeJob (s : State) (i : SetId) (j : Nat) (v : Nat) : State :=
  let late := bit v 4 && s.fld i .MEM_JOBj_PM_HOLD j == 0 && (match teardownOf s i j with | some t => t.filling | none => false)
  let s := if bit v 7 then s.setFld i .MEM_JOBj_HOLD_LATE j 0 else s
  let s := if late then s.setFld i .MEM_JOBj_HOLD_LATE j 1 else s.setFld i .MEM_JOBj_PM_HOLD j (bitOf (bit v 4))
  let s := if bit v 3 then leaveJob s i j .byKill else if bit v 2 then leaveJob s i j .byEnd else s
  let s := if bit v 5 ∧ s.fld i .MEM_JOBj_STATE j = 3 then fillOnChip (s.setFld i .MEM_JOBj_STATE j 2) i j else s
  if bit v 6 ∧ s.fld i .MEM_JOBj_STATE j = 0 then startJob s i j else s

/-- A write to LINK_PORTp_CTL (R334, R335, R343). -/
def writePort (s : State) (i : SetId) (p v : Nat) : State :=
  let s := if bit v 0 = (s.fld i .LINK_PORTp_CTL_DISABLE p = 1) then s else writeDisable s i p (bit v 0)
  let s := if bit v 1 then askRetrain s i p else s
  if bit v 2 then rescan s i p else s

/-- A write to a set register. A lost set takes only w1c fields, and rw fields of LINK_ and MEM_HBM_LBs (R462). -/
def writeSet (s : State) (i : SetId) (r : Reg) (ix off : Nat) (d : List Byte) : State :=
  let v := written (s.st i).regs r ix off d
  let new := overlay 0 off d
  let plain (s : State) (rw : Bool) : State := s.onSet i fun t => { t with regs := plainWrite t.regs rw r ix off d }
  let live := !(s.st i).lost
  match r with
  | .CORE_DBG => if debugOpen s i ∧ off = 0 then writeStep (writeHold s i ix (bits v 0 8)) i ix (bits new 8 8) else s
  | .CORE_SLOT_MAP => if live ∧ off = 0 then writeSlotMap s i ix (bits v 0 16) else s
  | .MEM_SEGPWRd => if live ∧ off = 0 then writeSegs s i ix (bits v 0 9) else s
  | .MEM_JOBj => if off ≠ 0 then s else if live then writeJob s i ix new else plain s false
  | .MEM_HBM_PATROL => plain s (live && off == 0 && 1 ≤ bits v 0 8 && bits v 0 8 ≤ 168)
  | .MEM_HBM_LBs =>
    let s := plain s true
    if live ∧ bit new 21 then startLoopback s i ix else s
  | .MEM_HBM_CTLs => if live ∧ bit new 0 then fenceStack s i ix 4 else s
  | .LINK_PORTp_CTL => if off ≠ 0 then s else if live then writePort s i ix new else plain s true
  | .CIRC_SWITCH => if live ∧ off = 0 then writeSwitch s i (bits new 0 16) (bit new 16) (bit new 17) else s
  | .CIRC_TIMERS => plain s (live && off == 0 && 1 ≤ bits v 0 11 && bits v 0 11 ≤ 1440)
  | .LINK_CAP | .LINK_IDENT | .LINK_XP_CAP | .LINK_FT | .LINK_FT_CFG | .LINK_FT_STAT | .LINK_XP_CNTp | .LINK_XP_ERRp | .LINK_PORTp_CFG_0
  | .LINK_PORTp_CFG_1 | .LINK_PORTp_STAT_0 | .LINK_PORTp_STAT_1 | .LINK_PORTp_CNT_0 | .LINK_PORTp_CNT_1 | .LINK_PORTp_EVT | .LINK_LOADRTi
  | .LINK_RTc => plain s true
  | _ => plain s live

/-- A write to SESS_RING (R275, R463): while ENABLE is 1 only its clearing counts; otherwise the fields, then ENABLE. -/
def writeRing (s : State) (t off : Nat) (d : List Byte) : State :=
  let v := written s.regs .SESS_RING t off d
  let s1 : State := { s with regs := plainWrite s.regs false .SESS_RING t off d }
  if off ≠ 0 then s1
  else if s.pfld .SESS_RING_ENABLE t = 1 then (if bit v 10 then s1 else disableRing s1 (pageSet s t) t)
  else
    let s2 := ((s1.setPfld .SESS_RING_SQ_LOG2 t (bits v 0 5)).setPfld .SESS_RING_CQ_LOG2 t (bits v 5 5)).setPfld .SESS_RING_VER t (bits v 11 4)
    if bit v 10 then enableRing s2 t else s2

/-- A write to SYNC_HWAITw (R312): ARM places the wait; a wait whose ARM is written 0 is withdrawn. -/
def writeWait (s : State) (t w off : Nat) (d : List Byte) : State :=
  let x := 64 * t + w
  let v := written s.regs .SYNC_HWAITw x off d
  let vid := bits v 0 12
  let n := bits v 32 31
  if off = 0 ∧ bit v 12 then hostArm s t w vid n (bit v 13) (bits v 14 11)
  else
    let s := if off = 0 ∧ s.pfld .SYNC_HWAITw_ARM x = 1 then dropHostWait s t w else s
    { s with regs := plainWrite s.regs true .SYNC_HWAITw x off d }

/-- A write to a register of a page that is bound and not lost (R362, R363, R463). -/
def writePage (s : State) (t : Nat) (r : Reg) (w off : Nat) (d : List Byte) : State :=
  let new := overlay 0 off d
  let v := written s.regs r (pageIx t r w) off d
  let enabled := s.pfld .SESS_RING_ENABLE t == 1
  match r with
  | .SYNC_HSIG => hostSignal s t (bits new 0 12) (bits new 32 31)
  | .SYNC_HWAITw => writeWait s t w off d
  | .SESS_RING => writeRing s t off d
  | .SESS_SQ_PTR => if off = 0 then writeSqTail s t (bits v 0 16) else s
  | .SESS_CQ_PTR => if off = 0 then writeCqHead s t (bits v 0 20) else s
  | .SESS_SQ_BASE | .SESS_CQ_BASE => if enabled then s else { s with regs := plainWrite s.regs true r t off d }
  | _ => { s with regs := plainWrite s.regs true r t off d }

/-- A write to the MSI-X table (PCIe): an entry that is unmasked sends what it had pending. -/
def writeMsix (s : State) (o : Nat) (d : List Byte) : State :=
  if 0x8000 ≤ o then s
  else
    let e := SMap.get {} s.msix (o / 16)
    let raw := leBytes 8 e.addr ++ leBytes 4 e.data ++ leBytes 4 (bitOf e.masked)
    let raw := raw.take (o % 16) ++ d ++ raw.drop (o % 16 + d.length)
    flushVectors { s with msix := SMap.put {} s.msix (o / 16) { addr := leAt raw 0 8, data := leAt raw 8 4, masked := bit (leAt raw 12 4) 0 } }

/-- A host write at an offset of a BAR: R359, R360, R462. -/
def hostWriteReg (s : State) (bar addr : Nat) (d : List Byte) : State :=
  if bar = 0 ∧ 0x3000_0000 ≤ addr ∧ addr < 0x4000_0000 then aperWrite s ((addr - 0x3000_0000) / 0x400_0000) (addr % 0x400_0000) d
  else if !accessFits addr d.length then hostAnswer s 2
  else if bar = 0 then
    match setRegion addr with
    | some (i, o) =>
      match (if setDark s i then none else regAt .set o) with
      | some (r, ix, off) => settle (writeSet s i r ix off d) i
      | none => s
    | none =>
      match regAt .pkg addr with
      | some (r, ix, off) => writePkg s r ix off d
      | none => s
  else if bar = 2 then
    let t := addr / 0x1_0000
    match (if pageLive s t then regAt .page (addr % 0x1_0000) else none) with
    | some (r, w, off) => settle (writePage s t r w off d) (pageSet s t)
    | none => s
  else if bar = 4 then writeMsix s addr d
  else s

end Sys2Proof.Machine
end

