-- ==== Sys2Proof/Machine/Host.lean ====
section
/-! DEFINITION. The host port: its link, IDE, failed device accesses, and host accesses as commands (13.1 to 13.6). -/

namespace Sys2Proof.Machine

/-! ## Accesses that wait (R355) -/

/-- One host access. -/
def hostDo (s : State) : HostReq → State
  | .read bar addr len => hostRead s bar addr len
  | .write bar addr d => hostWriteReg s bar addr d
  | .aperRead a off n => aperRead s a off n
  | .aperWrite a off d => aperWrite s a off d
  | .hdmRead i off n => hdmRead s i off n
  | .hdmWrite i off d => hdmWrite s i off d

/-- Accesses that waited are made, in order, once traffic is no longer held. -/
def drainHost (s : State) : State :=
  if s.pfld .HB_HOST_STAT_HELD = 1 then s else s.heldReqs.foldl hostDo { s with heldReqs := [] }

/-- A host access: none while the link is down; it waits while host traffic is held. -/
def hostAccess (s : State) (r : HostReq) : State :=
  if s.pfld .HB_CAP_MODE = 0 then s
  else if s.pfld .HB_HOST_STAT_HELD = 1 then { s with heldReqs := s.heldReqs ++ [r] }
  else hostDo (drainHost s) r

/-- Every tenant page loses ENABLE (R354). -/
def dropPages (s : State) : State :=
  (fieldIndices s.regs .SESS_RING_ENABLE).foldl (fun s t => (disableRing s (pageSet s t) t).setPfld .HB_PAGE_ERR_LINKDOWN t 1) s

/-- The link goes down (0), is hot reset (1), or loses Bus Master Enable (2) (R354). -/
def loseHost (s : State) (cause : Nat) : State :=
  let s : State := { s with busMaster := false, hostHeld := [], heldReqs := [] }
  let s := if cause = 2 then s
    else
      let s := (({ s with cfg := {} }.setPfld .HB_CAP_MODE 0 0).setPfld .HB_CAP_WIDTH 0 0).setPfld .HB_CAP_CACHE 0 0
      let s := ((s.setPfld .HB_CAP_MEM 0 0).setPfld .HB_CAP_IDE_IO 0 0).setPfld .HB_CAP_IDE_CM 0 0
      (s.setPfld .HB_HOST_STAT_HELD 0 0).satPfld .HB_HOST_STAT_LINKDOWNS 0 1
  reportPkg ((dropPages s).setPfld .HB_HOST_STAT_LINK 0 1) { FC.hostLink.fr with die := 18, cause := cause }

/-- A host write to configuration space (R356): a clear of Bus Master Enable stops host traffic (R354), a set lets it go on. -/
def hostConfig (s : State) (o : Nat) (d : List Byte) : State :=
  let on := if cfgFits o d.length ∧ o / 4 = 1 then bit (overlay (cfgWord s 4) (o % 4) d) 2 else s.busMaster
  let t := cfgWrite s o d
  if on = s.busMaster then t else if on then drainHost (flushVectors (showHeld { t with busMaster := true })) else loseHost t 2

/-- REGISTER_WRITE (R11, R356, R360): a host write at an offset of BAR0, BAR2 or BAR4, or (`bar` 6) of configuration space, which no IDE
hold stops (R355). -/
def execRegisterWrite (bar : Nat) (addr : Nat) (data : List Byte) (s : State) : Out :=
  .next (if bar = 6 then (if s.pfld .HB_CAP_MODE = 0 then s else hostConfig s addr data) else hostAccess s (.write bar addr data))

/-- READ_CLEAR (R11, R356, R456): a host read at an offset of BAR0, BAR2 or BAR4, or (`bar` 6) of configuration space. -/
def execReadClear (bar : Nat) (addr : Nat) (len : Nat) (s : State) : Out :=
  .next (if bar = 6 then (if s.pfld .HB_CAP_MODE = 0 then s else cfgRead s addr len) else hostAccess s (.read bar addr len))

/-- APERTURE_READ (R361). -/
def execApertureRead (a : Fin 4) (off len : Nat) (s : State) : Out := .next (hostAccess s (.aperRead a.val off len))

/-- APERTURE_WRITE (R361). -/
def execApertureWrite (a : Fin 4) (off : Nat) (data : List Byte) (s : State) : Out := .next (hostAccess s (.aperWrite a.val off data))

/-- HDM_ACCESS (R357, R358): a read of `len` bytes, or a write of data, in the window of a set. -/
def execHdmAccess (i : SetId) (off len : Nat) (data : Option (List Byte)) (s : State) : Out :=
  .next (match data with
    | none => hostAccess s (.hdmRead i off len)
    | some d => hostAccess s (.hdmWrite i off d))

/-! ## The link (R350, R354) -/

/-- HOST_LINK_UP (R350): the port has trained to a mode of Table 13-1 at a width; the host has set Bus Master Enable and MSI-X Enable. -/
def execHostLinkUp (mode : Fin 6) (width : Nat) (cache mem bme msix : Bool) (s : State) : Out :=
  if !s.pins.pwrGood ∨ s.pins.perst ∨ s.pkgLost then .next s
  else
    let m := mode.val + 1
    let s := (s.setPfld .HB_CAP_MODE 0 m).setPfld .HB_CAP_WIDTH 0 width
    let s := (s.setPfld .HB_CAP_CACHE 0 (bitOf (cache && m ≤ 3))).setPfld .HB_CAP_MEM 0 (bitOf (mem && m ≤ 3))
    .next (drainHost (flushVectors (showHeld { s with busMaster := bme, msixOn := msix })))

/-- HOST_LINK_DOWN (R354): 0 link down, 1 hot reset, 2 a clear of Bus Master Enable. -/
def execHostLinkDown (cause : Fin 3) (s : State) : Out := .next (if s.pfld .HB_CAP_MODE = 0 then s else loseHost s cause.val)

/-- IDE_STATE_CHANGE (R355): whether the CXL.io and the CXL.cachemem stream are now secure. -/
def execIdeStateChange (io cm : Bool) (s : State) : Out :=
  if s.pfld .HB_CAP_MODE = 0 then .next s
  else
    let lost := (s.pfld .HB_CAP_IDE_IO == 1 && !io) || (s.pfld .HB_CAP_IDE_CM == 1 && !cm)
    let s := (s.setPfld .HB_CAP_IDE_IO 0 (bitOf io)).setPfld .HB_CAP_IDE_CM 0 (bitOf cm)
    let s := showHeld s
    .next (drainHost (if lost then reportPkg (s.setPfld .HB_HOST_STAT_IDE 0 1) { FC.hostIde.fr with die := 18 } else s))

/-! ## Failed device accesses (R353) -/

/-- HOST_DMA_FAIL (R353): a failed tier read is reported once per second until one succeeds. -/
def execHostDmaFail (k : DmaFail) (s : State) : Out :=
  match k with
  | .session i cmd => execSqFetch i cmd none s
  | .load i => .next (fetchFailed s i)
  | .tier i =>
    let s := countDma s
    if (circ s i).tierFail.any fun t => s.time i < t + 1_000_000_000 then .next s
    else
      let s := onCirc (s.setPfld .HB_HOST_STAT_DMA 0 1) i fun c => { c with tierFail := some (s.time i) }
      .next (reportPkg s { FC.hostDma.fr with action := 0, die := 18, unit := i.val })
  | .ring page =>
    let t := page.val
    if s.pfld .SESS_RING_ENABLE t ≠ 1 then .next s
    else
      let s := (disableRing (countDma s) (pageSet s t) t).setPfld .HB_PAGE_ERR_HOSTERR t 1
      .next (reportPkg (s.setPfld .HB_HOST_STAT_DMA 0 1) { FC.hostDma.fr with die := 18, job := s.pfld .HB_PAGEt_CFG_JOB t, detail := t })

end Sys2Proof.Machine
end

