-- ==== Sys2Proof/Machine/Dispatch.lean ====
section
/-! DEFINITION. One arm per command: one direct call of its meaning. -/

namespace Sys2Proof.Machine

/-- The effect of a command on everything but the queue of waiting commands. -/
def exec (i : Instr) (s : State) : Host.Outcome State Fault Refusal :=
  match i with
  | .coldStart strap nvmOk => Sys2Proof.Machine.execColdStart strap nvmOk s
  | .perstAssert us => Sys2Proof.Machine.execPerstAssert us s
  | .vinRise low mv sbAddr => Sys2Proof.Machine.execVinRise low mv sbAddr s
  | .vinFault mv => Sys2Proof.Machine.execVinFault mv s
  | .refclkStable => Sys2Proof.Machine.execRefclkStable s
  | .refclkLoss => Sys2Proof.Machine.execRefclkLoss s
  | .cardVerify facts => Sys2Proof.Machine.execCardVerify facts s
  | .hbmTrainDone failed => Sys2Proof.Machine.execHbmTrainDone failed s
  | .setLock ms => Sys2Proof.Machine.execSetLock ms s
  | .seedlingStart set sec => Sys2Proof.Machine.execSeedlingStart set sec s
  | .promote set sec => Sys2Proof.Machine.execPromote set sec s
  | .aliasReady => Sys2Proof.Machine.execAliasReady s
  | .powerSample watts dies mv deciAmps => Sys2Proof.Machine.execPowerSample watts dies mv deciAmps s
  | .envCapWrite v => Sys2Proof.Machine.execEnvCapWrite v s
  | .rampAdmit set die => Sys2Proof.Machine.execRampAdmit set die s
  | .rampRelease set die => Sys2Proof.Machine.execRampRelease set die s
  | .markTimeout set core => Sys2Proof.Machine.execMarkTimeout set core s
  | .lendThreshold set core => Sys2Proof.Machine.execLendThreshold set core s
  | .lendReclaim set core => Sys2Proof.Machine.execLendReclaim set core s
  | .sprintRequest dur go => Sys2Proof.Machine.execSprintRequest dur go s
  | .sprintDurationEnd => Sys2Proof.Machine.execSprintDurationEnd s
  | .sprintCooldownEnd => Sys2Proof.Machine.execSprintCooldownEnd s
  | .junctionSense die temp margin => Sys2Proof.Machine.execJunctionSense die temp margin s
  | .railFault die => Sys2Proof.Machine.execRailFault die s
  | .floorBreach die margin => Sys2Proof.Machine.execFloorBreach die margin s
  | .ageingStep die => Sys2Proof.Machine.execAgeingStep die s
  | .descriptorFetch set core slot => Sys2Proof.Machine.execDescriptorFetch set core slot s
  | .move ev => Sys2Proof.Machine.execMove ev s
  | .copy ev => Sys2Proof.Machine.execCopy ev s
  | .fill ev => Sys2Proof.Machine.execFill ev s
  | .gemm ev => Sys2Proof.Machine.execGemm ev s
  | .conv ev => Sys2Proof.Machine.execConv ev s
  | .vec ev residue => Sys2Proof.Machine.execVec ev residue s
  | .attn ev => Sys2Proof.Machine.execAttn ev s
  | .signal ev => Sys2Proof.Machine.execSignal ev s
  | .wait ev => Sys2Proof.Machine.execWait ev s
  | .consume ev => Sys2Proof.Machine.execConsume ev s
  | .send ev => Sys2Proof.Machine.execSend ev s
  | .fence ev => Sys2Proof.Machine.execFence ev s
  | .loop ev => Sys2Proof.Machine.execLoop ev s
  | .endloop ev => Sys2Proof.Machine.execEndloop ev s
  | .inject ev => Sys2Proof.Machine.execInject ev s
  | .take ev => Sys2Proof.Machine.execTake ev s
  | .harvest ev residue => Sys2Proof.Machine.execHarvest ev residue s
  | .graft ev => Sys2Proof.Machine.execGraft ev s
  | .descriptorComplete set core unit pos => Sys2Proof.Machine.execDescriptorComplete set core unit pos s
  | .arrayStep set core upset => Sys2Proof.Machine.execArrayStep set core upset s
  | .tileDrain set core => Sys2Proof.Machine.execTileDrain set core s
  | .coreHeartbeat set core => Sys2Proof.Machine.execCoreHeartbeat set core s
  | .heartbeatTimeout set core => Sys2Proof.Machine.execHeartbeatTimeout set core s
  | .linkDieHeartbeatTimeout set => Sys2Proof.Machine.execLinkDieHeartbeatTimeout set s
  | .mpWatchdog => Sys2Proof.Machine.execMpWatchdog s
  | .segmentPowerOff set die seg => Sys2Proof.Machine.execSegmentPowerOff set die seg s
  | .segmentPowerOn set die seg => Sys2Proof.Machine.execSegmentPowerOn set die seg s
  | .segmentDrainEnd set die seg => Sys2Proof.Machine.execSegmentDrainEnd set die seg s
  | .segmentReady set die seg => Sys2Proof.Machine.execSegmentReady set die seg s
  | .windowWrite set sender addr data poisoned => Sys2Proof.Machine.execWindowWrite set sender addr data poisoned s
  | .windowWriteAck set core pos reply => Sys2Proof.Machine.execWindowWriteAck set core pos reply s
  | .creditGrant set win units => Sys2Proof.Machine.execCreditGrant set win units s
  | .jobEnd set job => Sys2Proof.Machine.execJobEnd set job s
  | .jobKill set job => Sys2Proof.Machine.execJobKill set job s
  | .jobRelease set job => Sys2Proof.Machine.execJobRelease set job s
  | .jobStart set job => Sys2Proof.Machine.execJobStart set job s
  | .teardownSettled set job => Sys2Proof.Machine.execTeardownSettled set job s
  | .teardownFillDone set job => Sys2Proof.Machine.execTeardownFillDone set job s
  | .slotMapWrite set core v => Sys2Proof.Machine.execSlotMapWrite set core v s
  | .slotMapApply set core => Sys2Proof.Machine.execSlotMapApply set core s
  | .tileFrame set port frame bad => Sys2Proof.Machine.execTileFrame set port frame bad s
  | .turnFrame set port frame => Sys2Proof.Machine.execTurnFrame set port frame s
  | .turnSend set port => Sys2Proof.Machine.execTurnSend set port s
  | .turnHandle set => Sys2Proof.Machine.execTurnHandle set s
  | .circSwitch set ver unfold go => Sys2Proof.Machine.execCircSwitch set ver unfold go s
  | .changeRequest set unfold ver => Sys2Proof.Machine.execChangeRequest set unfold ver s
  | .readinessQuery set unfold ver => Sys2Proof.Machine.execReadinessQuery set unfold ver s
  | .readinessReply set place ready => Sys2Proof.Machine.execReadinessReply set place ready s
  | .readinessTimeout set => Sys2Proof.Machine.execReadinessTimeout set s
  | .commitNotice set kind ver target epoch => Sys2Proof.Machine.execCommitNotice set kind ver target epoch s
  | .commitAck set place => Sys2Proof.Machine.execCommitAck set place s
  | .commitAckTimeout set => Sys2Proof.Machine.execCommitAckTimeout set s
  | .confirm set => Sys2Proof.Machine.execConfirm set s
  | .abort set => Sys2Proof.Machine.execAbort set s
  | .loadAnnounce set shard => Sys2Proof.Machine.execLoadAnnounce set shard s
  | .loadFrame set circle frame bad => Sys2Proof.Machine.execLoadFrame set circle frame bad s
  | .pieceRerequest set piece repair => Sys2Proof.Machine.execPieceRerequest set piece repair s
  | .loadTimerExpire set shard => Sys2Proof.Machine.execLoadTimerExpire set shard s
  | .weedPassStart set => Sys2Proof.Machine.execWeedPassStart set s
  | .weedPieceDone set => Sys2Proof.Machine.execWeedPieceDone set s
  | .repairTransfer set piece ver data => Sys2Proof.Machine.execRepairTransfer set piece ver data s
  | .tierPieceStaged set piece data poisoned lateMs => Sys2Proof.Machine.execTierPieceStaged set piece data poisoned lateMs s
  | .residentSettle set piece => Sys2Proof.Machine.execResidentSettle set piece s
  | .promenadeSwitch set => Sys2Proof.Machine.execPromenadeSwitch set s
  | .foldNotice set port epoch loss => Sys2Proof.Machine.execFoldNotice set port epoch loss s
  | .foldAck set place rev epoch => Sys2Proof.Machine.execFoldAck set place rev epoch s
  | .refold set epoch m line loss => Sys2Proof.Machine.execRefold set epoch m line loss s
  | .stopNotice set port => Sys2Proof.Machine.execStopNotice set port s
  | .attnRequest set stack core => Sys2Proof.Machine.execAttnRequest set stack core s
  | .attnUnitDone set stack engine residue => Sys2Proof.Machine.execAttnUnitDone set stack engine residue s
  | .attnShareDone set stack core => Sys2Proof.Machine.execAttnShareDone set stack core s
  | .frameSeal set stack slot frame layer stream => Sys2Proof.Machine.execFrameSeal set stack slot frame layer stream s
  | .stepBoundary set => Sys2Proof.Machine.execStepBoundary set s
  | .embeddingGatherDone set => Sys2Proof.Machine.execEmbeddingGatherDone set s
  | .passStart plan => Sys2Proof.Machine.execPassStart plan s
  | .passHeader set bound discard => Sys2Proof.Machine.execPassHeader set bound discard s
  | .passReturn set ret => Sys2Proof.Machine.execPassReturn set ret s
  | .stackTempRead set stack temps => Sys2Proof.Machine.execStackTempRead set stack temps s
  | .stackTempExit set stack => Sys2Proof.Machine.execStackTempExit set stack s
  | .stackFenceWrite set stack => Sys2Proof.Machine.execStackFenceWrite set stack s
  | .refresh set stack => Sys2Proof.Machine.execRefresh set stack s
  | .patrolPassStart set stack => Sys2Proof.Machine.execPatrolPassStart set stack s
  | .patrolRead set stack => Sys2Proof.Machine.execPatrolRead set stack s
  | .loopbackGo set stack mode chan durMs => Sys2Proof.Machine.execLoopbackGo set stack mode chan durMs s
  | .loopbackEnd set stack errors lane => Sys2Proof.Machine.execLoopbackEnd set stack errors lane s
  | .sqTailWrite page v => Sys2Proof.Machine.execSqTailWrite page v s
  | .sqFetch set cmd data => Sys2Proof.Machine.execSqFetch set cmd data s
  | .cqHeadWrite page v => Sys2Proof.Machine.execCqHeadWrite page v s
  | .ringEnable page => Sys2Proof.Machine.execRingEnable page s
  | .ringDisable page => Sys2Proof.Machine.execRingDisable page s
  | .openS set => Sys2Proof.Machine.execOpen set s
  | .input set => Sys2Proof.Machine.execInput set s
  | .draft set => Sys2Proof.Machine.execDraft set s
  | .mask set => Sys2Proof.Machine.execMask set s
  | .maskload set => Sys2Proof.Machine.execMaskload set s
  | .close set => Sys2Proof.Machine.execClose set s
  | .openTimeout set slot => Sys2Proof.Machine.execOpenTimeout set slot s
  | .remoteSignal set sender exp n => Sys2Proof.Machine.execRemoteSignal set sender exp n s
  | .remoteSignalReply set core slot cause => Sys2Proof.Machine.execRemoteSignalReply set core slot cause s
  | .barrierArrive set ctr place cctr => Sys2Proof.Machine.execBarrierArrive set ctr place cctr s
  | .barrierRelease set ctr => Sys2Proof.Machine.execBarrierRelease set ctr s
  | .barrierBroken set ctr place fromCtr => Sys2Proof.Machine.execBarrierBroken set ctr place fromCtr s
  | .hostSignal page vid n => Sys2Proof.Machine.execHostSignal page vid n s
  | .hostWaitArm page w vid n msix vec => Sys2Proof.Machine.execHostWaitArm page w vid n msix vec s
  | .chanMessage set core chan msg => Sys2Proof.Machine.execChanMessage set core chan msg s
  | .chanAck set core chan => Sys2Proof.Machine.execChanAck set core chan s
  | .chanNack set core chan reason => Sys2Proof.Machine.execChanNack set core chan reason s
  | .chanRetry set core chan => Sys2Proof.Machine.execChanRetry set core chan s
  | .norouteTimeout set what => Sys2Proof.Machine.execNorouteTimeout set what s
  | .flitReceive set port flit => Sys2Proof.Machine.execFlitReceive set port flit s
  | .fecAlignLoss set port bundle => Sys2Proof.Machine.execFecAlignLoss set port bundle s
  | .crcSilence set port => Sys2Proof.Machine.execCrcSilence set port s
  | .retrain set port bundles => Sys2Proof.Machine.execRetrain set port bundles s
  | .retrainTimeout set link => Sys2Proof.Machine.execRetrainTimeout set link s
  | .setLossConfirm set place => Sys2Proof.Machine.execSetLossConfirm set place s
  | .downEnd set => Sys2Proof.Machine.execDownEnd set s
  | .portDisable set port => Sys2Proof.Machine.execPortDisable set port s
  | .portRetrain set port => Sys2Proof.Machine.execPortRetrain set port s
  | .portRescan set port => Sys2Proof.Machine.execPortRescan set port s
  | .portEqualiseDone set port bundles => Sys2Proof.Machine.execPortEqualiseDone set port bundles s
  | .portAlignDone set port bundles => Sys2Proof.Machine.execPortAlignDone set port bundles s
  | .portMissing set port => Sys2Proof.Machine.execPortMissing set port s
  | .identRecord set port rec => Sys2Proof.Machine.execIdentRecord set port rec s
  | .configRecord set port lp remapped tof => Sys2Proof.Machine.execConfigRecord set port lp remapped tof s
  | .portTableReport set place loc up => Sys2Proof.Machine.execPortTableReport set place loc up s
  | .timeSync set port seq t1 => Sys2Proof.Machine.execTimeSync set port seq t1 s
  | .timeDreq set port seq => Sys2Proof.Machine.execTimeDreq set port seq s
  | .timeDresp set port seq t4 => Sys2Proof.Machine.execTimeDresp set port seq t4 s
  | .timeExchangeTick set port => Sys2Proof.Machine.execTimeExchangeTick set port s
  | .timeAltParent set rootLost => Sys2Proof.Machine.execTimeAltParent set rootLost s
  | .holdoverReport set => Sys2Proof.Machine.execHoldoverReport set s
  | .hostLinkDown cause => Sys2Proof.Machine.execHostLinkDown cause s
  | .hostDmaFail what => Sys2Proof.Machine.execHostDmaFail what s
  | .ideStateChange io cm => Sys2Proof.Machine.execIdeStateChange io cm s
  | .hdmAccess set off len data => Sys2Proof.Machine.execHdmAccess set off len data s
  | .apertureRead aper off len => Sys2Proof.Machine.execApertureRead aper off len s
  | .apertureWrite aper off data => Sys2Proof.Machine.execApertureWrite aper off data s
  | .registerWrite bar addr data => Sys2Proof.Machine.execRegisterWrite bar addr data s
  | .readClear bar addr len => Sys2Proof.Machine.execReadClear bar addr len s
  | .transferFw action off data => Sys2Proof.Machine.execTransferFw action off data s
  | .activateFw atRestart => Sys2Proof.Machine.execActivateFw atRestart s
  | .getFwInfo => Sys2Proof.Machine.execGetFwInfo s
  | .identify => Sys2Proof.Machine.execIdentify s
  | .getBoot via => Sys2Proof.Machine.execGetBoot via s
  | .nonce via => Sys2Proof.Machine.execNonce via s
  | .nonceExpire => Sys2Proof.Machine.execNonceExpire s
  | .cardWrite via off data => Sys2Proof.Machine.execCardWrite via off data s
  | .cardCheck via facts => Sys2Proof.Machine.execCardCheck via facts s
  | .suppWrite via off data => Sys2Proof.Machine.execSuppWrite via off data s
  | .suppCommit via => Sys2Proof.Machine.execSuppCommit via s
  | .restart via => Sys2Proof.Machine.execRestart via s
  | .shutdown via => Sys2Proof.Machine.execShutdown via s
  | .enrolBegin via modulus => Sys2Proof.Machine.execEnrolBegin via modulus s
  | .enrolConfirm via sig => Sys2Proof.Machine.execEnrolConfirm via sig s
  | .enrolTimeout => Sys2Proof.Machine.execEnrolTimeout s
  | .ownerRelease via => Sys2Proof.Machine.execOwnerRelease via s
  | .vendorUnknown via op => Sys2Proof.Machine.execVendorUnknown via op s
  | .spdmRequest req => Sys2Proof.Machine.execSpdmRequest req s
  | .getMeasurements index => Sys2Proof.Machine.execGetMeasurements index s
  | .mctpControl binding req => Sys2Proof.Machine.execMctpControl binding req s
  | .faultRecord set rec => Sys2Proof.Machine.execFaultRecord set rec s
  | .almanacSecond => Sys2Proof.Machine.execAlmanacSecond s
  | .almanacInterval => Sys2Proof.Machine.execAlmanacInterval s
  | .almanacWriteDone ok => Sys2Proof.Machine.execAlmanacWriteDone ok s
  | .almRead via off len => Sys2Proof.Machine.execAlmRead via off len s
  | .almFlush via => Sys2Proof.Machine.execAlmFlush via s
  | .ringRead via first count => Sys2Proof.Machine.execRingRead via first count s
  | .calRead via off len => Sys2Proof.Machine.execCalRead via off len s
  | .calArm via => Sys2Proof.Machine.execCalArm via s
  | .calConfirm via code => Sys2Proof.Machine.execCalConfirm via code s
  | .calWrite via off data => Sys2Proof.Machine.execCalWrite via off data s
  | .calCommit via => Sys2Proof.Machine.execCalCommit via s
  | .calUnlockExpire => Sys2Proof.Machine.execCalUnlockExpire s
  | .debugHold set core slots => Sys2Proof.Machine.execDebugHold set core slots s
  | .debugRelease set core slots => Sys2Proof.Machine.execDebugRelease set core slots s
  | .debugStep set core slots => Sys2Proof.Machine.execDebugStep set core slots s
  | .portSignalDetect set port => Sys2Proof.Machine.execPortSignalDetect set port s
  | .hostLinkUp mode width cache mem bme msix => Sys2Proof.Machine.execHostLinkUp mode width cache mem bme msix s
  | .fullLoadDone set sec => Sys2Proof.Machine.execFullLoadDone set sec s
  | .pieceFetchDone set data => Sys2Proof.Machine.execPieceFetchDone set data s
  | .mpRestartDone => Sys2Proof.Machine.execMpRestartDone s
  | .tapInstruction ir lands => Sys2Proof.Machine.execTapInstruction ir lands s
  | .cxlMailboxCommand cmd => Sys2Proof.Machine.execCxlMailboxCommand cmd s

end Sys2Proof.Machine
end

