-- ==== Sys2Proof/Safety.lean ====
section
/-! DEFINITION. What every run keeps, whatever commands come: the terms that claims about the whole block are stated in. -/

namespace Sys2Proof.Machine

/-! ## Canonical registers and memories -/

/-- A register map: keys rising, and each entry a value of its field that the field's width can hold and that is not its reset value. -/
def regsOk (m : SMap Nat) : Prop :=
  SMap.sorted m = true ∧ ∀ e ∈ m, ∃ f : Field, e.1 % 1024 = f.code ∧ e.2 < 2 ^ f.info.len ∧ e.2 ≠ f.info.rst

/-- A set's registers and memory are in canonical form. -/
def SetSt.ok (t : SetSt) : Prop := regsOk t.regs ∧ Memory.wf t.mem = true

/-- An NVM: addresses rising, no entry that reads as an erased byte does, none beyond its last byte (R374). -/
def nvmOk (m : SMap Byte) : Prop := SMap.wf 0xFF m = true ∧ ∀ e ∈ m, e.1 < 0x800_0000

/-- Every register field holds a value of its width, and every memory is in canonical form. -/
structure State.Inv (s : State) : Prop where
  regs : regsOk s.regs
  set0 : s.set0.ok
  set1 : s.set1.ok
  host : Memory.wf s.hostMem = true
  alm : Memory.wf s.almMem = true
  nvm : nvmOk s.nvm

/-! ## What only grows -/

/-- Fuses are only ever burnt (R377, R380 to R382): FW_SVN does not fall, a slot that holds an owner's hash keeps it, a revoke bit stays
set, and what was fixed at the factory stays. -/
structure Fuses.Le (a b : Fuses) : Prop where
  svn : a.svn ≤ b.svn
  owners : ∀ n, SMap.get [] a.owners n ≠ [] → SMap.get [] b.owners n = SMap.get [] a.owners n
  revoked : ∀ n, bit a.revoked n = true → bit b.revoked n = true
  key : b.fwHash = a.fwHash
  arrays : b.arraysOff = a.arraysOff
  rom : b.romDigest = a.romDigest
  secret : b.uds = a.uds

/-- Every byte of the identity block of NVM (Table 14-1) is as it was. -/
def sameIdentity (s t : State) : Prop := ∀ a, 0x750_0000 ≤ a → a < 0x760_0000 → SMap.get 0xFF t.nvm a = SMap.get 0xFF s.nvm a

/-! ## Issue (3.2 to 3.5) -/

/-- The next issue of a core is slot `n`'s descriptor `d` at `pc`, of type `t`, and it passes every check of issue as `x` (R62 to R74,
R131): no cell has changed, the core runs, the slot is the next ready one and not held. -/
structure IssuesAt (s : State) (ev : Issue) (t : DType) (n pc : Nat) (d : List Byte) (x : Issued) : Prop where
  quiet : ev.upsets = []
  live : (s.st ev.set).lost = false
  runs : (s.core ev.set ev.core.val).stopped = false
  turn : nextSlot s ev.set ev.core.val = some n
  head : (s.slot ev.set ev.core.val n).prefetch.head? = some (pc, d)
  held : holdOn s ev.set ev.core.val n = false
  agree : ev.disagree = false
  type : dtype d = some t
  checks : issueCheck s ev.set ev.core.val n (s.fld ev.set .CORE_SLOTn_PC_JOB (slotIx ev.core.val n)) t d = .go x

/-- The job of a slot. -/
def jobOf (s : State) (i : SetId) (k n : Nat) : Nat := s.fld i .CORE_SLOTn_PC_JOB (slotIx k n)

/-- The entry that an issued descriptor takes in its unit's queue (R65). -/
def queueEntry (s : State) (ev : Issue) (t : DType) (n pc : Nat) (x : Issued) : QEnt :=
  (Machine.place s ev.set ev.core.val n (jobOf s ev.set ev.core.val n) pc (t.unit.getD 0) t x).2

/-- The state in which an issued descriptor stands in its unit's queue with its scoreboard entries, and its slot has gone on to the next
address (R65, R68, R130). -/
def issuedState (s : State) (ev : Issue) (t : DType) (n pc : Nat) (d : List Byte) (x : Issued) : State :=
  advance (Machine.place s ev.set ev.core.val n (jobOf s ev.set ev.core.val n) pc (t.unit.getD 0) t x).1 ev.set ev.core.val n pc d

/-! ## Messages -/

/-- The messages that had left the block still stand, in their order, before any later one. -/
def keepsMessages (s t : State) : Prop := ∃ l, t.out = s.out ++ l

end Sys2Proof.Machine
end

