-- ==== Sys2Proof/WellFormed.lean ====
section
/-! DEFINITION. Which commands are well formed: the lengths and ranges that a command's format fixes beyond its type. -/

namespace Sys2Proof

/-- Lost symbols lie in one stored word of 32 data bytes and 4 check bytes, at a word address (R409). -/
def Upset.wf (u : Upset) : Bool := u.addr % 32 == 0 && u.addr < 2 ^ 44 && u.pat.length == 36

/-- An issue event names words. -/
def Issue.wf (e : Issue) : Bool := e.upsets.all Upset.wf

/-- A nonce has 32 bytes, a signature 384 (R383). -/
def Via.wf (v : Via) : Bool :=
  match v.auth with
  | some (n, g) => n.length == 32 && g.length == 384
  | none => true

/-- Tile-map entries have 16 bytes; a repair request names a place. -/
def CardFacts.wf (f : CardFacts) : Bool := [f.full0, f.seed0, f.full1, f.seed1].all fun l => l.all fun e => e.length == 16

/-- Tokens and drafts are 32-bit, and a record has 64 bytes. -/
def PassPart.wf (p : PassPart) : Bool :=
  p.slot < 16384 && p.status < 2 ^ 16 && p.toks.all (· < 2 ^ 32) && p.drafts.all (· < 2 ^ 32) && p.recs.all fun r => r.length == 64

/-- Every part is well formed. -/
def PassRet.wf (r : PassRet) : Bool := r.parts.all PassPart.wf

/-- Slots, statuses and the session's facts have their widths. -/
def PassSess.wf (b : PassSess) : Bool :=
  b.slot < 16384 && b.status < 2 ^ 16 && b.facts.stops.length ≤ 8 && b.facts.stops.all fun t => t.length ≤ 16 && t.all (· < 2 ^ 32)

/-- A session command has 64 bytes. -/
def DmaFail.wf : DmaFail → Bool
  | .ring _ | .load _ | .tier _ => true
  | .session _ cmd => cmd.length == 64

/-- The opcodes that Tables 14-12 and 16-4 list. -/
def listedOps : List Nat :=
  [0xC000, 0xC001, 0xC002, 0xC003, 0xC004, 0xC005, 0xC006, 0xC007, 0xC008, 0xC009, 0xC00A,
    0xC010, 0xC011, 0xC012, 0xC013, 0xC014, 0xC015, 0xC016, 0xC017]

/-- A command is well formed. -/
def Instr.wf : Instr → Bool
  | .coldStart strap _ => strap < 2 ^ 18
  | .cardVerify facts => facts.wf
  | .powerSample _ dies _ _ => dies.length == 20
  | .envCapWrite v => v < 512
  | .sprintRequest dur _ => dur < 2048
  | .move ev => ev.wf
  | .copy ev => ev.wf
  | .fill ev => ev.wf
  | .gemm ev => ev.wf
  | .conv ev => ev.wf
  | .vec ev _ => ev.wf
  | .attn ev => ev.wf
  | .signal ev => ev.wf
  | .wait ev => ev.wf
  | .consume ev => ev.wf
  | .send ev => ev.wf
  | .fence ev => ev.wf
  | .loop ev => ev.wf
  | .endloop ev => ev.wf
  | .inject ev => ev.wf
  | .take ev => ev.wf
  | .harvest ev _ => ev.wf
  | .graft ev => ev.wf
  | .windowWrite _ sender addr data poisoned => sender < 2 ^ 18 && addr < 2 ^ 44 && addr % 32 == 0 && data.length % 32 == 0 && data.length != 0 && poisoned.all (· < data.length)
  | .slotMapWrite _ _ v => v < 2 ^ 16
  | .tileFrame _ _ frame bad => frame.length % 32 == 0 && 32 ≤ frame.length && bad.all (· < frame.length / 32)
  | .turnFrame _ _ frame => frame.length == 32
  | .circSwitch _ ver _ _ => ver < 2 ^ 16
  | .loadFrame _ circle frame bad => circle < 1024 && frame.length % 32 == 0 && 32 ≤ frame.length && bad.all (· < frame.length / 32)
  | .repairTransfer _ _ _ data => data.length % 32 == 0
  | .tierPieceStaged _ _ data _ _ => data.length % 32 == 0
  | .frameSeal _ _ _ _ layer _ => layer < 512
  | .passHeader _ bound _ => bound.all PassSess.wf
  | .passReturn _ ret => ret.wf
  | .stackTempRead _ _ temps => temps.length == 16
  | .sqTailWrite _ v => v < 2 ^ 16
  | .sqFetch _ cmd _ => cmd.length == 64
  | .cqHeadWrite _ v => v < 2 ^ 20
  | .remoteSignal _ sender _ n => sender < 2 ^ 18 && n < 2 ^ 31
  | .hostSignal _ vid n => vid < 4096 && n < 2 ^ 31
  | .hostWaitArm _ _ vid n _ vecNo => vid < 4096 && n < 2 ^ 31 && vecNo < 2048
  | .chanMessage _ _ _ msg => msg.place < 2 ^ 18 && msg.body.length % 32 == 0 && msg.body.length ≤ 4096 && msg.poisoned.all (· < msg.body.length)
  | .flitReceive _ _ flit => flit.length == 512
  | .identRecord _ _ rec => rec.length == 64
  | .hostDmaFail what => what.wf
  | .hdmAccess _ _ len data => 1 ≤ len && len ≤ 64 && (match data with | some d => d.length == len | none => true)
  | .apertureRead _ off len => off < 2 ^ 26 && 1 ≤ len
  | .apertureWrite _ off data => off < 2 ^ 26 && data.length != 0
  | .registerWrite bar _ data => (bar == 0 || bar == 2 || bar == 4 || bar == 6) && 1 ≤ data.length && data.length ≤ 64
  | .readClear bar _ len => (bar == 0 || bar == 2 || bar == 4 || bar == 6) && 1 ≤ len && len ≤ 64
  | .getBoot via => via.wf
  | .nonce via => via.wf
  | .cardWrite via _ _ => via.wf
  | .cardCheck via facts => via.wf && facts.wf
  | .suppWrite via _ _ => via.wf
  | .suppCommit via => via.wf
  | .restart via => via.wf
  | .shutdown via => via.wf
  | .enrolBegin via _ => via.wf
  | .enrolConfirm via _ => via.wf
  | .ownerRelease via => via.wf
  | .vendorUnknown via op => via.wf && 0xC000 ≤ op && op < 0xC020 && !listedOps.contains op
  | .faultRecord _ rec => rec.length == 32
  | .almRead via _ _ => via.wf
  | .almFlush via => via.wf
  | .ringRead via _ _ => via.wf
  | .calRead via _ _ => via.wf
  | .calArm via => via.wf
  | .calConfirm via _ => via.wf
  | .calWrite via _ _ => via.wf
  | .calCommit via => via.wf
  | .hostLinkUp _ width _ _ _ _ => width == 4 || width == 8 || width == 16
  | .perstAssert .. | .vinRise .. | .vinFault .. | .refclkStable | .refclkLoss | .hbmTrainDone .. | .setLock .. | .seedlingStart .. | .promote ..
  | .aliasReady | .rampAdmit .. | .rampRelease .. | .markTimeout .. | .lendThreshold .. | .lendReclaim .. | .sprintDurationEnd | .sprintCooldownEnd
  | .junctionSense .. | .railFault .. | .floorBreach .. | .ageingStep .. | .descriptorFetch .. | .descriptorComplete .. | .arrayStep ..
  | .tileDrain .. | .coreHeartbeat .. | .heartbeatTimeout .. | .linkDieHeartbeatTimeout .. | .mpWatchdog | .segmentPowerOff .. | .segmentPowerOn ..
  | .segmentDrainEnd .. | .segmentReady .. | .windowWriteAck .. | .creditGrant .. | .jobEnd .. | .jobKill .. | .jobRelease .. | .jobStart ..
  | .teardownSettled .. | .teardownFillDone .. | .slotMapApply .. | .turnSend .. | .turnHandle .. | .changeRequest .. | .readinessQuery ..
  | .readinessReply .. | .readinessTimeout .. | .commitNotice .. | .commitAck .. | .commitAckTimeout .. | .confirm .. | .abort .. | .loadAnnounce ..
  | .pieceRerequest .. | .loadTimerExpire .. | .weedPassStart .. | .weedPieceDone .. | .residentSettle .. | .promenadeSwitch .. | .foldNotice ..
  | .foldAck .. | .refold .. | .stopNotice .. | .attnRequest .. | .attnUnitDone .. | .attnShareDone .. | .stepBoundary .. | .embeddingGatherDone ..
  | .passStart .. | .stackTempExit .. | .stackFenceWrite .. | .refresh .. | .patrolPassStart .. | .patrolRead .. | .loopbackGo .. | .loopbackEnd ..
  | .ringEnable .. | .ringDisable .. | .openS .. | .input .. | .draft .. | .mask .. | .maskload .. | .close .. | .openTimeout ..
  | .remoteSignalReply .. | .barrierArrive .. | .barrierRelease .. | .barrierBroken .. | .chanAck .. | .chanNack .. | .chanRetry ..
  | .norouteTimeout .. | .fecAlignLoss .. | .crcSilence .. | .retrain .. | .retrainTimeout .. | .setLossConfirm .. | .downEnd .. | .portDisable ..
  | .portRetrain .. | .portRescan .. | .portEqualiseDone .. | .portAlignDone .. | .portMissing .. | .configRecord .. | .portTableReport ..
  | .timeSync .. | .timeDreq .. | .timeDresp .. | .timeExchangeTick .. | .timeAltParent .. | .holdoverReport .. | .hostLinkDown ..
  | .ideStateChange .. | .transferFw .. | .activateFw .. | .getFwInfo | .identify | .nonceExpire | .enrolTimeout | .spdmRequest ..
  | .getMeasurements .. | .mctpControl .. | .almanacSecond | .almanacInterval | .almanacWriteDone .. | .calUnlockExpire | .debugHold ..
  | .debugRelease .. | .debugStep .. | .portSignalDetect .. | .fullLoadDone .. | .pieceFetchDone .. | .mpRestartDone | .tapInstruction ..
  | .cxlMailboxCommand .. => true

end Sys2Proof
end

