-- ==== Sys2Proof/Certificates/Slice0/Obligations.lean ====
section
/-! DEFINITION. The statements for the provers, by chapter of the manual. -/

open Sys2Proof Sys2Proof.Machine

/-! ## Tempo and power (chapter 2) -/

/-- R43: each microsecond the power die takes the sample into the last 1,000, and PD_POWER shows their mean and their peak; stated while
the mean is within the envelope, no rail is held below V_f and no circle moves frames, so that nothing but time goes on. R46: a cap from
P_PLAN to ENV is taken, any other leaves the cap as it was and sets CAP_ERR; a sprint ends with cause CAP. -/
def Obligations.EnvelopeAndCap : Prop :=
  (∀ (s : State) (watts mv amps : Nat) (dies : List Nat), s.pins.pwrGood = true → s.pm.envLow = [] → s.pfld .PD_SPRINT_STAT_ACTIVE = 0 →
    s.pfld .PD_SPRINT_STAT_COOL_LEFT = 0 → (∀ i, circulates s i = false) →
    (watts :: s.pm.samples.take 999).foldl (· + ·) 0 / (watts :: s.pm.samples.take 999).length ≤ envelope s →
    ∃ t, exec (.powerSample watts dies mv amps) s = .next t ∧ t.pm = { s.pm with samples := watts :: s.pm.samples.take 999 } ∧
      t.pfld .PD_POWER_MEAN_1MS =
        (watts :: s.pm.samples.take 999).foldl (· + ·) 0 / (watts :: s.pm.samples.take 999).length % 2 ^ 13 ∧
      t.pfld .PD_POWER_PEAK_1US = max watts (s.pfld .PD_POWER_PEAK_1US) % 2 ^ 13 ∧
      (∀ n, vset t n = vset s n) ∧ t.out = s.out ∧ (t.st 0).mem = (s.st 0).mem ∧ (t.st 1).mem = (s.st 1).mem) ∧
  ∀ (s : State) (v : Nat), v < 512 → ∃ t, exec (.envCapWrite v) s = .next t ∧
    (s.pfld .PD_CLASS_P_PLAN ≤ v ∧ v ≤ s.pfld .PD_CLASS_ENV →
      t.pfld .PD_ENV_CAP_CAP = v ∧ t.pfld .PD_ENV_CAP_CAP_ERR = s.pfld .PD_ENV_CAP_CAP_ERR) ∧
    (v < s.pfld .PD_CLASS_P_PLAN ∨ s.pfld .PD_CLASS_ENV < v →
      t.pfld .PD_ENV_CAP_CAP = s.pfld .PD_ENV_CAP_CAP ∧ t.pfld .PD_ENV_CAP_CAP_ERR = 1) ∧
    t.pfld .PD_SPRINT_STAT_ACTIVE = 0 ∧ (s.pfld .PD_SPRINT_STAT_ACTIVE = 1 → t.pfld .PD_SPRINT_STAT_END = 3) ∧
    t.out = s.out ∧ t.set0 = s.set0 ∧ t.set1 = s.set1

/-- R49 and R50: a core that waits in WAIT with every slot becomes a lender, no rail is lowered and none is raised above V_class; its wake
ends that, no rail rises and none falls below V_f. -/
def Obligations.LendingKeepsFloor : Prop :=
  (∀ (s : State) (i : SetId) (k : CoreId), s.pfld .PD_CLASS_LEND ≠ 0 → (s.core i k.val).stopped = false →
    (s.core i k.val).lender = false → (s.st i).lost = false → (∀ n < 8, slotState s i k.val n = 4) →
    ∃ t, exec (.lendThreshold i k) s = .next t ∧ (t.core i k.val).lender = true ∧
      (∀ n < 18, vset s n ≤ vset t n ∧ (vset t n = vset s n ∨ vset t n ≤ vClass s)) ∧ (t.st i).mem = (s.st i).mem ∧ t.out = s.out) ∧
  ∀ (s : State) (i : SetId) (k : CoreId), s.Inv → ∃ t, exec (.lendReclaim i k) s = .next t ∧
    ((∃ n < 8, slotState s i k.val n ≠ 0 ∧ slotState s i k.val n ≠ 4 ∧ slotState s i k.val n ≠ 6) → (t.core i k.val).lender = false) ∧
    (∀ n < 18, vset t n ≤ vset s n ∧ (vset t n = vset s n ∨ vfloor s n ≤ vset t n)) ∧ (t.st i).mem = (s.st i).mem ∧ t.out = s.out

/-- R52 to R54: a request that nothing forbids makes sprint active for the asked time; when the granted duration elapses the sprint ends
with cause DURATION and refuses for the longer of three times its length and 2 s, in 10 ms units, the last of which may be a part; the
end of the cooldown clears it. R52: a refused request sets REFUSE to its cause and has no other effect; stated for every cause, with the
conditions of the earlier ones passed. -/
def Obligations.Sprint : Prop :=
  ((∀ (s : State) (dur : Nat), s.Inv → 1 ≤ dur → dur ≤ 1500 → dur ≤ reserveLeft s → s.pfld .PD_CLASS_SPRINT_OK = 1 →
     s.pfld .PD_CLASS_ACCEPTED = 1 → s.pfld .PD_SPRINT_STAT_ACTIVE = 0 → s.pfld .PD_SPRINT_STAT_COOL_LEFT = 0 →
     s.pfld .PD_CLASS_ENV ≤ s.pfld .PD_ENV_CAP_CAP → (∀ n < 18, s.pfld .PD_TEMPOn_TJ n ≤ 90) → s.pfld .PD_SENSE_TJ_HB ≤ 90 →
     s.pfld .PD_SENSE_TJ_PD ≤ 90 → s.pfld .PD_FLOOR_EVT_ACTIVE = 0 → s.pfld .PD_SPRINT_LIFE_EXHAUSTED = 0 →
     ∃ t, exec (.sprintRequest dur true) s = .next t ∧ t.pfld .PD_SPRINT_STAT_ACTIVE = 1 ∧ t.pfld .PD_SPRINT_STAT_LEFT = dur ∧
       t.pfld .PD_SPRINT_STAT_REFUSE = s.pfld .PD_SPRINT_STAT_REFUSE ∧ (∀ n < 18, vset s n ≤ vset t n ∧ vset t n ≤ max 900 (vset s n)) ∧
       t.set0 = s.set0 ∧ t.set1 = s.set1 ∧ t.nvm = s.nvm ∧ t.out = s.out) ∧
   (∀ s : State, s.pfld .PD_SPRINT_STAT_ACTIVE = 1 → s.sprintRan + s.pfld .PD_SPRINT_STAT_LEFT ≤ 1500 →
     ∃ t, exec .sprintDurationEnd s = .next t ∧ t.pfld .PD_SPRINT_STAT_ACTIVE = 0 ∧ t.pfld .PD_SPRINT_STAT_LEFT = 0 ∧
       t.pfld .PD_SPRINT_STAT_END = 1 ∧
       t.pfld .PD_SPRINT_STAT_COOL_LEFT = (max (3 * (s.sprintRan + s.pfld .PD_SPRINT_STAT_LEFT)) 2000 + 9) / 10 ∧
       t.pfld .PD_SPRINT_LIFE_USED = s.pfld .PD_SPRINT_LIFE_USED ∧ t.set0 = s.set0 ∧ t.set1 = s.set1 ∧ t.out = s.out) ∧
   ∀ s : State, exec .sprintCooldownEnd s = .next (s.setPfld .PD_SPRINT_STAT_COOL_LEFT 0 0)) ∧
  (∀ (s : State) (dur : Nat),
     let refused := fun c => exec (.sprintRequest dur true) s = .next (s.setPfld .PD_SPRINT_STAT_REFUSE 0 c)
     (s.pfld .PD_CLASS_SPRINT_OK = 0 → refused 1) ∧
     (s.pfld .PD_CLASS_SPRINT_OK = 1 → s.pfld .PD_CLASS_ACCEPTED = 1 → (s.pfld .PD_SPRINT_STAT_ACTIVE = 1 → refused 2) ∧
       (s.pfld .PD_SPRINT_STAT_ACTIVE = 0 → (s.pfld .PD_SPRINT_STAT_COOL_LEFT ≠ 0 → refused 3) ∧
         (s.pfld .PD_SPRINT_STAT_COOL_LEFT = 0 → (s.pfld .PD_ENV_CAP_CAP < s.pfld .PD_CLASS_ENV → refused 4) ∧
           (s.pfld .PD_CLASS_ENV ≤ s.pfld .PD_ENV_CAP_CAP →
             ((∃ n < 18, 90 < s.pfld .PD_TEMPOn_TJ n) ∨ 90 < s.pfld .PD_SENSE_TJ_HB ∨ 90 < s.pfld .PD_SENSE_TJ_PD → refused 5) ∧
             ((∀ n < 18, s.pfld .PD_TEMPOn_TJ n ≤ 90) → s.pfld .PD_SENSE_TJ_HB ≤ 90 → s.pfld .PD_SENSE_TJ_PD ≤ 90 →
               (s.pfld .PD_FLOOR_EVT_ACTIVE = 1 → refused 6) ∧
               (s.pfld .PD_FLOOR_EVT_ACTIVE = 0 → (s.pfld .PD_SPRINT_LIFE_EXHAUSTED = 1 → refused 7) ∧
                 (s.pfld .PD_SPRINT_LIFE_EXHAUSTED = 0 → reserveLeft s ≠ 0 → dur % 2048 = 0 ∨ 1500 < dur % 2048 → refused 8))))))))

/-- R39, R56: a junction reading of a link die that ends no sprint and removes no rail only shows itself, and at 115 °C a sprint ends with
cause THERMAL and the rail of a powered logic die is removed, as on a failed regulator (R429): with a report of severity set lost, or
package lost for the host bridge and the power die. R57: a breach sets the bit of its cause, names the die and moves no rail. R58: the guard of a die grows by one step of 5 mV. -/
def Obligations.HeatRailsFloors : Prop :=
  (∀ (s : State) (d : Fin 20) (temp margin : Nat), 16 ≤ d.val → d.val < 18 → s.pins.pwrGood = true → temp < 115 →
    (temp < 105 ∨ s.pfld .PD_SPRINT_STAT_ACTIVE = 0) → margin < 1000 → exec (.junctionSense d temp margin) s =
      .next ((s.setPfld .PD_TEMPOn_TJ d.val temp).setPfld .PD_TEMPOn_MARGIN d.val margin)) ∧
  (∀ (s : State) (d : Fin 20) (temp margin : Nat), d.val < 18 → s.pins.pwrGood = true → 115 ≤ temp → margin < 1000 → vset s d.val ≠ 0 →
    exec (.junctionSense d temp margin) s =
      .next (removeRail { sprintEnd ((s.setPfld .PD_TEMPOn_TJ d.val temp).setPfld .PD_TEMPOn_MARGIN d.val margin) 2 with
        pins := { s.pins with thermTrip := true } } d.val .thermTrip)) ∧
  (∀ (s : State) (d : Fin 20), exec (.railFault d) s = .next (if d.val < 18 then
      sprintEnd (loseSet ((reportPkg s { FC.rail.fr with sev := 3, action := 8, die := d.val }).setPfld .PD_TEMPOn_VSET d.val 0)
        (dieSet d.val)) 4
    else losePackage (reportPkg s { FC.rail.fr with sev := 4, action := 9, die := d.val }))) ∧
  (∀ (s : State) (d : Fin 18) (margin : Nat), margin < 1000 → s.pm.envLow.contains d.val = true →
    ∃ t, exec (.floorBreach d margin) s = .next t ∧ t.pfld .PD_FLOOR_EVT_ENVELOPE = 1 ∧ t.pfld .PD_FLOOR_EVT_DIE = d.val ∧
      t.pfld .PD_FLOOR_EVT_ACTIVE = 1 ∧ (∀ n, vset t n = vset s n) ∧ t.set0 = s.set0 ∧ t.set1 = s.set1) ∧
  ∀ (s : State) (d : Fin 16), ∃ t, exec (.ageingStep d) s = .next t ∧
    t.pfld .PD_TEMPOn_AGE d.val = min 255 (s.pfld .PD_TEMPOn_AGE d.val + 1) ∧ t.set0 = s.set0 ∧ t.set1 = s.set1

/-- R48: the limiter admits the first four arrays of the leaving-idle queue, and releases the first four of the entering-idle queue to
idle; each queue keeps the rest in order. R87: arrays that have marked an empty queue for T_MARK are due to enter idle. -/
def Obligations.RampLimiter : Prop :=
  (∀ (s : State) (i : SetId) (d : CDie), ∃ t, exec (.rampAdmit i d) s = .next t ∧ leaveQueue t i d.val = (leaveQueue s i d.val).drop 4 ∧
    (∀ x, t.fld i .ARR_STATp_IDLE x = if x ∈ (leaveQueue s i d.val).take 4 then 0 else s.fld i .ARR_STATp_IDLE x) ∧
    enterQueue t i d.val = enterQueue s i d.val ∧ (t.st i).mem = (s.st i).mem ∧ t.out = s.out ∧ t.regs = s.regs) ∧
  (∀ (s : State) (i : SetId) (d : CDie), ∃ t, exec (.rampRelease i d) s = .next t ∧
    enterQueue t i d.val = (enterQueue s i d.val).drop 4 ∧
    (∀ x, t.fld i .ARR_STATp_IDLE x = if x ∈ (enterQueue s i d.val).take 4 then 1 else s.fld i .ARR_STATp_IDLE x) ∧
    leaveQueue t i d.val = leaveQueue s i d.val ∧ (t.st i).mem = (s.st i).mem ∧ t.out = s.out ∧ t.regs = s.regs) ∧
  ∀ (s : State) (i : SetId) (k : CoreId), (s.core i k.val).arrayQ = [] → ∃ t, exec (.markTimeout i k) s = .next t ∧
    (∀ p, p ∈ coreArrays s i k.val → s.fld i .ARR_STATp_IDLE (2 * k.val + p) = 0 → 2 * k.val + p ∈ enterQueue t i (dieOf k.val) ∧
      t.fld i .ARR_STATp_IDLE (2 * k.val + p) = 0) ∧ (t.st i).mem = (s.st i).mem ∧ t.out = s.out ∧ t.regs = s.regs

/-! ## Cores, callers and partner arrays (chapter 3) -/

/-- R65, R68, R130: a descriptor for a unit that passes the checks of issue enters its unit's queue behind the others, its written
operands enter the scoreboard, and its slot goes on to the next 64 bytes and takes its TAG. -/
def Obligations.IssueEntersQueue : Prop :=
  ∀ (s : State) (ev : Issue) (t : DType) (u n pc : Nat) (d : List Byte) (x : Issued), t.unit = some u → IssuesAt s ev t n pc d x →
    let e := queueEntry s ev t n pc x
    let r := issuedState s ev t n pc d x
    issueEvent t ev s = (r, some e) ∧
      (r.core ev.set ev.core.val).queue u = (s.core ev.set ev.core.val).queue u ++ [e] ∧
      (∀ v < 5, v ≠ u → (r.core ev.set ev.core.val).queue v = (s.core ev.set ev.core.val).queue v) ∧
      e.phase = .queued ∧ e.slot = n ∧ e.pc = pc ∧ e.job = jobOf s ev.set ev.core.val n ∧ e.id = (s.core ev.set ev.core.val).nextId ∧
      (r.core ev.set ev.core.val).sb = (s.core ev.set ev.core.val).sb ++
        (sbEntries t x).map (fun q => { lo := q.1, hi := q.2, owner := some e.id }) ∧
      (r.core ev.set ev.core.val).rr = n ∧
      r.fld ev.set .CORE_SLOTn_PC_PC (slotIx ev.core.val n) = (pc + 64) % 2 ^ Field.CORE_SLOTn_PC_PC.info.len ∧
      r.fld ev.set .CORE_SLOTn_STAT_TAG (slotIx ev.core.val n) = leAt d 6 2 % 2 ^ 16 ∧
      (r.st ev.set).mem = (s.st ev.set).mem ∧ r.out = s.out ∧ r.regs = s.regs

/-- R76 to R79, R90, R181, R196, R198, R234, R284, R314: what each type of queued descriptor does when it is issued. MOVE, COPY and FILL
start in order in the memory queue; array work wakes its arrays; VEC computes; ATTN, SEND and HARVEST start in order in the request queue,
and there, with nothing before it, an ATTN waits for the stacks it names and a HARVEST computes; INJECT and TAKE start in the circulation
queue, and one of length 0 has made its writes. The waiting slots are then looked at. -/
def Obligations.IssuedUnitsStart : Prop :=
  ∀ (s : State) (ev : Issue) (n pc : Nat) (d : List Byte) (x : Issued),
    let r := fun t => issuedState s ev t n pc d x
    let e := fun t => queueEntry s ev t n pc x
    let i := ev.set
    let k := ev.core.val
    (IssuesAt s ev .move n pc d x → exec (.move ev) s = .next (settle (memGo (r .move) i k) i)) ∧
    (IssuesAt s ev .copy n pc d x → exec (.copy ev) s = .next (settle (memGo (r .copy) i k) i)) ∧
    (IssuesAt s ev .fill n pc d x → exec (.fill ev) s = .next (settle (memGo (r .fill) i k) i)) ∧
    (IssuesAt s ev .gemm n pc d x → exec (.gemm ev) s = .next (settle (arrayIssued (r .gemm) i k (e .gemm)) i)) ∧
    (IssuesAt s ev .conv n pc d x → exec (.conv ev) s = .next (settle (arrayIssued (r .conv) i k (e .conv)) i)) ∧
    (IssuesAt s ev .graft n pc d x → exec (.graft ev) s = .next (settle (arrayIssued (r .graft) i k (e .graft)) i)) ∧
    (IssuesAt s ev .vec n pc d x →
      exec (.vec ev false) s = .next (settle (markDone (doVec (r .vec) i k (e .vec)) i k 1 (e .vec).id) i)) ∧
    (IssuesAt s ev .harvest n pc d x →
      let u := onEnt (r .harvest) i k 4 (e .harvest).id fun q => { q with waits := 0 }
      exec (.harvest ev none) s = .next (settle (requestGo u i k) i) ∧
      ((s.core i k).requestQ = [] →
        exec (.harvest ev none) s = .next (settle (doHarvest u i k { e .harvest with waits := 0 }) i))) ∧
    (IssuesAt s ev .attn n pc d x → exec (.attn ev) s = .next (settle (requestGo (r .attn) i k) i) ∧
      ((s.core i k).requestQ = [] → leAt d 42 2 ≠ 0 → (kvGeo (r .attn) i).layers ≠ 0 → askedStacks (r .attn) i d ≠ 0 →
        exec (.attn ev) s = .next (settle (onEnt (r .attn) i k 4 (e .attn).id fun q =>
          { q with phase := .running, waits := askedStacks (r .attn) i d }) i))) ∧
    (IssuesAt s ev .send n pc d x → exec (.send ev) s = .next (settle (requestGo (r .send) i k) i)) ∧
    (IssuesAt s ev .inject n pc d x → exec (.inject ev) s =
      .next (settle (circPump (if leAt d 16 3 = 0 then markDone (r .inject) i k 3 (e .inject).id else r .inject) i) i)) ∧
    (IssuesAt s ev .take n pc d x → exec (.take ev) s =
      .next (settle (circPump (if leAt d 24 3 = 0 then markDone (r .take) i k 3 (e .take).id else r .take) i) i))

/-- R69, R71, R82, R297, R300: the types that the caller carries out itself. LOOP pushes a frame with the offsets in force; ENDLOOP of the
last run pops it and brings them back; FENCE of a slot with nothing in flight goes on; WAIT joins a counter's queue, or goes on when the
value covers it; CONSUME subtracts; SIGNAL adds. -/
def Obligations.CallerTypes : Prop :=
  ∀ (s : State) (ev : Issue) (n pc p : Nat) (d : List Byte) (x : Issued),
    let i := ev.set
    let k := ev.core.val
    let j := jobOf s i k n
    let r := advance s i k n pc d
    let go := oweDone r i k n j pc d
    (IssuesAt s ev .loop n pc d x → leAt d 11 1 = 0 → leAt d 8 3 ≠ 0 → (s.slot i k n).loops.length < 4 →
      exec (.loop ev) s = .next (settle (showDepth (go.onSlot i k n fun t => { t with loops :=
        { body := pc + 64, left := leAt d 8 3 - 1, saved := (s.slot i k n).ofs, strides := [leAt d 12 4, leAt d 16 4, leAt d 20 4] } ::
          t.loops }) i k n) i)) ∧
    (∀ f rest, IssuesAt s ev .endloop n pc d x → (s.slot i k n).loops = f :: rest → f.left = 0 →
      exec (.endloop ev) s =
        .next (settle (showDepth (go.onSlot i k n fun t => { t with loops := rest, ofs := f.saved }) i k n) i)) ∧
    (IssuesAt s ev .fence n pc d x → fenceDone r i k n (leAt d 8 1) = true → exec (.fence ev) s = .next (settle go i)) ∧
    (IssuesAt s ev .wait n pc d x → ctrOf s i j (leAt d 8 2) = some p → s.fld i .SYNC_CTRp_0_RETURN p = 0 →
      s.fld i .SYNC_CTRp_0_KIND p = 0 →
      exec (.wait ev) s = .next (settle (sleepOn (r.onSlot i k n fun t => { t with cur := some (pc, d) }) i k n (leAt d 8 2) p (leAt d 12 4)) i)) ∧
    (IssuesAt s ev .consume n pc d x → ctrOf s i j (leAt d 8 2) = some p → s.fld i .SYNC_CTRp_0_RETURN p = 0 →
      s.fld i .SYNC_CTRp_0_KIND p = 0 → leAt d 12 4 ≤ s.fld i .SYNC_CTRp_1_VALUE p →
      exec (.consume ev) s =
        .next (settle (serve (go.setFld i .SYNC_CTRp_1_VALUE p (s.fld i .SYNC_CTRp_1_VALUE p - leAt d 12 4)) i p) i)) ∧
    (IssuesAt s ev .signal n pc d x → bit (leAt d 8 2) 15 = false → ctrOf s i j (leAt d 8 2 % 4096) = some p →
      s.fld i .SYNC_CTRp_0_KIND p = 0 → s.fld i .SYNC_CTRp_1_VALUE p + leAt d 12 4 < 2 ^ 31 →
      exec (.signal ev) s = .next (settle (addBase go i p (leAt d 12 4) (.slot k n)) i))

/-- R83, R84, R88, R103: a step of the arrays adds one exact step sum to every cell with one rounding; after the last step of a tile whose
rows match their check columns the tile is written to OUT and the descriptor has made its writes. R66: a descriptor that has made its
writes leaves its queue, its scoreboard entries go, and its DONE falls due. -/
def Obligations.ArraysAndCompletion : Prop :=
  (∀ (s : State) (i : SetId) (k : CoreId) (e : QEnt) (r : TileRun) (t : Tile), arrayHead s i k.val = some e → arraysRun s i k.val = true →
    (s.core i k.val).tile = some r → tileOf e r.stage = some t → r.steps < t.steps →
    exec (.arrayStep i k none) s =
      .next (s.onCore i k.val fun c => { c with tile := some (tileStep s i k.val e t r none) })) ∧
  (∀ (s : State) (i : SetId) (k : CoreId) (e : QEnt) (r : TileRun) (t : Tile), arrayHead s i k.val = some e → arraysRun s i k.val = true →
    (s.core i k.val).tile = some r → tileOf e r.stage = some t → t.steps ≤ r.steps → r.stage ≠ 1 → badRows s i k.val t r = [] →
    (s.core i k.val).failed = false →
    exec (.tileDrain i k) s = .next (settle (markDone (drainTile (s.onCore i k.val fun c => { c with tile := none }) i k.val e t r)
      i k.val 0 e.id) i)) ∧
  ∀ (s : State) (i : SetId) (k : CoreId) (u : Fin 5) (pos : Nat) (e : QEnt), ((s.core i k.val).queue u.val)[pos]? = some e →
    e.phase = .done → (u.val ≠ 0 ∨ pos = 0) →
    exec (.descriptorComplete i k u pos) s = .next (settle (afterComplete (complete s i k.val u.val e) i k.val) i) ∧
    ∀ f ∈ ((complete s i k.val u.val e).core i k.val).queue u.val, f.id ≠ e.id

/-- R68: a slot that runs, with room in its prefetch buffer, fetches the 64 bytes at its next address from its core's own memory. R179: a
write of CORE_SLOT_MAP keeps its 16 bits and leaves the mapping in force standing, and with no operand-port GEMM queued the written
mapping comes into force. -/
def Obligations.FetchAndSlotMap : Prop :=
  (∀ (s : State) (i : SetId) (k : CoreId) (n : SlotId), slotState s i k.val n.val ≠ 0 → slotState s i k.val n.val ≠ 6 →
     (s.core i k.val).stopped = false → (s.slot i k.val n.val).prefetch.length < 8 →
     fetchOk s i k.val n.val (fetchAddr s i k.val n.val) = true → cleanRange s i (fetchAddr s i k.val n.val) 1 = true →
     exec (.descriptorFetch i k n) s = .next (s.onSlot i k.val n.val fun t => { t with
       prefetch := t.prefetch ++ [(fetchAddr s i k.val n.val, readMem (s.st i).mem (fetchAddr s i k.val n.val) 64)] })) ∧
  ((∀ (s : State) (i : SetId) (k : CoreId) (v : Nat), v < 2 ^ 16 → ∃ t, exec (.slotMapWrite i k v) s = .next t ∧
     slotMapWritten t i k.val = v ∧ t.fld i .CORE_SLOT_MAP_SLOT_MAP_PENDING k.val = 1 ∧
     t.fld i .CORE_SLOT_MAP_INFORCE k.val = s.fld i .CORE_SLOT_MAP_INFORCE k.val ∧ (t.st i).mem = (s.st i).mem ∧ t.out = s.out) ∧
   ∀ (s : State) (i : SetId) (k : CoreId), s.fld i .CORE_SLOT_MAP_SLOT_MAP_PENDING k.val = 1 →
     (∀ e ∈ (s.core i k.val).arrayQ, opxEndOf s i k.val e = 0) →
     exec (.slotMapApply i k) s = .next (settle ((s.setFld i .CORE_SLOT_MAP_INFORCE k.val (slotMapWritten s i k.val)).setFld i
       .CORE_SLOT_MAP_SLOT_MAP_PENDING k.val 0) i))

/-! ## On-chip memories, windows and jobs (chapter 5) -/

/-- R77: FILL writes its 32-bit pattern through every byte of its rows and leaves every other byte of the package's memories. Stated with
no stack fenced, for rows that begin at a word, as the checks of issue have them (R121). -/
def Obligations.FillStoresPattern : Prop :=
  ∀ (s : State) (i : SetId) (k a1 : Nat) (d : List Byte), (∀ n, fenced s i n = false) → a1 % 32 = 0 →
    let rows := rowsAt a1 (leAt d 28 3 * 32) (leAt d 16 3 * 32) (max 1 (leAt d 24 3))
    let t := doFill s i k d a1
    (∀ a, (∃ r ∈ rows, r.1 ≤ a ∧ a < r.1 + r.2) → SMap.get 0 (t.st i).mem a = (slice d 20 4).getD ((a - a1) % 4) 0) ∧
    (∀ a, (¬∃ r ∈ rows, r.1 ≤ a ∧ a < r.1 + r.2) → SMap.get 0 (t.st i).mem a = SMap.get 0 (s.st i).mem a) ∧
    (∀ j, j ≠ i → t.st j = s.st j) ∧ t.hostMem = s.hostMem ∧ t.out = s.out ∧ t.regs = s.regs ∧ (t.st i).regs = (s.st i).regs

/-- R76: a MOVE or COPY of one row that does not transpose copies its bytes to the destination and leaves every other byte. Stated where
every stored word is valid and no stack is fenced, for a source and a destination that share no byte. -/
def Obligations.MoveCopiesRow : Prop :=
  ∀ (s : State) (i : SetId) (k a1 a2 : Nat) (d : List Byte), (s.st i).chk = [] → (∀ n, fenced s i n = false) →
    bit (leAt d 27 1) 1 = false → leAt d 28 3 ≤ 1 → (a1 + leAt d 24 3 * 32 ≤ a2 ∨ a2 + leAt d 24 3 * 32 ≤ a1) →
    let t := doMove s i k d a1 a2
    (∀ n < leAt d 24 3 * 32, SMap.get 0 (t.st i).mem (a2 + n) = SMap.get 0 (s.st i).mem (a1 + n)) ∧
    (∀ a, (a < a2 ∨ a2 + leAt d 24 3 * 32 ≤ a) → SMap.get 0 (t.st i).mem a = SMap.get 0 (s.st i).mem a) ∧
    (∀ j, j ≠ i → t.st j = s.st j) ∧ t.hostMem = s.hostMem ∧ t.out = s.out ∧ t.regs = s.regs ∧ (t.st i).regs = (s.st i).regs

/-- R138 to R140: clearing ON of a ready segment makes it drain and shows PENDING; setting ON of a segment that is off makes it power up;
a draining segment that nothing touches goes off with its contents lost; a powering one becomes ready and reads zero. Bytes outside the
segment stand. R132, R144, R146 and R148: a write of whole words into an open window of its sender is stored and acknowledged, every other
byte stands, and the home core's PEAK counts the entry that it held; a write that no open window takes changes no byte and is rejected; the
last acknowledgement makes the sending MOVE done; a grant raises the credit, cut at the window's size, and MOVEs that wait for credit are
looked at. -/
def Obligations.SegmentsAndWindows : Prop :=
  (∀ (s : State) (i : SetId) (d : CDie) (g : Fin 9),
     let inSeg := fun a => segBase d.val g.val ≤ a ∧ a < segBase d.val g.val + 0x400_0000
     (segState s i d.val g.val = .ready → ∃ t, exec (.segmentPowerOff i d g) s = .next t ∧ segState t i d.val g.val = .draining ∧
       segOn t i d.val g.val = false ∧ bit (t.fld i .MEM_SEGPWRd_PENDING d.val) g.val = true ∧
       bit (t.fld i .MEM_SEGPWRd_READY d.val) g.val = false ∧ (t.st i).mem = (s.st i).mem ∧ t.out = s.out) ∧
     (segState s i d.val g.val = .off → ∃ t, exec (.segmentPowerOn i d g) s = .next t ∧ segState t i d.val g.val = .powering ∧
       segOn t i d.val g.val = true ∧ bit (t.fld i .MEM_SEGPWRd_READY d.val) g.val = false ∧ (t.st i).mem = (s.st i).mem ∧ t.out = s.out) ∧
     (segState s i d.val g.val = .draining → segInUse s i d.val g.val = false → segOn s i d.val g.val = false →
       ∃ t, exec (.segmentDrainEnd i d g) s = .next t ∧ segState t i d.val g.val = .off ∧
         (∀ a, inSeg a → SMap.get 0 (t.st i).mem a = 0) ∧ (∀ a, ¬inSeg a → SMap.get 0 (t.st i).mem a = SMap.get 0 (s.st i).mem a) ∧
         t.out = s.out) ∧
     (segState s i d.val g.val = .powering → segOn s i d.val g.val = true →
       ∃ t, exec (.segmentReady i d g) s = .next t ∧ segState t i d.val g.val = .ready ∧
         bit (t.fld i .MEM_SEGPWRd_READY d.val) g.val = true ∧
         (∀ a, inSeg a → SMap.get 0 (t.st i).mem a = 0) ∧ (∀ a, ¬inSeg a → SMap.get 0 (t.st i).mem a = SMap.get 0 (s.st i).mem a) ∧
         t.out = s.out)) ∧
  ((∀ (s : State) (i : SetId) (from_ a w : Nat) (data : List Byte), inWindow s i from_ a data.length = some w →
     powered s i a data.length = true → (s.core i (s.fld i .MEM_WINw_0_HOME w)).sb.length < sbDepth → (∀ n, fenced s i n = false) →
     a % 32 = 0 → data.length % 32 = 0 →
     let k := s.fld i .MEM_WINw_0_HOME w
     ∃ t, exec (.windowWrite i from_ a data []) s = .next t ∧
       (∀ x, SMap.get 0 (t.st i).mem x = if a ≤ x ∧ x < a + data.length then data.getD (x - a) 0 else SMap.get 0 (s.st i).mem x) ∧
       t.out = (s.emit .windowReply i.val [from_, 0]).out ∧ t.regs = s.regs ∧
       (∀ f x, ¬(f = .CORE_SB_STAT_INUSE ∨ f = .CORE_SB_STAT_PEAK) → t.fld i f x = s.fld i f x) ∧
       (s.Inv → t.fld i .CORE_SB_STAT_PEAK k = max ((s.core i k).sb.length + 1) (s.fld i .CORE_SB_STAT_PEAK k))) ∧
   (∀ (s : State) (i : SetId) (from_ a : Nat) (data : List Byte) (bad : List Nat), inWindow s i from_ a data.length = none →
     exec (.windowWrite i from_ a data bad) s =
       .next ((report s i { FC.winReject.fr with die := linkDie i, detail := a }).emit .windowReply i.val [from_, 1])) ∧
   (∀ (s : State) (i : SetId) (k : CoreId) (pos : Nat) (e : QEnt), (s.core i k.val).memoryQ[pos]? = some e → e.phase = .running →
     exec (.windowWriteAck i k pos .accepted) s = .next (onEnt s i k.val 2 e.id fun e =>
       { e with waits := e.waits - 1, phase := if e.waits ≤ 1 then .done else .running })) ∧
   ∀ (s : State) (i : SetId) (w : Fin 64) (n : Nat), s.fld i .MEM_OWINw_1_CREDIT w.val + n ≤ s.fld i .MEM_OWINw_1_SIZE w.val →
     let u := s.setFld i .MEM_OWINw_1_CREDIT w.val (s.fld i .MEM_OWINw_1_CREDIT w.val + n)
     exec (.creditGrant i w n) s = .next (settle ((u.st i).cores.foldl (fun s e => memGo s i e.1) u) i))

/-- R149, R152, R153 and Table 5-6: END and KILL take an ACTIVE job out of ACTIVE; when its writes have settled its windows are closed, its
counters cleared and its on-chip regions filled, or it is HELD under post-mortem hold; RELEASE takes a HELD job to the fill; when the fill is done the job
is FREE, and START makes a FREE job ACTIVE. -/
def Obligations.JobStates : Prop :=
  (∀ (s : State) (i : SetId) (j : JobId), s.fld i .MEM_JOBj_STATE j.val = 1 →
    exec (.jobEnd i j) s = .next (settle (leaveJob s i j.val .byEnd) i) ∧
    exec (.jobKill i j) s = .next (settle (leaveJob s i j.val .byKill) i)) ∧
  (∀ (s : State) (i : SetId) (j : JobId) (x : Teardown), teardownOf s i j.val = some x → s.fld i .MEM_JOBj_STATE j.val = 2 →
    x.filling = false → jobBusy s i j.val = false →
    let u := clearCtrs (clearLatches (closeWindows s i j.val) i j.val) i j.val
    u.fld i .MEM_JOBj_PM_HOLD j.val = 0 → exec (.teardownSettled i j) s = .next (settle (fillOnChip u i j.val) i)) ∧
  (∀ (s : State) (i : SetId) (j : JobId) (x : Teardown), teardownOf s i j.val = some x → s.fld i .MEM_JOBj_STATE j.val = 2 →
    x.filling = false → jobBusy s i j.val = false →
    let u := clearCtrs (clearLatches (closeWindows s i j.val) i j.val) i j.val
    u.fld i .MEM_JOBj_PM_HOLD j.val = 1 →
    exec (.teardownSettled i j) s = .next (settle (setTeardown (u.setFld i .MEM_JOBj_STATE j.val 3) i j.val none) i)) ∧
  (∀ (s : State) (i : SetId) (j : JobId) (x : Teardown), teardownOf s i j.val = some x → s.fld i .MEM_JOBj_STATE j.val = 2 →
    x.filling = true → ∃ t, exec (.teardownFillDone i j) s = .next t ∧ t.fld i .MEM_JOBj_STATE j.val = 0 ∧
      t.fld i .MEM_JOBj_FILL_LEFT j.val = 0 ∧ teardownOf t i j.val = none ∧
      ∀ f x, ¬(f = .MEM_JOBj_STATE ∨ f = .MEM_JOBj_FILL_LEFT) → t.fld i f x = s.fld i f x) ∧
  (∀ (s : State) (i : SetId) (j : JobId), s.fld i .MEM_JOBj_STATE j.val = 3 →
    exec (.jobRelease i j) s = .next (fillOnChip (s.setFld i .MEM_JOBj_STATE j.val 2) i j.val)) ∧
  ∀ (s : State) (i : SetId) (j : JobId), s.fld i .MEM_JOBj_STATE j.val = 0 → (s.st i).lost = false →
    exec (.jobStart i j) s = .next (settle (startJob s i j.val) i)

/-- R150: a teardown whose fill is done leaves no byte of the job's HBM regions, but those that another job shares, and touches no byte
outside them. Stated with no stack fenced. -/
def Obligations.TeardownErasesHbm : Prop :=
  ∀ (s : State) (i : SetId) (j : JobId) (x : Teardown), teardownOf s i j.val = some x → s.fld i .MEM_JOBj_STATE j.val = 2 →
    x.filling = true → (∀ n, fenced s i n = false) → ∃ t, exec (.teardownFillDone i j) s = .next t ∧
      (∀ a < 0x90_0000_0000, (∃ r ∈ fillRegions s i j.val, r.hbm = true ∧ r.holds a = true) → SMap.get 0 (t.st i).mem a = 0) ∧
      (∀ a, (¬∃ r ∈ fillRegions s i j.val, r.hbm = true ∧ r.holds a = true) → SMap.get 0 (t.st i).mem a = SMap.get 0 (s.st i).mem a) ∧
      (∀ y, y ≠ i → t.st y = s.st y) ∧ t.out = s.out

/-! ## Circulation (chapter 7) -/

/-- R192, R193, R195, R199 to R201, R214, R217: in service, a TILE frame of the revolution in force enters the receive buffer, to leave by
the other port while HOPS lasts (in line mode one that is not next is written to the fold reserve besides); a TURN of the epoch in force and the next revolution is kept for its port; a port sends turn(n + 1) once
nothing due on it is unsent; a place handles the next turn when both have come; a stop notice goes on and stops the place. -/
def Obligations.CirculationFrames : Prop :=
  (∀ (s : State) (i : SetId) (p : Fin 2) (raw : List Byte) (bad : List Nat) (t : Turn), circulates s i = true → hdrOk raw = true →
    leAt raw 0 1 = 1 → (cport s i p.val).last = some t → (fhdr raw).epoch = t.epoch → (fhdr raw).rev = t.rev → (fhdr raw).version = t.ver →
    let f : Frame := { h := fhdr raw, data := slice raw 32 (32 * (fhdr raw).len), bad := bad
                       fwd := if (fhdr raw).hops = 0 then [] else [(1 - p.val, (fhdr raw).hops - 1)]
                       here := true, todo := none, inj := none }
    exec (.tileFrame i p raw bad) s = .next (settle (circPump (bufferFrame s i f) i) i) ∧
    (∃ a, (circ (bufferFrame s i f) i).buf = (circ s i).buf ++ [{ f with saved := a }]) ∧
    ((circ s i).line = [] → bufferFrame s i f = onCirc s i fun c => { c with buf := c.buf ++ [f] })) ∧
  (∀ (s : State) (i : SetId) (p : Fin 2) (raw : List Byte), circulates s i = true → hdrOk raw = true → leAt raw 0 1 = 2 →
    (fhdr raw).epoch = s.fld i .CIRC_STAT_EPOCH → (fhdr raw).rev = nextRev s i p.val → (fhdr raw).rev ≠ s.fld i .CIRC_REV_REV →
    exec (.turnFrame i p raw) s = .next (settle (circPump (onPort (s.setFld i .CIRC_STAT_EPOCH 0 (fhdr raw).epoch) i p.val fun c =>
      let t : Turn := { rev := (fhdr raw).rev, ver := (fhdr raw).version, epoch := (fhdr raw).epoch, switch := bit (fhdr raw).flags 1 }
      { c with last := some t, turns := c.turns ++ [t] }) i) i)) ∧
  (∀ (s : State) (i : SetId) (p : Fin 2) (n : Nat), circulates s i = true → (circ s i).first = none →
    s.fld i .CIRC_REV_REV + 1 = n → (cport s i p.val).tx + 1 = n → (livePorts s i n).contains p.val = true → turnHeld s i n = false →
    unsentKeys s i p.val = [] → exec (.turnSend i p) s = .next (settle (circPump (sendTurn s i p.val n) i) i)) ∧
  (∀ (s : State) (i : SetId), circulates s i = true → turnReady s i (turnDue s i) = true →
    (∀ p < 2, ∀ t ∈ (cport s i p).turns, t.rev = turnDue s i → t.ver = verAt s i (turnDue s i)) →
    exec (.turnHandle i) s = .next (settle (circPump (takeTurn s i (turnDue s i) (verAt s i (turnDue s i))) i) i)) ∧
  ∀ (s : State) (i : SetId) (p : Fin 2), s.fld i .CIRC_STAT_STATE ≠ 5 → (s.st i).lost = false →
    exec (.stopNotice i p) s = .next (settle (stopHere (if (livePorts s i (s.fld i .CIRC_REV_REV)).contains (1 - p.val) then
      s.emit .circCtl i.val [1, 1 - p.val] else s) i) i)

/-- R201: a TILE or TURN frame whose epoch, revolution or version is not the one due stops the circle with F_CIRC_SEQ, F_CIRC_REV or
F_CIRC_VERSION, in that order. -/
def Obligations.WrongFramesStopCircle : Prop :=
  ∀ (s : State) (i : SetId) (p : Fin 2) (raw : List Byte) (bad : List Nat) (t : Turn), circulates s i = true → hdrOk raw = true →
    leAt raw 0 1 = 1 → (cport s i p.val).last = some t →
    let stops := fun c => exec (.tileFrame i p raw bad) s = .next (settle (circPump (circFault s i c (fhdr raw)) i) i)
    ((fhdr raw).epoch ≠ t.epoch → stops .circSeq) ∧
    ((fhdr raw).epoch = t.epoch → (fhdr raw).rev ≠ t.rev → stops .circRev) ∧
    ((fhdr raw).epoch = t.epoch → (fhdr raw).rev = t.rev → (fhdr raw).version ≠ t.ver → stops .circVersion)

/-- R204: while a place holds an unconfirmed commit for S it sends and handles no turn from S on. -/
def Obligations.UnconfirmedCommitHoldsTurns : Prop :=
  ∀ (s : State) (i : SetId) (p : Fin 2) (c : Change), (circ s i).chg = some c → c.confirmed = false →
    (c.s ≤ (cport s i p.val).tx + 1 → exec (.turnSend i p) s = .next s) ∧ (c.s ≤ turnDue s i → exec (.turnHandle i) s = .next s)

/-- R203 to R206: a write at another place than the leader goes to the leader; the leader asks every place; a place answers; the leader
commits when all are ready, or ends the request with RESULT 3; a place holds the commit and acknowledges; the leader confirms when all
have acknowledged, or aborts with RESULT 2. R215: the first notice of a later epoch takes the place out of service and starts its fold;
the leader counts acknowledgements of the fold's epoch and sends REFOLD when all have come; REFOLD of the epoch puts the place into the
line. -/
def Obligations.ChangesAndFolding : Prop :=
  ((∀ (s : State) (i : SetId) (ver : Nat) (u : Bool), mayChange s i = true → isLeader s i = false →
     exec (.circSwitch i ver u true) s = .next (settle (s.emit .circCtl i.val [5, leaderOf s i, bitOf u, ver]) i)) ∧
   (∀ (s : State) (i : SetId) (ver : Nat), mayChange s i = true → isLeader s i = true → (circ s i).chg = none → (circ s i).req = none →
     exec (.changeRequest i false ver) s = .next (tryCommit (toOthers (onCirc (s.setFld i .CIRC_SWITCH_STAT_RESULT 0 0) i fun u =>
       { u with req := some { kind := 0, ver := ver, ready := [], acks := [] } }) i 6 [0, ver]) i)) ∧
   (∀ (s : State) (i : SetId) (ver : Nat) (u : Bool), mayChange s i = true → exec (.readinessQuery i u ver) s =
     .next (s.emit .circCtl i.val [7, leaderOf s i, myPlace s i, bitOf (readyFor s i (bitOf u) ver)])) ∧
   (∀ (s : State) (i : SetId) (q : Nat) (r : Request), (circ s i).req = some r → (circ s i).chg = none →
     exec (.readinessReply i q true) s = .next (tryCommit (onCirc s i fun u => { u with req := some { r with ready := q :: r.ready } }) i) ∧
     exec (.readinessTimeout i) s = .next ((onCirc s i fun u => { u with req := none }).setFld i .CIRC_SWITCH_STAT_RESULT 0 3)) ∧
   (∀ (s : State) (i : SetId) (k : Fin 3) (ver m e : Nat), ver < 65536 → e < 65536 → mayChange s i = true →
     ∃ t, exec (.commitNotice i k ver m e) s = .next t ∧
       (circ t i).chg = some { kind := k.val, ver := ver, s := m, ep := e, confirmed := false } ∧
       t.fld i .CIRC_SWITCH_STAT_STATE = 1 ∧ t.fld i .CIRC_SWITCH_STAT_RESULT = 0 ∧
       t.out = (s.emit .circCtl i.val [9, leaderOf t i, myPlace t i]).out ∧ (t.st i).mem = (s.st i).mem) ∧
   (∀ (s : State) (i : SetId) (q : Nat) (r : Request), (circ s i).req = some r → exec (.commitAck i q) s =
     .next (settle (circPump (tryConfirm (onCirc s i fun u => { u with req := some { r with acks := q :: r.acks } }) i) i) i)) ∧
   ∀ (s : State) (i : SetId) (c : Change), (circ s i).chg = some c → c.confirmed = false →
     (∀ r, (circ s i).req = some r → exec (.commitAckTimeout i) s =
       .next (settle (circPump (dropChange (onCirc (toOthers s i 11 []) i fun u => { u with req := none }) i) i) i)) ∧
     exec (.confirm i) s = .next (settle (circPump ((onCirc s i fun u => { u with chg := some { c with confirmed := true } }).setFld i
       .CIRC_SWITCH_STAT_STATE 0 2) i) i) ∧
     exec (.abort i) s = .next (settle (circPump (dropChange s i) i) i)) ∧
  ((∀ (s : State) (i : SetId) (p : Fin 2) (e : Nat) (l : FoldLoss), exec (.foldNotice i p e l) s =
     .next (settle (foldNotice s i (some p.val) (e % 65536) l) i)) ∧
   (∀ (s : State) (i : SetId) (p : Fin 2) (e : Nat) (l : FoldLoss), s.fld i .CIRC_STAT_STATE ≠ 5 → (s.st i).lost = false →
     (circ s i).fold = none → laterEpoch (s.fld i .CIRC_STAT_EPOCH) e = false → laterEpoch e (s.fld i .CIRC_STAT_EPOCH) = false →
     l.gone = [] → foldNotice s i (some p.val) e l = s) ∧
   (∀ (s : State) (i : SetId) (q r : Nat) (f : FoldSt), (circ s i).fold = some f → exec (.foldAck i q r f.epoch) s =
     .next (settle (tryRefold (onCirc s i fun u => { u with fold := some { f with acks := (q, r) :: f.acks } }) i) i)) ∧
   ∀ (s : State) (i : SetId) (m : Nat) (line : List Nat) (l : FoldLoss) (f : FoldSt), (circ s i).fold = some f →
     exec (.refold i f.epoch m line l) s = .next (settle (circPump (refold s i f.epoch m line l) i) i))

/-- R192: a frame header that is written out reads back as it was, field by field. -/
def Obligations.FrameHeaderRoundTrip : Prop :=
  ∀ (h : FHdr) (rest : List Byte), h.kind < 256 → h.flags < 256 → h.owner < 256 → h.hops < 256 → h.layer < 65536 → h.stage < 256 →
    h.tile < 65536 → h.version < 65536 → h.epoch < 65536 → h.rev < 2 ^ 48 → h.len < 2 ^ 32 → h.piece < 2 ^ 32 →
    fhdr (h.bytes ++ rest) = h ∧ h.bytes.length = 32

/-- R207 to R209, R211: a shard's announcement is entered once; the reader has a re-requested piece to fetch next, and one asked for as a
repair owed besides; a place that holds the other copy answers a repair request with it; a LOAD frame whose header is well formed goes the
load route of its reader; a fetched piece goes out as LOAD frames, or to the place that it is owed to, and the next is fetched; what a
shard of a version lacks when its timer ends is missing. -/
def Obligations.Loading : Prop :=
  (∀ (s : State) (i : SetId) (o v : Nat), (circ s i).announced.contains (o, v) = false → exec (.loadAnnounce i ⟨o, v⟩) s =
    .next (onCirc s i fun c => { c with announced := c.announced ++ [(o, v)] })) ∧
  (∀ (s : State) (i : SetId) (p v q : Nat), (s.st i).lost = false → isReader s i = true →
    let t := onCirc s i fun c => { c with fetch := c.fetch.take 1 ++ [(p, v)] ++ c.fetch.drop 1 }
    exec (.pieceRerequest i ⟨p, v⟩ none) s = .next t ∧
    exec (.pieceRerequest i ⟨p, v⟩ (some ⟨q, true⟩)) s = .next (onCirc t i fun c => { c with owed := c.owed ++ [(p, v, q)] })) ∧
  (∀ (s : State) (i : SetId) (p v q b : Nat) (e : CatEnt), (s.st i).lost = false → loadEntry s i p v = some (e, b) → loads s i e = true →
    exec (.pieceRerequest i ⟨p, v⟩ (some ⟨q, false⟩)) s = .next (sendRepair s i e b q)) ∧
  (∀ (s : State) (i : SetId) (c : Nat) (raw : List Byte) (bad : List Nat), (s.st i).lost = false → hdrOk raw = true → leAt raw 0 1 = 3 →
    exec (.loadFrame i c raw bad) s = .next (settle (loadFrame s i (c * 256 + (fhdr raw).owner) raw bad) i)) ∧
  (∀ (s : State) (i : SetId) (p v b : Nat) (q : List (Nat × Nat)) (e : CatEnt) (d : List Byte), (circ s i).fetch = (p, v) :: q →
    loadEntry s i p v = some (e, b) →
    (owedFor s i p v = none → exec (.pieceFetchDone i (some d)) s =
      .next (nextFetch ((loadFrames s i e d).foldl (fun u f => loadFrame u i (u.place i) f []) s) i q)) ∧
    ∀ o, owedFor s i p v = some o → exec (.pieceFetchDone i (some d)) s =
      .next (nextFetch (onCirc (s.emit .repairTransfer i.val [o.2.2, p, v] d) i fun c => { c with owed := c.owed.erase o }) i q)) ∧
  ∀ (s : State) (i : SetId) (o v : Nat), exec (.loadTimerExpire i ⟨o, v⟩) s = .next (((loadList s i).filter fun e =>
    e.owner = o && e.version = v && loads s i e && !(pieceSt s i e).clean && !(pieceSt s i e).missing).foldl
      (fun s e => pieceMissing s i e) s)

/-- R210, R211, R213, R220, R221: a weeding pass starts over the pieces whose load is complete; its next piece is checked; a repair that
digests clean is written in place; a staged TIER piece that digests clean is stored and signalled; a loaded resident piece settles; a
promenade circle without passes takes its confirmed switch. R211: a repair transfer that does not digest to its catalogue entry changes no byte of
memory. -/
def Obligations.WeedRepairSettle : Prop :=
  ((∀ (s : State) (i : SetId), (circ s i).weedOn = false → weedList s i ≠ [] → exec (.weedPassStart i) s =
     .next (onCirc s i fun c => { c with weed := weedList s i, weedOn := true, weedDue := false })) ∧
   (∀ (s : State) (i : SetId) (p q : Nat × Nat) (e : CatEnt) (l : List (Nat × Nat)), (circ s i).weed = p :: q :: l → weedable s i p = true →
     entryOf s i p.1 = some e → fenced s i (stackOf (pieceAddr s i e p.2)) = false → (circ (weedPiece s i p.1 p.2 e) i).weed = p :: q :: l →
     exec (.weedPieceDone i) s = .next (onCirc (weedPiece s i p.1 p.2 e) i fun c => { c with weed := q :: l })) ∧
   (∀ (s : State) (i : SetId) (p v b : Nat) (e : CatEnt) (d : List Byte),
     (circ s i).repair.find? (fun r => r.1 = p + 2 ^ 32 * v) = some (p + 2 ^ 32 * v, b) → entryOf s i (p + 2 ^ 32 * v) = some e →
     sha256 (slice d 0 (32 * e.len)) = e.digest → exec (.repairTransfer i p v d) s =
     .next (onCirc (store s i (pieceAddr s i e b) (slice d 0 (32 * e.len))) i fun c => { c with
       repair := c.repair.erase (p + 2 ^ 32 * v, b)
       lastClean := SMap.put 0 c.lastClean (p + 2 ^ 32 * v) ((store s i (pieceAddr s i e b) (slice d 0 (32 * e.len))).fld i .CIRC_REV_REV) })) ∧
   (∀ (s : State) (i : SetId) (p v b m : Nat) (e : CatEnt) (half : Bool) (d : List Byte), loadEntry s i p v = some (e, b) →
     bit e.flags 1 = true → s.fld i .CIRC_AUX_TIER_EN = 1 → (s.st i).lost = false → hostShare s i ≠ 0 → b = s.fld i .CIRC_STAT_BANK →
     ((circ s i).tierSeen.contains (e.piece, e.version) = true ∨ sha256 (slice d 0 (32 * e.len)) = e.digest) →
     let a := tierAddr s i e + b * (s.fld i .CIRC_BANKOFS_OFS * 4096) + if half then Config.tierHalf else 0
     a % 32 = 0 → ∃ u, exec (.tierPieceStaged i ⟨p, v, half⟩ d [] m) s =
         .next (settle (unitSignal u i (linkDie i) 0 (u.fld i .CIRC_CFG_JOB) (u.fld i .CIRC_AUX_TIER_CTR) 1) i) ∧
       (u.st i).mem = ((store (onCirc (s.satFld i .CIRC_ERR_LATE_MS 0 m) i fun c => { c with tierFail := none }) i a
         (slice d 0 (32 * e.len))).st i).mem ∧ u.out = s.out ∧
       (circ u i).tierFail = none ∧ (circ u i).tierSeen.contains (e.piece, e.version) = true) ∧
   (∀ (s : State) (i : SetId) (p : Nat) (e : CatEnt), (residents s i).find? (fun e => e.piece = p) = some e →
     (circ s i).settled.contains p = false → (pieceSt s i e).clean = true → allSettled (settlePiece s i e) i = false →
     exec (.residentSettle i p) s = .next (settlePiece s i e)) ∧
   ∀ (s : State) (i : SetId) (c : Change), (circ s i).chg = some c → promenade s i = true → c.confirmed = true → c.kind = 0 →
     (s.st i).su.passes = [] → mayChange s i = true →
     let u := onCirc ((applyChange s i c).setFld i .CIRC_REV_VERSION 0 c.ver) i fun x => { x with settled := [] }
     let v := (residents u i).foldl (fun s e => settlePiece s i e) u
     exec (.promenadeSwitch i) s = .next (v.addFld i .CIRC_REV_REV 0 1)) ∧
  (∀ (s t : State) (i : SetId) (p v : Nat) (d : List Byte),
     (∀ r e, (circ s i).repair.find? (fun r => r.1 = p + 2 ^ 32 * v) = some r → entryOf s i r.1 = some e →
       sha256 (slice d 0 (32 * e.len)) ≠ e.digest) →
     exec (.repairTransfer i p v d) s = .next t → t.set0 = s.set0 ∧ t.set1 = s.set1 ∧ t.regs = s.regs ∧ t.hostMem = s.hostMem)

/-! ## The memory side (chapter 8) and promenade passes (10.7) -/

/-- R234 to R243: a request whose parameters are valid and read without an end of its job is served at its stack, after the directories it
needs have been read; with every stored word valid and no stack fenced, an engine's unit is computed and its partial results are kept; a share with no unit left is combined, written
and ends. -/
def Obligations.AttentionCommands : Prop :=
  ∀ (s : State) (i : SetId) (st : StackId),
    let p := purge s i
    let g := kvGeo p i
    (∀ (k : CoreId) (e : QEnt) (p0 p1 sc : List Byte) (b0 b1 b2 : Bool) (s0 s1 s2 : State), requestFor p i st.val k.val = some e →
      readOperandBytes p i e.job e.tag (leAt e.raw 32 8) 64 = (p0, b0, false, s0) →
      readOperandBytes s0 i e.job e.tag (leAt e.raw 32 8 + 64) (2 * (aparam p0).drot) = (p1, b1, false, s1) →
      (if (aparam p0).scales = 0 then ([], false, false, s1)
        else readOperandBytes s1 i e.job e.tag (aparam p0).scales (4 * g.hkv * g.ng)) = (sc, b2, false, s2) →
      paramOk g (leAt e.raw 44 1) (leAt e.raw 45 1) p0 sc = true →
      let sh : Share := {
        stack := st.val, core := k.val, id := e.id, slot := e.slot, job := e.job, tag := e.tag, raw := e.raw, a1 := e.a1, a2 := e.a2
        a3 := e.a3, param := p0 ++ p1, scales := sc, rows := servedRows s2 i g st.val e.raw, left := [], parts := [] }
      exec (.attnRequest i st k) s = .next (settle (serveRequest (readDirs s2 i g sh) i g sh e) i)) ∧
    (∀ (e : Fin 16) (key : Nat × Nat) (u : AUnit) (sh : Share) (f : Nat), (p.st i).chk = [] → (∀ n, fenced p i n = false) →
      (engOf p i st.val e.val).cur = some (key, u) → shareOf p i st.val key = some sh →
      dirFrame p i g st.val u.slot u.block = some f → (blockView p i g st.val f sh.layer).cause = 0 →
      exec (.attnUnitDone i st e false) s = .next (settle (takeAll (purge (unitFinish p i st.val e.val key u
        (unitParts p i g sh u (blockView p i g st.val f sh.layer))) i) i st.val) i)) ∧
    ∀ (k : CoreId) (sh : Share), (p.st i).su.shares.find? (fun x => x.stack = st.val ∧ x.core = k.val) = some sh →
      sh.left = [] → exec (.attnShareDone i st k) s = .next (settle (shareEnd
        (if bit sh.op 1 then shareOut p i g sh else p) i st.val k.val sh.id) i)

/-- R240: the partial results of a row and query head combine in ascending block order, in whatever order the units finished: two shares
that hold the same results, one per block, have the same output. -/
def Obligations.PartsCombineInBlockOrder : Prop :=
  ∀ (a b : Share) (row head ofmt : Nat), a.parts.Perm b.parts →
    (a.parts.map fun p => (p.row, p.qhead, p.block)).Nodup →
    headOut ofmt (partsOf a row head) = headOut ofmt (partsOf b row head)

/-- R247: a layer block of a committed frame is replaced by the stream the stack has encoded, which decodes to the block's bytes and is no
longer than it; the frame's seal bit is set and SEALED counts it. R246: when the gathers are complete the rows stand at their destinations
and TURN_CTR is signalled by 1. Table 10-7: at an open boundary of a circle in circulation the commands are applied, pages that were
disabled close, PENDING sessions are admitted, waiting commands applied, repairs made and rows bound; records leave. R31, R291 and R293:
place 0 starts a pass of the first sessions ready, as many as the plan puts into it, once every slot has waited for the pass before. R292:
a returned pass leaves the passes in flight and writes the records of its sessions; the other places take the oldest header, apply what
goes with the pass for its sessions and signal TURN_CTR. -/
def Obligations.BoundarySealPasses : Prop :=
  ((∀ (s : State) (i : SetId) (st : StackId) (slot frame layer f : Nat) (str : List Byte),
     let g := kvGeo s i
     dirFrame s i g st.val slot frame = some f → g.sealOn = true → layer < g.layers → bit (dirFlags s i g st.val slot) 0 = true →
     256 * (frame + 1) ≤ dirLen s i g st.val slot → sealed s i g st.val f layer = false →
     blockInFlight s i g st.val f layer = false → fenced s i st.val = false → s.fld i .MEM_HBM_TEMPs_LEVEL st.val = 0 →
     sealStream g (peek s i (blockAddr s i g st.val f layer) g.layerBlk) str = true →
       (streamDecode 2 0 str).bytes = peek s i (blockAddr s i g st.val f layer) g.layerBlk ∧
       ∃ t, exec (.frameSeal i st slot frame layer str) s = .next t ∧
         let u := store s i (blockAddr s i g st.val f layer) (padWord str)
         t = (store u i (frameAddr s i g st.val f) (leBytes 32 (putBits (leNat (peek u i (frameAddr s i g st.val f) 32)) layer 1 1))).satFld i
           .MSE_STATs_SEALED st.val 1) ∧
   ∀ (s : State) (i : SetId), (s.st i).su.gather = true → (s.st i).lost = false → exec (.embeddingGatherDone i) s =
     .next (settle (turnSignal (onSu (gatherRows s i) i fun u => { u with gather := false }) i) i)) ∧
  (∀ (s : State) (i : SetId),
     ((s.st i).lost = false → boundaryOpen s i = true → promenade s i = false →
       let a := applyCmds (toFive (if (s.st i).su.five then endKilled s i else s) i) i
       let b := applyInputs (admitAll (closePages a i) i) i
       let c := takeShare (boundaryRepairs (onSu b i fun u => { u with
         five := false, cmds := u.cmds.map fun x => { x with late := false } }) i) i
       promenade c i = false → exec (.stepBoundary i) s = .next (settle (boundaryEnd (showPages (bindStep c i) i) i) i)) ∧
     (∀ n rows u, mayStartPass s i = true → pickPass i (max 1 n) 32 (readyList s i) (clearHeld s i) = (u, rows) → rows ≠ [] →
       exec (.passStart ⟨i, n⟩) s = .next (settle (boundaryEnd (showPages (startPass u i rows) i) i) i)) ∧
     (∀ (r : PassRet) (p : Pass) (part : Nat → PassPart), (s.st i).su.passes.find? (fun p => p.num = r.num) = some p →
       (∀ n ∈ p.slots, r.parts.find? (fun x => x.slot = n) = some (part n)) →
       exec (.passReturn i r) s = .next (settle (boundaryEnd (showOpens
         (p.slots.foldl (fun s n => returnPass s i p.rows r.discard (part n))
           (onSu s i fun u => { u with passes := u.passes.filter fun x => x.num ≠ r.num })) i) i) i)) ∧
     ∀ (h : List Byte) (q : List (List Byte)) (bound : List PassSess) (discard : Bool), (s.st i).su.headers = h :: q →
       promenade s i = true → mayChange s i = true → passGate s i = true → allSettled s i = true →
       let rows := (List.range 32).map fun r => rowEnt (slice h (64 + 16 * r) 16)
       let o := openPass (onSu s i fun u => { u with headers := q }) i (passSlots rows) discard
       let b := (bound.filter fun b => (passSlots rows).contains b.slot).foldl (fun s b => boundHere s i rows b) o
       let w := writeShadow b i ((List.range 16).map fun v => leAt h (4 * v) 4) rows
       exec (.passHeader i bound discard) s = .next (settle (turnSignal (onSu w i fun u => { u with
         step := leAt h 20 4, ver := w.fld i .CIRC_REV_VERSION, owe := lastPlace w i }) i) i))

/-! ## Memory stacks (chapter 9) -/

/-- R261: a reading shows itself, the die it came from and the peak; below the level in force it changes nothing else; above 85 °C and
above 95 °C it enters WARM and HOT, with doubled refresh in HOT, and is reported; above 105 °C it fences the stack. Readings at or below
the exit value for 10 ms leave the level. -/
def Obligations.StackTemperature : Prop :=
  ∀ (s : State) (i : SetId) (st : StackId) (temps : List Nat),
    let x := st.val
    let t := temps.foldl max 0
    let s0 := ((s.setFld i .MEM_HBM_TEMPs_TMAX x t).setFld i .MEM_HBM_TEMPs_DIE x (temps.idxOf t)).setFld i .MEM_HBM_TEMPs_PEAK x
      (max t (s.fld i .MEM_HBM_TEMPs_PEAK x))
    let l := s.fld i .MEM_HBM_TEMPs_LEVEL x
    (t ≤ 85 → exec (.stackTempRead i st temps) s = .next s0) ∧
    (85 < t → t ≤ 95 → l = 0 → exec (.stackTempRead i st temps) s = .next (report
      ((s0.setFld i .MEM_HBM_TEMPs_WARM x 1).setFld i .MEM_HBM_TEMPs_LEVEL x 1) i
      { FC.hbmTemp.fr with die := stackDie i x, unit := x, cause := 1 })) ∧
    (95 < t → t ≤ 105 → l = 1 → exec (.stackTempRead i st temps) s = .next (report
      ((((s0.setFld i .MEM_HBM_TEMPs_HOT x 1).setFld i .MEM_HBM_TEMPs_DBLREF x 1).setFld i .MSE_STKs_1_HALVED x 1).setFld i
        .MEM_HBM_TEMPs_LEVEL x 2) i { FC.hbmTemp.fr with die := stackDie i x, unit := x, cause := 2 })) ∧
    (105 < t → l < 3 → exec (.stackTempRead i st temps) s = .next (settle (fenceStack (enterLevel s0 i x l 3) i x 1) i)) ∧
    (l = 2 → s.fld i .MEM_HBM_TEMPs_TMAX x ≤ 92 → exec (.stackTempExit i st) s = .next (((s.setFld i .MEM_HBM_TEMPs_LEVEL x 1).setFld i
      .MEM_HBM_TEMPs_DBLREF x 0).setFld i .MSE_STKs_1_HALVED x 0)) ∧
    (l = 1 → s.fld i .MEM_HBM_TEMPs_TMAX x ≤ 82 → exec (.stackTempExit i st) s = .next (s.setFld i .MEM_HBM_TEMPs_LEVEL x 0))

/-- R264 and R427: a fence of a stack on which the set owns no piece and no session or embedding copy lies sets the fence bits with its
cause, ends the stack's patrol and shares, and is reported. R259: a refresh changes nothing. R267 and R268: outside self-refresh a pass starts at
the stack's first line, or is late; a line without a bad word goes by, and with the last one PASSES counts the pass. R270: a loopback run on
a fenced stack with a legal duration starts with its counts at zero; one with a duration outside 1 to 10,000 ms is refused with RESULT 3 and is not
busy for it; its end shows the errors counted and the first failing lane. -/
def Obligations.FencePatrolLoopback : Prop :=
  ((∀ (s : State) (i : SetId) (st : StackId), fenced s i st.val = false → ∃ t u, exec (.stackFenceWrite i st) s = .next (settle u i) ∧
     u = fenceStack s i st.val 4 ∧ (fenceAction s i st.val = 0 → ownedOn s i st.val = [] → sessionsOn s i st.val = [] →
       u = report t i { FC.hbmFence.fr with die := stackDie i st.val, unit := st.val, cause := 4, detail := lostCopy s i st.val } ∧
       fenced t i st.val = true ∧
       t.fld i .MEM_HBM_TEMPs_FCAUSE st.val = 4 ∧ (t.st i).mem = (s.st i).mem ∧ t.out = s.out ∧
       patrolOf t i st.val = {} ∧ ∀ sh ∈ (t.st i).su.shares, sh.stack ≠ st.val)) ∧
   (∀ (s : State) (i : SetId) (st : StackId), exec (.refresh i st) s = .next s) ∧
   ∀ (s : State) (i : SetId) (st : StackId), fenced s i st.val = false → (s.st i).selfRef = false →
     ((patrolOf s i st.val).next = none → exec (.patrolPassStart i st) s =
       .next (setPatrol s i st.val { next := some (st.val * 0x18_0000_0000), due := false })) ∧
     (∀ a, (patrolOf s i st.val).next = some a → exec (.patrolPassStart i st) s =
         .next (setPatrol (s.setFld i .MEM_HBM_PATROL_LATE 0 1) i st.val { patrolOf s i st.val with due := true }) ∧
       (s.fld i .MEM_HBM_TEMPs_LEVEL st.val = 0 → s.fld i .MEM_HBM_LBs_BUSY st.val ≠ 1 → (∀ j < 8, chkOf s i (a + 32 * j) = 0) →
         (a + 256 < (st.val + 1) * 0x18_0000_0000 →
           exec (.patrolRead i st) s = .next (settle (setPatrol s i st.val { patrolOf s i st.val with next := some (a + 256) }) i)) ∧
         ((st.val + 1) * 0x18_0000_0000 ≤ a + 256 → exec (.patrolRead i st) s = .next (settle (setPatrol
           (s.addFld i .MEM_HBM_PATROL_PASSES 0 1) i st.val
           { next := if (patrolOf s i st.val).due then some (st.val * 0x18_0000_0000) else none, due := false }) i))))) ∧
  ((∀ (s : State) (i : SetId) (st : StackId) (m : Fin 4) (c : Fin 32) (d : Nat), d < 2 ^ 14 → s.fld i .MEM_HBM_LBs_BUSY st.val = 0 →
     ∃ t, exec (.loopbackGo i st m c d) s = .next t ∧ (t.st i).mem = (s.st i).mem ∧ t.out = s.out ∧
       (m ≠ 0 → 1 ≤ d → d ≤ 10000 → fenced s i st.val = true → (s.st i).selfRef = false → t.fld i .MEM_HBM_LBs_BUSY st.val = 1 ∧
         t.fld i .MEM_HBM_LBs_RESULT st.val = 0 ∧ t.fld i .MEM_HBM_LBs_ERRCNT st.val = 0) ∧
       (d = 0 ∨ 10000 < d → t.fld i .MEM_HBM_LBs_BUSY st.val = 0 ∧ t.fld i .MEM_HBM_LBs_RESULT st.val = 3)) ∧
   ∀ (s : State) (i : SetId) (st : StackId) (e l : Nat), l < 64 → s.fld i .MEM_HBM_LBs_BUSY st.val = 1 →
     ∃ t, exec (.loopbackEnd i st e l) s = .next t ∧ t.fld i .MEM_HBM_LBs_BUSY st.val = 0 ∧
       t.fld i .MEM_HBM_LBs_ERRCNT st.val = min e 65535 ∧ t.fld i .MEM_HBM_LBs_RESULT st.val = (if e = 0 then 1 else 2) ∧
       (e ≠ 0 → t.fld i .MEM_HBM_LBs_LANE st.val = l) ∧ (t.st i).mem = (s.st i).mem ∧ t.out = s.out)

/-! ## Sessions (chapter 10) -/

/-- R463: enabling a page whose values are legal makes both rings empty, the CQ phase 1 and HELDSTEPS 0; with another VER it stays
disabled with VERR, with a ring size outside Table 10-1 with CFGERR. R273 and R275: disabling clears ENABLE and drops the records that
wait; the page's sessions close at the next boundary, which still applies the commands it had fetched.
R273: SQ_TAIL takes a value below the ring's size, and another sets SQERR and nothing else. R274: CQ_HEAD takes a value up to CQ_TAIL, and
another sets CQERR and nothing else. R273 and R274: one command of the next page with room is fetched: SQ_HEAD goes on by one round the
ring, one CQ entry is reserved, and the command stands behind those fetched before it. R276 and R294: a session PENDING for OPEN_MS is
reported and marked to end with F_SESS_NOSPACE at the next boundary. -/
def Obligations.Rings : Prop :=
  (∀ (s : State) (p : PageId), pageLive s p.val = true →
     let t := p.val
     (s.pfld .SESS_RING_ENABLE t = 0 → (s.pfld .SESS_RING_VER t ≠ 1 → exec (.ringEnable p) s = .next (s.setPfld .SESS_RING_VERR t 1)) ∧
       (s.pfld .SESS_RING_VER t = 1 →
         (s.pfld .SESS_RING_SQ_LOG2 t < 6 ∨ 16 < s.pfld .SESS_RING_SQ_LOG2 t ∨ s.pfld .SESS_RING_CQ_LOG2 t < 6 ∨
             20 < s.pfld .SESS_RING_CQ_LOG2 t → exec (.ringEnable p) s = .next (s.setPfld .SESS_RING_CFGERR t 1)) ∧
         (6 ≤ s.pfld .SESS_RING_SQ_LOG2 t → s.pfld .SESS_RING_SQ_LOG2 t ≤ 16 → 6 ≤ s.pfld .SESS_RING_CQ_LOG2 t →
           s.pfld .SESS_RING_CQ_LOG2 t ≤ 20 → ∃ u, exec (.ringEnable p) s = .next u ∧ u.pfld .SESS_RING_ENABLE t = 1 ∧
             u.pfld .SESS_SQ_PTR_HEAD t = 0 ∧ u.pfld .SESS_SQ_PTR_TAIL t = 0 ∧ u.pfld .SESS_CQ_PTR_HEAD t = 0 ∧
             u.pfld .SESS_CQ_PTR_TAIL t = 0 ∧ u.pfld .SESS_PAGE_STAT_HELDSTEPS t = 0 ∧ cqPhaseOf u t = 1 ∧ u.set0 = s.set0 ∧
             u.set1 = s.set1 ∧ u.out = s.out))) ∧
     (s.pfld .SESS_RING_ENABLE t = 1 →
       (∃ u, exec (.ringDisable p) s = .next u ∧ u.pfld .SESS_RING_ENABLE t = 0 ∧ u.out = s.out ∧ u.hostMem = s.hostMem ∧
         (u.st (pageSet s t)).su.cmds = (s.st (pageSet s t)).su.cmds ∧
         (u.st (pageSet s t)).su.recs = (s.st (pageSet s t)).su.recs.filter (fun r => r.page ≠ t) ∧
         (u.st (pageSet s t)).su.closing.contains t = true ∧ (u.st (pageSet s t)).mem = (s.st (pageSet s t)).mem) ∧
       (∀ v, (v < sqSize s t → exec (.sqTailWrite p v) s = .next (s.setPfld .SESS_SQ_PTR_TAIL t v)) ∧
         (sqSize s t ≤ v → exec (.sqTailWrite p v) s = .next (s.setPfld .SESS_RING_SQERR t 1))) ∧
       ∀ v, (cqSize s t ≤ v → exec (.cqHeadWrite p v) s = .next (s.setPfld .SESS_RING_CQERR t 1)) ∧
         (v < cqSize s t → (v + cqSize s t - s.pfld .SESS_CQ_PTR_HEAD t) % cqSize s t ≤ cqUsed s t →
           exec (.cqHeadWrite p v) s =
             .next (raiseCq (postDue (s.setPfld .SESS_CQ_PTR_HEAD t v) (pageSet s t) t) (pageSet s t))))) ∧
  ((∀ (s : State) (i : SetId) (cmd : List Byte) (data : Option (List Byte)) (t : Nat), (s.st i).lost = false →
     s.pfld .HB_HOST_STAT_HELD ≠ 1 → hostUp s = true → nextPage s i = some t → ∃ u, exec (.sqFetch i cmd data) s = .next u ∧
       u.pfld .SESS_SQ_PTR_HEAD t = (s.pfld .SESS_SQ_PTR_HEAD t + 1) % sqSize s t % 2 ^ 16 ∧
       (u.st i).su.cmds = (s.st i).su.cmds ++ [{ page := t, cmd := cmd, data := data, late := (s.st i).su.five }] ∧
       (u.st i).su.lastPage = t ∧
       SMap.get 0 u.cqResv t = SMap.get 0 s.cqResv t + 1 ∧ (u.st i).mem = (s.st i).mem ∧ u.hostMem = s.hostMem ∧ u.out = s.out) ∧
   ∀ (s : State) (i : SetId) (n : Nat), (sessOf s i n).ph = .pending → (sessOf s i n).ended = none → (s.st i).lost = false →
     exec (.openTimeout i n) s = .next (onSess (report s i { FC.sessNospace.fr with die := linkDie i, sess := n, job := sessJob s i n }) i n
       fun q => { q with ended := some FC.sessNospace.num }))

/-- The state in which the oldest fetched command of a set is applied (R273, R281): the boundary has come to the commands, and the command
has left the queue. -/
def Sys2Proof.Claims.atCommand (s : State) (i : SetId) : State :=
  onSu (toFive s i) i fun u => { u with cmds := (s.st i).su.cmds.drop 1 }

/-- R276 to R278 and Table 10-3: at an open boundary, the oldest fetched command has its effect. An OPEN that nothing refuses makes a
PENDING session with the command's parameters. An INPUT makes its IDLE session prefill the sampled token, if any, and the tokens; at a
session that is not IDLE it waits behind the others, and behind one that waits so do INPUT, DRAFT and MASK of its session. DRAFT and MASK
change the drafts, where the set has a share of the host port (R17), and the mask. MASKLOAD stores its bitmap. CLOSE closes, with an EVENT
record of event 4. The pages then show their open sessions. -/
def Obligations.SessionCommands : Prop :=
  ∀ (s : State) (i : SetId) (x : SqCmd) (q : List SqCmd), boundaryOpen s i = true → (s.st i).su.cmds = x :: q → x.late = false →
    let b := Claims.atCommand s i
    let waits := sidWaits b i x.page (leAt x.cmd 4 4)
    (leAt x.cmd 0 1 = 1 → findSess b i x.page (leAt x.cmd 4 4) = none → openOk b i x.cmd = true → leAt x.cmd 40 8 = 0 →
      leAt x.cmd 2 2 = 0xFFFF → ∀ n, freeSess b i = some n → ∃ t, exec (.openS i) s = .next t ∧
        sessOf t i n = openSess x.page x.cmd [] (b.st i).su.order ∧ (∀ m, m ≠ n → sessOf t i m = sessOf b i m) ∧
        (t.st i).mem = (b.st i).mem ∧ t.out = b.out) ∧
    (leAt x.cmd 0 1 = 5 → leAt x.cmd 2 2 = 0 → ∀ d, x.data = some d → exec (.maskload i) s = .next (showOpens (store (cqFree b x.page 1) i
      (b.fld i .SESS_BASE_4_MASKS + leAt x.cmd 8 1 * maskPitch b i) (slice d 0 ((b.fld i .SESS_CFG_0_VOCAB + 7) / 8))) i)) ∧
    ∀ n, findSess b i x.page (leAt x.cmd 4 4) = some n → leAt x.cmd 2 2 = 0 →
      (leAt x.cmd 0 1 = 2 → (∀ d, (sessOf b i n).ph = .idle → waits = false → x.data = some d → 1 ≤ leAt x.cmd 16 4 →
          leAt x.cmd 16 4 ≤ 262144 →
          let ts := (List.range (leAt x.cmd 16 4)).map fun j => leAt d (4 * j) 4
          (∀ v ∈ ts, v < b.fld i .SESS_CFG_0_VOCAB) → ∃ t, exec (.input i) s = .next t ∧ (sessOf t i n).ph = .prefill ∧
            (sessOf t i n).feed = (sessOf b i n).last.toList ++ ts ∧ (sessOf t i n).last = none ∧
            (sessOf t i n).maxnew = leAt x.cmd 20 4 ∧ (sessOf t i n).gen = 0 ∧ (sessOf t i n).len = (sessOf b i n).len ∧
            (sessOf t i n).hist = (sessOf b i n).hist + ts.length ∧ (∀ m, m ≠ n → sessOf t i m = sessOf b i m) ∧ t.out = b.out) ∧
        ((sessOf b i n).ph ≠ .idle ∨ waits = true →
          exec (.input i) s = .next (showOpens (onSu b i fun u => { u with inputs := u.inputs ++ [x] }) i))) ∧
      (leAt x.cmd 0 1 = 3 → (waits = true → exec (.draft i) s =
          .next (showOpens (onSu b i fun u => { u with inputs := u.inputs ++ [x] }) i)) ∧
        (waits = false → 1 ≤ leAt x.cmd 12 4 → leAt x.cmd 12 4 ≤ 16 → (sessOf b i n).len < leAt x.cmd 8 4 → hostShare b i ≠ 0 →
          exec (.draft i) s = .next (showOpens (onSess (cqFree b x.page 1) i n fun y => { y with
            hostDraft := some (leAt x.cmd 8 4, (List.range (leAt x.cmd 12 4)).map fun j => leAt x.cmd (16 + 3 * j) 3) }) i))) ∧
      (leAt x.cmd 0 1 = 4 → (waits = true → exec (.mask i) s =
          .next (showOpens (onSu b i fun u => { u with inputs := u.inputs ++ [x] }) i)) ∧
        (waits = false → leAt x.cmd 9 1 ≤ 2 → exec (.mask i) s = .next (showOpens
          (onSess (cqFree b x.page 1) i n fun y => { y with mask := leAt x.cmd 8 1, maskMode := leAt x.cmd 9 1 }) i))) ∧
      (leAt x.cmd 0 1 = 6 → ∃ t, exec (.close i) s = .next t ∧ (sessOf t i n).ph = .closing ∧ (sessOf t i n).feed = [] ∧
        (∀ m, m ≠ n → sessOf t i m = sessOf b i m) ∧ (waits = false → t.out = b.out ∧ (t.st i).mem = (b.st i).mem))

/-! ## Sync counters, barriers and channels (chapter 11) -/

/-- R300: a wait on a counter with no waiter whose value covers it is satisfied at once and its amount is subtracted; otherwise it joins
the queue last and the value stands. -/
def Obligations.WaitOrder : Prop :=
  ∀ (s : State) (i : SetId) (p k n m : Nat),
    (SMap.get [] (s.st i).waiters p = [] → m ≤ s.fld i .SYNC_CTRp_1_VALUE p →
      enqueue s i p (.slot k n m) =
        setWaiters (waitDone (s.setFld i .SYNC_CTRp_1_VALUE p (s.fld i .SYNC_CTRp_1_VALUE p - m)) i k n p) i p []) ∧
    (SMap.get [] (s.st i).waiters p ≠ [] ∨ s.fld i .SYNC_CTRp_1_VALUE p < m →
      SMap.get [] ((enqueue s i p (.slot k n m)).st i).waiters p = SMap.get [] (s.st i).waiters p ++ [.slot k n m] ∧
      (enqueue s i p (.slot k n m)).fld i .SYNC_CTRp_1_VALUE p = s.fld i .SYNC_CTRp_1_VALUE p ∧
      (enqueue s i p (.slot k n m)).fld i .SYNC_CTRp_1_WAITERS p = min ((SMap.get [] (s.st i).waiters p).length + 1) 1023)

/-- R304, R305, R311 and R312: a remote SIGNAL that its export accepts is applied and acknowledged, one at an export that is not valid is
refused with cause 1 and changes no counter; an acknowledgement ends the sender's oldest remote SIGNAL; a host signal that nothing refuses
is applied; a host wait that nothing refuses is armed and joins the counter's queue. R308 and R310: a child that has not reported is
entered at its parent's node, which may then be complete; a release reaches a whole node; a broken neighbour breaks a whole node. -/
def Obligations.SyncFromOutside : Prop :=
  ((∀ (s : State) (i : SetId) (x : Fin 4096) (who n p : Nat), s.fld i .SYNC_EXPe_CTR x.val = p → s.fld i .SYNC_EXPe_VALID x.val = 1 →
     (s.fld i .SYNC_EXPe_ANY x.val = 1 ∨ s.fld i .SYNC_EXPe_SENDER x.val = who) →
     s.fld i .MEM_JOBj_STATE (s.fld i .SYNC_CTRp_0_JOB p) = 1 → s.fld i .SYNC_CTRp_0_KIND p = 0 →
     s.fld i .SYNC_CTRp_1_VALUE p + n < 2 ^ 31 →
     exec (.remoteSignal i who x n) s = .next (addApply (s.emit .remoteReply i.val [who, 0]) i p n (.remote who))) ∧
   (∀ (s : State) (i : SetId) (x : Fin 4096) (who n : Nat), s.fld i .SYNC_EXPe_VALID x.val = 0 →
     exec (.remoteSignal i who x n) s = .next (s.emit .remoteReply i.val [who, 1])) ∧
   (∀ (s : State) (i : SetId) (k : CoreId) (n : SlotId) (r : RemoteOut) (q : List RemoteOut), (s.slot i k.val n.val).remote = r :: q →
     exec (.remoteSignalReply i k n 0) s = .next (settle (s.onSlot i k.val n.val fun t => { t with remote := q }) i)) ∧
   (∀ (s : State) (t : PageId) (v n p : Nat), v < 4096 → n < 2 ^ 31 → pageLive s t.val = true → hostRefuse s t.val v n true = 0 →
     ctrOf s (pageSet s t.val) (s.pfld .HB_PAGEt_CFG_JOB t.val) v = some p →
     exec (.hostSignal t v n) s = .next (addApply s (pageSet s t.val) p n (.host t.val))) ∧
   ∀ (s : State) (t : PageId) (w : Fin 64) (v n vec p : Nat) (msix : Bool), v < 4096 → n < 2 ^ 31 → vec < 2048 →
     pageLive s t.val = true → (s.st (pageSet s t.val)).waiters = [] → hostRefuse s t.val v n false = 0 →
     ctrOf s (pageSet s t.val) (s.pfld .HB_PAGEt_CFG_JOB t.val) v = some p →
     let x := 64 * t.val + w.val
     exec (.hostWaitArm t w v n msix vec) s = .next (enqueue
       (((((s.setPfld .SYNC_HWAITw_VID x v).setPfld .SYNC_HWAITw_N x n).setPfld .SYNC_HWAITw_MSIX x (bitOf msix)).setPfld
         .SYNC_HWAITw_VEC x vec).setPfld .SYNC_HWAITw_ARM x 1) (pageSet s t.val) p (.host t.val w.val n))) ∧
  (∀ (s : State) (i : SetId) (c x pl cc : Nat), nodeOf s i c = some x → s.fld i .SYNC_CTRp_1_BROKEN c = 0 →
     (SMap.get [] (s.st i).children x = [] →
       exec (.barrierArrive i c pl cc) s = .next (payDones (nodeCheck (markSrc ((s.onSet i fun t => { t with
         children := SMap.put [] t.children x [(pl, cc)]
         known := SMap.upd [] t.known x fun l => if l.contains (pl, cc) then l else l ++ [(pl, cc)] }).setFld i
         .SYNC_BNODEi_1_REPORTED x 1) i c (.tree pl)) i x c) i)) ∧
     exec (.barrierRelease i c) s = .next (payDones (releaseNode s i x c) i) ∧
     exec (.barrierBroken i c pl cc) s = .next (breakNode s i x c (some (pl, cc))))

/-- R314, R315, R318, R331: a message that its endpoint accepts is placed, acknowledged and signalled; one without room is refused with
FULL and changes nothing; one for an endpoint that is not OPEN is refused with CLOSED or RESET before anything else; an acknowledgement
makes the SEND done; a refusal with tries left makes it wait, and the back-off's end sends it again; no answer within the time is NOROUTE.
-/
def Obligations.ChannelMessages : Prop :=
  (∀ (s : State) (i : SetId) (k : CoreId) (c : Fin 64) (m : ChanMsg), (s.st i).lost = false →
    rxAccepts s i (chanIx k.val c.val) m = true → s.fld i .CHAN_RXk_c_2_OPEN (chanIx k.val c.val) = 1 →
    (SMap.get {} (s.st i).rx (chanIx k.val c.val)).expect = some m.seq →
    ∀ r, ringPlace (s.fld i .CHAN_RXk_c_1_SIZE (chanIx k.val c.val)) (s.fld i .CHAN_RXk_c_2_HEAD (chanIx k.val c.val))
      (s.fld i .CHAN_RXk_c_2_TAIL (chanIx k.val c.val)) (ringUsed (SMap.get {} (s.st i).rx (chanIx k.val c.val)))
      (m.body.length / 32 + 1) = r →
    match r with
    | none => exec (.chanMessage i k c m) s = .next (s.emit .chanReply i.val [m.place, m.core, m.chan, 1])
    | some (pad, off) => isPassEnd (chanReply (placeMsg s i (chanIx k.val c.val) m pad off) i m 0) i (chanIx k.val c.val) = false →
      exec (.chanMessage i k c m) s = .next (settle (chanReply (placeMsg s i (chanIx k.val c.val) m pad off) i m 0) i)) ∧
  (∀ (s : State) (i : SetId) (k : CoreId) (c : Fin 64) (m : ChanMsg), (s.st i).lost = false →
    s.fld i .CHAN_RXk_c_0_VALID (chanIx k.val c.val) = 1 → s.fld i .CHAN_RXk_c_2_OPEN (chanIx k.val c.val) = 0 →
    exec (.chanMessage i k c m) s =
      .next (s.emit .chanReply i.val [m.place, m.core, m.chan, if chanStat s i (chanIx k.val c.val) = 1 then 2 else 3])) ∧
  (∀ (s : State) (i : SetId) (k : CoreId) (c : Fin 64) (e : QEnt), sendOf s i k.val c.val .running = some e →
    exec (.chanAck i k c) s = .next (settle (requestGo (markDone s i k.val 4 e.id) i k.val) i) ∧
    (∀ r, r ≠ 4 → e.tries ≠ s.fld i .CHAN_TXk_c_0_RETRY (chanIx k.val c.val) → exec (.chanNack i k c r) s =
      .next (onEnt (s.setFld i .CHAN_TXk_c_1_LASTNACK (chanIx k.val c.val) r) i k.val 4 e.id fun e =>
        { e with phase := .backoff, tries := e.tries + 1 })) ∧
    exec (.norouteTimeout i (.send k c)) s = .next (settle (requestGo (sendFail s i k.val c.val 4 e) i k.val) i)) ∧
  ∀ (s : State) (i : SetId) (k : CoreId) (c : Fin 64) (e : QEnt), sendOf s i k.val c.val .backoff = some e →
    exec (.chanRetry i k c) s =
      .next (settle (sendOut (s.satFld i .CHAN_TXk_c_1_RETRIES (chanIx k.val c.val) 1) i k.val c.val e) i)

/-- R315: a message is placed inside its ring, at the tail or behind a pad at the start, and neither it nor the pad covers a unit of a
message that has not been released. -/
def Obligations.RingKeepsUnread : Prop :=
  ∀ (size head tail used l pad off : Nat), head < size → tail < size → (used = 0 → head = tail) →
    ringPlace size head tail used l = some (pad, off) →
    let unread := fun u => used ≠ 0 ∧ (if head < tail then head ≤ u ∧ u < tail else head ≤ u ∨ u < tail)
    off + l ≤ size ∧ ((pad = 0 ∧ off = tail) ∨ (pad = size - tail ∧ off = 0)) ∧
      (∀ u, off ≤ u → u < off + l → ¬unread u) ∧ ∀ u, tail ≤ u → u < tail + pad → ¬unread u

/-! ## Heartbeats and the management processor (3.1, 15.4) -/

/-- R67: a heartbeat of a core in service notes its time and changes nothing else. R421 and R422: without one for 102 µs the core is
reported and pruned; the link die's silence loses the set and ends a sprint. R432: the first expiry of the watchdog within 1 s makes the
management processor restart, with its report waiting; the second loses the package; at the end of the restart the reports that waited are
delivered in order. R437 and R53: a fault record waits while the management processor restarts, else is delivered, and one of severity set
lost or higher ends a sprint. -/
def Obligations.HeartbeatsAndReports : Prop :=
  (∀ (s : State) (i : SetId) (k : CoreId), corePruned s i k.val = false →
    exec (.coreHeartbeat i k) s = .next (s.onCore i k.val fun c => { c with beat := s.time i }) ∧
    ((s.st i).lost = false → exec (.heartbeatTimeout i k) s = .next (pruneUnit (report s i { FC.coreHeartbeat.fr with
      die := coreDie i k.val, unit := k.val, sub := 0, tag := 0, detail := 0 }) i k.val .coreHeartbeat))) ∧
  (∀ (s : State) (i : SetId), ∃ t, exec (.linkDieHeartbeatTimeout i) s = .next t ∧ (t.st i).lost = true ∧
    t.pfld .PD_SPRINT_STAT_ACTIVE = 0) ∧
  (∀ s : State, (s.mg.watchdogAt = 0 ∨ s.mg.watchdogAt + 1000000000 ≤ s.time 0 → ∃ t, exec .mpWatchdog s = .next t ∧ t.mpDown = true ∧
      t.mg.image = [] ∧ t.mg.supp = [] ∧ t.mg.watchdogAt = s.time 0 + 1 ∧
      t.mpQueue = s.mpQueue ++ [(0, { FC.mpReset.fr with die := 18, place := s.place 0, time := s.time 0 })] ∧
      t.set0 = s.set0 ∧ t.set1 = s.set1 ∧ t.regs = s.regs ∧ t.out = s.out) ∧
    (s.mg.watchdogAt ≠ 0 → s.time 0 < s.mg.watchdogAt + 1000000000 →
      exec .mpWatchdog s = .next (losePackage { s with mg := { s.mg with watchdogAt := s.time 0 + 1 } })) ∧
    (s.mpDown = true → exec .mpRestartDone s = .next (s.mpQueue.foldl (fun s e => deliver s (if e.1 = 0 then 0 else 1) e.2)
      { s with mpDown := false, mpQueue := [] }))) ∧
  ∀ (s : State) (i : SetId) (rec : List Byte),
    let r := frecOf (slice rec 0 32)
    let t := if s.mpDown then { s with mpQueue := s.mpQueue ++ [(i.val, r)] } else deliver s i r
    (r.sev < 3 → exec (.faultRecord i rec) s = .next t) ∧ (3 ≤ r.sev → exec (.faultRecord i rec) s = .next (sprintEnd t 4))

/-! ## Links (chapter 12) -/

/-- R333 and R334: a retrain keeps the SEQ state, the replay store and the credits of its port, and discards the time exchange in
progress; it is triggered by 2 µs without a good flit, by a lost alignment, or by software. R335: without fast retrain, or when a retrain
takes longer than 18 µs, the link is lost. A retrain that succeeds on every bundle sends the stored flits again. R264: a stack whose Pot link
is lost is fenced with cause LINK. -/
def Obligations.LinkRetrain : Prop :=
  (∀ (s : State) (i : SetId) (st : StackId), (s.st i).lost = false → (s.st i).selfRef = false →
    exec (.retrainTimeout i (.stack st)) s = .next (settle (fenceStack s i st.val 2) i)) ∧
  ∀ (s : State) (i : SetId) (p : PortId),
    (portState s i p.val = 7 → featOn s i p.val 4 = true →
      (∃ t, exec (.crcSilence i p) s = .next (settle t i) ∧ portState t i p.val = 8 ∧
        lport t i p.val = { lport s i p.val with exch := none, nakCount := 0 } ∧
        t.fld i .LINK_PORTp_CNT_1_RETRAINS p.val = min (s.fld i .LINK_PORTp_CNT_1_RETRAINS p.val + 1) 65535 ∧
        (t.st i).mem = (s.st i).mem ∧ t.out = s.out) ∧
      (∃ t, exec (.portRetrain i p) s = .next (settle t i) ∧ portState t i p.val = 8 ∧
        lport t i p.val = { lport s i p.val with exch := none, nakCount := 0, asked := true } ∧ t.out = s.out) ∧
      ∀ b : Fin 32, bit (s.fld i .LINK_PORTp_STAT_0_BUNDLES p.val) b.val = true → SMap.get 0 (lport s i p.val).alignAt b.val = 0 →
        tooFew s i p.val = false → ∃ t, exec (.fecAlignLoss i p b) s = .next (settle t i) ∧ portState t i p.val = 8 ∧
          SMap.get 0 (lport t i p.val).alignAt b.val = s.time i + 1 ∧ (lport t i p.val).store = (lport s i p.val).store ∧
          t.fld i .LINK_PORTp_STAT_0_BUNDLES p.val = s.fld i .LINK_PORTp_STAT_0_BUNDLES p.val ∧ t.out = s.out) ∧
    (portState s i p.val = 7 → featOn s i p.val 4 = false →
      exec (.crcSilence i p) s = .next (settle (loseLink s i p.val) i)) ∧
    (portState s i p.val = 8 → exec (.retrainTimeout i (.port p)) s = .next (settle (loseLink s i p.val) i) ∧
      ∀ bundles, (∀ b < bundlesOf p.val, bit bundles b = true) → (lport s i p.val).asked = false → tooFew s i p.val = false →
        ∃ t, exec (.retrain i p bundles) s = .next (settle (sendFlits (replayAll t i p.val) i p.val) i) ∧ portState t i p.val = 7 ∧
          lport t i p.val = lport s i p.val ∧ t.out = s.out)

/-- Table 12-7, R335, R338, R343: the training states of a port. Detect goes to equalise, equalise to align, and align to identify, where
the identity record goes out; no signal is F_LINK_MISSING; a port whose peer has no valid strap is refused, and a peer without a common
version raises VERSION; the port goes ACTIVE on a CONFIG record that fits the plan. DISABLE holds the port down and RESCAN starts it
again. -/
def Obligations.LinkTraining : Prop :=
  ∀ (s : State) (i : SetId) (p : PortId),
    (portState s i p.val = 2 → exec (.portSignalDetect i p) s = .next (setPort s i p.val 3) ∧
      exec (.portMissing i p) s = .next (showStage (settleKind (reportTable s (linkFault (s.setFld i .LINK_PORTp_STAT_0_MISSING p.val 1) i
        p.val .linkMissing (some .LINK_PORTp_EVT_MISSING)) i) i p.val))) ∧
    (portState s i p.val = 1 →
      exec (.portSignalDetect i p) s = .next (linkFault s i p.val .linkExtra (some .LINK_PORTp_EVT_EXTRA))) ∧
    (∀ bundles, (∀ b < bundlesOf p.val, bit bundles b = true) → tooFew s i p.val = false →
      (portState s i p.val = 3 → exec (.portEqualiseDone i p bundles) s = .next (setPort s i p.val 4)) ∧
      (portState s i p.val = 4 → ∃ t, exec (.portAlignDone i p bundles) s = .next t ∧ portState t i p.val = 5 ∧
        t.out = (s.emit .linkIdent i.val [p.val] (identBytes s i p.val s.cardDigest)).out)) ∧
    (∀ rec : List Byte, rec.length = 64 → portState s i p.val = 5 → (lport s i p.val).ident = none →
      ∃ t, exec (.identRecord i p rec) s = .next (settleKind t i p.val) ∧ (lport t i p.val).ident = some rec ∧
        t.fld i .LINK_PORTp_STAT_1_PEER_LOC p.val = leAt rec 4 4 % 2 ^ 18 ∧
        t.fld i .LINK_PORTp_STAT_1_FEAT p.val = commonFeat s i rec % 2 ^ Field.LINK_PORTp_STAT_1_FEAT.info.len ∧
        (bit (leAt rec 4 4) 19 = false → portState t i p.val = 9) ∧
        (bit (leAt rec 4 4) 19 = true → s.fld i .LINK_IDENT_STRAP_VALID = 1 → commonVer s i rec = 0 →
          portState t i p.val = 9 ∧ t.fld i .LINK_PORTp_EVT_VERSION p.val = 1)) ∧
    (∀ (lp : Fin 8) (tof : Nat) (rec : List Byte), portState s i p.val = 6 → (lport s i p.val).ident = some rec →
      leAt rec 3 1 % 8 = s.fld i .LINK_PORTp_CFG_0_PEER_PORT (logPort s i p.val) → leAt rec 8 4 = s.fwVer % 2 ^ 32 →
      s.fld i .LINK_PORTp_CFG_1_TOF_MIN p.val ≤ tof → tof ≤ s.fld i .LINK_PORTp_CFG_1_TOF_MAX p.val →
      exec (.configRecord i p lp false tof) s = .next (settle (setPort ((s.setFld i .LINK_PORTp_STAT_0_VER p.val (commonVer s i rec)).setFld
        i .LINK_PORTp_STAT_0_TOF p.val tof) i p.val 7) i)) ∧
    (∃ t, exec (.portDisable i p) s = .next (settle t i) ∧ portState t i p.val = 0 ∧ t.fld i .LINK_PORTp_CTL_DISABLE p.val = 1) ∧
    (portState s i p.val ≠ 7 → portState s i p.val ≠ 8 → s.fld i .LINK_PORTp_CTL_DISABLE p.val = 0 → (s.st i).lost = false →
      ∃ t, exec (.portRescan i p) s = .next (settle t i) ∧
        portState t i p.val = (if s.fld i .LINK_PORTp_CFG_0_PLANNED p.val = 1 then 2 else 1))

/-- R335, R340 and R431: a set loss that both neighbours confirm is reported once and folds or stops the circle; a lost set's ports end
DISABLED 1 ms after DOWN; a port table joins the leader's, and a location seen twice is F_STRAP_DUP. R333: a flit whose CRC fails is
counted and NAKed, one out of order is NAKed, and neither is taken. -/
def Obligations.LossesTablesFlits : Prop :=
  (∀ (s : State) (i : SetId) (q : Nat), (s.st i).lost = false → exec (.setLossConfirm i q) s = .next (settle (setGone s i q) i) ∧
    (q < places s i → q ≠ myPlace s i → (circ s i).gone.contains q = false → setGone s i q =
      beginFold (report s i { FC.setLost.fr with die := linkDie i, detail := q }) i { cuts := [], gone := [q], stand := [] }) ∧
    ((circ s i).gone.contains q = true → setGone s i q = s)) ∧
  (∀ (s : State) (i : SetId), (s.st i).lost = true → ∃ t, exec (.downEnd i) s = .next t ∧ ∀ p < 5, portState t i p = 0) ∧
  (∀ (s : State) (i : SetId) (q loc : Nat) (up : Fin 4), loc < 2 ^ 19 →
    let t := onCirc s i fun c => { c with tables := SMap.put none c.tables q (some (loc, up.val)) }
    ((∀ e ∈ (circ s i).tables, e.1 ≠ q → ∀ x, e.2 = some x → x.1 ≠ loc) → exec (.portTableReport i q loc up) s = .next t) ∧
    (∀ r x, (r, some (loc, x)) ∈ (circ s i).tables → r ≠ q → exec (.portTableReport i q loc up) s =
      .next (report (onCirc t i fun c => { c with dup := true }) i { FC.strapDup.fr with die := linkDie i, detail := loc }))) ∧
  ∀ (s : State) (i : SetId) (p : PortId) (d : List Byte), d.length = 512 → (s.st i).lost = false → 5 ≤ portState s i p.val →
    portState s i p.val ≠ 8 →
    (crc64 (d.take 504) ≠ leAt d 504 8 →
      exec (.flitReceive i p d) s = .next (nakFlit (s.addFld i .LINK_PORTp_CNT_0_CRC_FAIL p.val 1) i p.val)) ∧
    (crc64 (d.take 504) = leAt d 504 8 → leAt d 2 2 ≠ (lport s i p.val).rxSeq →
      exec (.flitReceive i p d) s = .next (nakFlit s i p.val)) ∧
    (crc64 (d.take 504) = leAt d 504 8 → leAt d 2 2 = (lport s i p.val).rxSeq → leAt d 0 1 % 8 ≠ 7 → bit (leAt d 0 1) 5 = false →
      ∀ t, takePayload (takeTime (takeAck (onLink s i p.val fun l => { l with naked := false, rxSeq := (l.rxSeq + 1) % 65536 }) i p.val d) i
        p.val d) i p.val d = t → portState (sendFlits t i p.val) i p.val = 7 →
      exec (.flitReceive i p d) s = .next (settle (sendIdle (sendFlits t i p.val) i p.val false false 0 0
        ((sendFlits t i p.val).time i)) i))

/-- R344 and R345: the parent starts an exchange, the child notes its times and answers, the parent returns t4; from the four times the
child forms delay and offset (stated with no trim in force), in IDENT the time of flight, steps its time at the first lock and otherwise
slews it. R346: the set in
holdover takes its alternate parent when it is up, and reports when it is not; when the root is lost, the next in rank serves as root from
its present time. R345: fabric time never runs backward: a microsecond adds 1,000 ns, slewed by at most 1 ns, of which no ten microseconds
in a row take more than one. -/
def Obligations.TimeExchange : Prop :=
  ((∀ (s : State) (i : SetId) (p : PortId), 5 ≤ portState s i p.val → portState s i p.val ≤ 7 → ∀ seq t1 : Nat, seq < 256 →
     exec (.timeExchangeTick i p) s = .next (sendIdle (onLink s i p.val fun l => { l with tsSeq := ((lport s i p.val).tsSeq + 1) % 256 })
       i p.val false false 1 (((lport s i p.val).tsSeq + 1) % 256) (s.time i)) ∧
     exec (.timeDreq i p seq) s = .next (sendIdle s i p.val false false 3 seq (s.time i)) ∧
     (parentPort s i = some p.val → s.fld i .LINK_FT_STAT_STATE ≠ 3 → exec (.timeSync i p seq t1) s =
       .next (sendIdle (onLink s i p.val fun l => { l with exch := some (seq, t1, s.time i, s.time i) }) i p.val false false 2 seq
         (s.time i)))) ∧
   (∀ (s : State) (i : SetId) (p : PortId) (seq t1 t2 t3 t4 : Nat), seq < 256 → (lport s i p.val).exch = some (seq, t1, t2, t3) →
     parentPort s i = some p.val → s.fld i .LINK_FT_STAT_STATE ≠ 3 → featOn s i p.val 6 = false →
     let o : Int := 5 * (((t2 : Int) - t1) - ((t4 : Int) - t3))
     ∃ t, exec (.timeDresp i p seq t4) s = .next t ∧ t.fld i .LINK_FT_STAT_OFFSET = unsigned 16 o ∧
       t.fld i .LINK_FT_STAT_DELAY = ((((t2 : Int) - t1) + ((t4 : Int) - t3)) / 2).toNat % 2 ^ 12 ∧ t.fld i .LINK_FT_STAT_STATE = 1 ∧
       (lport t i p.val).exch = none ∧ t.out = s.out ∧
       (portState s i p.val = 5 → (lport t i p.val).tof = ((((t2 : Int) - t1) + ((t4 : Int) - t3)) / 2).toNat) ∧
       (s.fld i .LINK_FT_STAT_STATE = 0 → t.time i = unsigned 64 ((s.time i : Int) - Int.tdiv o 10) ∧ (t.st i).slew = (s.st i).slew) ∧
       (s.fld i .LINK_FT_STAT_STATE ≠ 0 → t.time i = s.time i ∧ (t.st i).slew = -o)) ∧
   (∀ (s : State) (i : SetId), s.fld i .LINK_FT_CFG_RANK ≠ 0 → (s.st i).lost = false → exec (.timeAltParent i true) s =
     .next ((s.onSet i fun t => { t with slew := 0 }).setFld i .LINK_FT_STAT_STATE 0 3)) ∧
   ∀ (s : State) (i : SetId), s.fld i .LINK_FT_STAT_STATE = 2 → exec (.holdoverReport i) s = .next (holdoverReport s i) ∧
     let other := if (s.st i).altParent then s.fld i .LINK_FT_CFG_PARENT else s.fld i .LINK_FT_CFG_ALT
     (routeUp s i other = true → exec (.timeAltParent i false) s = .next (s.onSet i fun t => { t with altParent := !t.altParent })) ∧
     (routeUp s i other = false → exec (.timeAltParent i false) s = .next (holdoverReport s i))) ∧
  (∀ (s : State) (i : SetId), -10 < (s.st i).slewFrac → (s.st i).slewFrac < 10 → s.time i + 1001 < 2 ^ 64 →
     s.time i + 999 ≤ (tickTime s i).time i ∧ (tickTime s i).time i ≤ s.time i + 1001 ∧
       (-10 < ((tickTime s i).st i).slewFrac ∧ ((tickTime s i).st i).slewFrac < 10) ∧
       10 * (((tickTime s i).time i : Int) - s.time i - 1000) + ((tickTime s i).st i).slewFrac - (s.st i).slewFrac ≤ 1 ∧
       -1 ≤ 10 * (((tickTime s i).time i : Int) - s.time i - 1000) + ((tickTime s i).st i).slewFrac - (s.st i).slewFrac)

/-! ## The host port (chapter 13) -/

/-- R350: a link that has trained shows its mode and takes Bus Master Enable and MSI-X Enable. R355: a stream that was secure and is lost
is reported as F_HOST_IDE. R353: a failed access is counted: a failed command read arrives as such, a failed load read counts a retry at
its reader, a failed staging read is reported once per second, and a failed ring access disables its page. R354: a link down, a hot reset or a clear of
Bus Master Enable resets no set: memory, cores, circulation and counters of both sets stand, and every page loses ENABLE. -/
def Obligations.HostLinkEvents : Prop :=
  ((∀ (s : State) (m : Fin 6) (w : Nat) (c e b x : Bool), s.pins.pwrGood = true → s.pins.perst = false → s.pkgLost = false →
     ∃ t, exec (.hostLinkUp m w c e b x) s = .next (drainHost t) ∧ t.pfld .HB_CAP_MODE = m.val + 1 ∧ t.busMaster = b ∧ t.msixOn = x ∧
       t.pfld .HB_CAP_WIDTH = w % 2 ^ Field.HB_CAP_WIDTH.info.len ∧ t.heldReqs = s.heldReqs ∧ t.set0 = s.set0 ∧ t.set1 = s.set1) ∧
   (∀ (s : State) (io cm : Bool), s.pfld .HB_CAP_MODE ≠ 0 →
     let u := showHeld ((s.setPfld .HB_CAP_IDE_IO 0 (bitOf io)).setPfld .HB_CAP_IDE_CM 0 (bitOf cm))
     ((s.pfld .HB_CAP_IDE_IO = 1 → io = true) → (s.pfld .HB_CAP_IDE_CM = 1 → cm = true) →
       exec (.ideStateChange io cm) s = .next (drainHost u)) ∧
     ((s.pfld .HB_CAP_IDE_IO = 1 ∧ io = false) ∨ (s.pfld .HB_CAP_IDE_CM = 1 ∧ cm = false) → exec (.ideStateChange io cm) s =
       .next (drainHost (reportPkg (u.setPfld .HB_HOST_STAT_IDE 0 1) { FC.hostIde.fr with die := 18 })))) ∧
   ∀ s : State,
     (∀ i cmd, exec (.hostDmaFail (.session i cmd)) s = exec (.sqFetch i cmd none) s) ∧
     (∀ i p v q e w, (circ s i).fetch = (p, v) :: q → loadEntry (countDma s) i p v = some (e, w) → (pieceSt (countDma s) i e).tries < 3 →
       exec (.hostDmaFail (.load i)) s = .next (onPiece ((countDma s).satFld i .CIRC_LOAD_RETRIES 0 1) i e fun x =>
         { x with tries := (pieceSt (countDma s) i e).tries + 1 })) ∧
     (∀ i : SetId,
       ((∀ t, (circ s i).tierFail = some t → t + 1_000_000_000 ≤ s.time i) → exec (.hostDmaFail (.tier i)) s =
         .next (reportPkg (onCirc ((countDma s).setPfld .HB_HOST_STAT_DMA 0 1) i fun c => { c with tierFail := some (s.time i) })
           { FC.hostDma.fr with action := 0, die := 18, unit := i.val })) ∧
       ∀ t, (circ s i).tierFail = some t → s.time i < t + 1_000_000_000 → exec (.hostDmaFail (.tier i)) s = .next (countDma s)) ∧
     ∀ p : PageId, s.pfld .SESS_RING_ENABLE p.val = 1 → ∃ t, exec (.hostDmaFail (.ring p)) s =
         .next (reportPkg t { FC.hostDma.fr with die := 18, job := s.pfld .HB_PAGEt_CFG_JOB p.val, detail := p.val }) ∧
       t.pfld .SESS_RING_ENABLE p.val = 0 ∧ t.pfld .HB_PAGE_ERR_HOSTERR p.val = 1 ∧ t.pfld .HB_HOST_STAT_DMA = 1 ∧
       t.pfld .HB_HOST_STAT_DMAERRS = (s.pfld .HB_HOST_STAT_DMAERRS + 1) % 2 ^ 32 ∧ t.out = s.out) ∧
  (∀ (s : State) (c : Fin 3), s.Inv → s.pfld .HB_CAP_MODE ≠ 0 → ∃ t, exec (.hostLinkDown c) s = .next t ∧ t.busMaster = false ∧
     (∀ p < 4096, t.pfld .SESS_RING_ENABLE p = 0) ∧ (c ≠ 2 → t.pfld .HB_CAP_MODE = 0) ∧ t.pfld .HB_HOST_STAT_LINK = 1 ∧
     ∀ i : SetId, (t.st i).regs = (s.st i).regs ∧ (t.st i).mem = (s.st i).mem ∧ (t.st i).cores = (s.st i).cores ∧
       (t.st i).circ = (s.st i).circ ∧ (t.st i).waiters = (s.st i).waiters ∧ (t.st i).lost = (s.st i).lost)

/-- Host traffic reaches the device: the link is up, nothing is held and nothing waits. -/
def Sys2Proof.Claims.hostOpen (s : State) : Prop := s.pfld .HB_CAP_MODE ≠ 0 ∧ s.pfld .HB_HOST_STAT_HELD ≠ 1 ∧ s.heldReqs = []

/-- R357, R361 and R420: an access of the HDM window or of an aperture reads and writes exactly the mapped bytes of its set; outside what
may be reached it reads zeros or poison, or is dropped, under its error bit. Stated for reads of words that are stored validly. -/
def Obligations.HostMemory : Prop :=
  ∀ s : State, Claims.hostOpen s →
    (∀ (i : SetId) (off len x : Nat) (d : List Byte),
      (hdmAt s i off d.length = some x → (hdmOpen s i x = true → exec (.hdmAccess i off len (some d)) s =
          .next (endDueJobs (store s i x d) i)) ∧
        (hdmOpen s i x = false → exec (.hdmAccess i off len (some d)) s = .next (s.setPfld .HB_HDMs_HDM_ERR i.val 1))) ∧
      (hdmAt s i off len = some x →
        (hdmOpen s i x = true → (s.st i).chk = [] → (∀ n, fenced s i n = false) → exec (.hdmAccess i off len none) s =
          .next (hostAnswer s 0 (readMem (s.st i).mem x len))) ∧
        (hdmOpen s i x = false → exec (.hdmAccess i off len none) s =
          .next (hostAnswer (s.setPfld .HB_HDMs_HDM_ERR i.val 1) 1 (List.replicate len 0))))) ∧
    ∀ (a : Fin 4) (off len : Nat) (d : List Byte), s.pfld .HB_APERa_EN a.val = 1 →
      let i := (aperAt s a.val off).1
      let x := (aperAt s a.val off).2
      (aperFits off len = false → exec (.apertureRead a off len) s = .next (hostAnswer s 2)) ∧
      (aperFits off len = true →
        (aperOpen s i x len = true → (s.st i).chk = [] → (∀ n, fenced s i n = false) →
          exec (.apertureRead a off len) s = .next (hostAnswer s 0 (readMem (s.st i).mem x len))) ∧
        (aperOpen s i x len = false → exec (.apertureRead a off len) s =
          .next (hostAnswer (s.setPfld .HB_APERa_RD_ERR a.val 1) 0 (List.replicate len 0)))) ∧
      (aperFits off d.length = true →
        (aperOpen s i x d.length = false ∨ mayPoke s i x = false →
          exec (.apertureWrite a off d) s = .next (s.setPfld .HB_APERa_WR_DROP a.val 1)) ∧
        (aperOpen s i x d.length = true → mayPoke s i x = true → (s.st i).chk = [] → (∀ n, fenced s i n = false) → (s.st i).endDue = [] →
          ∃ t, exec (.apertureWrite a off d) s = .next t ∧ t.regs = s.regs ∧ t.out = s.out ∧ (∀ j, j ≠ i → t.st j = s.st j) ∧
            (t.st i).regs = (s.st i).regs ∧
            ∀ y, SMap.get 0 (t.st i).mem y = if x ≤ y ∧ y < x + d.length then d.getD (y - x) 0 else SMap.get 0 (s.st i).mem y))

/-- R11, R12, R456: a host read of a package register answers its fields in place and clears the read-clear fields it covers; a host write
gives each rw field that its bytes touch the written bits, clears each w1c field written with a 1, and leaves every other field of every
register as it was. Stated for the registers whose write has no further effect. -/
def Obligations.RegisterAccess : Prop :=
  ∀ (s : State) (addr : Nat), Claims.hostOpen s → setRegion addr = none → cxlRegion addr = false → addr < 0x1000_0000 →
    ∀ r ix off, regAt .pkg addr = some (r, ix, off) →
      (∀ n, accessFits addr n = true → exec (.readClear 0 addr n) s =
        .next (hostAnswer { s with regs := clearRead s.regs r ix off n } 0 (leBytes n (readReg s.regs r ix / 256 ^ off)))) ∧
      ∀ d : List Byte, accessFits addr d.length = true → r ≠ .PD_ENV_CAP → r ≠ .PD_SPRINT_CTL → r ≠ .ALM_CFG →
        ∃ t, exec (.registerWrite 0 addr d) s = .next t ∧ t.out = s.out ∧ t.set0 = s.set0 ∧ t.set1 = s.set1 ∧
          (∀ f ∈ r.fields, (f.info.acc = .rw → touched f.info off d.length = true →
              t.pfld f ix = bits (overlay (composeReg s.regs r ix) off d) f.info.lo f.info.len) ∧
            (f.info.acc = .rw → touched f.info off d.length = false → t.pfld f ix = s.pfld f ix) ∧
            (f.info.acc = .w1c → t.pfld f ix = if bits (overlay 0 off d) f.info.lo f.info.len = 0 then s.pfld f ix else 0) ∧
            (f.info.acc ≠ .rw → f.info.acc ≠ .w1c → t.pfld f ix = s.pfld f ix)) ∧
          ∀ f jx, f ∉ r.fields ∨ jx ≠ ix → t.pfld f jx = s.pfld f jx

/-! ## Start-up, dance card and trust (chapter 14, 18) -/

/-- R474, R479 and R480: VIN at 10.8 V after a fall below 9.0 V releases PWR_GOOD, samples SB_ADDR and brings up the link dies' rails;
outside 10.2 V to 14.0 V every rail goes. R393 and R481: PERST_N for 100 µs resets every die, removes the compute and base-die rails and
keeps fuses, host memory, what reports the arrays and, while no almanac write is in progress, the NVM; a shorter pulse is ignored. R477: REFCLK_SYS may be lost harmlessly only before the sets run. Table 14-9: a start without a usable NVM or
firmware stops in RECOVERY with its cause, one with good firmware goes to FIRMWARE. R474: the TAP shifts its identification code. -/
def Obligations.PowerAndReset : Prop :=
  (∀ (s : State) (low mv : Nat) (a : Fin 4), s.pins.pwrGood = false → (s.pins.fell = true ∨ low < 9000) → 10800 ≤ mv →
    exec (.vinRise low mv a) s =
      .next ((railsAt (railsAt { s with pins := { s.pins with pwrGood := true, fell := false, thermTrip := false, sbAddr := a.val } }
        coreDies 0) [linkDie 0, linkDie 1] 780).setPfld .PD_SENSE_VIN 0 mv)) ∧
  (∀ (s : State), s.almBusy = none →
    let cold : State := { State.reset with
      pending := s.pending, out := s.out, freeCtr := s.freeCtr, hostMem := s.hostMem, nvm := s.nvm, fuses := s.fuses, pins := s.pins
      sec := s.sec }
    (∀ mv, s.pins.pwrGood = true → mv < 10200 ∨ 14000 < mv → exec (.vinFault mv) s = .next { railsAt cold (List.range 18) 0 with
      pins := { s.pins with pwrGood := false, fell := decide (mv < 9000), refOk := false, tap := 3 } }) ∧
    (∀ us, 100 ≤ us → exec (.perstAssert us) s = .next
      { railsAt (keepArrays cold s) (if s.pins.pwrGood then coreDies else List.range 18) 0 with
        pins := { s.pins with perst := true, thermTrip := false } })) ∧
  (∀ s : State, (∀ us, us < 100 → exec (.perstAssert us) s = .next s) ∧
    exec .refclkStable s = .next { s with pins := { s.pins with refOk := true } } ∧
    ((s.st 0).locked = false → (s.st 1).locked = false → exec .refclkLoss s = .next { s with pins := { s.pins with refOk := false } }) ∧
    ((s.st 0).locked = true ∨ (s.st 1).locked = true → ∃ t, exec .refclkLoss s = .next t ∧ t.pkgLost = true) ∧
    (∀ lands, s.pins.pwrGood = true →
      exec (.tapInstruction 3 lands) s = .next ({ s with pins := { s.pins with tap := 3 } }.emit .tap 0 [3, 0x1482_0001]) ∧
      exec (.tapInstruction 0 lands) s = .next ({ s with pins := { s.pins with tap := 0 } }.emit .tap 0 [0, 0]) ∧
      (s.pins.perst = true → ∀ ir : Fin 4, ir = 1 ∨ ir = 2 →
        exec (.tapInstruction ir lands) s = .next ({ s with pins := { s.pins with tap := ir.val } }.emit .tap 0 [ir.val, 0] lands)))) ∧
  ∀ (s : State) (strap : Nat), s.pins.pwrGood = true → s.pins.perst = true → strap % 2 ^ 18 ≠ 0x3_FFFF →
    (∃ t, exec (.coldStart strap false) s = .next t ∧ t.pfld .HB_BOOT_STAGE = 1 ∧ t.pfld .HB_BOOT_CAUSE = 16 ∧ t.fuses = s.fuses ∧
      t.nvm = s.nvm) ∧
    ∃ t, exec (.coldStart strap true) s = .next t ∧ if fwOk s s.nvmBytes then
      t.pfld .HB_BOOT_STAGE = 2 ∧ t.pfld .HB_BOOT_CAUSE = 0 ∧ t.fwVer = leAt (s.nvmBytes 0 1024) 12 4
      else t.pfld .HB_BOOT_STAGE = 1 ∧ t.pfld .HB_BOOT_CAUSE = 1

/-- Table 14-9, R388, R390, R391, R395, R396, R404: the steps of a start. Without an active owner the start stops at ENROL; the card is
verified; HBM training leaves zeros in every stack; the sets pass the lock point together; a circle whose pieces are clean enters seedling
service, or full service where the card has no seedling plan, and the leader of a seedling circle asks for the promotion, which each place
makes at S. -/
def Obligations.StartUp : Prop :=
  (∀ (s : State) (f : CardFacts), stage s = 2 ∨ stage s = 11 → s.pins.refOk = true →
    (ownerSlot s = none → exec (.cardVerify f) s = .next (bootAt s 3 0)) ∧
    (ownerSlot s ≠ none → exec (.cardVerify f) s = .next (verifyCard s f))) ∧
  (∀ s : State, stage s = 5 → s.mg.trained = [] → loopbackRuns s = false →
    ∃ t, exec (.hbmTrainDone []) s = .next t ∧ t.mg.trained = [0, 1] ∧
    ∀ (i : SetId) (a : Nat), (t.st i).selfRef = false ∧ SMap.get 0 (t.st i).mem a = if a < 0x90_0000_0000 then 0 else SMap.get 0 (s.st i).mem a) ∧
  (∀ (s : State) (ms : Nat), stage s = 5 → s.mg.cardOk = true → s.mg.trained ≠ [] → loopbackRuns s = false →
    s.nvmBytes 0x700_0000 4 = List.replicate 4 0xFF#8 →
    let e := (locs s.mg.card).getD ((myLoc s s.mg.card).getD 0) (locOf [])
    let l := measTaken { lockSet (lockSet s 0 e) 1 e with warm := false } 6
    exec (.setLock ms) s = .next (showStage (goSet (goSet ((bootAt l 6 0).setPfld .HB_BOOT_T_LOCK_MS 0 ms) 0) 1))) ∧
  (∀ (s : State) (i : SetId) (sec : Nat), waitsStart s i = true →
    ((circ s i).seedling = true → allClean s i (fun e => bit e.flags 0) = true →
      exec (.seedlingStart i sec) s = .next (settle (enter (s.setPfld .HB_BOOT_T_SEED_S 0 sec) i 1) i)) ∧
    ((circ s i).seedling = false → allClean s i (fun _ => true) = true →
      exec (.fullLoadDone i sec) s = .next (settle (enter (s.setPfld .HB_BOOT_T_FULL_S 0 sec) i 2) i))) ∧
  (∀ (s : State) (i : SetId) (sec : Nat), circulates s i = true → (circ s i).seedling = true → allClean s i (fun _ => true) = true →
    waitsStart s i = false → isLeader s i = true → (circ s i).chg = none → (circ s i).req = none →
    exec (.fullLoadDone i sec) s = .next (settle (askPromotion s i) i)) ∧
  (∀ (s : State) (i : SetId) (sec : Nat) (c : Change), (circ s i).chg = some c → c.kind = 2 → c.confirmed = true →
    circulates s i = true → (circ s i).first = none → s.fld i .CIRC_REV_REV + 1 = c.s →
    let l := (planRecs s.mg.card ((locs s.mg.card).getD ((myLoc s s.mg.card).getD 0) (locOf [])) i).map (·.2)
    let k := (planTaken (applyPlan (killJobs s i true) i l) i l).setFld i .CIRC_CFG_MODE 0 (s.fld i .CIRC_CFG_MODE)
    let u := onCirc k i fun u => { u with tmap := (fullMap k.mg.facts i).map tmapEnt, tierTiles := tierTilesOf k.mg.facts i false }
    exec (.promote i sec) s = .next (settle (circPump (enterService (settle (startJobs (u.setPfld .HB_BOOT_T_FULL_S 0 sec) i) i) i c.s) i) i)) ∧
  ∀ s : State, fromStep4 s = true → exec .aliasReady s = .next (s.setPfld .SEC_STAT_ALIAS_READY 0 1)

/-- R376 and R379: an image that fails the checks is refused before the firmware region is written, and the NVM stands; one that passes is
in the region whole, and every byte of NVM outside the region stands. Stated for the running firmware. -/
def Obligations.FirmwareVerifiedBeforeWritten : Prop :=
  ∀ (s : State) (off : Nat) (d : List Byte), 2 ≤ stage s → stage s ≠ 11 → s.pkgLost = false → s.mpDown = false →
    off + d.length ≤ 0x100_0000 →
    let p := takePiece s true off d
    (exec (.transferFw 1 off d) s = .next (boxAnswer p 0x0201 0) ∧ p.nvm = s.nvm) ∧
    exec (.transferFw 2 off d) s = .next (boxAnswer (takePiece s false off d) 0x0201 0) ∧
    (∃ t, exec (.transferFw 4 off d) s = .next t ∧ t.mg.image = [] ∧ t.nvm = s.nvm) ∧
    ∃ t, exec (.transferFw 0 off d) s = .next t ∧ t.mg.image = [] ∧ if fwOk p (staged p) then
      (∀ a < p.mg.imageLen, SMap.get 0xFF t.nvm a = SMap.get 0 p.mg.image a) ∧
        ∀ a, 0x100_0000 ≤ a → SMap.get 0xFF t.nvm a = SMap.get 0xFF s.nvm a
      else t.nvm = s.nvm

/-- A vendor command arrives through the BAR0 mailbox, at a stage from step 4 on, and the management processor runs. -/
def Sys2Proof.Claims.atMailbox (s : State) (v : Via) : Prop :=
  v.mctp = false ∧ 2 ≤ stage s ∧ stage s ≠ 11 ∧ s.pkgLost = false ∧ s.mpDown = false

/-- R375, R378, R383, R398, R400 to R402, R407: vendor commands through the mailbox, at stages that accept them. A card write changes
exactly its bytes of the card region; a staged supplement that is not signed is refused; RESTART and SHUTDOWN stop both sets. -/
def Obligations.VendorCommands : Prop :=
  ∀ (s : State) (v : Via), Claims.atMailbox s v →
    exec (.getBoot v) s = .next (answer s v 0xC000 0 0 (leBytes 8 (composeReg s.regs .HB_BOOT 0) ++
      leBytes 8 (composeReg s.regs .HB_BOOT_T 0) ++ leBytes 8 (composeReg s.regs .HB_OWNER 0))) ∧
    exec (.nonce v) s = .next (answer (onMg s.spend fun m => { m with nonces := m.nonces ++ [s.freeBytes 32] }) v 0xC001 0 0
      (s.freeBytes 32)) ∧
    exec .nonceExpire s = .next (onMg s fun m => { m with nonces := m.nonces.drop 1 }) ∧
    (∀ (off : Nat) (d : List Byte), cardStage s = true → d.length ≤ 0x10_0000 → off + d.length ≤ 0x600_0000 →
      ∃ t, exec (.cardWrite v off d) s = .next (answer t v 0xC002 0) ∧ t.set0 = s.set0 ∧ t.set1 = s.set1 ∧ t.regs = s.regs ∧ t.mg = s.mg ∧
        ∀ a, SMap.get 0xFF t.nvm a = if 0x100_0000 + off ≤ a ∧ a < 0x100_0000 + off + d.length then d.getD (a - (0x100_0000 + off)) 0xFF
          else SMap.get 0xFF s.nvm a) ∧
    (∀ f, cardStage s = true → exec (.cardCheck v f) s = .next (match checkCard s (cardCopy s) f with
      | none => answer s v 0xC003 0
      | some b => answer s v 0xC003 5 b.cause (leBytes 1 b.sec ++ leBytes 3 b.ix))) ∧
    (stage s = 9 → (∀ (off : Nat) (d : List Byte), off + d.length ≤ 0x40_0000 → exec (.suppWrite v off d) s =
        .next (answer (onMg s fun m => { m with
          supp := writeMem m.supp off d, suppLen := max m.suppLen (off + d.length) }) v 0xC004 0)) ∧
      (∀ n k, n = 64 + 80 * leAt (readMem s.mg.supp 0 64) 8 4 → leAt (readMem s.mg.supp 0 64) 0 4 = 0x5355_5050 →
        leAt (readMem s.mg.supp 0 64) 4 2 = 1 → n + 384 ≤ 0x40_0000 → n + 384 ≤ s.mg.suppLen → ownerKey s = some k →
        (pssVerify 384 (leNat k) 65537 (readMem s.mg.supp 0 n) (readMem s.mg.supp n 384) = false →
          exec (.suppCommit v) s = .next (answer s v 0xC005 5)) ∧
        (slice (readMem s.mg.supp 0 64) 16 32 = s.cardDigest →
          (catEnts ((readMem s.mg.supp 0 n).drop 64)).all (suppFits (catEnts (secData s.mg.card 5))) = true →
          (∀ i ∈ servingSets s, s.fld i .CIRC_CFG_BANKS ≠ 0) → exec (.suppCommit v) s = .next (
            if pssVerify 384 (leNat k) 65537 (readMem s.mg.supp 0 n) (readMem s.mg.supp n 384) then answer (onMg
              (takeSupp s (readMem s.mg.supp 0 n ++ readMem s.mg.supp n 384) (catEnts ((readMem s.mg.supp 0 n).drop 64)))
              fun m => { m with supp := [], suppLen := 0 }) v 0xC005 0
            else answer s v 0xC005 5)))) ∧
    (stage s ≠ 12 → exec (.restart v) s = .next (restartStep4 (stopAll (answer s v 0xC006 0))) ∧
      ∃ t, exec (.shutdown v) s = .next t ∧ t.pfld .HB_BOOT_STAGE = 12 ∧ (circ t 0).up = false ∧ (circ t 1).up = false) ∧
    (∀ n, ownerSlot s = some n → let r := takeAuth s v 0xC00A []
      exec (.ownerRelease v) s = .next (if r.2 then answer (measTaken
        (showOwner { r.1 with fuses := { s.fuses with revoked := putBits s.fuses.revoked n 1 1 } }) 8) v 0xC00A 0
        else answer r.1 v 0xC00A 3)) ∧
    ∀ op, exec (.vendorUnknown v op) s = .next (answer s v op 4)

/-- R381: enrolment only through the BAR0 mailbox, only without an active owner, only while a slot remains: otherwise ENROL_BEGIN and
ENROL_CONFIRM leave the pending request and the fuses. ENROL_BEGIN returns a 32-byte nonce and its request replaces any pending one; 60 s
clear it; a confirmation that verifies burns the modulus hash into the next free slot and the start goes on at step 5; one that fails, or
comes when nothing pends, burns nothing and leaves nothing pending. -/
def Obligations.Enrolment : Prop :=
  (∀ (s : State) (v : Via) (d : List Byte), v.mctp = true ∨ ownerSlot s ≠ none ∨ nextOwnerSlot s = none →
    (∃ t, exec (.enrolBegin v d) s = .next t ∧ t.mg.enrol = s.mg.enrol ∧ t.fuses = s.fuses ∧ stage t = stage s) ∧
    ∃ t, exec (.enrolConfirm v d) s = .next t ∧ t.mg.enrol = s.mg.enrol ∧ t.fuses = s.fuses ∧ stage t = stage s) ∧
  (∀ (s : State) (v : Via) (d : List Byte), Claims.atMailbox s v → stage s = 3 → ownerSlot s = none → d.length = 384 →
    nextOwnerSlot s ≠ none → ∃ n t, exec (.enrolBegin v d) s = .next (answer t v 0xC008 0 0 n) ∧ n.length = 32 ∧
      t.mg.enrol = some (d, n) ∧ t.fuses = s.fuses) ∧
  (∀ s : State, ∃ t, exec .enrolTimeout s = .next t ∧ t.mg.enrol = none ∧ t.fuses = s.fuses) ∧
  ∀ (s : State) (v : Via) (sig : List Byte) (n : Nat), Claims.atMailbox s v → stage s = 3 → ownerSlot s = none →
    nextOwnerSlot s = some n →
    (∀ m nonce, s.mg.enrol = some (m, nonce) → let ok := pssVerify 384 (leNat m) 65537 (sha256 (nonce ++ sha256 m)) sig
      ∃ t, exec (.enrolConfirm v sig) s = .next (answer t v 0xC009 (if ok then 0 else 5)) ∧ t.mg.enrol = none ∧
        stage t = (if ok then 2 else 3) ∧
        t.fuses = if ok then { s.fuses with owners := SMap.put [] s.fuses.owners n (sha256 m) } else s.fuses) ∧
    (s.mg.enrol = none → exec (.enrolConfirm v sig) s = .next (answer s v 0xC009 2))

/-- R383: a writing command that arrives through MCTP without the owner's authority, and OWNER_RELEASE and CAL_CONFIRM without it on any
path, change neither sets, registers, fuses, NVM nor the almanac. -/
def Obligations.UnauthorisedWritesNothing : Prop :=
  ∀ (s t : State) (v : Via) (c : Instr) (op : Nat) (p : List Byte), (takeAuth s v op p).2 = false →
    ((v.mctp = true ∧ ((∃ off d, c = .cardWrite v off d ∧ op = 0xC002 ∧ p = placed off d) ∨
        (∃ off d, c = .suppWrite v off d ∧ op = 0xC004 ∧ p = placed off d) ∨ (c = .suppCommit v ∧ op = 0xC005 ∧ p = []) ∨
        (c = .restart v ∧ op = 0xC006 ∧ p = []) ∨ (c = .shutdown v ∧ op = 0xC007 ∧ p = []) ∨
        (c = .almFlush v ∧ op = 0xC011 ∧ p = []) ∨ (c = .calArm v ∧ op = 0xC014 ∧ p = []) ∨
        (∃ off d, c = .calWrite v off d ∧ op = 0xC016 ∧ p = placed off d) ∨ (c = .calCommit v ∧ op = 0xC017 ∧ p = []))) ∨
      (c = .ownerRelease v ∧ op = 0xC00A ∧ p = []) ∨ (c = .calConfirm v p ∧ op = 0xC015)) →
    exec c s = .next t → t.set0 = s.set0 ∧ t.set1 = s.set1 ∧ t.regs = s.regs ∧ t.fuses = s.fuses ∧ t.nvm = s.nvm ∧
      t.almMem = s.almMem ∧ t.almBusy = s.almBusy

/-- R366 and R379: activation takes effect at the next restart, or continues a start from RECOVERY; GET_FW_INFO and IDENTIFY answer, with
values the manual leaves to CXL; events are read and cleared by log, and the timestamp runs from the value it was set to. R367 to R369,
R404, R405: the management bindings. SPDM answers once the Alias certificate is ready; GET_MEASUREMENTS 0 answers the number of blocks
taken; a secured session's key programming shows the stream keyed; an MCTP endpoint ID is taken per binding. -/
def Obligations.ManagementCommands : Prop :=
  ((∀ s : State, 2 ≤ stage s → stage s ≠ 11 → s.pkgLost = false → s.mpDown = false →
     exec (.activateFw true) s = .next (boxAnswer (s.setPfld .HB_BOOT_ACT_PENDING 0 1) 0x0202 0) ∧
     exec .getFwInfo s = .next (boxAnswer s.spend 0x0200 0 (leBytes 1 1 ++ leBytes 1 (1 + 8 * s.pfld .HB_BOOT_ACT_PENDING) ++
       List.replicate 14 0 ++ s.freeBytes 16 ++ List.replicate 48 0)) ∧
     exec .identify s = .next (boxAnswer s.spend 0x0001 0 (s.freeBytes 18)) ∧
     (∀ l : Fin 4, exec (.cxlMailboxCommand (.getEvents l)) s =
       .next (boxAnswer s 0x0100 0 ((s.cxlLog.filter fun e => e.1 = l.val).flatMap (·.2)))) ∧
     ∀ t, exec (.cxlMailboxCommand (.setTimestamp t)) s =
       .next (boxAnswer (onMg s fun m => { m with timestamp := t % 2 ^ 64, stampAt := s.time 0 }) 0x0301 0)) ∧
   ∀ s : State, stage s = 1 → s.pfld .HB_BOOT_CAUSE ≠ 16 → s.pkgLost = false → s.mpDown = false →
     exec (.activateFw true) s = .next (if fwOk s s.nvmBytes then boxAnswer (step4 s) 0x0202 0
       else boxAnswer (s.setPfld .HB_BOOT_CAUSE 0 1) 0x0202 10)) ∧
  (∀ s : State, 2 ≤ stage s → s.pkgLost = false → s.mpDown = false →
     (s.pfld .SEC_STAT_ALIAS_READY = 1 → exec (.spdmRequest .getVersion) s = .next (s.emit .spdm 0 [0x04, 0x12, 0x13]) ∧
       exec (.spdmRequest .keyExchange) s =
         .next ((onMg s.spend fun m => { m with handshakes := m.handshakes + 1 }).emit .spdm 0 [0x64] (s.freeBytes 384)) ∧
       (∀ x : Fin 3, s.mg.sessions ≠ 0 → ∃ t, exec (.spdmRequest (.keyProg x)) s = .next t ∧
         bit (t.pfld .SEC_STAT_IDE_KEYED) x.val = true ∧ t.set0 = s.set0 ∧ t.set1 = s.set1) ∧
       exec (.getMeasurements 0) s = .next (s.emit .spdm 0 [0x60, (measHave s).length]) ∧
       ∀ n, n ≠ 0 → n ≠ 0xFF → n ∈ measHave s → exec (.getMeasurements n) s = .next (s.emit .spdm 0 [0x60, 1] (measBytes s n))) ∧
     (s.pfld .SEC_STAT_ALIAS_READY = 0 → exec (.spdmRequest .getVersion) s = .next (s.emit .spdm 0 [0x7F, 3])) ∧
     ∀ (b : Fin 2) (e : Nat), 1 ≤ e → e < 255 → ∃ t, exec (.mctpControl b (.setEid e)) s = .next t ∧ SMap.get 0 t.mg.eids b.val = e ∧
       (∀ x : Fin 2, x ≠ b → SMap.get 0 t.mg.eids x.val = SMap.get 0 s.mg.eids x.val) ∧ t.set0 = s.set0 ∧ t.set1 = s.set1)

/-! ## Almanac, calibration and debug (chapter 16) -/

/-- R442: each second counts in the almanac's powered seconds and in ALM_STAT.SINCE_S, and clears what the second before had prompted.
R443 and R441: with no write in progress, an interval programs the copy that does not hold the newest valid one, with the next SEQ, and
leaves the newest as it was; a write whose read-back is valid makes its copy the newest. R442, R446: reads answer the image and the ring.
-/
def Obligations.AlmanacWrites : Prop :=
  (∀ s : State, 2 ≤ stage s → s.mpDown = false →
    (∃ t, exec .almanacSecond s = .next t ∧ t.promptSec = 0 ∧
      t.pfld .ALM_STAT_SINCE_S = min (s.pfld .ALM_STAT_SINCE_S + 1) (2 ^ Field.ALM_STAT_SINCE_S.info.len - 1) ∧
      t.alm 64 8 = (s.alm 64 8 + 1) % 2 ^ 64 ∧ t.nvm = s.nvm ∧ t.out = s.out ∧ t.set0 = s.set0 ∧ t.set1 = s.set1) ∧
    (s.almBusy = none → ∃ t, exec .almanacInterval s = .next t ∧ t.almBusy = some (if s.almNewest = 0 then 1 else 0) ∧
      t.nvmBytes (almCopyBase (if s.almNewest = 0 then 1 else 0)) 17136 = almImage s (s.pfld .ALM_STAT_SEQ + 1) false ∧
      (s.almNewest ≤ 1 → ∀ a, almCopyBase s.almNewest ≤ a → a < almCopyBase s.almNewest + 0x20_0000 →
        SMap.get 0xFF t.nvm a = SMap.get 0xFF s.nvm a) ∧ t.almMem = s.almMem ∧ t.regs = s.regs ∧ t.out = s.out)) ∧
  (∀ (s : State) (c : Nat), s.almBusy = some c → c ≤ 1 → s.almDue = [] → s.promptFull = false → ∃ t,
    exec (.almanacWriteDone true) s = .next t ∧ t.almBusy = none ∧ t.almNewest = c ∧
      t.pfld .ALM_STAT_SEQ = (s.pfld .ALM_STAT_SEQ + 1) % 2 ^ Field.ALM_STAT_SEQ.info.len ∧
      (∀ a, almCopyBase c ≤ a → a < almCopyBase c + 0x20_0000 → SMap.get 0xFF t.nvm a = SMap.get 0xFF s.nvm a)) ∧
  ∀ (s : State) (v : Via), Claims.atMailbox s v →
    (stage s ≠ 12 → exec (.almFlush v) s = .next (answer (almWrite s false) v 0xC011 0)) ∧
    (∀ off len, off + len ≤ 17136 → exec (.almRead v off len) s =
      .next (answer s v 0xC010 0 0 (slice (almImage s (s.pfld .ALM_STAT_SEQ) false) off len))) ∧
    ∀ first count, count ≤ 256 → exec (.ringRead v first count) s = .next (answer s v 0xC012 0 0
      ((List.range count).flatMap fun j => readMem s.almMem (8944 + 32 * ((first + j) % 256)) 32))

/-- R448: the calibration block is overwritten in four steps: a code is armed, confirmed within 10 s with the owner's authority, the block
is staged, and a commit of a well-formed block locks it again; a late or wrong code leaves it locked; 600 s lock it. -/
def Obligations.CalibrationSteps : Prop :=
  ∀ (s : State) (v : Via), Claims.atMailbox s v →
    (∀ off len, off + len ≤ 0x10_0000 → exec (.calRead v off len) s = .next (answer s v 0xC013 0 0 (s.nvmBytes (calBase + off) len))) ∧
    (stage s ≠ 12 → exec (.calArm v) s = .next (answer (onMg s.spend fun m => { m with
        calCode := some (s.freeBytes 4), calAt := s.time 0 }) v 0xC014 0 0 (s.freeBytes 4)) ∧
      ∀ code c, s.mg.calCode = some c → let auth := (takeAuth s v 0xC015 code).2
        let late := s.mg.calAt + 10000000000 < s.time 0
        ∃ t, exec (.calConfirm v code) s = .next (answer t v 0xC015 (if !auth then 3 else if late then 2 else if c ≠ code then 4 else 0)) ∧
          t.nvm = s.nvm ∧ t.mg.calCode = (if auth then none else some c) ∧
          if auth ∧ ¬late ∧ c = code then
            calUnlocked t = true ∧ t.mg.calStage = s.cal ∧ t.pfld .SEC_STAT_CAL_UNLOCK_SEEN = 1
          else calUnlocked t = calUnlocked s ∧ t.mg.calStage = s.mg.calStage) ∧
    (calUnlocked s = true →
      (∀ (off : Nat) (d : List Byte), off + d.length ≤ 0x10_0000 → exec (.calWrite v off d) s =
        .next (answer (onMg s fun m => { m with calStage := writeMem m.calStage off d }) v 0xC016 0)) ∧
      (calFormOk s.mg.calStage = true → ∃ t, exec (.calCommit v) s = .next (answer t v 0xC017 0) ∧ calUnlocked t = false ∧
        t.calOver = true ∧ leNat (t.nvmBytes (calBase + 6) 1) = 1 ∧
        (∀ a, a < calBase ∨ calBase + 0x10_0000 ≤ a → SMap.get 0xFF t.nvm a = SMap.get 0xFF s.nvm a))) ∧
    exec .calUnlockExpire s = .next (s.setPfld .ALM_STAT_CAL_UNLOCKED 0 0)

/-- R449 and R450: in a set in service, DEBUG_HOLD sets and DEBUG_RELEASE clears exactly the named HOLD bits; under DEBUG_OK a slot in
state 2, 3 or 5 is held at once, and a released one that waits for no FENCE issues again; without DEBUG_OK no slot is held. DEBUG_STEP of
slots none of which is held changes nothing; of one held slot whose next descriptor may issue, it issues exactly that descriptor, which
starts in its unit, records its TAG in LAST_TAG and holds the slot again. -/
def Obligations.DebugHolds : Prop :=
  ∀ (s : State) (i : SetId) (k : CoreId), s.Inv → debugOpen s i = true →
    (∀ m : Fin 256, ∃ t, exec (.debugHold i k m) s = .next (settle t i) ∧
      t.fld i .CORE_DBG_HOLD k.val = s.fld i .CORE_DBG_HOLD k.val ||| m.val ∧ (t.st i).mem = (s.st i).mem ∧ t.out = s.out ∧
      (s.pfld .ALM_CFG_DEBUG_OK = 0 → ∀ n, slotState t i k.val n = slotState s i k.val n) ∧
      (s.pfld .ALM_CFG_DEBUG_OK = 1 → ∀ n < 8, bit m.val n = true → slotState s i k.val n = 3 → slotState t i k.val n = 7)) ∧
    (∀ m : Fin 256, ∃ t, exec (.debugRelease i k m) s = .next (settle t i) ∧ (t.st i).mem = (s.st i).mem ∧ t.out = s.out ∧
      (∀ n < 8, bit (t.fld i .CORE_DBG_HOLD k.val) n = (bit (s.fld i .CORE_DBG_HOLD k.val) n && !bit m.val n)) ∧
      ∀ n < 8, bit m.val n = true → bit (s.fld i .CORE_DBG_HOLD k.val) n = true → slotState s i k.val n = 7 →
        (s.slot i k.val n).fence = none → slotState t i k.val n = 1) ∧
    ∀ m : Fin 256, ((∀ n < 8, bit m.val n = true → slotState s i k.val n ≠ 7) → exec (.debugStep i k m) s = .next (settle s i)) ∧
      ∀ (n pc : Nat) (d : List Byte) (q : List (Nat × List Byte)) (t : DType), n < 8 → m.val = 2 ^ n → slotState s i k.val n = 7 →
        (s.slot i k.val n).fence = none → (s.slot i k.val n).prefetch = (pc, d) :: q → dtype d = some t →
        let ready := setSlotState s i k.val n 1
        let r := issueFrom ready i k.val n pc t d
        let held := setSlotState (r.1.setFld i .CORE_DBG_LAST_TAG k.val (leAt d 6 2)) i k.val n 7
        (∀ w, issueCheck ready i k.val n (ready.fld i .CORE_SLOTn_PC_JOB (slotIx k.val n)) t d ≠ .waits w) →
        slotState r.1 i k.val n ≠ 0 → slotState r.1 i k.val n ≠ 4 → slotState r.1 i k.val n ≠ 6 →
        exec (.debugStep i k m) s = .next (settle (match r.2 with | some e => startEntry held i k.val t e | none => held) i)

/-! ## The whole block -/

/-- The block's step: the command at the front of the queue is carried out with the rest of the queue. -/
def Obligations.StepTakesFront : Prop :=
  ∀ (c : Instr) (q : List Instr) (s : State), step { s with pending := c :: q } = exec c { s with pending := q }

/-- The model's own choices (log entries 3 and 4, the model's, no rule of the manual): an empty queue idles the block, and no word spells a
command, since the table gives its rows no bits. -/
def Obligations.IdleAndWords : Prop :=
  (∀ s : State, s.pending = [] → step s = .next s) ∧ ∀ nbits w : Nat, decodeTableWord nbits w = none ∧ ∀ s : State, s.withFetchWord nbits w = s

/-- Every command completes with a next state, in every state; it leaves the queue of waiting commands, and the messages that had left
the block, as they were, and adds its own messages behind them. -/
def Obligations.EveryCommandCompletes : Prop :=
  ∀ (c : Instr) (s : State), ∃ t, exec c s = .next t ∧ t.pending = s.pending ∧ keepsMessages s t

/-- After reset every register field holds a value of its width and every memory is in canonical form, whatever the queue holds. -/
def Obligations.InvAtReset : Prop := State.reset.Inv ∧ ∀ q : List Instr, State.Inv { State.reset with pending := q }

/-- Every step keeps it that every register field holds a value of its width, that no register and no memory lists what it would read
unlisted, and that the NVM holds nothing beyond 0x7FF_FFFF. -/
def Obligations.StepKeepsInv : Prop := ∀ s t : State, s.Inv → step s = .next t → t.Inv

/-- R4, R377, R380 to R382 and R393: no step takes a fuse back: FW_SVN does not fall, a slot that holds an owner's hash keeps it, a revoked
slot stays revoked, and the arrays disabled at test, the firmware key and the ROM stand. Table 14-1: no step changes a byte of the
identity block of NVM. -/
def Obligations.FusesAndIdentityStand : Prop :=
  ∀ s t : State, s.Inv → step s = .next t → s.fuses.Le t.fuses ∧ sameIdentity s t

/-- R436, Table 15-9: every report is a 32-byte record with its fields in their places; it reads back as written when they fit; a set's
log and the management processor's log take exactly these bytes. -/
def Obligations.FaultRecordRoundTrip : Prop :=
  (∀ (r : FRec) (i : SetId), r.die < 2 ^ 5 → let b := r.bytes i
    b.length = 32 ∧ leAt b 0 2 = r.code % 2 ^ 16 ∧ leAt b 2 1 = r.sev % 2 ^ 8 ∧ leAt b 3 1 = r.action % 2 ^ 8 ∧
      bits (leAt b 4 4) 0 18 = r.place % 2 ^ 18 ∧ bits (leAt b 4 4) 18 1 = i.val ∧ bits (leAt b 4 4) 19 5 = r.die ∧
      bits (leAt b 4 4) 24 7 = r.unit % 2 ^ 7 ∧ bits (leAt b 4 4) 31 1 = 0 ∧ leAt b 8 1 = r.sub % 2 ^ 8 ∧
      leAt b 9 1 = r.cause % 2 ^ 8 ∧ leAt b 10 2 = r.job % 2 ^ 16 ∧ leAt b 12 2 = r.sess % 2 ^ 16 ∧ leAt b 14 2 = r.tag % 2 ^ 16 ∧
      leAt b 16 8 = r.time % 2 ^ 64 ∧ leAt b 24 8 = r.detail % 2 ^ 64) ∧
  (∀ (r : FRec) (i : SetId), r.code < 2 ^ 16 → r.sev < 2 ^ 8 → r.action < 2 ^ 8 → r.place < 2 ^ 18 → r.die < 2 ^ 5 → r.unit < 2 ^ 7 →
    r.sub < 2 ^ 8 → r.cause < 2 ^ 8 → r.job < 2 ^ 16 → r.sess < 2 ^ 16 → r.tag < 2 ^ 16 → r.time < 2 ^ 64 → r.detail < 2 ^ 64 →
    frecOf (r.bytes i) = r) ∧
  (∀ (s : State) (i : SetId) (r : FRec) (w : Nat), w < 4 →
    (logRecord s i r).fld i .SET_FLOGe_w_REC (4 * s.fld i .SET_FLOG_PTR_HEAD + w) = leAt (r.bytes i) (8 * w) 8) ∧
  ∀ (s : State) (i : SetId) (r : FRec), ∃ l, (deliver s i r).cxlLog = s.cxlLog ++ [(l, r.bytes i)]

/-- R121 and R123: bytes stored in one stack, or outside HBM, read back as stored with valid check bits, and every other byte of the set,
the other set, the registers and the canonical form of the memory stand; words that the bytes cover in part were valid before. -/
def Obligations.StoreReadsBack : Prop :=
  ∀ (s : State) (i : SetId) (a : Nat) (d : List Byte), onFenced s i a = false → stackRest a d.length = d.length →
    (a % 32 = 0 ∨ chkOf s i a = 0) → ((a + d.length) % 32 = 0 ∨ chkOf s i (a + d.length) = 0) →
    let t := store s i a d
    readMem (t.st i).mem a d.length = d ∧ (∀ b, b < a ∨ a + d.length ≤ b → SMap.get 0 (t.st i).mem b = SMap.get 0 (s.st i).mem b) ∧
      (∀ k, a / 32 ≤ k → k < (a + d.length + 31) / 32 → d ≠ [] → SMap.get 0 (t.st i).chk k = 0) ∧
      (Memory.wf (s.st i).mem = true → Memory.wf (t.st i).mem = true) ∧ (t.st i).regs = (s.st i).regs ∧
      (∀ j, j ≠ i → t.st j = s.st j) ∧ t.regs = s.regs ∧ t.out = s.out ∧ t.hostMem = s.hostMem

/-- R392: a set fetches no command from the SQ of a page whose job is not ACTIVE: whatever SQ_FETCH brings, SQ_HEAD of such a page stands,
and so do the commands of the page, fetched and waiting. -/
def Obligations.InactiveJobsFetchNothing : Prop :=
  ∀ (s : State) (i : SetId) (cmd : List Byte) (data : Option (List Byte)), ∃ t, exec (.sqFetch i cmd data) s = .next t ∧
    ∀ p, s.fld i .MEM_JOBj_STATE (s.pfld .HB_PAGEt_CFG_JOB p) ≠ 1 → t.pfld .SESS_SQ_PTR_HEAD p = s.pfld .SESS_SQ_PTR_HEAD p ∧
      t.pfld .SESS_SQ_PTR_TAIL p = s.pfld .SESS_SQ_PTR_TAIL p ∧
      (t.st i).su.cmds.filter (fun c => c.page = p) = (s.st i).su.cmds.filter fun c => c.page = p
end

