-- ==== Sys2Proof/Laws/Sparse.lean ====
section
/-! SUPPORT. What the operations of a sparse map do, and that they keep its canonical form. -/

namespace Sys2Proof.Machine.SMap

variable {α : Type} {d : α} {m n : SMap α} {k j : Nat} {v : α}

theorem get_keep (p : Nat → Bool) : get d (keep p m) k = if p k then get d m k else d := by
  induction m with
  | nil => simp [keep, get]
  | cons e t ih =>
    obtain ⟨a, w⟩ := e
    by_cases h : p a
    · by_cases hk : a = k
      · subst hk; simp [keep, List.filter, h, get]
      · simpa [keep, List.filter, h, get, hk] using ih
    · by_cases hk : a = k
      · subst hk; simp [keep, List.filter, h] at ih ⊢; exact ih
      · simpa [keep, List.filter, h, get, hk] using ih

theorem get_ins : get d (ins k v m) j = if j = k then v else get d m j := by
  induction m with
  | nil => simp [ins, get, eq_comm]
  | cons e t ih =>
    obtain ⟨a, w⟩ := e
    by_cases h1 : k < a
    · simp [ins, h1, get, eq_comm]
    · by_cases h2 : k = a
      · subst h2
        by_cases hj : j = k
        · simp [ins, get, hj]
        · simp [ins, get, hj, Ne.symm hj]
      · by_cases hj : a = j
        · subst hj; simp [ins, h1, h2, get, Ne.symm h2]
        · simp [ins, h1, h2, get, hj, ih]

theorem get_put [DecidableEq α] : get d (put d m k v) j = if j = k then v else get d m j := by
  unfold put
  split
  · rename_i h; subst h
    by_cases hj : j = k <;> simp [erase, get_keep, hj]
  · exact get_ins

@[simp] theorem get_put_same [DecidableEq α] : get d (put d m k v) k = v := by simp [get_put]

theorem get_put_ne [DecidableEq α] (h : j ≠ k) : get d (put d m k v) j = get d m j := by simp [get_put, h]

theorem get_put_other [DecidableEq α] {c : α} (h : j ≠ k) : get c (put d m k v) j = get c m j := by
  unfold put
  split
  · simp [erase, get_keep, h]
  · simp [get_ins, h]

theorem get_upd [DecidableEq α] (f : α → α) : get d (upd d m k f) j = if j = k then f (get d m k) else get d m j := get_put

theorem get_append_right (h : ∀ e ∈ m, e.1 ≠ k) : get d (m ++ n) k = get d n k := by
  induction m with
  | nil => rfl
  | cons e t ih =>
    have he : e.1 ≠ k := h e (by simp)
    simp [get, he, ih fun x hx => h x (by simp [hx])]

theorem get_of_not_mem (h : ∀ e ∈ m, e.1 ≠ k) : get d m k = d := by
  have := get_append_right (n := []) (d := d) h
  simpa [get] using this

theorem get_append_left (h : ∀ e ∈ n, e.1 ≠ k) : get d (m ++ n) k = get d m k := by
  induction m with
  | nil => simpa [get] using get_of_not_mem h
  | cons e t ih => simp [get, ih]

/-! ## The canonical form -/

theorem sorted_iff : sorted m = true ↔ m.Pairwise fun a b => a.1 < b.1 := by simp [sorted]

theorem sorted_keep (p : Nat → Bool) (h : sorted m = true) : sorted (keep p m) = true :=
  sorted_iff.2 ((sorted_iff.1 h).filter _)

theorem mem_ins {e : Nat × α} (h : e ∈ ins k v m) : e = (k, v) ∨ e ∈ m := by
  induction m with
  | nil => simpa [ins] using h
  | cons x t ih =>
    obtain ⟨a, w⟩ := x
    unfold ins at h
    split at h
    · simpa using h
    · split at h
      · simp at h; rcases h with h | h
        · exact .inl h
        · exact .inr (by simp [h])
      · simp at h; rcases h with h | h
        · exact .inr (by simp [h])
        · rcases ih h with h | h
          · exact .inl h
          · exact .inr (by simp [h])

theorem sorted_ins (h : sorted m = true) : sorted (ins k v m) = true := by
  rw [sorted_iff] at *
  induction m with
  | nil => simp [ins]
  | cons e t ih =>
    obtain ⟨a, w⟩ := e
    obtain ⟨h1, h2⟩ := List.pairwise_cons.1 h
    unfold ins
    split
    · rename_i hk
      refine List.pairwise_cons.2 ⟨fun x hx => ?_, h⟩
      rcases List.mem_cons.1 hx with rfl | hx
      · exact hk
      · exact lt_trans hk (h1 x hx)
    · split
      · rename_i hk; subst hk; exact List.pairwise_cons.2 ⟨h1, h2⟩
      · refine List.pairwise_cons.2 ⟨fun x hx => ?_, ih h2⟩
        rcases mem_ins hx with rfl | hx
        · exact (by omega : a < k)
        · exact h1 x hx

theorem sorted_put [DecidableEq α] (h : sorted m = true) : sorted (put d m k v) = true := by
  unfold put; split
  · exact sorted_keep _ h
  · exact sorted_ins h

theorem mem_keep {p : Nat → Bool} {e : Nat × α} : e ∈ keep p m ↔ e ∈ m ∧ p e.1 = true := by simp [keep]

theorem wf_iff [DecidableEq α] : wf d m = true ↔ sorted m = true ∧ ∀ e ∈ m, e.2 ≠ d := by
  simp [wf, sorted]

theorem wf_keep [DecidableEq α] (p : Nat → Bool) (h : wf d m = true) : wf d (keep p m) = true := by
  rw [wf_iff] at *
  exact ⟨sorted_keep p h.1, fun e he => h.2 e (mem_keep.1 he).1⟩

theorem wf_put [DecidableEq α] (h : wf d m = true) : wf d (put d m k v) = true := by
  rw [wf_iff] at *
  refine ⟨sorted_put h.1, fun e he => ?_⟩
  unfold put at he
  split at he
  · exact h.2 e (mem_keep.1 he).1
  · rename_i hv
    rcases mem_ins he with rfl | he
    · exact hv
    · exact h.2 e he

theorem wf_append [DecidableEq α] (h1 : wf d m = true) (h2 : wf d n = true) (h : ∀ a ∈ m, ∀ b ∈ n, a.1 < b.1) :
    wf d (m ++ n) = true := by
  rw [wf_iff] at *
  refine ⟨sorted_iff.2 (List.pairwise_append.2 ⟨sorted_iff.1 h1.1, sorted_iff.1 h2.1, h⟩), fun e he => ?_⟩
  rcases List.mem_append.1 he with he | he
  · exact h1.2 e he
  · exact h2.2 e he

end Sys2Proof.Machine.SMap
end

