-- ==== Sys2Proof/Laws/Memory.lean ====
section
/-! SUPPORT. Reading and writing the byte maps: a read returns what was written, other addresses keep their bytes, and every
operation keeps the canonical form. -/

namespace Sys2Proof.Machine

theorem mem_cellsFrom {e : Nat × Byte} : ∀ {d : List Byte} {a : Nat}, e ∈ cellsFrom a d → a ≤ e.1 ∧ e.1 < a + d.length ∧ e.2 ≠ 0
  | [], a, h => by simp [cellsFrom] at h
  | b :: t, a, h => by
    unfold cellsFrom at h
    split at h
    · have := mem_cellsFrom h
      exact ⟨by omega, by simp; omega, this.2.2⟩
    · rename_i hb
      rcases List.mem_cons.1 h with rfl | h
      · exact ⟨by simp, by simp, hb⟩
      · have := mem_cellsFrom h
        exact ⟨by omega, by simp; omega, this.2.2⟩

theorem wf_cellsFrom : ∀ (d : List Byte) (a : Nat), Memory.wf (cellsFrom a d) = true
  | [], a => by simp [cellsFrom, Memory.wf, SMap.wf]
  | b :: t, a => by
    unfold cellsFrom
    split
    · exact wf_cellsFrom t (a + 1)
    · rename_i hb
      have := wf_cellsFrom t (a + 1)
      unfold Memory.wf at *
      rw [SMap.wf_iff] at *
      refine ⟨SMap.sorted_iff.2 (List.pairwise_cons.2 ⟨fun x hx => ?_, SMap.sorted_iff.1 this.1⟩), fun e he => ?_⟩
      · have := mem_cellsFrom hx; show a < x.1; omega
      · rcases List.mem_cons.1 he with rfl | he
        · exact hb
        · exact this.2 e he

theorem get_cellsFrom : ∀ (d : List Byte) (a x : Nat), SMap.get 0 (cellsFrom a d) x = if a ≤ x ∧ x < a + d.length then d.getD (x - a) 0 else 0
  | [], a, x => by simp [cellsFrom, SMap.get]
  | b :: t, a, x => by
    have ih := get_cellsFrom t (a + 1) x
    unfold cellsFrom
    by_cases hx : x = a
    · subst hx
      split
      · rename_i hb; rw [ih, if_neg (by omega)]; simp [hb]
      · simp [SMap.get]
    · have e : (a ≤ x ∧ x < a + (b :: t).length) ↔ (a + 1 ≤ x ∧ x < a + 1 + t.length) := by simp; omega
      have g : (b :: t).getD (x - a) 0 = t.getD (x - (a + 1)) 0 ∨ x < a := by
        by_cases h : x < a
        · exact .inr h
        · obtain ⟨n, hn⟩ : ∃ n, x - a = n + 1 := ⟨x - a - 1, by omega⟩
          exact .inl (by rw [hn, show x - (a + 1) = n by omega]; rfl)
      have : SMap.get 0 (if b = 0 then cellsFrom (a + 1) t else (a, b) :: cellsFrom (a + 1) t) x = SMap.get 0 (cellsFrom (a + 1) t) x := by
        split
        · rfl
        · simp [SMap.get, Ne.symm hx]
      rw [this, ih]
      by_cases h : a + 1 ≤ x ∧ x < a + 1 + t.length
      · rw [if_pos h, if_pos (e.2 h)]
        rcases g with g | g
        · exact g.symm
        · omega
      · rw [if_neg h, if_neg (fun h' => h (e.1 h'))]

/-- A write puts its bytes at its addresses and leaves every other address alone. -/
theorem get_writeMem (m : SMap Byte) (a : Nat) (d : List Byte) (x : Nat) :
    SMap.get 0 (writeMem m a d) x = if a ≤ x ∧ x < a + d.length then d.getD (x - a) 0 else SMap.get 0 m x := by
  have low (e) (he : e ∈ SMap.keep (fun k => k < a) m) : e.1 < a := by simpa using (SMap.mem_keep.1 he).2
  have high (e) (he : e ∈ SMap.keep (fun k => a + d.length ≤ k) m) : a + d.length ≤ e.1 := by simpa using (SMap.mem_keep.1 he).2
  have mid (e) (he : e ∈ cellsFrom a d) := mem_cellsFrom he
  unfold writeMem
  by_cases h1 : x < a
  · rw [if_neg (by omega), SMap.get_append_left fun e he => by have := high e he; omega,
      SMap.get_append_left fun e he => by have := mid e he; omega, SMap.get_keep, if_pos (by simpa using h1)]
  · by_cases h2 : x < a + d.length
    · rw [if_pos ⟨by omega, h2⟩, SMap.get_append_left fun e he => by have := high e he; omega,
        SMap.get_append_right fun e he => by have := low e he; omega, get_cellsFrom, if_pos ⟨by omega, h2⟩]
    · rw [if_neg (by omega), SMap.get_append_right, SMap.get_keep, if_pos (by simp; omega)]
      intro e he
      rcases List.mem_append.1 he with he | he
      · have := low e he; omega
      · have := mid e he; omega

theorem get_writeMem_outside (m : SMap Byte) {a x : Nat} {d : List Byte} (h : x < a ∨ a + d.length ≤ x) :
    SMap.get 0 (writeMem m a d) x = SMap.get 0 m x := by
  rw [get_writeMem, if_neg (by omega)]

@[simp] theorem readMem_writeMem (m : SMap Byte) (a : Nat) (d : List Byte) : readMem (writeMem m a d) a d.length = d := by
  refine List.ext_getElem (by simp [readMem]) fun n h1 h2 => ?_
  simp only [readMem, List.getElem_map, List.getElem_range]
  have : n < d.length := h2
  rw [get_writeMem, if_pos ⟨by omega, by omega⟩]
  simp [this]

/-- Bytes written together read back. -/
theorem readMem_writeMem_part (m : SMap Byte) {a x n : Nat} {d : List Byte} (h1 : a ≤ x) (h2 : x + n ≤ a + d.length) :
    readMem (writeMem m a d) x n = (d.drop (x - a)).take n := by
  refine List.ext_getElem (by simp [readMem]; omega) fun j h3 h4 => ?_
  have h5 : j < n := by simpa [readMem] using h3
  have h6 : x - a + j < d.length := by omega
  have h7 : x + j - a = x - a + j := by omega
  simp only [readMem, List.getElem_map, List.getElem_range, List.getElem_take, List.getElem_drop]
  rw [get_writeMem, if_pos (by omega), h7, List.getD_eq_getElem?_getD, List.getElem?_eq_getElem h6]
  rfl

theorem wf_writeMem {m : SMap Byte} (h : Memory.wf m = true) (a : Nat) (d : List Byte) : Memory.wf (writeMem m a d) = true := by
  unfold Memory.wf writeMem at *
  have low (e) (he : e ∈ SMap.keep (fun k => k < a) m) : e.1 < a := by simpa using (SMap.mem_keep.1 he).2
  have high (e) (he : e ∈ SMap.keep (fun k => a + d.length ≤ k) m) : a + d.length ≤ e.1 := by simpa using (SMap.mem_keep.1 he).2
  refine SMap.wf_append (SMap.wf_append (SMap.wf_keep _ h) (wf_cellsFrom d a) fun x hx y hy => ?_) (SMap.wf_keep _ h) fun x hx y hy => ?_
  · have := low x hx; have := mem_cellsFrom hy; omega
  · have := high y hy
    rcases List.mem_append.1 hx with hx | hx
    · have := low x hx; omega
    · have := mem_cellsFrom hx; omega

theorem wf_zeroMem {m : SMap Byte} (h : Memory.wf m = true) (a n : Nat) : Memory.wf (zeroMem m a n) = true := SMap.wf_keep _ h

theorem get_zeroMem (m : SMap Byte) (a n x : Nat) : SMap.get 0 (zeroMem m a n) x = if a ≤ x ∧ x < a + n then 0 else SMap.get 0 m x := by
  unfold zeroMem
  rw [SMap.get_keep]
  by_cases h : a ≤ x ∧ x < a + n
  · rw [if_pos h, if_neg (by simp; omega)]
  · rw [if_neg h, if_pos (by simp; omega)]

end Sys2Proof.Machine
end

