-- ==== Sys2Proof/Laws/State.lean ====
section
/-! SUPPORT. Reading after writing, for the state's fields, the sets and the register fields. -/

namespace Sys2Proof.Machine

/-! ## Register fields -/

theorem Field.code_lt (f : Field) : f.code < 1024 := by cases f <;> decide

theorem Field.rst_lt (f : Field) : f.info.rst < 2 ^ f.info.len := by cases f <;> decide

theorem Field.code_inj {f g : Field} (h : f.code = g.code) : f = g := by
  have e := congrArg Field.ofNat (show f.ctorIdx = g.ctorIdx from h)
  rwa [Field.ofNat_ctorIdx, Field.ofNat_ctorIdx] at e

theorem Field.key_inj {f g : Field} {x y : Nat} (h : f.key x = g.key y) : f = g ∧ x = y := by
  have hf := f.code_lt
  have hg := g.code_lt
  unfold Field.key at h
  have : f.code = g.code := by omega
  exact ⟨Field.code_inj this, by omega⟩

@[simp] theorem getField_putField_same (m : SMap Nat) (f : Field) (ix v : Nat) : getField (putField m f ix v) f ix = v % 2 ^ f.info.len := by
  simp [getField, putField]

theorem getField_putField_ne (m : SMap Nat) {f g : Field} {ix jx : Nat} (v : Nat) (h : ¬(g = f ∧ jx = ix)) :
    getField (putField m f ix v) g jx = getField m g jx := by
  unfold getField putField
  have ne : g.key jx ≠ f.key ix := fun e => h (Field.key_inj e)
  exact SMap.get_put_other ne

/-! ## The package's fields -/

namespace State

@[simp] theorem setPfld_pending (s : State) (g : Field) (ix v : Nat) : (s.setPfld g ix v).pending = s.pending := rfl
@[simp] theorem setPfld_out (s : State) (g : Field) (ix v : Nat) : (s.setPfld g ix v).out = s.out := rfl
@[simp] theorem setPfld_freeCtr (s : State) (g : Field) (ix v : Nat) : (s.setPfld g ix v).freeCtr = s.freeCtr := rfl
@[simp] theorem setPfld_set0 (s : State) (g : Field) (ix v : Nat) : (s.setPfld g ix v).set0 = s.set0 := rfl
@[simp] theorem setPfld_set1 (s : State) (g : Field) (ix v : Nat) : (s.setPfld g ix v).set1 = s.set1 := rfl
@[simp] theorem setPfld_hostMem (s : State) (g : Field) (ix v : Nat) : (s.setPfld g ix v).hostMem = s.hostMem := rfl
@[simp] theorem setPfld_msix (s : State) (g : Field) (ix v : Nat) : (s.setPfld g ix v).msix = s.msix := rfl
@[simp] theorem setPfld_msixPending (s : State) (g : Field) (ix v : Nat) : (s.setPfld g ix v).msixPending = s.msixPending := rfl
@[simp] theorem setPfld_msixOn (s : State) (g : Field) (ix v : Nat) : (s.setPfld g ix v).msixOn = s.msixOn := rfl
@[simp] theorem setPfld_ibiOn (s : State) (g : Field) (ix v : Nat) : (s.setPfld g ix v).ibiOn = s.ibiOn := rfl
@[simp] theorem setPfld_mpDown (s : State) (g : Field) (ix v : Nat) : (s.setPfld g ix v).mpDown = s.mpDown := rfl
@[simp] theorem setPfld_mpQueue (s : State) (g : Field) (ix v : Nat) : (s.setPfld g ix v).mpQueue = s.mpQueue := rfl
@[simp] theorem setPfld_cueSeq (s : State) (g : Field) (ix v : Nat) : (s.setPfld g ix v).cueSeq = s.cueSeq := rfl
@[simp] theorem setPfld_nvm (s : State) (g : Field) (ix v : Nat) : (s.setPfld g ix v).nvm = s.nvm := rfl
@[simp] theorem setPfld_almMem (s : State) (g : Field) (ix v : Nat) : (s.setPfld g ix v).almMem = s.almMem := rfl
@[simp] theorem setPfld_almNewest (s : State) (g : Field) (ix v : Nat) : (s.setPfld g ix v).almNewest = s.almNewest := rfl
@[simp] theorem setPfld_almBusy (s : State) (g : Field) (ix v : Nat) : (s.setPfld g ix v).almBusy = s.almBusy := rfl
@[simp] theorem setPfld_almDue (s : State) (g : Field) (ix v : Nat) : (s.setPfld g ix v).almDue = s.almDue := rfl
@[simp] theorem setPfld_promptNext (s : State) (g : Field) (ix v : Nat) : (s.setPfld g ix v).promptNext = s.promptNext := rfl
@[simp] theorem setPfld_promptSec (s : State) (g : Field) (ix v : Nat) : (s.setPfld g ix v).promptSec = s.promptSec := rfl
@[simp] theorem setPfld_promptFull (s : State) (g : Field) (ix v : Nat) : (s.setPfld g ix v).promptFull = s.promptFull := rfl
@[simp] theorem setPfld_calOver (s : State) (g : Field) (ix v : Nat) : (s.setPfld g ix v).calOver = s.calOver := rfl
@[simp] theorem setPfld_cxlLog (s : State) (g : Field) (ix v : Nat) : (s.setPfld g ix v).cxlLog = s.cxlLog := rfl
@[simp] theorem setPfld_hostHeld (s : State) (g : Field) (ix v : Nat) : (s.setPfld g ix v).hostHeld = s.hostHeld := rfl
@[simp] theorem setPfld_cqPhase (s : State) (g : Field) (ix v : Nat) : (s.setPfld g ix v).cqPhase = s.cqPhase := rfl
@[simp] theorem setPfld_cqResv (s : State) (g : Field) (ix v : Nat) : (s.setPfld g ix v).cqResv = s.cqResv := rfl
@[simp] theorem setPfld_pkgLost (s : State) (g : Field) (ix v : Nat) : (s.setPfld g ix v).pkgLost = s.pkgLost := rfl
@[simp] theorem setPfld_sprintRan (s : State) (g : Field) (ix v : Nat) : (s.setPfld g ix v).sprintRan = s.sprintRan := rfl
@[simp] theorem setPfld_svers (s : State) (g : Field) (ix v : Nat) : (s.setPfld g ix v).svers = s.svers := rfl
@[simp] theorem setPfld_cal (s : State) (g : Field) (ix v : Nat) : (s.setPfld g ix v).cal = s.cal := rfl
@[simp] theorem setPfld_fwVer (s : State) (g : Field) (ix v : Nat) : (s.setPfld g ix v).fwVer = s.fwVer := rfl
@[simp] theorem setPfld_cardDigest (s : State) (g : Field) (ix v : Nat) : (s.setPfld g ix v).cardDigest = s.cardDigest := rfl
@[simp] theorem setPfld_fuses (s : State) (g : Field) (ix v : Nat) : (s.setPfld g ix v).fuses = s.fuses := rfl
@[simp] theorem setPfld_pins (s : State) (g : Field) (ix v : Nat) : (s.setPfld g ix v).pins = s.pins := rfl
@[simp] theorem setPfld_pm (s : State) (g : Field) (ix v : Nat) : (s.setPfld g ix v).pm = s.pm := rfl
@[simp] theorem setPfld_mg (s : State) (g : Field) (ix v : Nat) : (s.setPfld g ix v).mg = s.mg := rfl
@[simp] theorem setPfld_sec (s : State) (g : Field) (ix v : Nat) : (s.setPfld g ix v).sec = s.sec := rfl
@[simp] theorem setPfld_cfg (s : State) (g : Field) (ix v : Nat) : (s.setPfld g ix v).cfg = s.cfg := rfl
@[simp] theorem setPfld_busMaster (s : State) (g : Field) (ix v : Nat) : (s.setPfld g ix v).busMaster = s.busMaster := rfl
@[simp] theorem setPfld_warm (s : State) (g : Field) (ix v : Nat) : (s.setPfld g ix v).warm = s.warm := rfl
@[simp] theorem setPfld_heldReqs (s : State) (g : Field) (ix v : Nat) : (s.setPfld g ix v).heldReqs = s.heldReqs := rfl

@[simp] theorem emit_pending (s : State) (k : EvKind) (i : Nat) (a : List Nat) (d : List Byte) : (s.emit k i a d).pending = s.pending := rfl
@[simp] theorem emit_freeCtr (s : State) (k : EvKind) (i : Nat) (a : List Nat) (d : List Byte) : (s.emit k i a d).freeCtr = s.freeCtr := rfl
@[simp] theorem emit_regs (s : State) (k : EvKind) (i : Nat) (a : List Nat) (d : List Byte) : (s.emit k i a d).regs = s.regs := rfl
@[simp] theorem emit_set0 (s : State) (k : EvKind) (i : Nat) (a : List Nat) (d : List Byte) : (s.emit k i a d).set0 = s.set0 := rfl
@[simp] theorem emit_set1 (s : State) (k : EvKind) (i : Nat) (a : List Nat) (d : List Byte) : (s.emit k i a d).set1 = s.set1 := rfl
@[simp] theorem emit_hostMem (s : State) (k : EvKind) (i : Nat) (a : List Nat) (d : List Byte) : (s.emit k i a d).hostMem = s.hostMem := rfl
@[simp] theorem emit_msix (s : State) (k : EvKind) (i : Nat) (a : List Nat) (d : List Byte) : (s.emit k i a d).msix = s.msix := rfl
@[simp] theorem emit_msixPending (s : State) (k : EvKind) (i : Nat) (a : List Nat) (d : List Byte) : (s.emit k i a d).msixPending = s.msixPending := rfl
@[simp] theorem emit_msixOn (s : State) (k : EvKind) (i : Nat) (a : List Nat) (d : List Byte) : (s.emit k i a d).msixOn = s.msixOn := rfl
@[simp] theorem emit_ibiOn (s : State) (k : EvKind) (i : Nat) (a : List Nat) (d : List Byte) : (s.emit k i a d).ibiOn = s.ibiOn := rfl
@[simp] theorem emit_mpDown (s : State) (k : EvKind) (i : Nat) (a : List Nat) (d : List Byte) : (s.emit k i a d).mpDown = s.mpDown := rfl
@[simp] theorem emit_mpQueue (s : State) (k : EvKind) (i : Nat) (a : List Nat) (d : List Byte) : (s.emit k i a d).mpQueue = s.mpQueue := rfl
@[simp] theorem emit_cueSeq (s : State) (k : EvKind) (i : Nat) (a : List Nat) (d : List Byte) : (s.emit k i a d).cueSeq = s.cueSeq := rfl
@[simp] theorem emit_nvm (s : State) (k : EvKind) (i : Nat) (a : List Nat) (d : List Byte) : (s.emit k i a d).nvm = s.nvm := rfl
@[simp] theorem emit_almMem (s : State) (k : EvKind) (i : Nat) (a : List Nat) (d : List Byte) : (s.emit k i a d).almMem = s.almMem := rfl
@[simp] theorem emit_almNewest (s : State) (k : EvKind) (i : Nat) (a : List Nat) (d : List Byte) : (s.emit k i a d).almNewest = s.almNewest := rfl
@[simp] theorem emit_almBusy (s : State) (k : EvKind) (i : Nat) (a : List Nat) (d : List Byte) : (s.emit k i a d).almBusy = s.almBusy := rfl
@[simp] theorem emit_almDue (s : State) (k : EvKind) (i : Nat) (a : List Nat) (d : List Byte) : (s.emit k i a d).almDue = s.almDue := rfl
@[simp] theorem emit_promptNext (s : State) (k : EvKind) (i : Nat) (a : List Nat) (d : List Byte) : (s.emit k i a d).promptNext = s.promptNext := rfl
@[simp] theorem emit_promptSec (s : State) (k : EvKind) (i : Nat) (a : List Nat) (d : List Byte) : (s.emit k i a d).promptSec = s.promptSec := rfl
@[simp] theorem emit_promptFull (s : State) (k : EvKind) (i : Nat) (a : List Nat) (d : List Byte) : (s.emit k i a d).promptFull = s.promptFull := rfl
@[simp] theorem emit_calOver (s : State) (k : EvKind) (i : Nat) (a : List Nat) (d : List Byte) : (s.emit k i a d).calOver = s.calOver := rfl
@[simp] theorem emit_cxlLog (s : State) (k : EvKind) (i : Nat) (a : List Nat) (d : List Byte) : (s.emit k i a d).cxlLog = s.cxlLog := rfl
@[simp] theorem emit_hostHeld (s : State) (k : EvKind) (i : Nat) (a : List Nat) (d : List Byte) : (s.emit k i a d).hostHeld = s.hostHeld := rfl
@[simp] theorem emit_cqPhase (s : State) (k : EvKind) (i : Nat) (a : List Nat) (d : List Byte) : (s.emit k i a d).cqPhase = s.cqPhase := rfl
@[simp] theorem emit_cqResv (s : State) (k : EvKind) (i : Nat) (a : List Nat) (d : List Byte) : (s.emit k i a d).cqResv = s.cqResv := rfl
@[simp] theorem emit_pkgLost (s : State) (k : EvKind) (i : Nat) (a : List Nat) (d : List Byte) : (s.emit k i a d).pkgLost = s.pkgLost := rfl
@[simp] theorem emit_sprintRan (s : State) (k : EvKind) (i : Nat) (a : List Nat) (d : List Byte) : (s.emit k i a d).sprintRan = s.sprintRan := rfl
@[simp] theorem emit_svers (s : State) (k : EvKind) (i : Nat) (a : List Nat) (d : List Byte) : (s.emit k i a d).svers = s.svers := rfl
@[simp] theorem emit_cal (s : State) (k : EvKind) (i : Nat) (a : List Nat) (d : List Byte) : (s.emit k i a d).cal = s.cal := rfl
@[simp] theorem emit_fwVer (s : State) (k : EvKind) (i : Nat) (a : List Nat) (d : List Byte) : (s.emit k i a d).fwVer = s.fwVer := rfl
@[simp] theorem emit_cardDigest (s : State) (k : EvKind) (i : Nat) (a : List Nat) (d : List Byte) : (s.emit k i a d).cardDigest = s.cardDigest := rfl
@[simp] theorem emit_fuses (s : State) (k : EvKind) (i : Nat) (a : List Nat) (d : List Byte) : (s.emit k i a d).fuses = s.fuses := rfl
@[simp] theorem emit_pins (s : State) (k : EvKind) (i : Nat) (a : List Nat) (d : List Byte) : (s.emit k i a d).pins = s.pins := rfl
@[simp] theorem emit_pm (s : State) (k : EvKind) (i : Nat) (a : List Nat) (d : List Byte) : (s.emit k i a d).pm = s.pm := rfl
@[simp] theorem emit_mg (s : State) (k : EvKind) (i : Nat) (a : List Nat) (d : List Byte) : (s.emit k i a d).mg = s.mg := rfl
@[simp] theorem emit_sec (s : State) (k : EvKind) (i : Nat) (a : List Nat) (d : List Byte) : (s.emit k i a d).sec = s.sec := rfl
@[simp] theorem emit_cfg (s : State) (k : EvKind) (i : Nat) (a : List Nat) (d : List Byte) : (s.emit k i a d).cfg = s.cfg := rfl
@[simp] theorem emit_busMaster (s : State) (k : EvKind) (i : Nat) (a : List Nat) (d : List Byte) : (s.emit k i a d).busMaster = s.busMaster := rfl
@[simp] theorem emit_warm (s : State) (k : EvKind) (i : Nat) (a : List Nat) (d : List Byte) : (s.emit k i a d).warm = s.warm := rfl
@[simp] theorem emit_heldReqs (s : State) (k : EvKind) (i : Nat) (a : List Nat) (d : List Byte) : (s.emit k i a d).heldReqs = s.heldReqs := rfl

@[simp] theorem spend_pending (s : State) : (s.spend).pending = s.pending := rfl
@[simp] theorem spend_out (s : State) : (s.spend).out = s.out := rfl
@[simp] theorem spend_regs (s : State) : (s.spend).regs = s.regs := rfl
@[simp] theorem spend_set0 (s : State) : (s.spend).set0 = s.set0 := rfl
@[simp] theorem spend_set1 (s : State) : (s.spend).set1 = s.set1 := rfl
@[simp] theorem spend_hostMem (s : State) : (s.spend).hostMem = s.hostMem := rfl
@[simp] theorem spend_msix (s : State) : (s.spend).msix = s.msix := rfl
@[simp] theorem spend_msixPending (s : State) : (s.spend).msixPending = s.msixPending := rfl
@[simp] theorem spend_msixOn (s : State) : (s.spend).msixOn = s.msixOn := rfl
@[simp] theorem spend_ibiOn (s : State) : (s.spend).ibiOn = s.ibiOn := rfl
@[simp] theorem spend_mpDown (s : State) : (s.spend).mpDown = s.mpDown := rfl
@[simp] theorem spend_mpQueue (s : State) : (s.spend).mpQueue = s.mpQueue := rfl
@[simp] theorem spend_cueSeq (s : State) : (s.spend).cueSeq = s.cueSeq := rfl
@[simp] theorem spend_nvm (s : State) : (s.spend).nvm = s.nvm := rfl
@[simp] theorem spend_almMem (s : State) : (s.spend).almMem = s.almMem := rfl
@[simp] theorem spend_almNewest (s : State) : (s.spend).almNewest = s.almNewest := rfl
@[simp] theorem spend_almBusy (s : State) : (s.spend).almBusy = s.almBusy := rfl
@[simp] theorem spend_almDue (s : State) : (s.spend).almDue = s.almDue := rfl
@[simp] theorem spend_promptNext (s : State) : (s.spend).promptNext = s.promptNext := rfl
@[simp] theorem spend_promptSec (s : State) : (s.spend).promptSec = s.promptSec := rfl
@[simp] theorem spend_promptFull (s : State) : (s.spend).promptFull = s.promptFull := rfl
@[simp] theorem spend_calOver (s : State) : (s.spend).calOver = s.calOver := rfl
@[simp] theorem spend_cxlLog (s : State) : (s.spend).cxlLog = s.cxlLog := rfl
@[simp] theorem spend_hostHeld (s : State) : (s.spend).hostHeld = s.hostHeld := rfl
@[simp] theorem spend_cqPhase (s : State) : (s.spend).cqPhase = s.cqPhase := rfl
@[simp] theorem spend_cqResv (s : State) : (s.spend).cqResv = s.cqResv := rfl
@[simp] theorem spend_pkgLost (s : State) : (s.spend).pkgLost = s.pkgLost := rfl
@[simp] theorem spend_sprintRan (s : State) : (s.spend).sprintRan = s.sprintRan := rfl
@[simp] theorem spend_svers (s : State) : (s.spend).svers = s.svers := rfl
@[simp] theorem spend_cal (s : State) : (s.spend).cal = s.cal := rfl
@[simp] theorem spend_fwVer (s : State) : (s.spend).fwVer = s.fwVer := rfl
@[simp] theorem spend_cardDigest (s : State) : (s.spend).cardDigest = s.cardDigest := rfl
@[simp] theorem spend_fuses (s : State) : (s.spend).fuses = s.fuses := rfl
@[simp] theorem spend_pins (s : State) : (s.spend).pins = s.pins := rfl
@[simp] theorem spend_pm (s : State) : (s.spend).pm = s.pm := rfl
@[simp] theorem spend_mg (s : State) : (s.spend).mg = s.mg := rfl
@[simp] theorem spend_sec (s : State) : (s.spend).sec = s.sec := rfl
@[simp] theorem spend_cfg (s : State) : (s.spend).cfg = s.cfg := rfl
@[simp] theorem spend_busMaster (s : State) : (s.spend).busMaster = s.busMaster := rfl
@[simp] theorem spend_warm (s : State) : (s.spend).warm = s.warm := rfl
@[simp] theorem spend_heldReqs (s : State) : (s.spend).heldReqs = s.heldReqs := rfl

@[simp] theorem putSet_pending (s : State) (i : SetId) (t : SetSt) : (s.putSet i t).pending = s.pending := by unfold putSet; split <;> rfl
@[simp] theorem putSet_out (s : State) (i : SetId) (t : SetSt) : (s.putSet i t).out = s.out := by unfold putSet; split <;> rfl
@[simp] theorem putSet_freeCtr (s : State) (i : SetId) (t : SetSt) : (s.putSet i t).freeCtr = s.freeCtr := by unfold putSet; split <;> rfl
@[simp] theorem putSet_regs (s : State) (i : SetId) (t : SetSt) : (s.putSet i t).regs = s.regs := by unfold putSet; split <;> rfl
@[simp] theorem putSet_hostMem (s : State) (i : SetId) (t : SetSt) : (s.putSet i t).hostMem = s.hostMem := by unfold putSet; split <;> rfl
@[simp] theorem putSet_msix (s : State) (i : SetId) (t : SetSt) : (s.putSet i t).msix = s.msix := by unfold putSet; split <;> rfl
@[simp] theorem putSet_msixPending (s : State) (i : SetId) (t : SetSt) : (s.putSet i t).msixPending = s.msixPending := by unfold putSet; split <;> rfl
@[simp] theorem putSet_msixOn (s : State) (i : SetId) (t : SetSt) : (s.putSet i t).msixOn = s.msixOn := by unfold putSet; split <;> rfl
@[simp] theorem putSet_ibiOn (s : State) (i : SetId) (t : SetSt) : (s.putSet i t).ibiOn = s.ibiOn := by unfold putSet; split <;> rfl
@[simp] theorem putSet_mpDown (s : State) (i : SetId) (t : SetSt) : (s.putSet i t).mpDown = s.mpDown := by unfold putSet; split <;> rfl
@[simp] theorem putSet_mpQueue (s : State) (i : SetId) (t : SetSt) : (s.putSet i t).mpQueue = s.mpQueue := by unfold putSet; split <;> rfl
@[simp] theorem putSet_cueSeq (s : State) (i : SetId) (t : SetSt) : (s.putSet i t).cueSeq = s.cueSeq := by unfold putSet; split <;> rfl
@[simp] theorem putSet_nvm (s : State) (i : SetId) (t : SetSt) : (s.putSet i t).nvm = s.nvm := by unfold putSet; split <;> rfl
@[simp] theorem putSet_almMem (s : State) (i : SetId) (t : SetSt) : (s.putSet i t).almMem = s.almMem := by unfold putSet; split <;> rfl
@[simp] theorem putSet_almNewest (s : State) (i : SetId) (t : SetSt) : (s.putSet i t).almNewest = s.almNewest := by unfold putSet; split <;> rfl
@[simp] theorem putSet_almBusy (s : State) (i : SetId) (t : SetSt) : (s.putSet i t).almBusy = s.almBusy := by unfold putSet; split <;> rfl
@[simp] theorem putSet_almDue (s : State) (i : SetId) (t : SetSt) : (s.putSet i t).almDue = s.almDue := by unfold putSet; split <;> rfl
@[simp] theorem putSet_promptNext (s : State) (i : SetId) (t : SetSt) : (s.putSet i t).promptNext = s.promptNext := by unfold putSet; split <;> rfl
@[simp] theorem putSet_promptSec (s : State) (i : SetId) (t : SetSt) : (s.putSet i t).promptSec = s.promptSec := by unfold putSet; split <;> rfl
@[simp] theorem putSet_promptFull (s : State) (i : SetId) (t : SetSt) : (s.putSet i t).promptFull = s.promptFull := by unfold putSet; split <;> rfl
@[simp] theorem putSet_calOver (s : State) (i : SetId) (t : SetSt) : (s.putSet i t).calOver = s.calOver := by unfold putSet; split <;> rfl
@[simp] theorem putSet_cxlLog (s : State) (i : SetId) (t : SetSt) : (s.putSet i t).cxlLog = s.cxlLog := by unfold putSet; split <;> rfl
@[simp] theorem putSet_hostHeld (s : State) (i : SetId) (t : SetSt) : (s.putSet i t).hostHeld = s.hostHeld := by unfold putSet; split <;> rfl
@[simp] theorem putSet_cqPhase (s : State) (i : SetId) (t : SetSt) : (s.putSet i t).cqPhase = s.cqPhase := by unfold putSet; split <;> rfl
@[simp] theorem putSet_cqResv (s : State) (i : SetId) (t : SetSt) : (s.putSet i t).cqResv = s.cqResv := by unfold putSet; split <;> rfl
@[simp] theorem putSet_pkgLost (s : State) (i : SetId) (t : SetSt) : (s.putSet i t).pkgLost = s.pkgLost := by unfold putSet; split <;> rfl
@[simp] theorem putSet_sprintRan (s : State) (i : SetId) (t : SetSt) : (s.putSet i t).sprintRan = s.sprintRan := by unfold putSet; split <;> rfl
@[simp] theorem putSet_svers (s : State) (i : SetId) (t : SetSt) : (s.putSet i t).svers = s.svers := by unfold putSet; split <;> rfl
@[simp] theorem putSet_cal (s : State) (i : SetId) (t : SetSt) : (s.putSet i t).cal = s.cal := by unfold putSet; split <;> rfl
@[simp] theorem putSet_fwVer (s : State) (i : SetId) (t : SetSt) : (s.putSet i t).fwVer = s.fwVer := by unfold putSet; split <;> rfl
@[simp] theorem putSet_cardDigest (s : State) (i : SetId) (t : SetSt) : (s.putSet i t).cardDigest = s.cardDigest := by unfold putSet; split <;> rfl
@[simp] theorem putSet_fuses (s : State) (i : SetId) (t : SetSt) : (s.putSet i t).fuses = s.fuses := by unfold putSet; split <;> rfl
@[simp] theorem putSet_pins (s : State) (i : SetId) (t : SetSt) : (s.putSet i t).pins = s.pins := by unfold putSet; split <;> rfl
@[simp] theorem putSet_pm (s : State) (i : SetId) (t : SetSt) : (s.putSet i t).pm = s.pm := by unfold putSet; split <;> rfl
@[simp] theorem putSet_mg (s : State) (i : SetId) (t : SetSt) : (s.putSet i t).mg = s.mg := by unfold putSet; split <;> rfl
@[simp] theorem putSet_sec (s : State) (i : SetId) (t : SetSt) : (s.putSet i t).sec = s.sec := by unfold putSet; split <;> rfl
@[simp] theorem putSet_cfg (s : State) (i : SetId) (t : SetSt) : (s.putSet i t).cfg = s.cfg := by unfold putSet; split <;> rfl
@[simp] theorem putSet_busMaster (s : State) (i : SetId) (t : SetSt) : (s.putSet i t).busMaster = s.busMaster := by unfold putSet; split <;> rfl
@[simp] theorem putSet_warm (s : State) (i : SetId) (t : SetSt) : (s.putSet i t).warm = s.warm := by unfold putSet; split <;> rfl
@[simp] theorem putSet_heldReqs (s : State) (i : SetId) (t : SetSt) : (s.putSet i t).heldReqs = s.heldReqs := by unfold putSet; split <;> rfl

@[simp] theorem onSet_pending (s : State) (i : SetId) (f : SetSt → SetSt) : (s.onSet i f).pending = s.pending := putSet_pending _ _ _
@[simp] theorem onSet_out (s : State) (i : SetId) (f : SetSt → SetSt) : (s.onSet i f).out = s.out := putSet_out _ _ _
@[simp] theorem onSet_freeCtr (s : State) (i : SetId) (f : SetSt → SetSt) : (s.onSet i f).freeCtr = s.freeCtr := putSet_freeCtr _ _ _
@[simp] theorem onSet_regs (s : State) (i : SetId) (f : SetSt → SetSt) : (s.onSet i f).regs = s.regs := putSet_regs _ _ _
@[simp] theorem onSet_hostMem (s : State) (i : SetId) (f : SetSt → SetSt) : (s.onSet i f).hostMem = s.hostMem := putSet_hostMem _ _ _
@[simp] theorem onSet_msix (s : State) (i : SetId) (f : SetSt → SetSt) : (s.onSet i f).msix = s.msix := putSet_msix _ _ _
@[simp] theorem onSet_msixPending (s : State) (i : SetId) (f : SetSt → SetSt) : (s.onSet i f).msixPending = s.msixPending := putSet_msixPending _ _ _
@[simp] theorem onSet_msixOn (s : State) (i : SetId) (f : SetSt → SetSt) : (s.onSet i f).msixOn = s.msixOn := putSet_msixOn _ _ _
@[simp] theorem onSet_ibiOn (s : State) (i : SetId) (f : SetSt → SetSt) : (s.onSet i f).ibiOn = s.ibiOn := putSet_ibiOn _ _ _
@[simp] theorem onSet_mpDown (s : State) (i : SetId) (f : SetSt → SetSt) : (s.onSet i f).mpDown = s.mpDown := putSet_mpDown _ _ _
@[simp] theorem onSet_mpQueue (s : State) (i : SetId) (f : SetSt → SetSt) : (s.onSet i f).mpQueue = s.mpQueue := putSet_mpQueue _ _ _
@[simp] theorem onSet_cueSeq (s : State) (i : SetId) (f : SetSt → SetSt) : (s.onSet i f).cueSeq = s.cueSeq := putSet_cueSeq _ _ _
@[simp] theorem onSet_nvm (s : State) (i : SetId) (f : SetSt → SetSt) : (s.onSet i f).nvm = s.nvm := putSet_nvm _ _ _
@[simp] theorem onSet_almMem (s : State) (i : SetId) (f : SetSt → SetSt) : (s.onSet i f).almMem = s.almMem := putSet_almMem _ _ _
@[simp] theorem onSet_almNewest (s : State) (i : SetId) (f : SetSt → SetSt) : (s.onSet i f).almNewest = s.almNewest := putSet_almNewest _ _ _
@[simp] theorem onSet_almBusy (s : State) (i : SetId) (f : SetSt → SetSt) : (s.onSet i f).almBusy = s.almBusy := putSet_almBusy _ _ _
@[simp] theorem onSet_almDue (s : State) (i : SetId) (f : SetSt → SetSt) : (s.onSet i f).almDue = s.almDue := putSet_almDue _ _ _
@[simp] theorem onSet_promptNext (s : State) (i : SetId) (f : SetSt → SetSt) : (s.onSet i f).promptNext = s.promptNext := putSet_promptNext _ _ _
@[simp] theorem onSet_promptSec (s : State) (i : SetId) (f : SetSt → SetSt) : (s.onSet i f).promptSec = s.promptSec := putSet_promptSec _ _ _
@[simp] theorem onSet_promptFull (s : State) (i : SetId) (f : SetSt → SetSt) : (s.onSet i f).promptFull = s.promptFull := putSet_promptFull _ _ _
@[simp] theorem onSet_calOver (s : State) (i : SetId) (f : SetSt → SetSt) : (s.onSet i f).calOver = s.calOver := putSet_calOver _ _ _
@[simp] theorem onSet_cxlLog (s : State) (i : SetId) (f : SetSt → SetSt) : (s.onSet i f).cxlLog = s.cxlLog := putSet_cxlLog _ _ _
@[simp] theorem onSet_hostHeld (s : State) (i : SetId) (f : SetSt → SetSt) : (s.onSet i f).hostHeld = s.hostHeld := putSet_hostHeld _ _ _
@[simp] theorem onSet_cqPhase (s : State) (i : SetId) (f : SetSt → SetSt) : (s.onSet i f).cqPhase = s.cqPhase := putSet_cqPhase _ _ _
@[simp] theorem onSet_cqResv (s : State) (i : SetId) (f : SetSt → SetSt) : (s.onSet i f).cqResv = s.cqResv := putSet_cqResv _ _ _
@[simp] theorem onSet_pkgLost (s : State) (i : SetId) (f : SetSt → SetSt) : (s.onSet i f).pkgLost = s.pkgLost := putSet_pkgLost _ _ _
@[simp] theorem onSet_sprintRan (s : State) (i : SetId) (f : SetSt → SetSt) : (s.onSet i f).sprintRan = s.sprintRan := putSet_sprintRan _ _ _
@[simp] theorem onSet_svers (s : State) (i : SetId) (f : SetSt → SetSt) : (s.onSet i f).svers = s.svers := putSet_svers _ _ _
@[simp] theorem onSet_cal (s : State) (i : SetId) (f : SetSt → SetSt) : (s.onSet i f).cal = s.cal := putSet_cal _ _ _
@[simp] theorem onSet_fwVer (s : State) (i : SetId) (f : SetSt → SetSt) : (s.onSet i f).fwVer = s.fwVer := putSet_fwVer _ _ _
@[simp] theorem onSet_cardDigest (s : State) (i : SetId) (f : SetSt → SetSt) : (s.onSet i f).cardDigest = s.cardDigest := putSet_cardDigest _ _ _
@[simp] theorem onSet_fuses (s : State) (i : SetId) (f : SetSt → SetSt) : (s.onSet i f).fuses = s.fuses := putSet_fuses _ _ _
@[simp] theorem onSet_pins (s : State) (i : SetId) (f : SetSt → SetSt) : (s.onSet i f).pins = s.pins := putSet_pins _ _ _
@[simp] theorem onSet_pm (s : State) (i : SetId) (f : SetSt → SetSt) : (s.onSet i f).pm = s.pm := putSet_pm _ _ _
@[simp] theorem onSet_mg (s : State) (i : SetId) (f : SetSt → SetSt) : (s.onSet i f).mg = s.mg := putSet_mg _ _ _
@[simp] theorem onSet_sec (s : State) (i : SetId) (f : SetSt → SetSt) : (s.onSet i f).sec = s.sec := putSet_sec _ _ _
@[simp] theorem onSet_cfg (s : State) (i : SetId) (f : SetSt → SetSt) : (s.onSet i f).cfg = s.cfg := putSet_cfg _ _ _
@[simp] theorem onSet_busMaster (s : State) (i : SetId) (f : SetSt → SetSt) : (s.onSet i f).busMaster = s.busMaster := putSet_busMaster _ _ _
@[simp] theorem onSet_warm (s : State) (i : SetId) (f : SetSt → SetSt) : (s.onSet i f).warm = s.warm := putSet_warm _ _ _
@[simp] theorem onSet_heldReqs (s : State) (i : SetId) (f : SetSt → SetSt) : (s.onSet i f).heldReqs = s.heldReqs := putSet_heldReqs _ _ _

@[simp] theorem setFld_pending (s : State) (i : SetId) (g : Field) (ix v : Nat) : (s.setFld i g ix v).pending = s.pending := putSet_pending _ _ _
@[simp] theorem setFld_out (s : State) (i : SetId) (g : Field) (ix v : Nat) : (s.setFld i g ix v).out = s.out := putSet_out _ _ _
@[simp] theorem setFld_freeCtr (s : State) (i : SetId) (g : Field) (ix v : Nat) : (s.setFld i g ix v).freeCtr = s.freeCtr := putSet_freeCtr _ _ _
@[simp] theorem setFld_regs (s : State) (i : SetId) (g : Field) (ix v : Nat) : (s.setFld i g ix v).regs = s.regs := putSet_regs _ _ _
@[simp] theorem setFld_hostMem (s : State) (i : SetId) (g : Field) (ix v : Nat) : (s.setFld i g ix v).hostMem = s.hostMem := putSet_hostMem _ _ _
@[simp] theorem setFld_msix (s : State) (i : SetId) (g : Field) (ix v : Nat) : (s.setFld i g ix v).msix = s.msix := putSet_msix _ _ _
@[simp] theorem setFld_msixPending (s : State) (i : SetId) (g : Field) (ix v : Nat) : (s.setFld i g ix v).msixPending = s.msixPending := putSet_msixPending _ _ _
@[simp] theorem setFld_msixOn (s : State) (i : SetId) (g : Field) (ix v : Nat) : (s.setFld i g ix v).msixOn = s.msixOn := putSet_msixOn _ _ _
@[simp] theorem setFld_ibiOn (s : State) (i : SetId) (g : Field) (ix v : Nat) : (s.setFld i g ix v).ibiOn = s.ibiOn := putSet_ibiOn _ _ _
@[simp] theorem setFld_mpDown (s : State) (i : SetId) (g : Field) (ix v : Nat) : (s.setFld i g ix v).mpDown = s.mpDown := putSet_mpDown _ _ _
@[simp] theorem setFld_mpQueue (s : State) (i : SetId) (g : Field) (ix v : Nat) : (s.setFld i g ix v).mpQueue = s.mpQueue := putSet_mpQueue _ _ _
@[simp] theorem setFld_cueSeq (s : State) (i : SetId) (g : Field) (ix v : Nat) : (s.setFld i g ix v).cueSeq = s.cueSeq := putSet_cueSeq _ _ _
@[simp] theorem setFld_nvm (s : State) (i : SetId) (g : Field) (ix v : Nat) : (s.setFld i g ix v).nvm = s.nvm := putSet_nvm _ _ _
@[simp] theorem setFld_almMem (s : State) (i : SetId) (g : Field) (ix v : Nat) : (s.setFld i g ix v).almMem = s.almMem := putSet_almMem _ _ _
@[simp] theorem setFld_almNewest (s : State) (i : SetId) (g : Field) (ix v : Nat) : (s.setFld i g ix v).almNewest = s.almNewest := putSet_almNewest _ _ _
@[simp] theorem setFld_almBusy (s : State) (i : SetId) (g : Field) (ix v : Nat) : (s.setFld i g ix v).almBusy = s.almBusy := putSet_almBusy _ _ _
@[simp] theorem setFld_almDue (s : State) (i : SetId) (g : Field) (ix v : Nat) : (s.setFld i g ix v).almDue = s.almDue := putSet_almDue _ _ _
@[simp] theorem setFld_promptNext (s : State) (i : SetId) (g : Field) (ix v : Nat) : (s.setFld i g ix v).promptNext = s.promptNext := putSet_promptNext _ _ _
@[simp] theorem setFld_promptSec (s : State) (i : SetId) (g : Field) (ix v : Nat) : (s.setFld i g ix v).promptSec = s.promptSec := putSet_promptSec _ _ _
@[simp] theorem setFld_promptFull (s : State) (i : SetId) (g : Field) (ix v : Nat) : (s.setFld i g ix v).promptFull = s.promptFull := putSet_promptFull _ _ _
@[simp] theorem setFld_calOver (s : State) (i : SetId) (g : Field) (ix v : Nat) : (s.setFld i g ix v).calOver = s.calOver := putSet_calOver _ _ _
@[simp] theorem setFld_cxlLog (s : State) (i : SetId) (g : Field) (ix v : Nat) : (s.setFld i g ix v).cxlLog = s.cxlLog := putSet_cxlLog _ _ _
@[simp] theorem setFld_hostHeld (s : State) (i : SetId) (g : Field) (ix v : Nat) : (s.setFld i g ix v).hostHeld = s.hostHeld := putSet_hostHeld _ _ _
@[simp] theorem setFld_cqPhase (s : State) (i : SetId) (g : Field) (ix v : Nat) : (s.setFld i g ix v).cqPhase = s.cqPhase := putSet_cqPhase _ _ _
@[simp] theorem setFld_cqResv (s : State) (i : SetId) (g : Field) (ix v : Nat) : (s.setFld i g ix v).cqResv = s.cqResv := putSet_cqResv _ _ _
@[simp] theorem setFld_pkgLost (s : State) (i : SetId) (g : Field) (ix v : Nat) : (s.setFld i g ix v).pkgLost = s.pkgLost := putSet_pkgLost _ _ _
@[simp] theorem setFld_sprintRan (s : State) (i : SetId) (g : Field) (ix v : Nat) : (s.setFld i g ix v).sprintRan = s.sprintRan := putSet_sprintRan _ _ _
@[simp] theorem setFld_svers (s : State) (i : SetId) (g : Field) (ix v : Nat) : (s.setFld i g ix v).svers = s.svers := putSet_svers _ _ _
@[simp] theorem setFld_cal (s : State) (i : SetId) (g : Field) (ix v : Nat) : (s.setFld i g ix v).cal = s.cal := putSet_cal _ _ _
@[simp] theorem setFld_fwVer (s : State) (i : SetId) (g : Field) (ix v : Nat) : (s.setFld i g ix v).fwVer = s.fwVer := putSet_fwVer _ _ _
@[simp] theorem setFld_cardDigest (s : State) (i : SetId) (g : Field) (ix v : Nat) : (s.setFld i g ix v).cardDigest = s.cardDigest := putSet_cardDigest _ _ _
@[simp] theorem setFld_fuses (s : State) (i : SetId) (g : Field) (ix v : Nat) : (s.setFld i g ix v).fuses = s.fuses := putSet_fuses _ _ _
@[simp] theorem setFld_pins (s : State) (i : SetId) (g : Field) (ix v : Nat) : (s.setFld i g ix v).pins = s.pins := putSet_pins _ _ _
@[simp] theorem setFld_pm (s : State) (i : SetId) (g : Field) (ix v : Nat) : (s.setFld i g ix v).pm = s.pm := putSet_pm _ _ _
@[simp] theorem setFld_mg (s : State) (i : SetId) (g : Field) (ix v : Nat) : (s.setFld i g ix v).mg = s.mg := putSet_mg _ _ _
@[simp] theorem setFld_sec (s : State) (i : SetId) (g : Field) (ix v : Nat) : (s.setFld i g ix v).sec = s.sec := putSet_sec _ _ _
@[simp] theorem setFld_cfg (s : State) (i : SetId) (g : Field) (ix v : Nat) : (s.setFld i g ix v).cfg = s.cfg := putSet_cfg _ _ _
@[simp] theorem setFld_busMaster (s : State) (i : SetId) (g : Field) (ix v : Nat) : (s.setFld i g ix v).busMaster = s.busMaster := putSet_busMaster _ _ _
@[simp] theorem setFld_warm (s : State) (i : SetId) (g : Field) (ix v : Nat) : (s.setFld i g ix v).warm = s.warm := putSet_warm _ _ _
@[simp] theorem setFld_heldReqs (s : State) (i : SetId) (g : Field) (ix v : Nat) : (s.setFld i g ix v).heldReqs = s.heldReqs := putSet_heldReqs _ _ _

@[simp] theorem pfld_setPfld_same (s : State) (f : Field) (ix v : Nat) : (s.setPfld f ix v).pfld f ix = v % 2 ^ f.info.len :=
  getField_putField_same _ _ _ _

@[simp] theorem pfld_setPfld_ne (s : State) {f g : Field} {ix jx : Nat} (v : Nat) (h : ¬(g = f ∧ jx = ix)) :
    (s.setPfld f ix v).pfld g jx = s.pfld g jx := getField_putField_ne _ _ h

@[simp] theorem pfld_putSet (s : State) (i : SetId) (t : SetSt) (f : Field) (ix : Nat) : (s.putSet i t).pfld f ix = s.pfld f ix := by
  unfold pfld; rw [putSet_regs]

@[simp] theorem emit_out (s : State) (k : EvKind) (i : Nat) (a : List Nat) (d : List Byte) :
    (s.emit k i a d).out = s.out ++ [{ kind := k, set := i, args := a, data := d, vc := k.channel a }] := rfl

@[simp] theorem spend_freeCtr (s : State) : s.spend.freeCtr = s.freeCtr + 1 := rfl

/-! ## Sets -/

@[simp] theorem st_putSet_same (s : State) (i : SetId) (t : SetSt) : (s.putSet i t).st i = t := by
  unfold putSet st; split <;> rfl

@[simp] theorem st_putSet_ne (s : State) {i j : SetId} (t : SetSt) (h : j ≠ i) : (s.putSet i t).st j = s.st j := by
  fin_cases i <;> fin_cases j <;> first | rfl | exact absurd rfl h

@[simp] theorem st_onSet_same (s : State) (i : SetId) (f : SetSt → SetSt) : (s.onSet i f).st i = f (s.st i) := st_putSet_same _ _ _

@[simp] theorem st_onSet_ne (s : State) {i j : SetId} (f : SetSt → SetSt) (h : j ≠ i) : (s.onSet i f).st j = s.st j := st_putSet_ne _ _ h

@[simp] theorem fld_setFld_same (s : State) (i : SetId) (f : Field) (ix v : Nat) : (s.setFld i f ix v).fld i f ix = v % 2 ^ f.info.len := by
  simp [setFld, fld]

@[simp] theorem fld_setFld_ne (s : State) {i j : SetId} {f g : Field} {ix jx : Nat} (v : Nat) (h : ¬(j = i ∧ g = f ∧ jx = ix)) :
    (s.setFld i f ix v).fld j g jx = s.fld j g jx := by
  unfold setFld fld
  by_cases hj : j = i
  · subst hj
    rw [st_onSet_same]
    exact getField_putField_ne _ _ fun h' => h ⟨rfl, h'⟩
  · rw [st_onSet_ne _ _ hj]

@[simp] theorem fld_setPfld (s : State) (i : SetId) (f g : Field) (ix jx v : Nat) : (s.setPfld f ix v).fld i g jx = s.fld i g jx := rfl

@[simp] theorem pfld_setFld (s : State) (i : SetId) (f g : Field) (ix jx v : Nat) : (s.setFld i f ix v).pfld g jx = s.pfld g jx :=
  pfld_putSet _ _ _ _ _

@[simp] theorem fld_emit (s : State) (i : SetId) (g : Field) (jx : Nat) (k : EvKind) (n : Nat) (a : List Nat) (d : List Byte) :
    (s.emit k n a d).fld i g jx = s.fld i g jx := rfl

@[simp] theorem pfld_emit (s : State) (g : Field) (jx : Nat) (k : EvKind) (n : Nat) (a : List Nat) (d : List Byte) :
    (s.emit k n a d).pfld g jx = s.pfld g jx := rfl

@[simp] theorem st_setPfld (s : State) (i : SetId) (f : Field) (ix v : Nat) : (s.setPfld f ix v).st i = s.st i := rfl

@[simp] theorem st_emit (s : State) (i : SetId) (k : EvKind) (n : Nat) (a : List Nat) (d : List Byte) : (s.emit k n a d).st i = s.st i := rfl

end State

end Sys2Proof.Machine
end

