-- ==== Sys2Proof/Laws/Moves.lean ====
section
/-! SUPPORT. What every operation keeps, said once: `Moves s t` holds between the state before and after any of them. One lemma for
each operation follows in the files of this folder that are named after the model's. -/

namespace Sys2Proof.Machine

/-- The queue stands, messages and free values only grow, fuses are only burnt, the identity block of NVM stands, and canonical forms
are kept. -/
structure Moves (s t : State) : Prop where
  pending : t.pending = s.pending
  out : keepsMessages s t
  free : s.freeCtr ≤ t.freeCtr
  fuses : s.fuses.Le t.fuses
  identity : sameIdentity s t
  inv : s.Inv → t.Inv

theorem Fuses.Le.refl (a : Fuses) : a.Le a := ⟨le_rfl, fun _ _ => rfl, fun _ h => h, rfl, rfl, rfl, rfl⟩

theorem Fuses.Le.trans {a b c : Fuses} (h : a.Le b) (g : b.Le c) : a.Le c :=
  ⟨h.svn.trans g.svn, fun n hn => by rw [g.owners n (by rw [h.owners n hn]; exact hn), h.owners n hn], fun n hn => g.revoked n (h.revoked n hn),
    g.key.trans h.key, g.arrays.trans h.arrays, g.rom.trans h.rom, g.secret.trans h.secret⟩

namespace Moves

variable {r s t : State}

theorem refl (s : State) : Moves s s := ⟨rfl, ⟨[], by simp⟩, le_rfl, .refl _, fun _ _ _ => rfl, id⟩

theorem trans (h : Moves r s) (g : Moves s t) : Moves r t :=
  ⟨g.pending.trans h.pending, let ⟨a, ha⟩ := h.out; let ⟨b, hb⟩ := g.out; ⟨a ++ b, by rw [hb, ha, List.append_assoc]⟩, h.free.trans g.free,
    h.fuses.trans g.fuses, fun a ha hb => (g.identity a ha hb).trans (h.identity a ha hb), fun i => g.inv (h.inv i)⟩

/-- An update of fields that `Moves` does not speak of. -/
theorem same (h : Moves r s) (e1 : t.pending = s.pending := by with_reducible rfl) (e2 : t.out = s.out := by with_reducible rfl)
    (e3 : t.freeCtr = s.freeCtr := by with_reducible rfl) (e4 : t.fuses = s.fuses := by with_reducible rfl)
    (e5 : t.regs = s.regs := by with_reducible rfl) (e6 : t.set0 = s.set0 := by with_reducible rfl)
    (e7 : t.set1 = s.set1 := by with_reducible rfl) (e8 : t.hostMem = s.hostMem := by with_reducible rfl)
    (e9 : t.almMem = s.almMem := by with_reducible rfl) (e10 : t.nvm = s.nvm := by with_reducible rfl) : Moves r t :=
  h.trans ⟨e1, ⟨[], by simp [e2]⟩, by rw [e3], by rw [e4]; exact .refl _, fun _ _ _ => by rw [e10],
    fun i => ⟨by rw [e5]; exact i.regs, by rw [e6]; exact i.set0, by rw [e7]; exact i.set1, by rw [e8]; exact i.host, by rw [e9]; exact i.alm,
      by rw [e10]; exact i.nvm⟩⟩

/-- The same, said of the updated record, so that `apply` reads the record that was updated off its fields. -/
theorem upd {msix : SMap MsixEnt} {msixPending : List Nat} {msixOn ibiOn mpDown promptFull calOver pkgLost busMaster warm : Bool} {mpQueue :
    List (Nat × FRec)} {cueSeq cqPhase cqResv : SMap Nat} {almNewest promptNext promptSec sprintRan svers fwVer : Nat} {almBusy : Option
    Nat} {almDue : List Bool} {cxlLog hostHeld : List (Nat × List Byte)} {cal : SMap Byte} {cardDigest : List Byte} {pins : Pins} {pm :
    PowerMgr} {mg : Mgmt} {sec : SecEngine} {cfg : CfgRegs} {heldReqs : List HostReq}
    (h : Moves r s) : Moves r ⟨s.pending, s.out, s.freeCtr, s.regs, s.set0, s.set1, s.hostMem, msix, msixPending, msixOn, ibiOn, mpDown,
    mpQueue, cueSeq, s.nvm, s.almMem, almNewest, almBusy, almDue, promptNext, promptSec, promptFull, calOver, cxlLog, hostHeld, cqPhase,
    cqResv, pkgLost, sprintRan, svers, cal, fwVer, cardDigest, s.fuses, pins, pm, mg, sec, cfg, busMaster, warm, heldReqs⟩ := .same h

/-- A choice between two moves. -/
theorem ite {c : Prop} [Decidable c] {a b : State} (h1 : c → Moves r a) (h2 : ¬c → Moves r b) : Moves r (if c then a else b) := by
  split <;> simp_all

/-- A fold of moves. -/
theorem foldl {α : Type} {f : State → α → State} (hf : ∀ s a, Moves r s → Moves r (f s a)) (h : Moves r s) (l : List α) :
    Moves r (l.foldl f s) := by
  induction l generalizing s with
  | nil => exact h
  | cons a l ih => exact ih (hf s a h)

/-- A fold that carries more than the state, which comes first. -/
theorem foldl_fst {α β : Type} {f : State × β → α → State × β} (hf : ∀ p a, Moves r p.1 → Moves r (f p a).1) (p : State × β)
    (h : Moves r p.1) (l : List α) : Moves r (l.foldl f p).1 := by
  induction l generalizing p with
  | nil => exact h
  | cons a l ih => exact ih _ (hf p a h)

/-- A fold that carries more than the state, which comes last. -/
theorem foldl_snd {α β : Type} {f : β × State → α → β × State} (hf : ∀ p a, Moves r p.2 → Moves r (f p a).2) (p : β × State)
    (h : Moves r p.2) (l : List α) : Moves r (l.foldl f p).2 := by
  induction l generalizing p with
  | nil => exact h
  | cons a l ih => exact ih _ (hf p a h)

theorem foldl_thd {α β γ : Type} {f : β × γ × State → α → β × γ × State} (hf : ∀ p a, Moves r p.2.2 → Moves r (f p a).2.2)
    (p : β × γ × State) (h : Moves r p.2.2) (l : List α) : Moves r (l.foldl f p).2.2 := by
  induction l generalizing p with
  | nil => exact h
  | cons a l ih => exact ih _ (hf p a h)

end Moves

/-- The outcome of a command keeps what `Moves` says. -/
structure MovesOut (r : State) (o : Out) : Prop where
  state : ∀ t, o = .next t → Moves r t

theorem MovesOut.ite {r : State} {c : Prop} [Decidable c] {a b : Out} (h1 : c → MovesOut r a) (h2 : ¬c → MovesOut r b) :
    MovesOut r (if c then a else b) := by
  split <;> simp_all

theorem MovesOut.next {r t : State} (h : Moves r t) : MovesOut r (.next t) := ⟨fun _ e => by cases e; exact h⟩

/-! ## Canonical forms -/

theorem regsOk_nil : regsOk [] := ⟨rfl, fun _ h => by cases h⟩

theorem regsOk_putField {m : SMap Nat} (h : regsOk m) (f : Field) (ix v : Nat) : regsOk (putField m f ix v) := by
  refine ⟨SMap.sorted_put h.1, fun e he => ?_⟩
  unfold putField SMap.put at he
  split at he
  · exact h.2 e (SMap.mem_keep.1 he).1
  · rename_i hv
    rcases SMap.mem_ins he with rfl | he
    · exact ⟨f, by unfold Field.key; have := f.code_lt; omega, Nat.mod_lt _ (by positivity), hv⟩
    · exact h.2 e he

theorem regsOk_foldl {α : Type} {f : SMap Nat → α → SMap Nat} (hf : ∀ m a, regsOk m → regsOk (f m a)) {m : SMap Nat} (h : regsOk m)
    (l : List α) : regsOk (l.foldl f m) := by
  induction l generalizing m with
  | nil => exact h
  | cons a l ih => exact ih (hf m a h)

theorem regsOk_putReg {m : SMap Nat} (h : regsOk m) (ok : FInfo → Bool) (g : Reg) (ix off : Nat) (d : List Byte) :
    regsOk (putReg m ok g ix off d) := by
  unfold putReg
  refine regsOk_foldl (fun m f h => ?_) h _
  split
  · exact regsOk_putField h _ _ _
  · exact h

theorem regsOk_plainWrite {m : SMap Nat} (h : regsOk m) (rw : Bool) (g : Reg) (ix off : Nat) (d : List Byte) :
    regsOk (plainWrite m rw g ix off d) := by
  unfold plainWrite
  refine regsOk_foldl (fun m f h => ?_) ?_ _
  · split
    · exact regsOk_putField h _ _ _
    · exact h
  · split
    · exact regsOk_putReg h _ _ _ _ _
    · exact h

theorem regsOk_clearRead {m : SMap Nat} (h : regsOk m) (g : Reg) (ix off n : Nat) : regsOk (clearRead m g ix off n) :=
  regsOk_foldl (fun _ f h => regsOk_putField h f ix 0) h _

theorem SetSt.ok.same {t u : SetSt} (h : t.ok) (e1 : u.regs = t.regs) (e2 : u.mem = t.mem) : u.ok := by
  unfold SetSt.ok; rw [e1, e2]; exact h

theorem SetSt.ok.regs {t : SetSt} (h : t.ok) {m : SMap Nat} (hm : regsOk m) : ({ t with regs := m } : SetSt).ok := ⟨hm, h.2⟩

theorem SetSt.ok.reg {t : SetSt} (h : t.ok) : regsOk t.regs := h.1

theorem SetSt.ok.cells {t : SetSt} (h : t.ok) : Memory.wf t.mem = true := h.2

/-- An updated set, from its registers and its memory. -/
theorem SetSt.ok.upd {regs chk maskedAt startPc : SMap Nat} {mem : SMap Byte} {cores : SMap Core} {segs : SMap SegState} {teardowns : SMap
    (Option Teardown)} {waiters : SMap (List Waiter)} {children known : SMap (List (Nat × Nat))} {rx : SMap RxEnd} {stepBad lost locked
    selfRef altParent : Bool} {killed : List (Nat × JobExit)} {restart pruneDue badWords endDue : List Nat} {shareGain : Nat} {plan : List (Nat × List Byte)} {doneDue : List
    DoneDue} {winHeld : List (Nat × Nat × List Byte × List Nat)} {leaveQ enterQ : SMap (List Nat)} {su : SessUnit} {circ : CircUnit}
    {tmapNext : Option (List (List Byte))} {patrol : SMap Patrol} {links : SMap LinkPort} {slew slewFrac : Int} (hr : regsOk regs) (hm :
    Memory.wf mem = true) : SetSt.ok ⟨regs, mem, chk, cores, segs, teardowns, waiters, children, rx, maskedAt, stepBad, killed, restart,
    plan, startPc, known, lost, doneDue, winHeld, leaveQ, enterQ, su, circ, tmapNext, pruneDue, badWords, endDue, locked, shareGain, patrol,
    selfRef, links, altParent, slew, slewFrac⟩ := ⟨hr, hm⟩

theorem SetSt.ok_reset (i : SetId) : (SetSt.reset i).ok := by
  refine ⟨⟨by revert i; decide, fun e h => ?_⟩, rfl⟩
  have h1 : ∀ i : SetId, ∀ e ∈ (SetSt.reset i).regs, (e.1 % 1024 = Field.code .LINK_IDENT_SET ∧ e.2 = 1) ∨
      (e.1 % 1024 = Field.code .LINK_PORTp_STAT_0_LPORT ∧ e.2 < 8 ∧ e.2 ≠ 0) := by decide
  rcases h1 i e h with ⟨a, b⟩ | ⟨a, b, c⟩
  · exact ⟨_, a, by rw [b]; decide, by rw [b]; decide⟩
  · exact ⟨_, a, b, c⟩

/-! ## The named operations -/

section
variable {r s : State}

theorem State.st_ok {s : State} (h : s.Inv) (i : SetId) : (s.st i).ok := by
  unfold State.st; split
  · exact h.set0
  · exact h.set1

theorem putSet_moves (i : SetId) {t : SetSt} (ht : s.Inv → t.ok) (h : Moves r s) : Moves r (s.putSet i t) := by
  refine h.trans ⟨by simp, ⟨[], by simp⟩, by simp, by simpa using Fuses.Le.refl _, fun _ _ _ => by simp, fun v => ?_⟩
  unfold State.putSet; split
  · exact ⟨v.regs, ht v, v.set1, v.host, v.alm, v.nvm⟩
  · exact ⟨v.regs, v.set0, ht v, v.host, v.alm, v.nvm⟩

theorem onSet_moves (i : SetId) {f : SetSt → SetSt} (hf : ∀ t, t.ok → (f t).ok) (h : Moves r s) : Moves r (s.onSet i f) :=
  putSet_moves i (fun v => hf _ (State.st_ok v i)) h

theorem setFld_moves (i : SetId) (f : Field) (ix v : Nat) (h : Moves r s) : Moves r (s.setFld i f ix v) :=
  onSet_moves i (fun _ ht => ht.regs (regsOk_putField ht.1 f ix v)) h

theorem addFld_moves (i : SetId) (f : Field) (ix n : Nat) (h : Moves r s) : Moves r (s.addFld i f ix n) := setFld_moves _ _ _ _ h

theorem satFld_moves (i : SetId) (f : Field) (ix n : Nat) (h : Moves r s) : Moves r (s.satFld i f ix n) := setFld_moves _ _ _ _ h

theorem setRegs_moves {m : SMap Nat} (hm : regsOk s.regs → regsOk m) (h : Moves r s) : Moves r { s with regs := m } :=
  h.trans ⟨rfl, ⟨[], by simp⟩, le_rfl, .refl _, fun _ _ _ => rfl, fun v => ⟨hm v.regs, v.set0, v.set1, v.host, v.alm, v.nvm⟩⟩

theorem setPfld_moves (f : Field) (ix v : Nat) (h : Moves r s) : Moves r (s.setPfld f ix v) :=
  setRegs_moves (fun hm => regsOk_putField hm f ix v) h

theorem satPfld_moves (f : Field) (ix n : Nat) (h : Moves r s) : Moves r (s.satPfld f ix n) := setPfld_moves _ _ _ h

theorem emit_moves (k : EvKind) (i : Nat) (a : List Nat) (d : List Byte) (h : Moves r s) : Moves r (s.emit k i a d) :=
  h.trans ⟨rfl, ⟨_, rfl⟩, le_rfl, .refl _, fun _ _ _ => rfl, fun v => ⟨v.regs, v.set0, v.set1, v.host, v.alm, v.nvm⟩⟩

theorem spend_moves (h : Moves r s) : Moves r s.spend :=
  h.trans ⟨rfl, ⟨[], by simp⟩, by simp, .refl _, fun _ _ _ => rfl, fun v => ⟨v.regs, v.set0, v.set1, v.host, v.alm, v.nvm⟩⟩

theorem onCore_moves (i : SetId) (k : Nat) (f : Core → Core) (h : Moves r s) : Moves r (s.onCore i k f) :=
  onSet_moves i (fun _ ht => ht.same rfl rfl) h

theorem onSlot_moves (i : SetId) (k n : Nat) (f : Slot → Slot) (h : Moves r s) : Moves r (s.onSlot i k n f) := onCore_moves _ _ _ h

theorem hostMem_moves (a : Nat) (d : List Byte) (h : Moves r s) : Moves r { s with hostMem := writeMem s.hostMem a d } :=
  h.trans ⟨rfl, ⟨[], by simp⟩, le_rfl, .refl _, fun _ _ _ => rfl, fun v => ⟨v.regs, v.set0, v.set1, wf_writeMem v.host _ _, v.alm, v.nvm⟩⟩

theorem almMem_moves {m : SMap Byte} (hm : Memory.wf s.almMem = true → Memory.wf m = true) (h : Moves r s) : Moves r { s with almMem := m } :=
  h.trans ⟨rfl, ⟨[], by simp⟩, le_rfl, .refl _, fun _ _ _ => rfl, fun v => ⟨v.regs, v.set0, v.set1, v.host, hm v.alm, v.nvm⟩⟩

theorem fuses_moves {f : Fuses} (hf : s.fuses.Le f) (h : Moves r s) : Moves r { s with fuses := f } :=
  h.trans ⟨rfl, ⟨[], by simp⟩, le_rfl, hf, fun _ _ _ => rfl, fun v => ⟨v.regs, v.set0, v.set1, v.host, v.alm, v.nvm⟩⟩

/-- Setting a bit leaves every set bit set. -/
theorem bit_putBits_one {w n k : Nat} (h : bit w k = true) : bit (putBits w n 1 1) k = true := by
  simp only [bit, putBits, bits, beq_iff_eq, pow_one] at *
  rcases Nat.mod_two_eq_zero_or_one (w / 2 ^ n) with h0 | h1
  · rw [h0]
    have hkn : k ≠ n := by rintro rfl; omega
    simp only [Nat.zero_mul, Nat.sub_zero, Nat.one_mod, Nat.one_mul]
    rcases Nat.lt_or_gt_of_ne hkn with hk | hk
    · obtain ⟨j, rfl⟩ := Nat.exists_eq_add_of_lt hk
      rw [show 2 ^ (k + j + 1) = 2 ^ k * (2 * 2 ^ j) by rw [pow_succ, pow_add]; ring, Nat.add_mul_div_left _ _ (by positivity)]
      omega
    · obtain ⟨j, rfl⟩ := Nat.exists_eq_add_of_lt hk
      have e : 2 ^ (n + j + 1) = 2 ^ n * (2 * 2 ^ j) := by rw [pow_succ, pow_add]; ring
      have g : ∀ x, x / 2 ^ (n + j + 1) = x / 2 ^ n / 2 / 2 ^ j := fun x => by rw [e, Nat.div_div_eq_div_mul, Nat.div_div_eq_div_mul]
      rw [g, Nat.add_div_right _ (by positivity : 0 < 2 ^ n), show (w / 2 ^ n + 1) / 2 = w / 2 ^ n / 2 by omega, ← g]
      exact h
  · rw [h1]
    have : 2 ^ n ≤ w := by
      by_contra hlt
      rw [Nat.div_eq_of_lt (by omega)] at h1
      omega
    simp only [Nat.one_mul, Nat.one_mod, Nat.sub_add_cancel this]
    exact h

theorem setAlm_moves (off n v : Nat) (h : Moves r s) : Moves r (s.setAlm off n v) := almMem_moves (fun w => wf_writeMem w _ _) h

theorem addAlm_moves (off n v : Nat) (h : Moves r s) : Moves r (s.addAlm off n v) := by
  unfold State.addAlm; exact setAlm_moves _ _ _ h

end

end Sys2Proof.Machine
end

