-- ==== Sys2Proof/Laws/Nvm.lean ====
section
/-! SUPPORT. Lengths of byte strings, and what programming and erasing NVM keep. -/

namespace Sys2Proof

@[simp] theorem length_leBytes : ∀ n v : Nat, (leBytes n v).length = n
  | 0, _ => rfl
  | n + 1, v => by simp [leBytes, length_leBytes n]

@[simp] theorem length_slice (l : List Byte) (lo len : Nat) : (slice l lo len).length = len := by simp [slice]

namespace Machine

theorem length_shaRound (v : List Nat) (x : Nat × Nat) : (shaRound v x).length = v.length := by
  unfold shaRound; split <;> rfl

theorem length_shaFold (l : List (Nat × Nat)) (v : List Nat) : (l.foldl shaRound v).length = v.length := by
  induction l generalizing v with
  | nil => rfl
  | cons x l ih => rw [List.foldl_cons, ih, length_shaRound]

theorem length_shaBlock (v : List Nat) (b : List Byte) : (shaBlock v b).length = v.length := by
  simp [shaBlock, length_shaFold]

theorem length_shaBlocks (l : List (List Byte)) (v : List Nat) : (l.foldl shaBlock v).length = v.length := by
  induction l generalizing v with
  | nil => rfl
  | cons x l ih => rw [List.foldl_cons, ih, length_shaBlock]

@[simp] theorem length_beBytes (n v : Nat) : (beBytes n v).length = n := by simp [beBytes]

/-- A SHA-256 digest has 32 bytes. -/
@[simp] theorem length_sha256 (m : List Byte) : (sha256 m).length = 32 := by
  have key : ∀ l : List Nat, (l.flatMap fun v => beBytes 4 v).length = 4 * l.length := by
    intro l
    induction l with
    | nil => rfl
    | cons a l ih => rw [List.flatMap_cons, List.length_append, ih, length_beBytes, List.length_cons]; omega
  unfold sha256
  rw [key, length_shaBlocks]; rfl

@[simp] theorem length_readMem (m : SMap Byte) (a n : Nat) : (readMem m a n).length = n := by simp [readMem]

@[simp] theorem length_nvmBytes (s : State) (a n : Nat) : (s.nvmBytes a n).length = n := by simp [State.nvmBytes]

@[simp] theorem length_freeBytes (s : State) (n : Nat) : (s.freeBytes n).length = n := by simp [State.freeBytes]

@[simp] theorem length_almImage (s : State) (q : Nat) (c : Bool) : (almImage s q c).length = 17136 := by simp [almImage]

/-! ## NVM -/

/-- The addresses of a programmed range. -/
theorem mem_programmed {d : List Byte} {a : Nat} {e : Nat × Byte}
    (h : e ∈ ((d.zipIdx a).filter fun p => p.1 != 0xFF#8).map fun p => (p.2, p.1)) : a ≤ e.1 ∧ e.1 < a + d.length ∧ e.2 ≠ 0xFF#8 := by
  simp only [List.mem_map, List.mem_filter] at h
  obtain ⟨p, ⟨hp, hv⟩, rfl⟩ := h
  obtain ⟨h1, h2, -⟩ := List.mem_zipIdx (x := p.1) (i := p.2) hp
  exact ⟨h1, by omega, by simpa using hv⟩

theorem wf_programmed (d : List Byte) (a : Nat) :
    SMap.wf 0xFF#8 (((d.zipIdx a).filter fun p => p.1 != 0xFF#8).map fun p => (p.2, p.1)) = true := by
  refine SMap.wf_iff.2 ⟨SMap.sorted_iff.2 ?_, fun e he => (mem_programmed he).2.2⟩
  rw [List.pairwise_map]
  apply List.Pairwise.filter
  induction d generalizing a with
  | nil => simp
  | cons x d ih =>
    rw [List.zipIdx_cons, List.pairwise_cons]
    refine ⟨fun p hp => ?_, ih _⟩
    obtain ⟨h1, -, -⟩ := List.mem_zipIdx (x := p.1) (i := p.2) hp
    show a < p.2
    omega

theorem nvmOk_write {s : State} {a : Nat} {d : List Byte} (h : nvmOk s.nvm) (ha : a + d.length ≤ 0x800_0000) :
    nvmOk (s.nvmWrite a d).nvm := by
  unfold State.nvmWrite
  refine ⟨SMap.wf_append (SMap.wf_append (SMap.wf_keep _ h.1) (wf_programmed d a) ?_) (SMap.wf_keep _ h.1) ?_, fun e he => ?_⟩
  · intro x hx y hy
    have h1 := (SMap.mem_keep.1 hx).2
    have h2 := mem_programmed hy
    simp at h1; omega
  · intro x hx y hy
    have h2 := (SMap.mem_keep.1 hy).2
    simp at h2
    rcases List.mem_append.1 hx with hx | hx
    · have h1 := (SMap.mem_keep.1 hx).2
      simp at h1; omega
    · have h1 := mem_programmed hx
      omega
  · rcases List.mem_append.1 he with he | he
    · rcases List.mem_append.1 he with he | he
      · exact h.2 e (SMap.mem_keep.1 he).1
      · have := mem_programmed he
        omega
    · exact h.2 e (SMap.mem_keep.1 he).1

/-- Programming leaves every byte outside the programmed range. -/
theorem get_nvmWrite_outside (s : State) {a x : Nat} {d : List Byte} (h : x < a ∨ a + d.length ≤ x) :
    SMap.get 0xFF (s.nvmWrite a d).nvm x = SMap.get 0xFF s.nvm x := by
  unfold State.nvmWrite
  dsimp only
  have hm : ∀ e ∈ ((d.zipIdx a).filter fun p => p.1 != 0xFF#8).map (fun p => (p.2, p.1)), e.1 ≠ x := fun e he => by
    have := mem_programmed he; omega
  rcases h with h | h
  · rw [List.append_assoc, SMap.get_append_left, SMap.get_keep, if_pos (by simpa using h)]
    intro e he
    rcases List.mem_append.1 he with he | he
    · exact hm e he
    · have := (SMap.mem_keep.1 he).2
      simp at this; omega
  · rw [SMap.get_append_right, SMap.get_keep, if_pos (by simpa using h)]
    intro e he
    rcases List.mem_append.1 he with he | he
    · have := (SMap.mem_keep.1 he).2
      simp at this; omega
    · exact hm e he

theorem get_programmed : ∀ (d : List Byte) (a x : Nat), SMap.get 0xFF#8 (((d.zipIdx a).filter fun p => p.1 != 0xFF#8).map fun p => (p.2, p.1)) x =
    if a ≤ x ∧ x < a + d.length then d.getD (x - a) 0xFF#8 else 0xFF#8
  | [], a, x => by simp [SMap.get]
  | b :: t, a, x => by
    have ih := get_programmed t (a + 1) x
    by_cases hx : x = a
    · subst hx
      by_cases hb : b = 0xFF#8
      · rw [if_neg (by omega)] at ih
        simp [List.zipIdx_cons, hb, ih]
      · simp [List.zipIdx_cons, hb, SMap.get]
    · have h : SMap.get 0xFF#8 ((((b :: t).zipIdx a).filter fun p => p.1 != 0xFF#8).map fun p => (p.2, p.1)) x =
          SMap.get 0xFF#8 (((t.zipIdx (a + 1)).filter fun p => p.1 != 0xFF#8).map fun p => (p.2, p.1)) x := by
        by_cases hb : b = 0xFF#8
        · simp [List.zipIdx_cons, hb]
        · simp [List.zipIdx_cons, hb, SMap.get, Ne.symm hx]
      rw [h, ih]
      by_cases h1 : a < x
      · obtain ⟨n, rfl⟩ : ∃ n, x = a + n + 1 := ⟨x - a - 1, by omega⟩
        rw [show a + n + 1 - a = n + 1 by omega, show a + n + 1 - (a + 1) = n by omega, List.getD_cons_succ]
        exact if_congr (by simp; omega) rfl rfl
      · rw [if_neg (by omega), if_neg (by omega)]

/-- Programming puts its bytes at its addresses and leaves every other byte (14.1). -/
theorem get_nvmWrite (s : State) (a : Nat) (d : List Byte) (x : Nat) : SMap.get 0xFF (s.nvmWrite a d).nvm x =
    if a ≤ x ∧ x < a + d.length then d.getD (x - a) 0xFF else SMap.get 0xFF s.nvm x := by
  by_cases h : x < a ∨ a + d.length ≤ x
  · rw [get_nvmWrite_outside s h, if_neg (by omega)]
  · unfold State.nvmWrite
    rw [if_pos (by omega), SMap.get_append_left, SMap.get_append_right]
    · exact (get_programmed d a x).trans (if_pos (by omega))
    · intro e he
      have := (SMap.mem_keep.1 he).2
      simp at this; omega
    · intro e he
      have := (SMap.mem_keep.1 he).2
      simp at this; omega

/-- Bytes programmed together read back. -/
theorem nvmBytes_nvmWrite (s : State) {a x n : Nat} {d : List Byte} (h1 : a ≤ x) (h2 : x + n ≤ a + d.length) :
    (s.nvmWrite a d).nvmBytes x n = (d.drop (x - a)).take n := by
  refine List.ext_getElem (by simp; omega) fun j h3 h4 => ?_
  have h5 : j < n := by simpa using h3
  have h6 : x - a + j < d.length := by omega
  have h7 : x + j - a = x - a + j := by omega
  simp only [State.nvmBytes, List.getElem_map, List.getElem_range, List.getElem_take, List.getElem_drop]
  rw [get_nvmWrite, if_pos (by omega), h7, List.getD_eq_getElem?_getD, List.getElem?_eq_getElem h6]
  rfl

/-- Erasing leaves every byte outside the erased range. -/
theorem get_nvmErase (s : State) (a n x : Nat) :
    SMap.get 0xFF (s.nvmErase a n).nvm x = if a ≤ x ∧ x < a + n then 0xFF else SMap.get 0xFF s.nvm x := by
  unfold State.nvmErase
  dsimp only
  rw [SMap.get_keep]
  by_cases h1 : a ≤ x <;> by_cases h2 : x < a + n <;> simp_all

theorem nvmWrite_moves {s₀ s : State} {a : Nat} {d : List Byte} (ha : a + d.length ≤ 0x750_0000 ∨ 0x760_0000 ≤ a ∧ a + d.length ≤ 0x800_0000)
    (h : Moves s₀ s) : Moves s₀ (s.nvmWrite a d) :=
  h.trans ⟨rfl, ⟨[], (List.append_nil _).symm⟩, le_rfl, .refl _, fun x h1 h2 => get_nvmWrite_outside s (by omega),
    fun v => ⟨v.regs, v.set0, v.set1, v.host, v.alm, nvmOk_write v.nvm (by omega)⟩⟩

theorem nvmOk_erase {s : State} (a n : Nat) (h : nvmOk s.nvm) : nvmOk (s.nvmErase a n).nvm := by
  refine ⟨SMap.wf_keep (fun k => decide (k < a) || decide (a + n ≤ k)) h.1, fun e he => h.2 e ?_⟩
  have he : e ∈ SMap.keep (fun k => decide (k < a) || decide (a + n ≤ k)) s.nvm := he
  exact (SMap.mem_keep.1 he).1

theorem nvmErase_moves {s₀ s : State} {a n : Nat} (ha : a + n ≤ 0x750_0000 ∨ 0x760_0000 ≤ a) (h : Moves s₀ s) : Moves s₀ (s.nvmErase a n) :=
  h.trans ⟨rfl, ⟨[], (List.append_nil _).symm⟩, le_rfl, .refl _, fun x h1 h2 => by rw [get_nvmErase, if_neg (by omega)],
    fun v => ⟨v.regs, v.set0, v.set1, v.host, v.alm, nvmOk_erase a n v.nvm⟩⟩

theorem almCopyBase_le (c : Nat) : 0x760_0000 ≤ almCopyBase c ∧ almCopyBase c + 0x20_0000 ≤ 0x800_0000 := by
  unfold almCopyBase; split <;> omega

/-! ## The almanac and the ring -/

theorem almWrite_moves {s₀ s : State} (c : Bool) (h : Moves s₀ s) : Moves s₀ (almWrite s c) := by
  have hb := almCopyBase_le
  unfold almWrite
  split
  · exact .same h
  · refine .same (nvmWrite_moves (.inr ⟨(hb _).1, ?_⟩) (nvmErase_moves (.inr (hb _).1) h))
    have := (hb (if s.almNewest = 0 then 1 else 0)).2
    rw [length_almImage]; omega

theorem promptWrite_moves {s₀ s : State} (t : Nat) (p : List Byte) (h : Moves s₀ s) : Moves s₀ (promptWrite s t p) := by
  have hs : ∀ d : List Byte, d.length = 64 → s.promptNext < 32768 → Moves s₀ (s.nvmWrite (promptBase + 64 * s.promptNext) d) := fun d hd hn =>
    nvmWrite_moves (.inr ⟨by unfold promptBase; omega, by unfold promptBase; omega⟩) h
  have hp : ∀ d : List Byte, d.length = 64 →
      Moves s₀ (if s.promptNext < 32768 then { (s.nvmWrite (promptBase + 64 * s.promptNext) d) with promptNext := s.promptNext + 1 } else s) :=
    fun d hd => .ite (fun hn => .same (hs d hd hn)) fun _ => h
  unfold promptWrite
  dsimp only
  exact .ite (fun _ => hp _ (by simp)) fun _ => .same (almWrite_moves false (hp (leBytes 4 t ++ leBytes 8 _ ++ slice p 0 44 ++ leBytes 8 _) (by simp)))

theorem ringAdd_moves {s₀ s : State} (d : List Byte) (h : Moves s₀ s) : Moves s₀ (ringAdd s d) := by
  have hs := setAlm_moves (s := { s with almMem := _ }) 8940 4 (s.alm 8940 4 + 1)
    (almMem_moves (m := writeMem s.almMem (8944 + 32 * (s.alm 8940 4 % 256)) (slice d 0 32)) (fun w => wf_writeMem w _ _) h)
  unfold ringAdd
  dsimp only
  split
  · exact .same (promptWrite_moves _ _ hs)
  · exact hs

end Machine

end Sys2Proof
end

