-- ==== Sys2Proof/Laws/MovesFaults.lean ====
section
/-! SUPPORT. `Moves` for each operation and each command: what faults, memory, counters, rings and losses do. -/

namespace Sys2Proof.Machine

theorem raiseVector_moves {s₀ : State} (s : State) (v : Nat) (h₀ : Moves s₀ s) : Moves s₀ (raiseVector s v) := by
  unfold raiseVector
  with_reducible repeat' first | assumption | intro _ | apply emit_moves | apply Moves.ite | apply Moves.upd

theorem flushVectors_moves {s₀ : State} (s : State) (h₀ : Moves s₀ s) : Moves s₀ (flushVectors s) := by
  unfold flushVectors
  with_reducible repeat' first | assumption | intro _ | apply raiseVector_moves | apply Moves.ite | apply Moves.foldl | apply Moves.upd

theorem raisePageVector_moves {s₀ : State} (s : State) (t : Nat) (i : Nat) (h₀ : Moves s₀ s) : Moves s₀ (raisePageVector s t i) := by
  unfold raisePageVector
  with_reducible repeat' first | assumption | intro _ | apply raiseVector_moves | apply setPfld_moves | apply Moves.ite

theorem deliver_moves {s₀ : State} (s : State) (i : SetId) (r : FRec) (h₀ : Moves s₀ s) : Moves s₀ (deliver s i r) := by
  unfold deliver
  with_reducible repeat' first
    | assumption | intro _ | apply raiseVector_moves | apply emit_moves | apply ringAdd_moves | apply Moves.ite | apply Moves.upd

theorem logRecord_moves {s₀ : State} (s : State) (i : SetId) (r : FRec) (h₀ : Moves s₀ s) : Moves s₀ (logRecord s i r) := by
  unfold logRecord
  with_reducible repeat' first | assumption | intro _ | apply setFld_moves | apply addFld_moves | apply Moves.ite | apply Moves.foldl

theorem report_moves {s₀ : State} (s : State) (i : SetId) (r : FRec) (h₀ : Moves s₀ s) : Moves s₀ (report s i r) := by
  unfold report
  with_reducible repeat' first
    | assumption | intro _ | apply setFld_moves | (refine onSet_moves _ (fun _ ht => ht.same rfl rfl) ?_) | apply logRecord_moves
    | apply deliver_moves | apply Moves.ite | apply Moves.upd

theorem reportPkg_moves {s₀ : State} (s : State) (r : FRec) (h₀ : Moves s₀ s) : Moves s₀ (reportPkg s r) := by
  unfold reportPkg
  with_reducible repeat' first | assumption | intro _ | apply deliver_moves | apply Moves.ite | apply Moves.upd

theorem storePiece_moves {s₀ : State} (s : State) (i : SetId) (a : Nat) (d : List Byte) (h₀ : Moves s₀ s) : Moves s₀ (storePiece s i a d)
    := by
  unfold storePiece
  with_reducible repeat' first
    | assumption | intro _ | apply onSet_moves | apply SetSt.ok.upd | apply wf_writeMem | apply wf_zeroMem | apply regsOk_putField
    | apply Moves.ite | split | exact SetSt.ok.reg (by assumption) | exact SetSt.ok.cells (by assumption)

theorem storeRaw_moves {s₀ : State} (s : State) (i : SetId) (a : Nat) (d : List Byte) (h₀ : Moves s₀ s) : Moves s₀ (storeRaw s i a d) := by
  unfold storeRaw
  with_reducible repeat' first | assumption | intro _ | apply storePiece_moves

theorem zeroPiece_moves {s₀ : State} (s : State) (i : SetId) (a : Nat) (n : Nat) (h₀ : Moves s₀ s) : Moves s₀ (zeroPiece s i a n) := by
  unfold zeroPiece
  with_reducible repeat' first
    | assumption | intro _ | apply onSet_moves | apply SetSt.ok.upd | apply wf_writeMem | apply wf_zeroMem | apply regsOk_putField
    | apply Moves.ite | split | exact SetSt.ok.reg (by assumption) | exact SetSt.ok.cells (by assumption)

theorem zeroFill_moves {s₀ : State} (s : State) (i : SetId) (a : Nat) (n : Nat) (h₀ : Moves s₀ s) : Moves s₀ (zeroFill s i a n) := by
  unfold zeroFill
  with_reducible repeat' first | assumption | intro _ | apply zeroPiece_moves | apply Moves.ite | apply Moves.foldl

theorem poisonWord_moves {s₀ : State} (s : State) (i : SetId) (a : Nat) (h₀ : Moves s₀ s) : Moves s₀ (poisonWord s i a) := by
  unfold poisonWord
  with_reducible repeat' first | assumption | intro _ | (refine onSet_moves _ (fun _ ht => ht.same rfl rfl) ?_) | apply Moves.ite

theorem storePoisoned_moves {s₀ : State} (s : State) (i : SetId) (a : Nat) (n : Nat) (h₀ : Moves s₀ s) : Moves s₀ (storePoisoned s i a n) :=
    by
  unfold storePoisoned
  with_reducible repeat' first | assumption | intro _ | apply storeRaw_moves | apply poisonWord_moves | apply Moves.foldl

theorem upsetWord_moves {s₀ : State} (s : State) (i : SetId) (u : Upset) (h₀ : Moves s₀ s) : Moves s₀ (upsetWord s i u) := by
  unfold upsetWord
  with_reducible repeat' first
    | assumption | apply onSet_moves | apply SetSt.ok.upd | apply wf_writeMem | apply wf_zeroMem | apply regsOk_putField
    | exact SetSt.ok.reg (by assumption) | exact SetSt.ok.cells (by assumption) | intro _

theorem countCorr_moves {s₀ : State} (s : State) (i : SetId) (a : Nat) (h₀ : Moves s₀ s) : Moves s₀ (countCorr s i a) := by
  unfold countCorr
  with_reducible repeat' first | assumption | intro _ | apply addAlm_moves | apply addFld_moves | apply Moves.ite | split

theorem countUncorr_moves {s₀ : State} (s : State) (i : SetId) (a : Nat) (poison : Bool) (h₀ : Moves s₀ s) : Moves s₀
    (countUncorr s i a poison) := by
  unfold countUncorr
  with_reducible repeat' first
    | assumption | intro _ | apply addAlm_moves | apply satFld_moves | apply setFld_moves | apply Moves.ite | split

theorem readWord_moves {s₀ : State} (s : State) (i : SetId) (a : Nat) (h₀ : Moves s₀ s) : Moves s₀ (readWord s i a).2.2 := by
  unfold readWord
  with_reducible repeat' first
    | assumption | intro _ | apply storeRaw_moves | apply countCorr_moves | apply countUncorr_moves | apply Moves.ite | split

theorem readWord_moves_eq {s₀ t₀ : State} {s : State} {i : SetId} {a : Nat} {r0 r1} (he₀ : readWord s i a = (r0, r1, t₀)) (h₀ : Moves s₀ s)
    : Moves s₀ t₀ := by
  have := readWord_moves s i a h₀; rw [he₀] at this; exact this

theorem readWords_moves {s₀ : State} (s : State) (i : SetId) (a n : Nat) (h : Moves s₀ s) : Moves s₀ (readWords s i a n).2.2 := by
  induction n generalizing s a with
  | zero => exact h
  | succ n ih =>
    unfold readWords
    split
    · exact h
    · exact ih _ _ (readWord_moves _ _ _ h)

theorem readWords_moves_eq {s₀ t : State} {s : State} {i : SetId} {a n : Nat} {r0 r1} (e : readWords s i a n = (r0, r1, t)) (h : Moves s₀ s)
    : Moves s₀ t := by
  have := readWords_moves s i a n h; rw [e] at this; exact this

theorem restoreRegion_moves {s₀ : State} (s : State) (i : SetId) (r : Rgn) (h₀ : Moves s₀ s) : Moves s₀ (restoreRegion s i r) := by
  unfold restoreRegion
  with_reducible repeat' first | assumption | intro _ | apply storeRaw_moves | apply zeroFill_moves | apply Moves.ite | apply Moves.foldl

theorem mseErr_moves {s₀ : State} (s : State) (i : SetId) (f : Field) (st : Nat) (n : Nat) (layer : Nat) (tag : Nat) (h₀ : Moves s₀ s) :
    Moves s₀ (mseErr s i f st n layer tag) := by
  unfold mseErr
  with_reducible repeat' first | assumption | apply setFld_moves

theorem markErr_moves {s₀ : State} (s : State) (i : SetId) (a : Nat) (h₀ : Moves s₀ s) : Moves s₀ (markErr s i a) := by
  unfold markErr
  with_reducible repeat' first | assumption | intro _ | apply setFld_moves | apply Moves.ite | split

theorem operandBad_moves {s₀ : State} (s : State) (i : SetId) (job : Nat) (tag : Nat) (a : Nat) (h₀ : Moves s₀ s) : Moves s₀ (operandBad s i
    job tag a).1 := by
  unfold operandBad
  with_reducible repeat' first
    | assumption | intro _ | apply report_moves | apply zeroFill_moves | apply restoreRegion_moves | apply mseErr_moves
    | apply markErr_moves | (refine onSet_moves _ (fun _ ht => ht.same rfl rfl) ?_) | apply Moves.ite | split | dsimp only

theorem operandBad_moves_eq {s₀ t₀ : State} {s : State} {i : SetId} {job : Nat} {tag : Nat} {a : Nat} {r0} (he₀ : operandBad s i job tag a =
    (t₀, r0)) (h₀ : Moves s₀ s) : Moves s₀ t₀ := by
  have := operandBad_moves s i job tag a h₀; rw [he₀] at this; exact this

theorem readOperand_moves {s₀ : State} (s : State) (i : SetId) (job : Nat) (tag : Nat) (a : Nat) (n : Nat) (h₀ : Moves s₀ s) : Moves s₀
    (readOperand s i job tag a n).2.2.2 := by
  unfold readOperand
  with_reducible repeat' first
    | assumption | intro _ | apply readWords_moves | apply operandBad_moves | apply Moves.ite | apply Moves.foldl_fst

theorem readOperand_moves_eq {s₀ t₀ : State} {s : State} {i : SetId} {job : Nat} {tag : Nat} {a : Nat} {n : Nat} {r0 r1 r2}
    (he₀ : readOperand s i job tag a n = (r0, r1, r2, t₀)) (h₀ : Moves s₀ s) : Moves s₀ t₀ := by
  have := readOperand_moves s i job tag a n h₀; rw [he₀] at this; exact this

theorem readOperandBytes_moves {s₀ : State} (s : State) (i : SetId) (job : Nat) (tag : Nat) (a : Nat) (n : Nat) (h₀ : Moves s₀ s) : Moves s₀
    (readOperandBytes s i job tag a n).2.2.2 := by
  unfold readOperandBytes
  with_reducible repeat' first | assumption | intro _ | apply readOperand_moves | apply Moves.ite | split

theorem readOperandBytes_moves_eq {s₀ t₀ : State} {s : State} {i : SetId} {job : Nat} {tag : Nat} {a : Nat} {n : Nat} {r0 r1 r2}
    (he₀ : readOperandBytes s i job tag a n = (r0, r1, r2, t₀)) (h₀ : Moves s₀ s) : Moves s₀ t₀ := by
  have := readOperandBytes_moves s i job tag a n h₀; rw [he₀] at this; exact this

theorem storePart_moves {s₀ : State} (s : State) (i : SetId) (a : Nat) (d : List Byte) (h₀ : Moves s₀ s) : Moves s₀ (storePart s i a d) :=
    by
  unfold storePart
  with_reducible repeat' first
    | assumption | intro _ | apply storeRaw_moves | apply readWord_moves | (refine readWord_moves_eq (by assumption) ?_)
    | apply operandBad_moves | (refine operandBad_moves_eq (by assumption) ?_) | (refine onSet_moves _ (fun _ ht => ht.same rfl rfl) ?_)
    | apply Moves.ite

theorem store_moves {s₀ : State} (s : State) (i : SetId) (a : Nat) (d : List Byte) (h₀ : Moves s₀ s) : Moves s₀ (store s i a d) := by
  unfold store
  with_reducible repeat' first | assumption | intro _ | apply storeRaw_moves | apply storePart_moves

theorem moveWords_moves {s₀ : State} (s : State) (i : SetId) (src : Nat) (dst : Nat) (n : Nat) (h₀ : Moves s₀ s) : Moves s₀
    (moveWords s i src dst n) := by
  unfold moveWords
  with_reducible repeat' first
    | assumption | intro _ | apply readWords_moves | apply poisonWord_moves | apply store_moves | apply Moves.ite | apply Moves.foldl

theorem setSlotState_moves {s₀ : State} (s : State) (i : SetId) (k : Nat) (n : Nat) (v : Nat) (h₀ : Moves s₀ s) : Moves s₀
    (setSlotState s i k n v) := by
  unfold setSlotState
  with_reducible repeat' first | assumption | intro _ | apply setFld_moves

theorem resumeSlot_moves {s₀ : State} (s : State) (i : SetId) (k : Nat) (n : Nat) (h₀ : Moves s₀ s) : Moves s₀ (resumeSlot s i k n) := by
  unfold resumeSlot
  with_reducible repeat' first | assumption | intro _ | apply setSlotState_moves

theorem startSlot_moves {s₀ : State} (s : State) (i : SetId) (k : Nat) (n : Nat) (pc : Nat) (h₀ : Moves s₀ s) : Moves s₀
    (startSlot s i k n pc) := by
  unfold startSlot
  with_reducible repeat' first
    | assumption | intro _ | apply onSlot_moves | apply setFld_moves | apply setSlotState_moves | apply Moves.foldl

theorem showWaiters_moves {s₀ : State} (s : State) (i : SetId) (p : Nat) (h₀ : Moves s₀ s) : Moves s₀ (showWaiters s i p) := by
  unfold showWaiters
  with_reducible repeat' first | assumption | intro _ | apply setFld_moves

theorem setWaiters_moves {s₀ : State} (s : State) (i : SetId) (p : Nat) (q : List Waiter) (h₀ : Moves s₀ s) : Moves s₀ (setWaiters s i p q)
    := by
  unfold setWaiters
  with_reducible repeat' first | assumption | apply showWaiters_moves | (refine onSet_moves _ (fun _ ht => ht.same rfl rfl) ?_)

theorem unwait_moves {s₀ : State} (s : State) (i : SetId) (k : Nat) (n : Nat) (h₀ : Moves s₀ s) : Moves s₀ (unwait s i k n) := by
  unfold unwait
  with_reducible repeat' first | assumption | intro _ | apply setWaiters_moves | apply Moves.ite | apply Moves.foldl

theorem dropHold_moves {s₀ : State} (s : State) (i : SetId) (k : Nat) (n : Nat) (h₀ : Moves s₀ s) : Moves s₀ (dropHold s i k n) := by
  unfold dropHold
  with_reducible repeat' first | assumption | intro _ | apply setFld_moves

theorem stopSlot_moves {s₀ : State} (s : State) (i : SetId) (k : Nat) (n : Nat) (h₀ : Moves s₀ s) : Moves s₀ (stopSlot s i k n) := by
  unfold stopSlot
  with_reducible repeat' first
    | assumption | intro _ | apply onSlot_moves | apply setSlotState_moves | apply unwait_moves | apply dropHold_moves

theorem showSb_moves {s₀ : State} (s : State) (i : SetId) (k : Nat) (h₀ : Moves s₀ s) : Moves s₀ (showSb s i k) := by
  unfold showSb
  with_reducible repeat' first | assumption | apply setFld_moves

theorem releaseSb_moves {s₀ : State} (s : State) (i : SetId) (k : Nat) (id : Nat) (h₀ : Moves s₀ s) : Moves s₀ (releaseSb s i k id) := by
  unfold releaseSb
  with_reducible repeat' first | assumption | apply showSb_moves | apply onCore_moves

theorem discardJob_moves {s₀ : State} (s : State) (i : SetId) (k : Nat) (j : Nat) (h₀ : Moves s₀ s) : Moves s₀ (discardJob s i k j) := by
  unfold discardJob
  with_reducible repeat' first | assumption | intro _ | apply onCore_moves | apply releaseSb_moves | apply Moves.ite | apply Moves.foldl

theorem setChanStat_moves {s₀ : State} (s : State) (i : SetId) (x : Nat) (v : Nat) (h₀ : Moves s₀ s) : Moves s₀ (setChanStat s i x v) := by
  unfold setChanStat
  with_reducible repeat' first | assumption | apply setFld_moves

theorem clearLatches_moves {s₀ : State} (s : State) (i : SetId) (j : Nat) (h₀ : Moves s₀ s) : Moves s₀ (clearLatches s i j) := by
  unfold clearLatches
  with_reducible repeat' first | assumption | intro _ | apply onCore_moves | apply Moves.ite | apply Moves.foldl

theorem closeWindows_moves {s₀ : State} (s : State) (i : SetId) (j : Nat) (h₀ : Moves s₀ s) : Moves s₀ (closeWindows s i j) := by
  unfold closeWindows
  with_reducible repeat' first | assumption | intro _ | apply setFld_moves | apply Moves.ite | apply Moves.foldl

theorem leaveJob_moves {s₀ : State} (s : State) (i : SetId) (j : Nat) (exit : JobExit) (h₀ : Moves s₀ s) : Moves s₀ (leaveJob s i j exit) :=
    by
  unfold leaveJob
  with_reducible repeat' first
    | assumption | intro _ | apply setFld_moves | apply stopSlot_moves | apply discardJob_moves | apply setChanStat_moves
    | apply clearLatches_moves | apply closeWindows_moves | (refine onSet_moves _ (fun _ ht => ht.same rfl rfl) ?_) | apply Moves.ite
    | apply Moves.foldl

theorem haltSlotWith_moves {s₀ : State} (s : State) (i : SetId) (k : Nat) (n : Nat) (pc : Nat) (tag : Nat) (r : FRec) (h₀ : Moves s₀ s) :
    Moves s₀ (haltSlotWith s i k n pc tag r) := by
  unfold haltSlotWith
  with_reducible repeat' first
    | assumption | apply unwait_moves | apply setFld_moves | apply onSlot_moves | apply setSlotState_moves | apply leaveJob_moves
    | apply report_moves

theorem haltSlot_moves {s₀ : State} (s : State) (i : SetId) (k : Nat) (n : Nat) (code : FC) (pc : Nat) (tag : Nat) (cause : Nat)
    (detail : Nat) (h₀ : Moves s₀ s) : Moves s₀ (haltSlot s i k n code pc tag cause detail) := by
  unfold haltSlot
  with_reducible repeat' first | assumption | apply haltSlotWith_moves

theorem markSrc_moves {s₀ : State} (s : State) (i : SetId) (p : Nat) (who : Src) (h₀ : Moves s₀ s) : Moves s₀ (markSrc s i p who) := by
  unfold markSrc
  with_reducible repeat' first | assumption | intro _ | apply setFld_moves

theorem oweDone_moves {s₀ : State} (s : State) (i : SetId) (k : Nat) (n : Nat) (j : Nat) (pc : Nat) (d : List Byte) (h₀ : Moves s₀ s) :
    Moves s₀ (oweDone s i k n j pc d) := by
  unfold oweDone
  with_reducible repeat' first | assumption | intro _ | (refine onSet_moves _ (fun _ ht => ht.same rfl rfl) ?_) | apply Moves.ite

theorem adoptRows_moves {s₀ : State} (s : State) (i : SetId) (h₀ : Moves s₀ s) : Moves s₀ (adoptRows s i) := by
  unfold adoptRows
  with_reducible repeat' first
    | assumption | intro _ | apply onSet_moves | apply SetSt.ok.upd | apply wf_writeMem | apply wf_zeroMem | apply regsOk_putField
    | apply Moves.ite | split | exact SetSt.ok.reg (by assumption) | exact SetSt.ok.cells (by assumption) | intro _ | dsimp only

theorem waitDone_moves {s₀ : State} (s : State) (i : SetId) (k : Nat) (n : Nat) (p : Nat) (h₀ : Moves s₀ s) : Moves s₀ (waitDone s i k n p)
    := by
  unfold waitDone
  with_reducible repeat' first
    | assumption | intro _ | apply adoptRows_moves | apply setFld_moves | apply onCore_moves | apply oweDone_moves | apply onSlot_moves
    | (refine onSet_moves _ (fun _ ht => ht.same rfl rfl) ?_) | apply resumeSlot_moves | apply Moves.ite | apply Moves.foldl | split

theorem hostWrite_moves {s₀ : State} (s : State) (a : Nat) (d : List Byte) (h₀ : Moves s₀ s) : Moves s₀ (hostWrite s a d) := by
  unfold hostWrite
  with_reducible repeat' first | assumption | intro _ | apply Moves.ite | apply hostMem_moves | apply Moves.upd

theorem showHeld_moves {s₀ : State} (s : State) (h₀ : Moves s₀ s) : Moves s₀ (showHeld s) := by
  unfold showHeld
  with_reducible repeat' first
    | assumption | intro _ | apply setPfld_moves | apply flushVectors_moves | apply hostWrite_moves | apply Moves.ite | apply Moves.foldl
    | apply Moves.upd

theorem hostWaitDone_moves {s₀ : State} (s : State) (t : Nat) (w : Nat) (status : Nat) (value : Nat) (h₀ : Moves s₀ s) : Moves s₀
    (hostWaitDone s t w status value) := by
  unfold hostWaitDone
  with_reducible repeat' first
    | assumption | intro _ | apply hostWrite_moves | apply setPfld_moves | apply raisePageVector_moves | apply Moves.ite | apply Moves.upd

theorem satisfy_moves {s₀ : State} (s : State) (i : SetId) (p : Nat) (w : Waiter) (h₀ : Moves s₀ s) : Moves s₀ (satisfy s i p w) := by
  unfold satisfy
  with_reducible repeat' first | assumption | intro _ | apply waitDone_moves | apply hostWaitDone_moves | apply Moves.ite | split

theorem serveList_moves {s₀ : State} (s : State) (i : SetId) (p : Nat) (l : List Waiter) (h : Moves s₀ s) : Moves s₀ (serveList s i p l)
    := by
  induction l generalizing s with
  | nil => exact setWaiters_moves _ _ _ _ h
  | cons w q ih => exact .ite (fun _ => ih _ (satisfy_moves _ _ _ _ (setFld_moves _ _ _ _ h))) fun _ => setWaiters_moves _ _ _ _ h

theorem serve_moves {s₀ : State} (s : State) (i : SetId) (p : Nat) (h₀ : Moves s₀ s) : Moves s₀ (serve s i p) := by
  unfold serve
  with_reducible repeat' first | assumption | apply serveList_moves

theorem enqueue_moves {s₀ : State} (s : State) (i : SetId) (p : Nat) (w : Waiter) (h₀ : Moves s₀ s) : Moves s₀ (enqueue s i p w) := by
  unfold enqueue
  with_reducible repeat' first | assumption | intro _ | apply serveList_moves | apply setWaiters_moves | apply Moves.ite

theorem chanFree_moves {s₀ : State} (s : State) (i : SetId) (x : Nat) (n : Nat) (h₀ : Moves s₀ s) : Moves s₀ (chanFree s i x n) := by
  unfold chanFree
  with_reducible repeat' first
    | assumption | intro _ | (refine onSet_moves _ (fun _ ht => ht.same rfl rfl) ?_) | apply setFld_moves | apply leaveJob_moves
    | apply report_moves | apply Moves.ite

theorem giveReturn_moves {s₀ : State} (s : State) (i : SetId) (j : Nat) (v : Nat) (n : Nat) (h₀ : Moves s₀ s) : Moves s₀
    (giveReturn s i j v n) := by
  unfold giveReturn
  with_reducible repeat' first | assumption | intro _ | apply emit_moves | apply chanFree_moves | apply Moves.ite | apply Moves.foldl

theorem addBase_moves {s₀ : State} (s : State) (i : SetId) (p : Nat) (n : Nat) (who : Src) (h₀ : Moves s₀ s) : Moves s₀
    (addBase s i p n who) := by
  unfold addBase
  with_reducible repeat' first
    | assumption | intro _ | apply markSrc_moves | apply giveReturn_moves | apply setFld_moves | apply serve_moves | apply Moves.ite

theorem payDone_moves {s₀ : State} (s : State) (i : SetId) (e : DoneDue) (h₀ : Moves s₀ s) : Moves s₀ (payDone s i e) := by
  unfold payDone
  with_reducible repeat' first | assumption | intro _ | apply addBase_moves | apply haltSlot_moves | apply Moves.ite | split

theorem drainDone_moves {s₀ : State} (i : SetId) (n : Nat) (s : State) (h : Moves s₀ s) : Moves s₀ (drainDone i n s) := by
  induction n generalizing s with
  | zero => exact h
  | succ n ih =>
    unfold drainDone
    split
    · exact h
    · exact ih _ (payDone_moves _ _ _ (onSet_moves _ (fun t ht => ht.same rfl rfl) h))

theorem payDones_moves {s₀ : State} (s : State) (i : SetId) (h₀ : Moves s₀ s) : Moves s₀ (payDones s i) := by
  unfold payDones
  with_reducible repeat' first | assumption | apply drainDone_moves

theorem addApply_moves {s₀ : State} (s : State) (i : SetId) (p : Nat) (n : Nat) (who : Src) (h₀ : Moves s₀ s) : Moves s₀
    (addApply s i p n who) := by
  unfold addApply
  with_reducible repeat' first | assumption | apply payDones_moves | apply addBase_moves

theorem unitSignal_moves {s₀ : State} (s : State) (i : SetId) (die : Nat) (unit : Nat) (j : Nat) (v : Nat) (n : Nat) (h₀ : Moves s₀ s) :
    Moves s₀ (unitSignal s i die unit j v n) := by
  unfold unitSignal
  with_reducible repeat' first
    | assumption | intro _ | apply report_moves | apply leaveJob_moves | apply addApply_moves | apply Moves.ite | split

theorem releaseNode_moves {s₀ : State} (s : State) (i : SetId) (x : Nat) (p : Nat) (h₀ : Moves s₀ s) : Moves s₀ (releaseNode s i x p) := by
  unfold releaseNode
  with_reducible repeat' first
    | assumption | intro _ | apply setFld_moves | (refine onSet_moves _ (fun _ ht => ht.same rfl rfl) ?_) | apply addFld_moves
    | apply setWaiters_moves | apply waitDone_moves | apply onSlot_moves | apply emit_moves | apply Moves.ite | apply Moves.foldl | split

theorem nodeCheck_moves {s₀ : State} (s : State) (i : SetId) (x : Nat) (p : Nat) (h₀ : Moves s₀ s) : Moves s₀ (nodeCheck s i x p) := by
  unfold nodeCheck
  with_reducible repeat' first | assumption | intro _ | apply releaseNode_moves | apply emit_moves | apply Moves.ite

theorem haltWait_moves {s₀ : State} (s : State) (i : SetId) (k : Nat) (n : Nat) (p : Nat) (h₀ : Moves s₀ s) : Moves s₀ (haltWait s i k n p)
    := by
  unfold haltWait
  with_reducible repeat' first | assumption | intro _ | apply haltSlot_moves

theorem breakNode_moves {s₀ : State} (s : State) (i : SetId) (x : Nat) (p : Nat) (origin : Option (Nat × Nat)) (h₀ : Moves s₀ s) : Moves s₀
    (breakNode s i x p origin) := by
  unfold breakNode
  with_reducible repeat' first
    | assumption | intro _ | apply setFld_moves | apply emit_moves | apply setWaiters_moves | apply haltWait_moves | apply Moves.ite
    | apply Moves.foldl | split

theorem clearArrivals_moves {s₀ : State} (s : State) (i : SetId) (p : Nat) (h₀ : Moves s₀ s) : Moves s₀ (clearArrivals s i p) := by
  unfold clearArrivals
  with_reducible repeat' first | assumption | intro _ | (refine onSet_moves _ (fun _ ht => ht.same rfl rfl) ?_)

theorem clearCtrs_moves {s₀ : State} (s : State) (i : SetId) (j : Nat) (h₀ : Moves s₀ s) : Moves s₀ (clearCtrs s i j) := by
  unfold clearCtrs
  with_reducible repeat' first
    | assumption | intro _ | apply setFld_moves | apply setWaiters_moves | apply hostWaitDone_moves | apply haltWait_moves
    | apply breakNode_moves | apply clearArrivals_moves | (refine onSet_moves _ (fun _ ht => ht.same rfl rfl) ?_) | apply Moves.ite
    | apply Moves.foldl | split | dsimp only

theorem initCtrs_moves {s₀ : State} (s : State) (i : SetId) (j : Nat) (h₀ : Moves s₀ s) : Moves s₀ (initCtrs s i j) := by
  unfold initCtrs
  with_reducible repeat' first
    | assumption | intro _ | apply setFld_moves | (refine onSet_moves _ (fun _ ht => ht.same rfl rfl) ?_) | apply Moves.ite
    | apply Moves.foldl | split | dsimp only

theorem mendCtrs_moves {s₀ : State} (s : State) (i : SetId) (j : Nat) (h₀ : Moves s₀ s) : Moves s₀ (mendCtrs s i j) := by
  unfold mendCtrs
  with_reducible repeat' first | assumption | intro _ | apply setFld_moves | apply Moves.foldl

theorem execRemoteSignal_moves {s₀ : State} (i : SetId) (sender : Nat) (exp : Fin 4096) (n : Nat) (s : State) (h₀ : Moves s₀ s) : MovesOut
    s₀ (execRemoteSignal i sender exp n s) := by
  unfold execRemoteSignal
  with_reducible repeat' first | assumption | intro _ | apply emit_moves | apply addApply_moves | apply Moves.ite | apply MovesOut.next

theorem remoteReply_moves {s₀ : State} (s : State) (i : SetId) (k : Nat) (n : Nat) (cause : Nat) (h₀ : Moves s₀ s) : Moves s₀
    (remoteReply s i k n cause) := by
  unfold remoteReply
  with_reducible repeat' first | assumption | intro _ | apply onSlot_moves | apply haltSlot_moves | apply Moves.ite | split

theorem execBarrierArrive_moves {s₀ : State} (i : SetId) (ctr : Nat) (place : Nat) (cctr : Nat) (s : State) (h₀ : Moves s₀ s) : MovesOut s₀
    (execBarrierArrive i ctr place cctr s) := by
  unfold execBarrierArrive
  with_reducible repeat' first
    | assumption | intro _ | apply emit_moves | (refine onSet_moves _ (fun _ ht => ht.same rfl rfl) ?_) | apply setFld_moves
    | apply payDones_moves | apply nodeCheck_moves | apply markSrc_moves | apply Moves.ite | apply MovesOut.next | apply MovesOut.ite
    | split

theorem execBarrierRelease_moves {s₀ : State} (i : SetId) (ctr : Nat) (s : State) (h₀ : Moves s₀ s) : MovesOut s₀
    (execBarrierRelease i ctr s) := by
  unfold execBarrierRelease
  with_reducible repeat' first
    | assumption | intro _ | apply payDones_moves | apply releaseNode_moves | apply Moves.ite | apply MovesOut.next | apply MovesOut.ite
    | split

theorem execBarrierBroken_moves {s₀ : State} (i : SetId) (ctr : Nat) (place : Nat) (fromCtr : Nat) (s : State) (h₀ : Moves s₀ s) : MovesOut
    s₀ (execBarrierBroken i ctr place fromCtr s) := by
  unfold execBarrierBroken
  with_reducible repeat' first
    | assumption | intro _ | apply breakNode_moves | apply Moves.ite | apply MovesOut.next | apply MovesOut.ite | split

theorem hostErr_moves {s₀ : State} (s : State) (t : Nat) (cause : Nat) (h₀ : Moves s₀ s) : Moves s₀ (hostErr s t cause) := by
  unfold hostErr
  with_reducible repeat' first | assumption | apply setPfld_moves

theorem hostSignal_moves {s₀ : State} (s : State) (t : Nat) (v : Nat) (n : Nat) (h₀ : Moves s₀ s) : Moves s₀ (hostSignal s t v n) := by
  unfold hostSignal
  with_reducible repeat' first
    | assumption | intro _ | apply addApply_moves | apply hostErr_moves | apply report_moves | apply Moves.ite | split | dsimp only

theorem dropHostWait_moves {s₀ : State} (s : State) (t : Nat) (w : Nat) (h₀ : Moves s₀ s) : Moves s₀ (dropHostWait s t w) := by
  unfold dropHostWait
  with_reducible repeat' first | assumption | intro _ | apply setWaiters_moves | apply Moves.ite | apply Moves.foldl

theorem hostArm_moves {s₀ : State} (s : State) (t : Nat) (w : Nat) (v : Nat) (n : Nat) (msix : Bool) (vec : Nat) (h₀ : Moves s₀ s) : Moves
    s₀ (hostArm s t w v n msix vec) := by
  unfold hostArm
  with_reducible repeat' first
    | assumption | intro _ | apply dropHostWait_moves | apply setPfld_moves | apply enqueue_moves | apply hostErr_moves | apply Moves.ite
    | split | dsimp only

theorem execHostSignal_moves {s₀ : State} (page : PageId) (vid : Nat) (n : Nat) (s : State) (h₀ : Moves s₀ s) : MovesOut s₀
    (execHostSignal page vid n s) := by
  unfold execHostSignal
  with_reducible repeat' first | assumption | intro _ | apply hostSignal_moves | apply Moves.ite | apply MovesOut.next

theorem execHostWaitArm_moves {s₀ : State} (page : PageId) (w : Fin 64) (vid : Nat) (n : Nat) (msix : Bool) (vec : Nat) (s : State)
    (h₀ : Moves s₀ s) : MovesOut s₀ (execHostWaitArm page w vid n msix vec s) := by
  unfold execHostWaitArm
  with_reducible repeat' first | assumption | intro _ | apply hostArm_moves | apply Moves.ite | apply MovesOut.next

theorem setLeave_moves {s₀ : State} (s : State) (i : SetId) (d : Nat) (q : List Nat) (h₀ : Moves s₀ s) : Moves s₀ (setLeave s i d q) := by
  unfold setLeave
  with_reducible repeat' first | assumption | (refine onSet_moves _ (fun _ ht => ht.same rfl rfl) ?_)

theorem setEnter_moves {s₀ : State} (s : State) (i : SetId) (d : Nat) (q : List Nat) (h₀ : Moves s₀ s) : Moves s₀ (setEnter s i d q) := by
  unfold setEnter
  with_reducible repeat' first | assumption | (refine onSet_moves _ (fun _ ht => ht.same rfl rfl) ?_)

theorem arraysWake_moves {s₀ : State} (s : State) (i : SetId) (k : Nat) (h₀ : Moves s₀ s) : Moves s₀ (arraysWake s i k) := by
  unfold arraysWake
  with_reducible repeat' first
    | assumption | intro _ | apply setEnter_moves | apply setFld_moves | apply setLeave_moves | apply Moves.ite | apply Moves.foldl

theorem arraysToIdle_moves {s₀ : State} (s : State) (i : SetId) (k : Nat) (h₀ : Moves s₀ s) : Moves s₀ (arraysToIdle s i k) := by
  unfold arraysToIdle
  with_reducible repeat' first
    | assumption | intro _ | apply setLeave_moves | apply setEnter_moves | apply setFld_moves | apply Moves.ite | apply Moves.foldl

theorem arraysEmpty_moves {s₀ : State} (s : State) (i : SetId) (k : Nat) (h₀ : Moves s₀ s) : Moves s₀ (arraysEmpty s i k) := by
  unfold arraysEmpty
  with_reducible repeat' first | assumption | intro _ | apply arraysToIdle_moves | apply setFld_moves | apply Moves.ite | apply Moves.foldl

theorem execRampAdmit_moves {s₀ : State} (i : SetId) (d : CDie) (s : State) (h₀ : Moves s₀ s) : MovesOut s₀ (execRampAdmit i d s) := by
  unfold execRampAdmit
  with_reducible repeat' first | assumption | intro _ | apply setFld_moves | apply setLeave_moves | apply MovesOut.next | apply Moves.foldl

theorem execRampRelease_moves {s₀ : State} (i : SetId) (d : CDie) (s : State) (h₀ : Moves s₀ s) : MovesOut s₀ (execRampRelease i d s) := by
  unfold execRampRelease
  with_reducible repeat' first | assumption | intro _ | apply setFld_moves | apply setEnter_moves | apply MovesOut.next | apply Moves.foldl

theorem execMarkTimeout_moves {s₀ : State} (i : SetId) (k : CoreId) (s : State) (h₀ : Moves s₀ s) : MovesOut s₀ (execMarkTimeout i k s)
    := by
  unfold execMarkTimeout
  with_reducible repeat' first | assumption | intro _ | apply arraysToIdle_moves | apply Moves.ite | apply MovesOut.next

theorem onSu_moves {s₀ : State} (s : State) (i : SetId) (f : SessUnit → SessUnit) (h₀ : Moves s₀ s) : Moves s₀ (onSu s i f) := by
  unfold onSu
  with_reducible repeat' first | assumption | (refine onSet_moves _ (fun _ ht => ht.same rfl rfl) ?_)

theorem onSess_moves {s₀ : State} (s : State) (i : SetId) (n : Nat) (f : Sess → Sess) (h₀ : Moves s₀ s) : Moves s₀ (onSess s i n f) := by
  unfold onSess
  with_reducible repeat' first | assumption | apply onSu_moves

theorem cqHold_moves {s₀ : State} (s : State) (t : Nat) (n : Nat) (h₀ : Moves s₀ s) : Moves s₀ (cqHold s t n) := by
  unfold cqHold
  with_reducible repeat' first | assumption | apply Moves.upd

theorem cqFree_moves {s₀ : State} (s : State) (t : Nat) (n : Nat) (h₀ : Moves s₀ s) : Moves s₀ (cqFree s t n) := by
  unfold cqFree
  with_reducible repeat' first | assumption | apply Moves.upd

theorem writeRec_moves {s₀ : State} (s : State) (i : SetId) (t : Nat) (r : List Byte) (h₀ : Moves s₀ s) : Moves s₀ (writeRec s i t r) := by
  unfold writeRec
  with_reducible repeat' first
    | assumption | intro _ | apply hostWrite_moves | apply setPfld_moves | apply onSu_moves | apply Moves.ite | apply Moves.upd

theorem postRec_moves {s₀ : State} (s : State) (i : SetId) (t : Nat) (r : List Byte) (h₀ : Moves s₀ s) : Moves s₀ (postRec s i t r) := by
  unfold postRec
  with_reducible repeat' first | assumption | intro _ | apply onSu_moves | apply writeRec_moves | apply Moves.ite

theorem postDue_moves {s₀ : State} (s : State) (i : SetId) (t : Nat) (h₀ : Moves s₀ s) : Moves s₀ (postDue s i t) := by
  unfold postDue
  with_reducible repeat' first | assumption | intro _ | apply postRec_moves | apply onSu_moves | apply Moves.foldl

theorem raiseCq_moves {s₀ : State} (s : State) (i : SetId) (h₀ : Moves s₀ s) : Moves s₀ (raiseCq s i) := by
  unfold raiseCq
  with_reducible repeat' first | assumption | intro _ | apply raisePageVector_moves | apply onSu_moves | apply Moves.ite | apply Moves.foldl

theorem freeEvent_moves {s₀ : State} (s : State) (sid : Nat) (status : Nat) (event : Nat) (h₀ : Moves s₀ s) : Moves s₀
    (freeEvent s sid status event).2 := by
  unfold freeEvent
  with_reducible repeat' first | assumption | apply spend_moves

theorem freeEvent_moves_eq {s₀ t₀ : State} {s : State} {sid : Nat} {status : Nat} {event : Nat} {r0}
    (he₀ : freeEvent s sid status event = (r0, t₀)) (h₀ : Moves s₀ s) : Moves s₀ t₀ := by
  have := freeEvent_moves s sid status event h₀; rw [he₀] at this; exact this

theorem showOpen_moves {s₀ : State} (s : State) (i : SetId) (t : Nat) (h₀ : Moves s₀ s) : Moves s₀ (showOpen s i t) := by
  unfold showOpen
  with_reducible repeat' first | assumption | apply setPfld_moves

theorem showOpens_moves {s₀ : State} (s : State) (i : SetId) (h₀ : Moves s₀ s) : Moves s₀ (showOpens s i) := by
  unfold showOpens
  with_reducible repeat' first | assumption | intro _ | apply showOpen_moves | apply Moves.foldl

theorem writeShadow_moves {s₀ : State} (s : State) (i : SetId) (vars : List Nat) (rows : List RowEnt) (h₀ : Moves s₀ s) : Moves s₀
    (writeShadow s i vars rows) := by
  unfold writeShadow
  with_reducible repeat' first
    | assumption | intro _ | apply onSlot_moves | apply store_moves | apply onSu_moves | apply Moves.ite | apply Moves.foldl

theorem turnSignal_moves {s₀ : State} (s : State) (i : SetId) (h₀ : Moves s₀ s) : Moves s₀ (turnSignal s i) := by
  unfold turnSignal
  with_reducible repeat' first | assumption | apply unitSignal_moves

theorem pageLost_moves {s₀ : State} (s : State) (i : SetId) (t : Nat) (h₀ : Moves s₀ s) : Moves s₀ (pageLost s i t) := by
  unfold pageLost
  with_reducible repeat' first
    | assumption | intro _ | apply freeEvent_moves | apply setPfld_moves | apply postRec_moves | apply Moves.ite | apply Moves.upd

theorem discardStep_moves {s₀ : State} (s : State) (i : SetId) (h₀ : Moves s₀ s) : Moves s₀ (discardStep s i) := by
  unfold discardStep
  with_reducible repeat' first | assumption | (refine onSet_moves _ (fun _ ht => ht.same rfl rfl) ?_)

theorem dropQueues_moves {s₀ : State} (s : State) (i : SetId) (k : Nat) (h₀ : Moves s₀ s) : Moves s₀ (dropQueues s i k) := by
  unfold dropQueues
  with_reducible repeat' first | assumption | intro _ | apply showSb_moves | apply onCore_moves | apply Moves.ite

theorem sendDown_moves {s₀ : State} (s : State) (i : SetId) (h₀ : Moves s₀ s) : Moves s₀ (sendDown s i) := by
  unfold sendDown
  with_reducible repeat' first | assumption | intro _ | apply emit_moves | apply Moves.ite | apply Moves.foldl

theorem onPm_moves {s₀ : State} (s : State) (f : PowerMgr → PowerMgr) (h₀ : Moves s₀ s) : Moves s₀ (onPm s f) := by
  unfold onPm
  with_reducible repeat' first | assumption | apply Moves.upd

theorem freeRail_moves {s₀ : State} (s : State) (n : Nat) (lo : Nat) (hi : Nat) (h₀ : Moves s₀ s) : Moves s₀ (freeRail s n lo hi) := by
  unfold freeRail
  with_reducible repeat' first | assumption | apply spend_moves | apply setPfld_moves

theorem riseRail_moves {s₀ : State} (s : State) (n : Nat) (h₀ : Moves s₀ s) : Moves s₀ (riseRail s n) := by
  unfold riseRail
  with_reducible repeat' first | assumption | intro _ | apply freeRail_moves | apply Moves.ite

theorem lendShare_moves {s₀ : State} (s : State) (who : Nat) (watts : Nat) (dies : List Nat) (h₀ : Moves s₀ s) : Moves s₀ (lendShare s who
    watts dies) := by
  unfold lendShare
  with_reducible repeat' first | assumption | intro _ | apply spend_moves | apply onPm_moves | apply riseRail_moves | split | dsimp only

theorem revokeLoans_moves {s₀ : State} (s : State) (gone : Loan → Bool) (h₀ : Moves s₀ s) : Moves s₀ (revokeLoans s gone) := by
  unfold revokeLoans
  with_reducible repeat' first | assumption | intro _ | apply onPm_moves | apply freeRail_moves | apply Moves.ite | apply Moves.foldl

theorem withdraw_moves {s₀ : State} (s : State) (i : SetId) (h₀ : Moves s₀ s) : Moves s₀ (withdraw s i) := by
  unfold withdraw
  with_reducible repeat' first | assumption | intro _ | apply onPm_moves | apply lendShare_moves | apply revokeLoans_moves | apply Moves.ite

theorem loseSet_moves {s₀ : State} (s : State) (i : SetId) (h₀ : Moves s₀ s) : Moves s₀ (loseSet s i) := by
  unfold loseSet
  with_reducible repeat' first
    | assumption | intro _ | apply setFld_moves | apply raiseVector_moves | apply stopSlot_moves | apply setChanStat_moves
    | apply onSu_moves | apply pageLost_moves | apply dropQueues_moves | apply sendDown_moves | apply withdraw_moves
    | (refine onSet_moves _ (fun _ ht => ht.same rfl rfl) ?_) | apply Moves.ite | apply Moves.foldl

theorem normalRails_moves {s₀ : State} (s : State) (h₀ : Moves s₀ s) : Moves s₀ (normalRails s) := by
  unfold normalRails
  with_reducible repeat' first | assumption | intro _ | apply freeRail_moves | apply Moves.ite | apply Moves.foldl

theorem showLife_moves {s₀ : State} (s : State) (h₀ : Moves s₀ s) : Moves s₀ (showLife s) := by
  unfold showLife
  with_reducible repeat' first | assumption | intro _ | apply setPfld_moves | apply Moves.ite

theorem drawReserve_moves {s₀ : State} (s : State) (us : Nat) (h₀ : Moves s₀ s) : Moves s₀ (drawReserve s us) := by
  unfold drawReserve
  with_reducible repeat' first | assumption | intro _ | apply setPfld_moves | apply onPm_moves | apply showLife_moves

theorem sprintEnd_moves {s₀ : State} (s : State) (cause : Nat) (h₀ : Moves s₀ s) : Moves s₀ (sprintEnd s cause) := by
  unfold sprintEnd
  with_reducible repeat' first | assumption | intro _ | apply setPfld_moves | apply normalRails_moves | apply Moves.ite | apply Moves.upd

theorem fenceSet_moves {s₀ : State} (s : State) (i : SetId) (r : FRec) (h₀ : Moves s₀ s) : Moves s₀ (fenceSet s i r) := by
  unfold fenceSet
  with_reducible repeat' first | assumption | apply sprintEnd_moves | apply loseSet_moves | apply report_moves

theorem cutRails_moves {s₀ : State} (s : State) (i : SetId) (h₀ : Moves s₀ s) : Moves s₀ (cutRails s i) := by
  unfold cutRails
  with_reducible repeat' first | assumption | intro _ | apply setPfld_moves | apply Moves.ite | apply Moves.foldl | apply Moves.upd

theorem losePackage_moves {s₀ : State} (s : State) (h₀ : Moves s₀ s) : Moves s₀ (losePackage s) := by
  unfold losePackage
  with_reducible repeat' first
    | assumption | intro _ | apply loseSet_moves | apply sprintEnd_moves | apply cutRails_moves | apply Moves.ite | apply Moves.foldl
    | apply Moves.upd

theorem almPrune_moves {s₀ : State} (s : State) (i : SetId) (n : Nat) (h₀ : Moves s₀ s) : Moves s₀ (almPrune s i n) := by
  unfold almPrune
  with_reducible repeat' first | assumption | apply addAlm_moves

theorem pruneLimit_moves {s₀ : State} (s : State) (i : SetId) (unit : Nat) (h₀ : Moves s₀ s) : Moves s₀ (pruneLimit s i unit) := by
  unfold pruneLimit
  with_reducible repeat' first | assumption | apply fenceSet_moves

theorem pruneUnit_moves {s₀ : State} (s : State) (i : SetId) (k : Nat) (c : FC) (h₀ : Moves s₀ s) : Moves s₀ (pruneUnit s i k c) := by
  unfold pruneUnit
  with_reducible repeat' first
    | assumption | intro _ | apply setFld_moves | apply onCore_moves | apply setSlotState_moves | apply unwait_moves | apply dropHold_moves
    | apply arraysToIdle_moves | apply discardStep_moves | apply dropQueues_moves | apply revokeLoans_moves | apply almPrune_moves
    | apply pruneLimit_moves | (refine onSet_moves _ (fun _ ht => ht.same rfl rfl) ?_) | apply Moves.ite | apply Moves.foldl

theorem pruneCore_moves {s₀ : State} (s : State) (i : SetId) (k : Nat) (c : FC) (sub : Nat) (detail : Nat) (tag : Nat) (h₀ : Moves s₀ s) :
    Moves s₀ (pruneCore s i k c sub detail tag) := by
  unfold pruneCore
  with_reducible repeat' first | assumption | intro _ | apply pruneUnit_moves | apply report_moves | apply Moves.ite

theorem execCoreHeartbeat_moves {s₀ : State} (i : SetId) (k : CoreId) (s : State) (h₀ : Moves s₀ s) : MovesOut s₀ (execCoreHeartbeat i k s)
    := by
  unfold execCoreHeartbeat
  with_reducible repeat' first | assumption | intro _ | apply onCore_moves | apply Moves.ite | apply MovesOut.next

theorem execHeartbeatTimeout_moves {s₀ : State} (i : SetId) (k : CoreId) (s : State) (h₀ : Moves s₀ s) : MovesOut s₀
    (execHeartbeatTimeout i k s) := by
  unfold execHeartbeatTimeout
  with_reducible repeat' first | assumption | apply pruneCore_moves | apply MovesOut.next

theorem execLinkDieHeartbeatTimeout_moves {s₀ : State} (i : SetId) (s : State) (h₀ : Moves s₀ s) : MovesOut s₀
    (execLinkDieHeartbeatTimeout i s) := by
  unfold execLinkDieHeartbeatTimeout
  with_reducible repeat' first | assumption | apply sprintEnd_moves | apply loseSet_moves | apply MovesOut.next

end Sys2Proof.Machine
end

