-- ==== Sys2Proof/Laws/MovesCores.lean ====
section
/-! SUPPORT. `Moves` for each operation and each command: what issue, the units, the arrays, the channels and the jobs do. -/

namespace Sys2Proof.Machine

theorem latchTouch_moves {s₀ : State} (s : State) (i : SetId) (k : Nat) (rows : List (Nat × Nat)) (h₀ : Moves s₀ s) : Moves s₀
    (latchTouch s i k rows) := by
  unfold latchTouch
  with_reducible repeat' first | assumption | intro _ | apply onCore_moves | apply Moves.ite

theorem execDescriptorFetch_moves {s₀ : State} (i : SetId) (core : CoreId) (slot : SlotId) (s : State) (h₀ : Moves s₀ s) : MovesOut s₀
    (execDescriptorFetch i core slot s) := by
  unfold execDescriptorFetch
  with_reducible repeat' first
    | assumption | intro _ | apply haltSlot_moves | apply readOperand_moves | apply leaveJob_moves | apply onSlot_moves | apply Moves.ite
    | apply MovesOut.next | apply MovesOut.ite

theorem advance_moves {s₀ : State} (s : State) (i : SetId) (k : Nat) (n : Nat) (pc : Nat) (d : List Byte) (h₀ : Moves s₀ s) : Moves s₀
    (advance s i k n pc d) := by
  unfold advance
  with_reducible repeat' first | assumption | apply setFld_moves | apply onCore_moves | apply onSlot_moves

theorem jumpTo_moves {s₀ : State} (s : State) (i : SetId) (k : Nat) (n : Nat) (pc : Nat) (h₀ : Moves s₀ s) : Moves s₀ (jumpTo s i k n pc)
    := by
  unfold jumpTo
  with_reducible repeat' first | assumption | apply onSlot_moves | apply setFld_moves

theorem sleepOn_moves {s₀ : State} (s : State) (i : SetId) (k : Nat) (n : Nat) (v : Nat) (p : Nat) (amount : Nat) (h₀ : Moves s₀ s) : Moves
    s₀ (sleepOn s i k n v p amount) := by
  unfold sleepOn
  with_reducible repeat' first | assumption | apply setFld_moves | apply enqueue_moves | apply setSlotState_moves

theorem doSignal_moves {s₀ : State} (s : State) (i : SetId) (k : Nat) (n : Nat) (j : Nat) (pc : Nat) (d : List Byte) (h₀ : Moves s₀ s) :
    Moves s₀ (doSignal s i k n j pc d) := by
  unfold doSignal
  with_reducible repeat' first
    | assumption | intro _ | apply haltSlot_moves | apply oweDone_moves | apply advance_moves | apply emit_moves | apply onSlot_moves
    | apply markSrc_moves | apply setFld_moves | apply nodeCheck_moves | apply addBase_moves | apply Moves.ite | split

theorem doWait_moves {s₀ : State} (s : State) (i : SetId) (k : Nat) (n : Nat) (j : Nat) (pc : Nat) (d : List Byte) (h₀ : Moves s₀ s) : Moves
    s₀ (doWait s i k n j pc d) := by
  unfold doWait
  with_reducible repeat' first
    | assumption | intro _ | apply haltSlot_moves | apply onSlot_moves | apply advance_moves | apply waitDone_moves | apply setFld_moves
    | apply setSlotState_moves | apply setWaiters_moves | apply sleepOn_moves | apply Moves.ite | split | dsimp only

theorem doConsume_moves {s₀ : State} (s : State) (i : SetId) (k : Nat) (n : Nat) (j : Nat) (pc : Nat) (d : List Byte) (h₀ : Moves s₀ s) :
    Moves s₀ (doConsume s i k n j pc d) := by
  unfold doConsume
  with_reducible repeat' first
    | assumption | intro _ | apply haltSlot_moves | apply serve_moves | apply setFld_moves | apply oweDone_moves | apply advance_moves
    | apply Moves.ite | split | dsimp only

theorem doFence_moves {s₀ : State} (s : State) (i : SetId) (k : Nat) (n : Nat) (j : Nat) (pc : Nat) (d : List Byte) (h₀ : Moves s₀ s) :
    Moves s₀ (doFence s i k n j pc d) := by
  unfold doFence
  with_reducible repeat' first
    | assumption | intro _ | apply advance_moves | apply oweDone_moves | apply setSlotState_moves | apply onSlot_moves | apply Moves.ite

theorem showDepth_moves {s₀ : State} (s : State) (i : SetId) (k : Nat) (n : Nat) (h₀ : Moves s₀ s) : Moves s₀ (showDepth s i k n) := by
  unfold showDepth
  with_reducible repeat' first | assumption | apply setFld_moves

theorem doLoop_moves {s₀ : State} (s : State) (i : SetId) (k : Nat) (n : Nat) (j : Nat) (pc : Nat) (d : List Byte) (h₀ : Moves s₀ s) : Moves
    s₀ (doLoop s i k n j pc d) := by
  unfold doLoop
  with_reducible repeat' first
    | assumption | intro _ | apply haltSlot_moves | apply jumpTo_moves | apply oweDone_moves | apply advance_moves | apply showDepth_moves
    | apply onSlot_moves | apply Moves.ite | split

theorem doEndloop_moves {s₀ : State} (s : State) (i : SetId) (k : Nat) (n : Nat) (j : Nat) (pc : Nat) (d : List Byte) (h₀ : Moves s₀ s) :
    Moves s₀ (doEndloop s i k n j pc d) := by
  unfold doEndloop
  with_reducible repeat' first
    | assumption | intro _ | apply haltSlot_moves | apply showDepth_moves | apply onSlot_moves | apply oweDone_moves | apply advance_moves
    | apply jumpTo_moves | apply Moves.ite | split | dsimp only

theorem place_moves {s₀ : State} (s : State) (i : SetId) (k : Nat) (n : Nat) (j : Nat) (pc : Nat) (u : Nat) (t : DType) (x : Issued) (h₀ :
    Moves s₀ s) : Moves s₀ (place s i k n j pc u t x).1 := by
  unfold place
  with_reducible repeat' first | assumption | intro _ | apply onCore_moves | apply showSb_moves | apply Moves.ite

theorem place_moves_eq {s₀ t₀ : State} {s : State} {i : SetId} {k : Nat} {n : Nat} {j : Nat} {pc : Nat} {u : Nat} {t : DType} {x : Issued}
    {r0} (he₀ : place s i k n j pc u t x = (t₀, r0)) (h₀ : Moves s₀ s) : Moves s₀ t₀ := by
  have := place_moves s i k n j pc u t x h₀; rw [he₀] at this; exact this

theorem issueFrom_moves {s₀ : State} (s : State) (i : SetId) (k : Nat) (n : Nat) (pc : Nat) (t : DType) (d : List Byte) (h₀ : Moves s₀ s) :
    Moves s₀ (issueFrom s i k n pc t d).1 := by
  unfold issueFrom
  with_reducible repeat' first
    | assumption | intro _ | apply haltSlot_moves | apply satFld_moves | apply setSlotState_moves | apply doSignal_moves
    | apply doWait_moves | apply doConsume_moves | apply doFence_moves | apply doLoop_moves | apply doEndloop_moves | apply place_moves
    | apply advance_moves | apply Moves.ite | split | (refine place_moves_eq (by assumption) ?_) | dsimp only

theorem issueFrom_moves_eq {s₀ t₀ : State} {s : State} {i : SetId} {k : Nat} {n : Nat} {pc : Nat} {t : DType} {d : List Byte} {r0}
    (he₀ : issueFrom s i k n pc t d = (t₀, r0)) (h₀ : Moves s₀ s) : Moves s₀ t₀ := by
  have := issueFrom_moves s i k n pc t d h₀; rw [he₀] at this; exact this

theorem issueEvent_moves {s₀ : State} (want : DType) (ev : Issue) (s : State) (h₀ : Moves s₀ s) : Moves s₀ (issueEvent want ev s).1 := by
  unfold issueEvent
  with_reducible repeat' first
    | assumption | intro _ | apply upsetWord_moves | apply setSlotState_moves | apply pruneCore_moves | apply haltSlot_moves
    | apply issueFrom_moves | apply Moves.ite | apply Moves.foldl | split | (refine issueFrom_moves_eq (by assumption) ?_) | dsimp only

theorem issueEvent_moves_eq {s₀ t₀ : State} {want : DType} {ev : Issue} {s : State} {r0} (he₀ : issueEvent want ev s = (t₀, r0))
    (h₀ : Moves s₀ s) : Moves s₀ t₀ := by
  have := issueEvent_moves want ev s h₀; rw [he₀] at this; exact this

theorem recheckSlot_moves {s₀ : State} (s : State) (i : SetId) (k : Nat) (n : Nat) (h₀ : Moves s₀ s) : Moves s₀ (recheckSlot s i k n) := by
  unfold recheckSlot
  with_reducible repeat' first
    | assumption | intro _ | apply oweDone_moves | apply resumeSlot_moves | apply onSlot_moves | apply setSlotState_moves | apply Moves.ite
    | split | dsimp only

theorem recheckSet_moves {s₀ : State} (s : State) (i : SetId) (h₀ : Moves s₀ s) : Moves s₀ (recheckSet s i) := by
  unfold recheckSet
  with_reducible repeat' first | assumption | intro _ | apply recheckSlot_moves | apply Moves.foldl

theorem restArrays_moves {s₀ : State} (s : State) (i : SetId) (h₀ : Moves s₀ s) : Moves s₀ (restArrays s i) := by
  unfold restArrays
  with_reducible repeat' first | assumption | intro _ | apply onCore_moves | apply arraysEmpty_moves | apply Moves.ite | apply Moves.foldl

theorem pruneFailed_moves {s₀ : State} (s : State) (i : SetId) (h₀ : Moves s₀ s) : Moves s₀ (pruneFailed s i) := by
  unfold pruneFailed
  with_reducible repeat' first | assumption | intro _ | apply onCore_moves | apply pruneUnit_moves | apply Moves.ite | apply Moves.foldl

theorem endDueJobs_moves {s₀ : State} (s : State) (i : SetId) (h₀ : Moves s₀ s) : Moves s₀ (endDueJobs s i) := by
  unfold endDueJobs
  with_reducible repeat' first
    | assumption | intro _ | apply leaveJob_moves | (refine onSet_moves _ (fun _ ht => ht.same rfl rfl) ?_) | apply Moves.ite
    | apply Moves.foldl

theorem settle_moves {s₀ : State} (s : State) (i : SetId) (h₀ : Moves s₀ s) : Moves s₀ (settle s i) := by
  unfold settle
  with_reducible repeat' first
    | assumption | intro _ | apply payDones_moves | apply recheckSet_moves | apply restArrays_moves | apply pruneFailed_moves
    | apply endDueJobs_moves

theorem onEnt_moves {s₀ : State} (s : State) (i : SetId) (k : Nat) (u : Nat) (id : Nat) (f : QEnt → QEnt) (h₀ : Moves s₀ s) : Moves s₀
    (onEnt s i k u id f) := by
  unfold onEnt
  with_reducible repeat' first | assumption | intro _ | apply onCore_moves

theorem markDone_moves {s₀ : State} (s : State) (i : SetId) (k : Nat) (u : Nat) (id : Nat) (h₀ : Moves s₀ s) : Moves s₀
    (markDone s i k u id) := by
  unfold markDone
  with_reducible repeat' first | assumption | apply onEnt_moves

theorem complete_moves {s₀ : State} (s : State) (i : SetId) (k : Nat) (u : Nat) (e : QEnt) (h₀ : Moves s₀ s) : Moves s₀ (complete s i k u e)
    := by
  unfold complete
  with_reducible repeat' first | assumption | apply onCore_moves | apply releaseSb_moves | apply oweDone_moves

theorem execSignal_moves {s₀ : State} (ev : Issue) (s : State) (h₀ : Moves s₀ s) : MovesOut s₀ (execSignal ev s) := by
  unfold execSignal
  with_reducible repeat' first | assumption | apply settle_moves | apply issueEvent_moves | apply MovesOut.next

theorem execWait_moves {s₀ : State} (ev : Issue) (s : State) (h₀ : Moves s₀ s) : MovesOut s₀ (execWait ev s) := by
  unfold execWait
  with_reducible repeat' first | assumption | apply settle_moves | apply issueEvent_moves | apply MovesOut.next

theorem execConsume_moves {s₀ : State} (ev : Issue) (s : State) (h₀ : Moves s₀ s) : MovesOut s₀ (execConsume ev s) := by
  unfold execConsume
  with_reducible repeat' first | assumption | apply settle_moves | apply issueEvent_moves | apply MovesOut.next

theorem execFence_moves {s₀ : State} (ev : Issue) (s : State) (h₀ : Moves s₀ s) : MovesOut s₀ (execFence ev s) := by
  unfold execFence
  with_reducible repeat' first | assumption | apply settle_moves | apply issueEvent_moves | apply MovesOut.next

theorem execLoop_moves {s₀ : State} (ev : Issue) (s : State) (h₀ : Moves s₀ s) : MovesOut s₀ (execLoop ev s) := by
  unfold execLoop
  with_reducible repeat' first | assumption | apply settle_moves | apply issueEvent_moves | apply MovesOut.next

theorem execEndloop_moves {s₀ : State} (ev : Issue) (s : State) (h₀ : Moves s₀ s) : MovesOut s₀ (execEndloop ev s) := by
  unfold execEndloop
  with_reducible repeat' first | assumption | apply settle_moves | apply issueEvent_moves | apply MovesOut.next

theorem execRemoteSignalReply_moves {s₀ : State} (i : SetId) (core : CoreId) (slot : SlotId) (cause : Nat) (s : State) (h₀ : Moves s₀ s) :
    MovesOut s₀ (execRemoteSignalReply i core slot cause s) := by
  unfold execRemoteSignalReply
  with_reducible repeat' first | assumption | apply settle_moves | apply remoteReply_moves | apply MovesOut.next

theorem readRows_moves {s₀ : State} (s : State) (i : SetId) (l : List (Nat × Nat)) (h : Moves s₀ s) : Moves s₀ (readRows s i l).2 := by
  induction l generalizing s with
  | nil => exact h
  | cons x q ih => exact ih _ (readWords_moves _ _ _ _ h)

theorem readRows_moves_eq {s₀ t : State} {s : State} {i : SetId} {l : List (Nat × Nat)} {r0} (e : readRows s i l = (r0, t)) (h : Moves s₀ s)
    : Moves s₀ t := by
  have := readRows_moves s i l h; rw [e] at this; exact this

theorem moveData_moves {s₀ : State} (s : State) (i : SetId) (d : List Byte) (a1 : Nat) (a2 : Nat) (h₀ : Moves s₀ s) : Moves s₀
    (moveData s i d a1 a2).2 := by
  unfold moveData
  with_reducible repeat' first | assumption | intro _ | apply readRows_moves

theorem moveData_moves_eq {s₀ t₀ : State} {s : State} {i : SetId} {d : List Byte} {a1 : Nat} {a2 : Nat} {r0}
    (he₀ : moveData s i d a1 a2 = (r0, t₀)) (h₀ : Moves s₀ s) : Moves s₀ t₀ := by
  have := moveData_moves s i d a1 a2 h₀; rw [he₀] at this; exact this

theorem writeRows_moves {s₀ : State} (s : State) (i : SetId) (rows : List (Nat × List Byte × List Nat)) (h₀ : Moves s₀ s) : Moves s₀
    (writeRows s i rows) := by
  unfold writeRows
  with_reducible repeat' first | assumption | intro _ | apply poisonWord_moves | apply store_moves | apply Moves.foldl

theorem doMove_moves {s₀ : State} (s : State) (i : SetId) (k : Nat) (d : List Byte) (a1 : Nat) (a2 : Nat) (h₀ : Moves s₀ s) : Moves s₀
    (doMove s i k d a1 a2) := by
  unfold doMove
  with_reducible repeat' first
    | assumption | intro _ | apply moveData_moves | apply latchTouch_moves | apply writeRows_moves | apply Moves.ite

theorem doFill_moves {s₀ : State} (s : State) (i : SetId) (k : Nat) (d : List Byte) (a1 : Nat) (h₀ : Moves s₀ s) : Moves s₀
    (doFill s i k d a1) := by
  unfold doFill
  with_reducible repeat' first | assumption | intro _ | apply latchTouch_moves | apply store_moves | apply Moves.ite | apply Moves.foldl

theorem sendWindow_moves {s₀ : State} (s : State) (i : SetId) (k : Nat) (e : QEnt) (h₀ : Moves s₀ s) : Moves s₀ (sendWindow s i k e) := by
  unfold sendWindow
  with_reducible repeat' first
    | assumption | intro _ | apply moveData_moves | apply emit_moves | apply onEnt_moves | apply Moves.ite | apply Moves.foldl

theorem memStart_moves {s₀ : State} {s : State} {i : SetId} {k : Nat} {q : QEnt} {t : State} (e : memStart s i k q = some t)
    (h : Moves s₀ s) : Moves s₀ t := by
  unfold memStart at e
  split at e
  · cases e; exact markDone_moves _ _ _ _ _ (doFill_moves _ _ _ _ _ h)
  · split at e
    · split at e
      · dsimp only at e
        split at e
        · cases e
        · cases e; exact sendWindow_moves _ _ _ _ (setFld_moves _ _ _ _ h)
      · cases e
    · cases e; exact markDone_moves _ _ _ _ _ (doMove_moves _ _ _ _ _ _ h)
  · cases e; exact h

theorem memPump_moves {s₀ : State} (i : SetId) (k : Nat) (l : List QEnt) (s : State) (h : Moves s₀ s) : Moves s₀ (memPump i k l s) := by
  induction l generalizing s with
  | nil => exact h
  | cons e q ih =>
    unfold memPump
    split
    · split
      · exact ih _ (memStart_moves ‹_› h)
      · exact h
    · exact ih _ h

theorem memGo_moves {s₀ : State} (s : State) (i : SetId) (k : Nat) (h₀ : Moves s₀ s) : Moves s₀ (memGo s i k) := by
  unfold memGo
  with_reducible repeat' first | assumption | apply memPump_moves

theorem execMove_moves {s₀ : State} (ev : Issue) (s : State) (h₀ : Moves s₀ s) : MovesOut s₀ (execMove ev s) := by
  unfold execMove
  with_reducible repeat' first | assumption | apply settle_moves | apply memGo_moves | apply issueEvent_moves | apply MovesOut.next

theorem execCopy_moves {s₀ : State} (ev : Issue) (s : State) (h₀ : Moves s₀ s) : MovesOut s₀ (execCopy ev s) := by
  unfold execCopy
  with_reducible repeat' first | assumption | apply settle_moves | apply memGo_moves | apply issueEvent_moves | apply MovesOut.next

theorem execFill_moves {s₀ : State} (ev : Issue) (s : State) (h₀ : Moves s₀ s) : MovesOut s₀ (execFill ev s) := by
  unfold execFill
  with_reducible repeat' first | assumption | apply settle_moves | apply memGo_moves | apply issueEvent_moves | apply MovesOut.next

theorem execCreditGrant_moves {s₀ : State} (i : SetId) (win : Fin 64) (units : Nat) (s : State) (h₀ : Moves s₀ s) : MovesOut s₀
    (execCreditGrant i win units s) := by
  unfold execCreditGrant
  with_reducible repeat' first
    | assumption | intro _ | apply setFld_moves | apply report_moves | apply settle_moves | apply memGo_moves | apply Moves.ite
    | apply MovesOut.next | apply MovesOut.ite | apply Moves.foldl

theorem acceptWindow_moves {s₀ : State} (s : State) (i : SetId) (k : Nat) (sender : Nat) (a : Nat) (d : List Byte) (bad : List Nat) (h₀ :
    Moves s₀ s) : Moves s₀ (acceptWindow s i k sender a d bad) := by
  unfold acceptWindow
  with_reducible repeat' first | assumption | intro _ | apply emit_moves | apply onCore_moves | apply showSb_moves | apply writeRows_moves

theorem execWindowWrite_moves {s₀ : State} (i : SetId) (sender : Nat) (addr : Nat) (data : List Byte) (poisoned : List Nat) (s : State) (h₀
    : Moves s₀ s) : MovesOut s₀ (execWindowWrite i sender addr data poisoned s) := by
  unfold execWindowWrite
  with_reducible repeat' first
    | assumption | intro _ | apply MovesOut.next | apply emit_moves | apply report_moves | apply acceptWindow_moves
    | (refine onSet_moves _ (fun _ ht => ht.same rfl rfl) ?_) | apply Moves.ite | apply MovesOut.ite | split

theorem heldWindows_moves {s₀ : State} (s : State) (i : SetId) (h₀ : Moves s₀ s) : Moves s₀ (heldWindows s i) := by
  unfold heldWindows
  with_reducible repeat' first
    | assumption | intro _ | apply emit_moves | apply report_moves | apply acceptWindow_moves
    | (refine onSet_moves _ (fun _ ht => ht.same rfl rfl) ?_) | apply Moves.ite | apply Moves.foldl | split

theorem execWindowWriteAck_moves {s₀ : State} (i : SetId) (core : CoreId) (pos : Nat) (reply : WinReply) (s : State) (h₀ : Moves s₀ s) :
    MovesOut s₀ (execWindowWriteAck i core pos reply s) := by
  unfold execWindowWriteAck
  with_reducible repeat' first
    | assumption | intro _ | apply onEnt_moves | apply settle_moves | apply haltSlot_moves | apply Moves.ite | apply MovesOut.next
    | apply MovesOut.ite | split | dsimp only

theorem setSeg_moves {s₀ : State} (s : State) (i : SetId) (d : Nat) (g : Nat) (v : SegState) (h₀ : Moves s₀ s) : Moves s₀ (setSeg s i d g v)
    := by
  unfold setSeg
  with_reducible repeat' first | assumption | (refine onSet_moves _ (fun _ ht => ht.same rfl rfl) ?_) | apply setFld_moves

theorem setSegOn_moves {s₀ : State} (s : State) (i : SetId) (d : Nat) (g : Nat) (b : Bool) (h₀ : Moves s₀ s) : Moves s₀ (setSegOn s i d g b)
    := by
  unfold setSegOn
  with_reducible repeat' first | assumption | apply setFld_moves

theorem loseSeg_moves {s₀ : State} (s : State) (i : SetId) (d : Nat) (g : Nat) (h₀ : Moves s₀ s) : Moves s₀ (loseSeg s i d g) := by
  unfold loseSeg
  with_reducible repeat' first | assumption | apply zeroFill_moves

theorem execSegmentPowerOff_moves {s₀ : State} (i : SetId) (die : CDie) (seg : Fin 9) (s : State) (h₀ : Moves s₀ s) : MovesOut s₀
    (execSegmentPowerOff i die seg s) := by
  unfold execSegmentPowerOff
  with_reducible repeat' first | assumption | intro _ | apply setSegOn_moves | apply setSeg_moves | apply Moves.ite | apply MovesOut.next

theorem execSegmentPowerOn_moves {s₀ : State} (i : SetId) (die : CDie) (seg : Fin 9) (s : State) (h₀ : Moves s₀ s) : MovesOut s₀
    (execSegmentPowerOn i die seg s) := by
  unfold execSegmentPowerOn
  with_reducible repeat' first | assumption | intro _ | apply setSegOn_moves | apply setSeg_moves | apply Moves.ite | apply MovesOut.next

theorem execSegmentDrainEnd_moves {s₀ : State} (i : SetId) (die : CDie) (seg : Fin 9) (s : State) (h₀ : Moves s₀ s) : MovesOut s₀
    (execSegmentDrainEnd i die seg s) := by
  unfold execSegmentDrainEnd
  with_reducible repeat' first
    | assumption | intro _ | apply loseSeg_moves | apply setSeg_moves | apply Moves.ite | apply MovesOut.next | apply MovesOut.ite

theorem execSegmentReady_moves {s₀ : State} (i : SetId) (die : CDie) (seg : Fin 9) (s : State) (h₀ : Moves s₀ s) : MovesOut s₀
    (execSegmentReady i die seg s) := by
  unfold execSegmentReady
  with_reducible repeat' first
    | assumption | intro _ | apply loseSeg_moves | apply setSeg_moves | apply Moves.ite | apply MovesOut.next | apply MovesOut.ite

theorem sendFail_moves {s₀ : State} (s : State) (i : SetId) (k : Nat) (c : Nat) (reason : Nat) (e : QEnt) (h₀ : Moves s₀ s) : Moves s₀
    (sendFail s i k c reason e) := by
  unfold sendFail
  with_reducible repeat' first | assumption | apply setFld_moves | apply onCore_moves | apply haltSlot_moves

theorem sendOut_moves {s₀ : State} (s : State) (i : SetId) (k : Nat) (c : Nat) (e : QEnt) (h₀ : Moves s₀ s) : Moves s₀ (sendOut s i k c e)
    := by
  unfold sendOut
  with_reducible repeat' first
    | assumption | intro _ | apply sendFail_moves | apply emit_moves | apply onEnt_moves | apply Moves.ite | split | dsimp only

theorem sendStart_moves {s₀ : State} (s : State) (i : SetId) (k : Nat) (e : QEnt) (h₀ : Moves s₀ s) : Moves s₀ (sendStart s i k e) := by
  unfold sendStart
  with_reducible repeat' first
    | assumption | intro _ | apply markDone_moves | apply sendFail_moves | apply readWords_moves | apply setFld_moves | apply onCore_moves
    | apply sendOut_moves | apply onEnt_moves | apply Moves.ite

theorem execChanRetry_moves {s₀ : State} (i : SetId) (core : CoreId) (chan : Fin 64) (s : State) (h₀ : Moves s₀ s) : MovesOut s₀
    (execChanRetry i core chan s) := by
  unfold execChanRetry
  with_reducible repeat' first
    | assumption | intro _ | apply settle_moves | apply sendOut_moves | apply satFld_moves | apply Moves.ite | apply MovesOut.next
    | apply MovesOut.ite | split | dsimp only

theorem placeMsg_moves {s₀ : State} (s : State) (i : SetId) (x : Nat) (m : ChanMsg) (pad : Nat) (off : Nat) (h₀ : Moves s₀ s) : Moves s₀
    (placeMsg s i x m pad off) := by
  unfold placeMsg
  with_reducible repeat' first
    | assumption | intro _ | apply store_moves | apply poisonWord_moves | apply setFld_moves
    | (refine onSet_moves _ (fun _ ht => ht.same rfl rfl) ?_) | apply unitSignal_moves | apply Moves.ite | apply Moves.foldl

theorem chanReply_moves {s₀ : State} (s : State) (i : SetId) (m : ChanMsg) (reason : Nat) (h₀ : Moves s₀ s) : Moves s₀
    (chanReply s i m reason) := by
  unfold chanReply
  with_reducible repeat' first | assumption | apply emit_moves

theorem execChanMessage_moves {s₀ : State} (i : SetId) (core : CoreId) (chan : Fin 64) (msg : ChanMsg) (s : State) (h₀ : Moves s₀ s) :
    MovesOut s₀ (execChanMessage i core chan msg s) := by
  unfold execChanMessage
  with_reducible repeat' first
    | assumption | intro _ | apply chanReply_moves | apply spend_moves | apply placeMsg_moves | apply onSu_moves | apply settle_moves
    | apply Moves.ite | apply MovesOut.next | apply MovesOut.ite | split

theorem setTeardown_moves {s₀ : State} (s : State) (i : SetId) (j : Nat) (t : Option Teardown) (h₀ : Moves s₀ s) : Moves s₀
    (setTeardown s i j t) := by
  unfold setTeardown
  with_reducible repeat' first | assumption | (refine onSet_moves _ (fun _ ht => ht.same rfl rfl) ?_)

theorem execJobEnd_moves {s₀ : State} (i : SetId) (job : JobId) (s : State) (h₀ : Moves s₀ s) : MovesOut s₀ (execJobEnd i job s) := by
  unfold execJobEnd
  with_reducible repeat' first | assumption | apply settle_moves | apply leaveJob_moves | apply MovesOut.next

theorem execJobKill_moves {s₀ : State} (i : SetId) (job : JobId) (s : State) (h₀ : Moves s₀ s) : MovesOut s₀ (execJobKill i job s) := by
  unfold execJobKill
  with_reducible repeat' first | assumption | apply settle_moves | apply leaveJob_moves | apply MovesOut.next

theorem fillOnChip_moves {s₀ : State} (s : State) (i : SetId) (j : Nat) (h₀ : Moves s₀ s) : Moves s₀ (fillOnChip s i j) := by
  unfold fillOnChip
  with_reducible repeat' first
    | assumption | intro _ | apply zeroFill_moves | apply setFld_moves | apply setTeardown_moves | apply Moves.ite | apply Moves.foldl

theorem execTeardownSettled_moves {s₀ : State} (i : SetId) (job : JobId) (s : State) (h₀ : Moves s₀ s) : MovesOut s₀ (execTeardownSettled i
    job s) := by
  unfold execTeardownSettled
  with_reducible repeat' first
    | assumption | intro _ | apply MovesOut.next | apply setFld_moves | apply clearLatches_moves | apply closeWindows_moves
    | apply clearCtrs_moves | apply settle_moves | apply setTeardown_moves | apply fillOnChip_moves | apply Moves.ite | apply MovesOut.ite
    | split | dsimp only

theorem execTeardownFillDone_moves {s₀ : State} (i : SetId) (job : JobId) (s : State) (h₀ : Moves s₀ s) : MovesOut s₀
    (execTeardownFillDone i job s) := by
  unfold execTeardownFillDone
  with_reducible repeat' first
    | assumption | intro _ | apply zeroFill_moves | apply setFld_moves | apply setTeardown_moves | apply Moves.ite | apply MovesOut.next
    | apply MovesOut.ite | apply Moves.foldl | split | dsimp only

theorem execJobRelease_moves {s₀ : State} (i : SetId) (job : JobId) (s : State) (h₀ : Moves s₀ s) : MovesOut s₀ (execJobRelease i job s)
    := by
  unfold execJobRelease
  with_reducible repeat' first
    | assumption | intro _ | apply fillOnChip_moves | apply setFld_moves | apply Moves.ite | apply MovesOut.next | apply MovesOut.ite

theorem openChans_moves {s₀ : State} (s : State) (i : SetId) (j : Nat) (h₀ : Moves s₀ s) : Moves s₀ (openChans s i j) := by
  unfold openChans
  with_reducible repeat' first
    | assumption | intro _ | (refine onSet_moves _ (fun _ ht => ht.same rfl rfl) ?_) | apply setFld_moves | apply setChanStat_moves
    | apply Moves.ite | apply Moves.foldl

theorem restartSeq_moves {s₀ : State} (s : State) (i : SetId) (j : Nat) (h₀ : Moves s₀ s) : Moves s₀ (restartSeq s i j) := by
  unfold restartSeq
  with_reducible repeat' first | assumption | intro _ | apply setFld_moves | apply Moves.foldl

theorem resetHeaders_moves {s₀ : State} (s : State) (i : SetId) (j : Nat) (h₀ : Moves s₀ s) : Moves s₀ (resetHeaders s i j) := by
  unfold resetHeaders
  with_reducible repeat' first | assumption | intro _ | apply onSu_moves | apply Moves.ite

theorem dropHolds_moves {s₀ : State} (s : State) (i : SetId) (j : Nat) (h₀ : Moves s₀ s) : Moves s₀ (dropHolds s i j) := by
  unfold dropHolds
  with_reducible repeat' first | assumption | intro _ | apply dropHold_moves | apply Moves.foldl

theorem startSlots_moves {s₀ : State} (s : State) (i : SetId) (j : Nat) (h₀ : Moves s₀ s) : Moves s₀ (startSlots s i j) := by
  unfold startSlots
  with_reducible repeat' first | assumption | intro _ | apply startSlot_moves | apply Moves.ite | apply Moves.foldl

theorem startJob_moves {s₀ : State} (s : State) (i : SetId) (j : Nat) (h₀ : Moves s₀ s) : Moves s₀ (startJob s i j) := by
  unfold startJob
  with_reducible repeat' first
    | assumption | intro _ | apply setFld_moves | apply mendCtrs_moves | apply initCtrs_moves | apply emit_moves | apply resetHeaders_moves
    | apply restartSeq_moves | apply openChans_moves | apply startSlots_moves | apply Moves.ite | apply Moves.foldl

theorem execJobStart_moves {s₀ : State} (i : SetId) (job : JobId) (s : State) (h₀ : Moves s₀ s) : MovesOut s₀ (execJobStart i job s) := by
  unfold execJobStart
  with_reducible repeat' first
    | assumption | intro _ | apply settle_moves | apply startJob_moves | apply Moves.ite | apply MovesOut.next | apply MovesOut.ite

theorem countCvt_moves {s₀ : State} (s : State) (i : SetId) (k : Nat) (c : CvtStat) (h₀ : Moves s₀ s) : Moves s₀ (countCvt s i k c) := by
  unfold countCvt
  with_reducible repeat' first | assumption | intro _ | apply satFld_moves | apply setFld_moves | apply Moves.ite

theorem endIf_moves {s₀ : State} (s : State) (i : SetId) (j : Nat) (ends : Bool) (h₀ : Moves s₀ s) : Moves s₀ (endIf s i j ends) := by
  unfold endIf
  with_reducible repeat' first | assumption | intro _ | apply leaveJob_moves | apply Moves.ite

theorem doVec_moves {s₀ : State} (s : State) (i : SetId) (k : Nat) (e : QEnt) (h₀ : Moves s₀ s) : Moves s₀ (doVec s i k e) := by
  unfold doVec
  with_reducible repeat' first
    | assumption | intro _ | apply readOperandBytes_moves | apply latchTouch_moves | apply store_moves | apply endIf_moves
    | apply countCvt_moves | apply Moves.ite | split

theorem vecStart_moves {s₀ : State} (s : State) (i : SetId) (k : Nat) (e : QEnt) (h₀ : Moves s₀ s) : Moves s₀ (vecStart s i k e) := by
  unfold vecStart
  with_reducible repeat' first | assumption | intro _ | apply markDone_moves | apply doVec_moves

theorem execVec_moves {s₀ : State} (ev : Issue) (residue : Bool) (s : State) (h₀ : Moves s₀ s) : MovesOut s₀ (execVec ev residue s) := by
  unfold execVec
  with_reducible repeat' first
    | assumption | intro _ | apply MovesOut.next | apply pruneCore_moves | apply issueEvent_moves
    | (refine issueEvent_moves_eq (by assumption) ?_) | apply settle_moves | apply complete_moves | apply vecStart_moves | apply Moves.ite
    | apply MovesOut.ite | split

theorem readTile_moves {s₀ : State} (s : State) (i : SetId) (e : QEnt) (ws : List Nat) (h₀ : Moves s₀ s) : Moves s₀ (readTile s i e ws).2.2
    := by
  unfold readTile
  with_reducible repeat' first
    | assumption | intro _ | apply readOperand_moves | apply Moves.ite | apply Moves.foldl_snd | apply Moves.foldl_thd

theorem readTile_moves_eq {s₀ t₀ : State} {s : State} {i : SetId} {e : QEnt} {ws : List Nat} {r0 r1}
    (he₀ : readTile s i e ws = (r0, r1, t₀)) (h₀ : Moves s₀ s) : Moves s₀ t₀ := by
  have := readTile_moves s i e ws h₀; rw [he₀] at this; exact this

theorem beginTile_moves {s₀ : State} (s : State) (i : SetId) (k : Nat) (e : QEnt) (stage : Nat) (z14 : Option Tile) (h₀ : Moves s₀ s) :
    Moves s₀ (beginTile s i k e stage z14) := by
  unfold beginTile
  with_reducible repeat' first
    | assumption | intro _ | apply readTile_moves | apply leaveJob_moves | apply addFld_moves | apply haltSlot_moves | apply setFld_moves
    | apply onCore_moves | apply Moves.ite | split | (refine readTile_moves_eq (by assumption) ?_) | dsimp only

theorem beginEntry_moves {s₀ : State} (s : State) (i : SetId) (k : Nat) (e : QEnt) (h₀ : Moves s₀ s) : Moves s₀ (beginEntry s i k e) := by
  unfold beginEntry
  with_reducible repeat' first
    | assumption | intro _ | apply addFld_moves | apply onCore_moves | apply beginTile_moves | apply Moves.ite | split

theorem execArrayStep_moves {s₀ : State} (i : SetId) (core : CoreId) (upset : Option CellUpset) (s : State) (h₀ : Moves s₀ s) : MovesOut s₀
    (execArrayStep i core upset s) := by
  unfold execArrayStep
  with_reducible repeat' first
    | assumption | intro _ | apply beginEntry_moves | apply settle_moves | apply onCore_moves | apply Moves.ite | apply MovesOut.next
    | apply MovesOut.ite | split | dsimp only

theorem checkReport_moves {s₀ : State} (s : State) (i : SetId) (k : Nat) (e : QEnt) (bad : List (Nat × Nat)) (h₀ : Moves s₀ s) : Moves s₀
    (checkReport s i k e bad) := by
  unfold checkReport
  with_reducible repeat' first
    | assumption | intro _ | apply addFld_moves | apply setFld_moves | apply report_moves | apply Moves.ite | apply Moves.foldl | split
    | dsimp only

theorem drainTile_moves {s₀ : State} (s : State) (i : SetId) (k : Nat) (e : QEnt) (t : Tile) (r : TileRun) (h₀ : Moves s₀ s) : Moves s₀
    (drainTile s i k e t r) := by
  unfold drainTile
  with_reducible repeat' first | assumption | intro _ | apply latchTouch_moves | apply store_moves | apply Moves.foldl

theorem fillLatch_moves {s₀ : State} (s : State) (i : SetId) (k : Nat) (e : QEnt) (t : Tile) (r : TileRun) (h₀ : Moves s₀ s) : Moves s₀
    (fillLatch s i k e t r) := by
  unfold fillLatch
  with_reducible repeat' first | assumption | intro _ | apply onCore_moves | split

theorem execTileDrain_moves {s₀ : State} (i : SetId) (core : CoreId) (s : State) (h₀ : Moves s₀ s) : MovesOut s₀ (execTileDrain i core s) :=
    by
  unfold execTileDrain
  with_reducible repeat' first
    | assumption | intro _ | apply MovesOut.next | apply onCore_moves | apply settle_moves | apply markDone_moves | apply complete_moves
    | apply beginTile_moves | apply checkReport_moves | apply drainTile_moves | apply fillLatch_moves | apply Moves.ite | apply MovesOut.ite
    | split | dsimp only

theorem arrayIssued_moves {s₀ : State} (s : State) (i : SetId) (k : Nat) (e : QEnt) (h₀ : Moves s₀ s) : Moves s₀ (arrayIssued s i k e) := by
  unfold arrayIssued
  with_reducible repeat' first | assumption | intro _ | apply markDone_moves | apply arraysWake_moves | apply Moves.ite

theorem arrayIssue_moves {s₀ : State} (t : DType) (ev : Issue) (s : State) (h₀ : Moves s₀ s) : Moves s₀ (arrayIssue t ev s) := by
  unfold arrayIssue
  with_reducible repeat' first
    | assumption | intro _ | apply issueEvent_moves | apply settle_moves | apply arrayIssued_moves | apply Moves.ite | split
    | (refine issueEvent_moves_eq (by assumption) ?_)

theorem execGemm_moves {s₀ : State} (ev : Issue) (s : State) (h₀ : Moves s₀ s) : MovesOut s₀ (execGemm ev s) := by
  unfold execGemm
  with_reducible repeat' first | assumption | apply arrayIssue_moves | apply MovesOut.next

theorem execConv_moves {s₀ : State} (ev : Issue) (s : State) (h₀ : Moves s₀ s) : MovesOut s₀ (execConv ev s) := by
  unfold execConv
  with_reducible repeat' first | assumption | apply arrayIssue_moves | apply MovesOut.next

theorem execGraft_moves {s₀ : State} (ev : Issue) (s : State) (h₀ : Moves s₀ s) : MovesOut s₀ (execGraft ev s) := by
  unfold execGraft
  with_reducible repeat' first | assumption | apply arrayIssue_moves | apply MovesOut.next

theorem writeSlotMap_moves {s₀ : State} (s : State) (i : SetId) (k : Nat) (v : Nat) (h₀ : Moves s₀ s) : Moves s₀ (writeSlotMap s i k v)
    := by
  unfold writeSlotMap
  with_reducible repeat' first | assumption | apply setFld_moves

theorem execSlotMapWrite_moves {s₀ : State} (i : SetId) (core : CoreId) (v : Nat) (s : State) (h₀ : Moves s₀ s) : MovesOut s₀
    (execSlotMapWrite i core v s) := by
  unfold execSlotMapWrite
  with_reducible repeat' first | assumption | apply writeSlotMap_moves | apply MovesOut.next

theorem execSlotMapApply_moves {s₀ : State} (i : SetId) (core : CoreId) (s : State) (h₀ : Moves s₀ s) : MovesOut s₀
    (execSlotMapApply i core s) := by
  unfold execSlotMapApply
  with_reducible repeat' first
    | assumption | intro _ | apply setFld_moves | apply settle_moves | apply Moves.ite | apply MovesOut.next | apply MovesOut.ite

end Sys2Proof.Machine
end

