-- ==== Sys2Proof/Laws/MovesSessions.lean ====
section
/-! SUPPORT. `Moves` for each operation and each command: what the stacks' frames, attention and the session unit do. -/

namespace Sys2Proof.Machine

theorem noteStart_moves {s₀ : State} (s : State) (i : SetId) (g : Reg) (ix : Nat) (h₀ : Moves s₀ s) : Moves s₀ (noteStart s i g ix) := by
  unfold noteStart
  with_reducible repeat' first | assumption | intro _ | (refine onSet_moves _ (fun _ ht => ht.same rfl rfl) ?_) | apply Moves.ite

theorem regsOk_keepRanges (g : Reg) {old new : SMap Nat} (h : regsOk new) : regsOk (keepRanges g old new) := by
  unfold keepRanges
  generalize rangedFields g = l
  induction l generalizing new with
  | nil => exact h
  | cons e l ih =>
    refine ih ?_
    dsimp only
    split
    · exact h
    · exact regsOk_putField h _ _ _

theorem applyRec_moves {s₀ : State} (s : State) (i : SetId) (r : PlanRec) (h₀ : Moves s₀ s) : Moves s₀ (applyRec s i r) := by
  unfold applyRec
  split
  · refine .foldl (fun s p h => ?_) h₀ _
    split
    · exact noteStart_moves _ _ _ _ (onSet_moves _ (fun t ht => ht.regs (regsOk_keepRanges _ (regsOk_putReg ht.1 _ _ _ _ _))) h)
    · exact h
  · exact store_moves _ _ _ _ h₀

theorem applyPkgRec_moves {s₀ : State} (s : State) (r : PlanRec) (h₀ : Moves s₀ s) : Moves s₀ (applyPkgRec s r) := by
  unfold applyPkgRec
  refine .foldl (fun s p h => ?_) h₀ _
  split
  · exact setRegs_moves (fun hm => regsOk_keepRanges _ (regsOk_putReg hm _ _ _ _ _)) h
  · exact h

theorem restartSlot_moves {s₀ : State} (s : State) (i : SetId) (x : Nat) (h₀ : Moves s₀ s) : Moves s₀ (restartSlot s i x) := by
  unfold restartSlot
  with_reducible repeat' first | assumption | intro _ | apply startSlot_moves | apply dropHold_moves

theorem applyPruning_moves {s₀ : State} (s : State) (i : SetId) (k : Nat) (h₀ : Moves s₀ s) : Moves s₀ (applyPruning s i k) := by
  unfold applyPruning
  with_reducible repeat' first
    | assumption | intro _ | apply applyRec_moves | apply restartSlot_moves | (refine onSet_moves _ (fun _ ht => ht.same rfl rfl) ?_)
    | apply Moves.ite | apply Moves.foldl

theorem dirSet_moves {s₀ : State} (s : State) (i : SetId) (g : KvGeo) (st : Nat) (n : Nat) (off : Nat) (len : Nat) (v : Nat)
    (h₀ : Moves s₀ s) : Moves s₀ (dirSet s i g st n off len v) := by
  unfold dirSet
  with_reducible repeat' first | assumption | apply store_moves

theorem attachFrame_moves {s₀ : State} {s : State} {i : SetId} {g : KvGeo} {st n f : Nat} {t : State}
    (e : attachFrame s i g st n f = some t) (h : Moves s₀ s) : Moves s₀ t := by
  unfold attachFrame at e
  split at e
  · cases e
  · split at e
    · cases e
    · cases e
      exact .ite (fun _ => store_moves _ _ _ _ (dirSet_moves _ _ _ _ _ _ _ _ (dirSet_moves _ _ _ _ _ _ _ _ (spend_moves h))))
        fun _ => dirSet_moves _ _ _ _ _ _ _ _ (dirSet_moves _ _ _ _ _ _ _ _ (spend_moves h))

theorem countKv_moves {s₀ : State} (s : State) (i : SetId) (c : CvtStat) (h₀ : Moves s₀ s) : Moves s₀ (countKv s i c) := by
  unfold countKv
  with_reducible repeat' first | assumption | intro _ | apply satFld_moves | apply setFld_moves | apply Moves.ite

theorem attnFault_moves {s₀ : State} (s : State) (i : SetId) (k : Nat) (st : Nat) (n : Nat) (layer : Nat) (e : QEnt) (c : FC)
    (h₀ : Moves s₀ s) : Moves s₀ (attnFault s i k st n layer e c) := by
  unfold attnFault
  with_reducible repeat' first | assumption | intro _ | apply haltSlotWith_moves | apply mseErr_moves

theorem attnParam_moves {s₀ : State} (s : State) (i : SetId) (k : Nat) (st : Nat) (layer : Nat) (e : QEnt) (h₀ : Moves s₀ s) : Moves s₀
    (attnParam s i k st layer e) := by
  unfold attnParam
  with_reducible repeat' first | assumption | intro _ | apply spend_moves | apply mseErr_moves | apply haltSlotWith_moves

theorem skipSess_moves {s₀ : State} (s : State) (i : SetId) (st : Nat) (n : Nat) (layer : Nat) (tag : Nat) (status : FC) (c : FC)
    (h₀ : Moves s₀ s) : Moves s₀ (skipSess s i st n layer tag status c) := by
  unfold skipSess
  with_reducible repeat' first | assumption | intro _ | apply mseErr_moves | apply report_moves | apply onSess_moves

theorem readBad_moves {s₀ : State} (s : State) (i : SetId) (ws : List Nat) (h₀ : Moves s₀ s) : Moves s₀ (readBad s i ws).2 := by
  unfold readBad
  with_reducible repeat' first | assumption | intro _ | apply readWord_moves | apply Moves.ite | apply Moves.foldl_snd

theorem readBad_moves_eq {s₀ t₀ : State} {s : State} {i : SetId} {ws : List Nat} {r0} (he₀ : readBad s i ws = (r0, t₀)) (h₀ : Moves s₀ s) :
    Moves s₀ t₀ := by
  have := readBad_moves s i ws h₀; rw [he₀] at this; exact this

theorem appendHead_moves {s₀ : State} (s : State) (i : SetId) (g : KvGeo) (sh : Share) (r : ARow) (blk : Nat) (kv : Nat) (h : Nat) (row :
    List Byte) (h₀ : Moves s₀ s) : Moves s₀ (appendHead s i g sh r blk kv h row) := by
  unfold appendHead
  with_reducible repeat' first
    | assumption | intro _ | apply store_moves | apply countKv_moves | apply skipSess_moves | apply readBad_moves
    | (refine readBad_moves_eq (by assumption) ?_) | apply Moves.ite | apply Moves.foldl

theorem appendRow_moves {s₀ : State} {s : State} {i : SetId} {g : KvGeo} {sh : Share} {r : ARow} {t : State} {b : Bool}
    (e : appendRow s i g sh r = .ok (t, b)) (h : Moves s₀ s) : Moves s₀ t := by
  unfold appendRow at e
  dsimp only at e
  split at e
  · cases e; exact h
  split at e
  · cases e
  split at e
  · cases e; exact skipSess_moves _ _ _ _ _ _ _ _ h
  · rename_i f s1 hs
    have h1 : Moves s₀ s1 := by
      split at hs
      · cases hs; exact h
      · split at hs
        · rename_i u hu
          rw [Option.map_eq_some_iff] at hs
          obtain ⟨_, _, hs⟩ := hs
          cases hs
          exact attachFrame_moves hu h
        · cases hs
    cases e
    refine onSu_moves _ _ _ (.foldl (fun _ _ h => .foldl (fun _ _ h => appendHead_moves _ _ _ _ _ _ _ _ _ h) h _) ?_ _)
    exact readOperandBytes_moves _ _ _ _ _ _ h1

theorem appendRows_moves {s₀ : State} (i : SetId) (g : KvGeo) (sh : Share) (l : List ARow) (s : State) (b : Bool) (h : Moves s₀ s) : Moves
    s₀ (appendRows i g sh l s b).1 := by
  induction l generalizing s b with
  | nil => exact h
  | cons r q ih =>
    unfold appendRows
    split
    · exact h
    · exact ih _ _ (appendRow_moves ‹_› h)

theorem appendRows_moves_eq {s₀ t : State} {i : SetId} {g : KvGeo} {sh : Share} {l : List ARow} {s : State} {b : Bool} {r0}
    (e : appendRows i g sh l s b = (t, r0)) (h : Moves s₀ s) : Moves s₀ t := by
  have := appendRows_moves i g sh l s b h; rw [e] at this; exact this

theorem onEng_moves {s₀ : State} (s : State) (i : SetId) (st : Nat) (e : Nat) (f : Engine → Engine) (h₀ : Moves s₀ s) : Moves s₀
    (onEng s i st e f) := by
  unfold onEng
  with_reducible repeat' first | assumption | apply onSu_moves

theorem deal_moves {s₀ : State} (i : SetId) (st : Nat) (key : Nat × Nat) (live : List Nat) (r : Nat) (l : List AUnit)
    (last : Option (Nat × Nat × Nat)) (s : State) (h : Moves s₀ s) : Moves s₀ (deal i st key live r l last s) := by
  induction l generalizing s r last with
  | nil => unfold deal; exact h
  | cons u q ih =>
    unfold deal
    refine ih _ _ _ ?_
    split
    · exact onEng_moves _ _ _ _ _ h
    · exact h

theorem takeUnit_moves {s₀ : State} (s : State) (i : SetId) (st : Nat) (e : Nat) (h₀ : Moves s₀ s) : Moves s₀ (takeUnit s i st e) := by
  unfold takeUnit
  with_reducible repeat' first | assumption | intro _ | apply onEng_moves | apply addFld_moves | apply Moves.ite | split | dsimp only

theorem takeAll_moves {s₀ : State} (s : State) (i : SetId) (st : Nat) (h₀ : Moves s₀ s) : Moves s₀ (takeAll s i st) := by
  unfold takeAll
  with_reducible repeat' first | assumption | intro _ | apply takeUnit_moves | apply Moves.foldl

theorem purge_moves {s₀ : State} (s : State) (i : SetId) (h₀ : Moves s₀ s) : Moves s₀ (purge s i) := by
  unfold purge
  with_reducible repeat' first | assumption | intro _ | apply onSu_moves

theorem dropSess_moves {s₀ : State} (s : State) (i : SetId) (st : Nat) (n : Nat) (h₀ : Moves s₀ s) : Moves s₀ (dropSess s i st n) := by
  unfold dropSess
  with_reducible repeat' first | assumption | intro _ | apply onSu_moves

theorem attnStart_moves {s₀ : State} (s : State) (i : SetId) (k : Nat) (e : QEnt) (h₀ : Moves s₀ s) : Moves s₀ (attnStart s i k e) := by
  unfold attnStart
  with_reducible repeat' first | assumption | intro _ | apply onEnt_moves | apply markDone_moves | apply attnParam_moves | apply Moves.ite

theorem serveRequest_moves {s₀ : State} (s : State) (i : SetId) (g : KvGeo) (sh : Share) (e : QEnt) (h₀ : Moves s₀ s) : Moves s₀
    (serveRequest s i g sh e) := by
  have h₁ : Moves s₀ (if bit sh.op 0 = true then appendRows i g sh sh.rows s false else (s, none, false)).1 := by
    split
    · exact appendRows_moves _ _ _ _ _ _ h₀
    · exact h₀
  unfold serveRequest
  dsimp only
  generalize (if bit sh.op 0 = true then appendRows i g sh sh.rows s false else (s, none, false)) = p at h₁
  split
  · exact attnFault_moves _ _ _ _ _ _ _ _ h₁
  · with_reducible repeat' first
    | assumption | intro _ | apply attnFault_moves | apply leaveJob_moves | apply onSu_moves | apply takeAll_moves | apply deal_moves
    | apply Moves.ite | split

theorem readDirs_moves {s₀ : State} (s : State) (i : SetId) (g : KvGeo) (sh : Share) (h₀ : Moves s₀ s) : Moves s₀ (readDirs s i g sh) := by
  unfold readDirs
  with_reducible repeat' first
    | assumption | intro _ | apply skipSess_moves | apply readBad_moves | (refine readBad_moves_eq (by assumption) ?_) | apply Moves.ite
    | apply Moves.foldl

theorem execAttnRequest_moves {s₀ : State} (i : SetId) (stack : StackId) (core : CoreId) (s : State) (h₀ : Moves s₀ s) : MovesOut s₀
    (execAttnRequest i stack core s) := by
  unfold execAttnRequest
  with_reducible repeat' first
    | assumption | intro _ | apply MovesOut.next | apply readOperandBytes_moves | (refine readOperandBytes_moves_eq (by assumption) ?_)
    | apply leaveJob_moves | apply settle_moves | apply attnParam_moves | apply purge_moves | apply serveRequest_moves
    | apply readDirs_moves | apply Moves.ite | apply MovesOut.ite | split | dsimp only

theorem unitFinish_moves {s₀ : State} (s : State) (i : SetId) (st : Nat) (e : Nat) (key : Nat × Nat) (u : AUnit) (ps : List APart)
    (h₀ : Moves s₀ s) : Moves s₀ (unitFinish s i st e key u ps) := by
  unfold unitFinish
  with_reducible repeat' first | assumption | intro _ | apply onSu_moves | apply onEng_moves

theorem readQuery_moves {s₀ : State} (s : State) (i : SetId) (g : KvGeo) (sh : Share) (u : AUnit) (h₀ : Moves s₀ s) : Moves s₀
    (readQuery s i g sh u).2 := by
  unfold readQuery
  with_reducible repeat' first | assumption | intro _ | apply readOperand_moves | apply Moves.ite | apply Moves.foldl_snd

theorem readQuery_moves_eq {s₀ t₀ : State} {s : State} {i : SetId} {g : KvGeo} {sh : Share} {u : AUnit} {r0}
    (he₀ : readQuery s i g sh u = (r0, t₀)) (h₀ : Moves s₀ s) : Moves s₀ t₀ := by
  have := readQuery_moves s i g sh u h₀; rw [he₀] at this; exact this

theorem doUnit_moves {s₀ : State} (s : State) (i : SetId) (st : Nat) (e : Nat) (key : Nat × Nat) (u : AUnit) (h₀ : Moves s₀ s) : Moves s₀
    (doUnit s i st e key u) := by
  unfold doUnit
  with_reducible repeat' first
    | assumption | intro _ | apply onEng_moves | apply readQuery_moves | apply leaveJob_moves | apply unitFinish_moves | apply readBad_moves
    | apply dropSess_moves | apply skipSess_moves | apply Moves.ite | split

theorem redeal_moves {s₀ : State} (s : State) (i : SetId) (st : Nat) (us : List ((Nat × Nat) × AUnit)) (h₀ : Moves s₀ s) : Moves s₀
    (redeal s i st us) := by
  unfold redeal
  with_reducible repeat' first | assumption | intro _ | apply deal_moves | apply Moves.foldl

theorem pruneEngine_moves {s₀ : State} (s : State) (i : SetId) (st : Nat) (e : Nat) (h₀ : Moves s₀ s) : Moves s₀ (pruneEngine s i st e)
    := by
  unfold pruneEngine
  with_reducible repeat' first
    | assumption | intro _ | apply mseErr_moves | apply report_moves | apply setFld_moves | apply almPrune_moves | apply discardStep_moves
    | apply redeal_moves | apply onEng_moves

theorem execAttnUnitDone_moves {s₀ : State} (i : SetId) (stack : StackId) (engine : Fin 16) (residue : Bool) (s : State) (h₀ : Moves s₀ s) :
    MovesOut s₀ (execAttnUnitDone i stack engine residue s) := by
  unfold execAttnUnitDone
  with_reducible repeat' first
    | assumption | intro _ | apply purge_moves | apply pruneEngine_moves | apply doUnit_moves | apply settle_moves | apply takeAll_moves
    | apply Moves.ite | apply MovesOut.next | apply MovesOut.ite | split | dsimp only

theorem shareOut_moves {s₀ : State} (s : State) (i : SetId) (g : KvGeo) (sh : Share) (h₀ : Moves s₀ s) : Moves s₀ (shareOut s i g sh) := by
  unfold shareOut
  with_reducible repeat' first | assumption | intro _ | apply latchTouch_moves | apply store_moves | apply Moves.foldl

theorem shareEnd_moves {s₀ : State} (s : State) (i : SetId) (st : Nat) (k : Nat) (id : Nat) (h₀ : Moves s₀ s) : Moves s₀
    (shareEnd s i st k id) := by
  unfold shareEnd
  with_reducible repeat' first | assumption | intro _ | apply onSu_moves | apply onEnt_moves

theorem execAttnShareDone_moves {s₀ : State} (i : SetId) (stack : StackId) (core : CoreId) (s : State) (h₀ : Moves s₀ s) : MovesOut s₀
    (execAttnShareDone i stack core s) := by
  unfold execAttnShareDone
  with_reducible repeat' first
    | assumption | intro _ | apply purge_moves | apply shareOut_moves | apply settle_moves | apply shareEnd_moves | apply Moves.ite
    | apply MovesOut.next | apply MovesOut.ite | split | dsimp only

theorem execFrameSeal_moves {s₀ : State} (i : SetId) (stack : StackId) (slot : Nat) (frame : Nat) (layer : Nat) (stream : List Byte)
    (s : State) (h₀ : Moves s₀ s) : MovesOut s₀ (execFrameSeal i stack slot frame layer stream s) := by
  unfold execFrameSeal
  with_reducible repeat' first
    | assumption | intro _ | apply store_moves | apply satFld_moves | apply Moves.ite | apply MovesOut.next | apply MovesOut.ite | split
    | dsimp only

theorem endSess_moves {s₀ : State} (s : State) (i : SetId) (n : Nat) (tag : Nat) (c : FC) (h₀ : Moves s₀ s) : Moves s₀ (endSess s i n tag c)
    := by
  unfold endSess
  with_reducible repeat' first | assumption | intro _ | apply report_moves | apply onSess_moves | apply Moves.ite

theorem putHarv_moves {s₀ : State} (s : State) (i : SetId) (head : Bool) (r : Nat) (h : HarvRow) (h₀ : Moves s₀ s) : Moves s₀
    (putHarv s i head r h) := by
  unfold putHarv
  with_reducible repeat' first | assumption | intro _ | apply onSu_moves | apply store_moves | apply spend_moves | apply Moves.ite

theorem harvestRow_moves {s₀ : State} (s : State) (i : SetId) (e : QEnt) (head : Bool) (r : Nat) (v0 : Nat) (ls : List Nat)
    (h₀ : Moves s₀ s) : Moves s₀ (harvestRow s i e head r v0 ls) := by
  unfold harvestRow
  with_reducible repeat' first
    | assumption | intro _ | apply putHarv_moves | apply endSess_moves | apply onSu_moves | apply Moves.ite | split

theorem pruneHarvest_moves {s₀ : State} (s : State) (i : SetId) (e : QEnt) (u : Nat) (h₀ : Moves s₀ s) : Moves s₀ (pruneHarvest s i e u)
    := by
  unfold pruneHarvest
  with_reducible repeat' first
    | assumption | intro _ | apply report_moves | apply almPrune_moves | apply discardStep_moves | apply setFld_moves
    | apply pruneLimit_moves | apply Moves.ite

theorem doHarvest_moves {s₀ : State} (s : State) (i : SetId) (k : Nat) (e : QEnt) (h₀ : Moves s₀ s) : Moves s₀ (doHarvest s i k e) := by
  unfold doHarvest
  with_reducible repeat' first
    | assumption | intro _ | apply markDone_moves | apply haltSlot_moves | apply readOperandBytes_moves | apply harvestRow_moves
    | apply endIf_moves | apply Moves.ite | apply Moves.foldl_fst | split | (refine readOperandBytes_moves_eq (by assumption) ?_)
    | dsimp only

theorem harvestStart_moves {s₀ : State} (s : State) (i : SetId) (k : Nat) (e : QEnt) (h₀ : Moves s₀ s) : Moves s₀ (harvestStart s i k e) :=
    by
  unfold harvestStart
  with_reducible repeat' first | assumption | intro _ | apply pruneHarvest_moves | apply doHarvest_moves | apply Moves.ite

theorem addHist_moves {s₀ : State} (s : State) (i : SetId) (n : Nat) (ts : List Nat) (h₀ : Moves s₀ s) : Moves s₀ (addHist s i n ts) := by
  unfold addHist
  with_reducible repeat' first | assumption | intro _ | apply onSess_moves | apply store_moves | apply Moves.foldl

theorem countDma_moves {s₀ : State} (s : State) (h₀ : Moves s₀ s) : Moves s₀ (countDma s) := by
  unfold countDma
  with_reducible repeat' first | assumption | apply setPfld_moves

theorem disableRing_moves {s₀ : State} (s : State) (i : SetId) (t : Nat) (h₀ : Moves s₀ s) : Moves s₀ (disableRing s i t) := by
  unfold disableRing
  with_reducible repeat' first | assumption | intro _ | apply setPfld_moves | apply onSu_moves | apply cqFree_moves

theorem enableRing_moves {s₀ : State} (s : State) (t : Nat) (h₀ : Moves s₀ s) : Moves s₀ (enableRing s t) := by
  unfold enableRing
  with_reducible repeat' first | assumption | intro _ | apply setPfld_moves | apply Moves.ite | apply Moves.upd

theorem execRingEnable_moves {s₀ : State} (page : PageId) (s : State) (h₀ : Moves s₀ s) : MovesOut s₀ (execRingEnable page s) := by
  unfold execRingEnable
  with_reducible repeat' first | assumption | intro _ | apply enableRing_moves | apply Moves.ite | apply MovesOut.next

theorem execRingDisable_moves {s₀ : State} (page : PageId) (s : State) (h₀ : Moves s₀ s) : MovesOut s₀ (execRingDisable page s) := by
  unfold execRingDisable
  with_reducible repeat' first | assumption | intro _ | apply disableRing_moves | apply Moves.ite | apply MovesOut.next

theorem writeSqTail_moves {s₀ : State} (s : State) (t : Nat) (v : Nat) (h₀ : Moves s₀ s) : Moves s₀ (writeSqTail s t v) := by
  unfold writeSqTail
  with_reducible repeat' first | assumption | intro _ | apply setPfld_moves | apply Moves.ite

theorem writeCqHead_moves {s₀ : State} (s : State) (t : Nat) (v : Nat) (h₀ : Moves s₀ s) : Moves s₀ (writeCqHead s t v) := by
  unfold writeCqHead
  with_reducible repeat' first | assumption | intro _ | apply setPfld_moves | apply raiseCq_moves | apply postDue_moves | apply Moves.ite

theorem execSqTailWrite_moves {s₀ : State} (page : PageId) (v : Nat) (s : State) (h₀ : Moves s₀ s) : MovesOut s₀ (execSqTailWrite page v s)
    := by
  unfold execSqTailWrite
  with_reducible repeat' first | assumption | intro _ | apply writeSqTail_moves | apply Moves.ite | apply MovesOut.next

theorem execCqHeadWrite_moves {s₀ : State} (page : PageId) (v : Nat) (s : State) (h₀ : Moves s₀ s) : MovesOut s₀ (execCqHeadWrite page v s)
    := by
  unfold execCqHeadWrite
  with_reducible repeat' first | assumption | intro _ | apply writeCqHead_moves | apply Moves.ite | apply MovesOut.next

theorem execSqFetch_moves {s₀ : State} (i : SetId) (cmd : List Byte) (data : Option (List Byte)) (s : State) (h₀ : Moves s₀ s) : MovesOut s₀
    (execSqFetch i cmd data s) := by
  unfold execSqFetch
  with_reducible repeat' first
    | assumption | intro _ | apply setPfld_moves | apply onSu_moves | apply cqHold_moves | apply Moves.ite | apply MovesOut.next
    | apply MovesOut.ite | split

theorem addRec_moves {s₀ : State} (s : State) (i : SetId) (t : Nat) (n : Nat) (r : List Byte) (h₀ : Moves s₀ s) : Moves s₀ (addRec s i t n
    r) := by
  unfold addRec
  with_reducible repeat' first | assumption | intro _ | apply onSu_moves | apply cqHold_moves | apply Moves.ite

theorem postRecs_moves {s₀ : State} (s : State) (i : SetId) (h₀ : Moves s₀ s) : Moves s₀ (postRecs s i) := by
  unfold postRecs
  with_reducible repeat' first | assumption | intro _ | apply postRec_moves | apply cqFree_moves | apply onSu_moves | apply Moves.foldl

theorem patchTokens_moves {s₀ : State} {s : State} {i : SetId} {n : Nat} {f : List Byte → List Byte} {t : State}
    (e : patchTokens s i n f = some t) (h : Moves s₀ s) : Moves s₀ t := by
  unfold patchTokens at e
  dsimp only at e
  split at e
  · cases e
  · cases e; exact onSu_moves _ _ _ h

theorem refuse_moves {s₀ : State} (s : State) (i : SetId) (t : Nat) (sid : Nat) (n : Option Nat) (c : FC) (h₀ : Moves s₀ s) : Moves s₀
    (refuse s i t sid n c) := by
  unfold refuse
  with_reducible repeat' first
    | assumption | intro _ | apply report_moves | apply addRec_moves | apply freeEvent_moves | apply Moves.ite | split

theorem dropInputs_moves {s₀ : State} (s : State) (i : SetId) (n : Nat) (h₀ : Moves s₀ s) : Moves s₀ (dropInputs s i n) := by
  unfold dropInputs
  with_reducible repeat' first | assumption | intro _ | apply onSu_moves | apply cqFree_moves | apply refuse_moves | apply Moves.foldl

theorem unreserve_moves {s₀ : State} (s : State) (i : SetId) (n : Nat) (h₀ : Moves s₀ s) : Moves s₀ (unreserve s i n) := by
  unfold unreserve
  with_reducible repeat' first | assumption | apply onSess_moves | apply cqFree_moves

theorem countEntry_moves {s₀ : State} (s : State) (i : SetId) (st : Nat) (rsv : Nat) (opens : Bool) (h₀ : Moves s₀ s) : Moves s₀
    (countEntry s i st rsv opens) := by
  unfold countEntry
  with_reducible repeat' first | assumption | intro _ | apply setFld_moves

theorem closeDir_moves {s₀ : State} (s : State) (i : SetId) (n : Nat) (h₀ : Moves s₀ s) : Moves s₀ (closeDir s i n) := by
  unfold closeDir
  with_reducible repeat' first | assumption | intro _ | apply store_moves | apply countEntry_moves | apply Moves.ite | apply Moves.foldl

theorem freeSlot_moves {s₀ : State} (s : State) (i : SetId) (n : Nat) (h₀ : Moves s₀ s) : Moves s₀ (freeSlot s i n) := by
  unfold freeSlot
  with_reducible repeat' first
    | assumption | intro _ | apply onSu_moves | apply onSess_moves | apply dropInputs_moves | apply unreserve_moves | apply closeDir_moves
    | apply Moves.ite

theorem freeClosing_moves {s₀ : State} (s : State) (i : SetId) (ns : List Nat) (h₀ : Moves s₀ s) : Moves s₀ (freeClosing s i ns) := by
  unfold freeClosing
  with_reducible repeat' first | assumption | intro _ | apply freeSlot_moves | apply Moves.ite | apply Moves.foldl

theorem finishSess_moves {s₀ : State} (s : State) (i : SetId) (n : Nat) (status : Nat) (event : Nat) (h₀ : Moves s₀ s) : Moves s₀
    (finishSess s i n status event) := by
  unfold finishSess
  with_reducible repeat' first | assumption | apply freeSlot_moves | apply addRec_moves

theorem endSessions_moves {s₀ : State} (s : State) (i : SetId) (ok : Nat → Bool) (status : Nat) (event : Nat) (h₀ : Moves s₀ s) : Moves s₀
    (endSessions s i ok status event) := by
  unfold endSessions
  with_reducible repeat' first
    | assumption | intro _ | apply raiseCq_moves | apply showOpens_moves | apply postRecs_moves | apply finishSess_moves | apply Moves.foldl

theorem closeSess_moves {s₀ : State} (s : State) (i : SetId) (n : Nat) (h₀ : Moves s₀ s) : Moves s₀ (closeSess s i n) := by
  unfold closeSess
  with_reducible repeat' first
    | assumption | intro _ | apply unreserve_moves | apply dropInputs_moves | apply onSess_moves | apply Moves.ite | split
    | (refine patchTokens_moves (by assumption) ?_)

theorem applyOpen_moves {s₀ : State} (s : State) (i : SetId) (x : SqCmd) (h₀ : Moves s₀ s) : Moves s₀ (applyOpen s i x) := by
  unfold applyOpen
  with_reducible repeat' first
    | assumption | intro _ | apply refuse_moves | apply cqFree_moves | apply countDma_moves | apply onSess_moves | apply spend_moves
    | apply Moves.ite | split | dsimp only

theorem applyInput_moves {s₀ : State} (s : State) (i : SetId) (n : Nat) (x : SqCmd) (h₀ : Moves s₀ s) : Moves s₀ (applyInput s i n x) := by
  unfold applyInput
  with_reducible repeat' first
    | assumption | intro _ | apply cqFree_moves | apply refuse_moves | apply countDma_moves | apply addHist_moves | apply onSess_moves
    | apply Moves.ite | split

theorem applyDraft_moves {s₀ : State} (s : State) (i : SetId) (n : Nat) (x : SqCmd) (h₀ : Moves s₀ s) : Moves s₀ (applyDraft s i n x) := by
  unfold applyDraft
  with_reducible repeat' first | assumption | intro _ | apply cqFree_moves | apply refuse_moves | apply onSess_moves | apply Moves.ite

theorem applyMask_moves {s₀ : State} (s : State) (i : SetId) (n : Nat) (x : SqCmd) (h₀ : Moves s₀ s) : Moves s₀ (applyMask s i n x) := by
  unfold applyMask
  with_reducible repeat' first | assumption | intro _ | apply cqFree_moves | apply refuse_moves | apply onSess_moves | apply Moves.ite

theorem applyMaskload_moves {s₀ : State} (s : State) (i : SetId) (x : SqCmd) (h₀ : Moves s₀ s) : Moves s₀ (applyMaskload s i x) := by
  unfold applyMaskload
  with_reducible repeat' first
    | assumption | intro _ | apply cqFree_moves | apply refuse_moves | apply countDma_moves | apply store_moves | apply Moves.ite | split

theorem applyClose_moves {s₀ : State} (s : State) (i : SetId) (n : Nat) (x : SqCmd) (h₀ : Moves s₀ s) : Moves s₀ (applyClose s i n x) := by
  unfold applyClose
  with_reducible repeat' first | assumption | apply closeSess_moves | apply cqFree_moves | apply addRec_moves

theorem applyCmd_moves {s₀ : State} (s : State) (i : SetId) (x : SqCmd) (h₀ : Moves s₀ s) : Moves s₀ (applyCmd s i x) := by
  unfold applyCmd
  with_reducible repeat' first
    | assumption | intro _ | apply refuse_moves | apply cqFree_moves | apply applyOpen_moves | apply applyMaskload_moves
    | apply applyInput_moves | apply onSu_moves | apply applyDraft_moves | apply applyMask_moves | apply applyClose_moves | apply Moves.ite
    | split

theorem applyInputs_moves {s₀ : State} (s : State) (i : SetId) (h₀ : Moves s₀ s) : Moves s₀ (applyInputs s i) := by
  unfold applyInputs
  with_reducible repeat' first | assumption | intro _ | apply onSu_moves | apply applyCmd_moves | apply Moves.foldl

theorem copyFrame_moves {s₀ : State} (s : State) (i : SetId) (g : KvGeo) (st : Nat) (n : Nat) (fsrc : Nat) (fdst : Nat) (h₀ : Moves s₀ s) :
    Moves s₀ (copyFrame s i g st n fsrc fdst) := by
  unfold copyFrame
  with_reducible repeat' first
    | assumption | intro _ | apply storePoisoned_moves | apply store_moves | apply moveWords_moves | apply skipSess_moves
    | apply readBad_moves | (refine readBad_moves_eq (by assumption) ?_) | apply Moves.ite | apply Moves.foldl

theorem openDir_moves {s₀ : State} (s : State) (i : SetId) (g : KvGeo) (st : Nat) (n : Nat) (q : Sess) (h₀ : Moves s₀ s) : Moves s₀
    (openDir s i g st n q) := by
  unfold openDir
  with_reducible repeat' first
    | assumption | intro _ | apply store_moves | apply countEntry_moves | apply copyFrame_moves | apply Moves.ite | split
    | (refine attachFrame_moves (by assumption) ?_)

theorem placeSess_moves {s₀ : State} (s : State) (i : SetId) (n : Nat) (st0 : Nat) (h₀ : Moves s₀ s) : Moves s₀ (placeSess s i n st0) := by
  unfold placeSess
  with_reducible repeat' first
    | assumption | intro _ | apply openDir_moves | apply store_moves | apply onSess_moves | apply Moves.ite | apply Moves.foldl

theorem takeIn_moves {s₀ : State} (s : State) (i : SetId) (n : Nat) (h₀ : Moves s₀ s) : Moves s₀ (takeIn s i n) := by
  unfold takeIn
  with_reducible repeat' first
    | assumption | intro _ | apply placeSess_moves | apply unreserve_moves | apply addRec_moves | apply Moves.ite | split

theorem admitAll_moves {s₀ : State} (s : State) (i : SetId) (h₀ : Moves s₀ s) : Moves s₀ (admitAll s i) := by
  unfold admitAll
  with_reducible repeat' first | assumption | intro _ | apply takeIn_moves | apply Moves.foldl

theorem execOpenTimeout_moves {s₀ : State} (i : SetId) (slot : Nat) (s : State) (h₀ : Moves s₀ s) : MovesOut s₀ (execOpenTimeout i slot s)
    := by
  unfold execOpenTimeout
  with_reducible repeat' first
    | assumption | intro _ | apply MovesOut.next | apply report_moves | apply onSess_moves | apply Moves.ite | apply MovesOut.ite

theorem commitLen_moves {s₀ : State} (s : State) (i : SetId) (n : Nat) (a : Nat) (h₀ : Moves s₀ s) : Moves s₀ (commitLen s i n a) := by
  unfold commitLen
  with_reducible repeat' first | assumption | intro _ | apply dirSet_moves | apply onSess_moves | apply Moves.ite | apply Moves.foldl

theorem tookTokens_moves {s₀ : State} (s : State) (i : SetId) (n : Nat) (ts : List Nat) (drafts : List Nat) (h₀ : Moves s₀ s) : Moves s₀
    (tookTokens s i n ts drafts) := by
  unfold tookTokens
  with_reducible repeat' first | assumption | intro _ | apply onSess_moves | apply addHist_moves

theorem emitTokens_moves {s₀ : State} (s : State) (i : SetId) (n : Nat) (pos : Nat) (d : Nat) (reason : Nat) (lastRow : Nat) (xs : List
    RowRes) (h₀ : Moves s₀ s) : Moves s₀ (emitTokens s i n pos d reason lastRow xs) := by
  unfold emitTokens
  with_reducible repeat' first | assumption | intro _ | apply addRec_moves | apply tookTokens_moves | apply Moves.foldl

theorem commitDecode_moves {s₀ : State} (s : State) (i : SetId) (n : Nat) (rs : List (Nat × RowEnt)) (h₀ : Moves s₀ s) : Moves s₀
    (commitDecode s i n rs) := by
  unfold commitDecode
  with_reducible repeat' first
    | assumption | intro _ | apply onSess_moves | apply emitTokens_moves | apply commitLen_moves | apply Moves.ite | split

theorem commitPrefill_moves {s₀ : State} (s : State) (i : SetId) (n : Nat) (rs : List (Nat × RowEnt)) (h₀ : Moves s₀ s) : Moves s₀
    (commitPrefill s i n rs) := by
  unfold commitPrefill
  with_reducible repeat' first
    | assumption | intro _ | apply emitTokens_moves | apply commitLen_moves | apply onSess_moves | apply addRec_moves | apply Moves.ite
    | split

theorem commitSess_moves {s₀ : State} (s : State) (i : SetId) (n : Nat) (h₀ : Moves s₀ s) : Moves s₀ (commitSess s i n) := by
  unfold commitSess
  with_reducible repeat' first
    | assumption | intro _ | apply finishSess_moves | apply commitDecode_moves | apply commitPrefill_moves | apply unreserve_moves
    | apply Moves.ite | split

theorem clearStep_moves {s₀ : State} (s : State) (i : SetId) (h₀ : Moves s₀ s) : Moves s₀ (clearStep s i) := by
  unfold clearStep
  with_reducible repeat' first | assumption | apply onSu_moves

theorem voidStep_moves {s₀ : State} (s : State) (i : SetId) (h₀ : Moves s₀ s) : Moves s₀ (voidStep s i) := by
  unfold voidStep
  with_reducible repeat' first | assumption | apply onSu_moves | apply clearStep_moves

theorem commitStep_moves {s₀ : State} (s : State) (i : SetId) (h₀ : Moves s₀ s) : Moves s₀ (commitStep s i) := by
  unfold commitStep
  with_reducible repeat' first
    | assumption | intro _ | apply voidStep_moves | apply clearStep_moves | apply commitSess_moves | apply Moves.ite | apply Moves.foldl

theorem endKilled_moves {s₀ : State} (s : State) (i : SetId) (h₀ : Moves s₀ s) : Moves s₀ (endKilled s i) := by
  unfold endKilled
  with_reducible repeat' first
    | assumption | intro _ | apply freeSlot_moves | apply finishSess_moves | (refine onSet_moves _ (fun _ ht => ht.same rfl rfl) ?_)
    | apply Moves.ite | apply Moves.foldl

theorem closePages_moves {s₀ : State} (s : State) (i : SetId) (h₀ : Moves s₀ s) : Moves s₀ (closePages s i) := by
  unfold closePages
  with_reducible repeat' first | assumption | intro _ | apply onSu_moves | apply closeSess_moves | apply Moves.foldl

theorem endMarked_moves {s₀ : State} (s : State) (i : SetId) (h₀ : Moves s₀ s) : Moves s₀ (endMarked s i) := by
  unfold endMarked
  with_reducible repeat' first | assumption | intro _ | apply finishSess_moves | apply Moves.foldl

theorem toFive_moves {s₀ : State} (s : State) (i : SetId) (h₀ : Moves s₀ s) : Moves s₀ (toFive s i) := by
  unfold toFive
  with_reducible repeat' first
    | assumption | intro _ | apply onSu_moves | apply freeClosing_moves | apply applyInputs_moves | apply commitStep_moves
    | apply endMarked_moves | (refine onSet_moves _ (fun _ ht => ht.same rfl rfl) ?_) | apply Moves.ite

theorem applyCmds_moves {s₀ : State} (s : State) (i : SetId) (h₀ : Moves s₀ s) : Moves s₀ (applyCmds s i) := by
  unfold applyCmds
  with_reducible repeat' first | assumption | intro _ | apply applyCmd_moves | apply onSu_moves | apply Moves.foldl

theorem applyNext_moves {s₀ : State} (i : SetId) (opc : Nat) (s : State) (h₀ : Moves s₀ s) : Moves s₀ (applyNext i opc s) := by
  unfold applyNext
  with_reducible repeat' first
    | assumption | intro _ | apply onSu_moves | apply showOpens_moves | apply applyCmd_moves | apply toFive_moves | apply Moves.ite | split

theorem execOpen_moves {s₀ : State} (i : SetId) (s : State) (h₀ : Moves s₀ s) : MovesOut s₀ (execOpen i s) := by
  unfold execOpen
  with_reducible repeat' first | assumption | apply applyNext_moves | apply MovesOut.next

theorem execInput_moves {s₀ : State} (i : SetId) (s : State) (h₀ : Moves s₀ s) : MovesOut s₀ (execInput i s) := by
  unfold execInput
  with_reducible repeat' first | assumption | apply applyNext_moves | apply MovesOut.next

theorem execDraft_moves {s₀ : State} (i : SetId) (s : State) (h₀ : Moves s₀ s) : MovesOut s₀ (execDraft i s) := by
  unfold execDraft
  with_reducible repeat' first | assumption | apply applyNext_moves | apply MovesOut.next

theorem execMask_moves {s₀ : State} (i : SetId) (s : State) (h₀ : Moves s₀ s) : MovesOut s₀ (execMask i s) := by
  unfold execMask
  with_reducible repeat' first | assumption | apply applyNext_moves | apply MovesOut.next

theorem execMaskload_moves {s₀ : State} (i : SetId) (s : State) (h₀ : Moves s₀ s) : MovesOut s₀ (execMaskload i s) := by
  unfold execMaskload
  with_reducible repeat' first | assumption | apply applyNext_moves | apply MovesOut.next

theorem execClose_moves {s₀ : State} (i : SetId) (s : State) (h₀ : Moves s₀ s) : MovesOut s₀ (execClose i s) := by
  unfold execClose
  with_reducible repeat' first | assumption | apply applyNext_moves | apply MovesOut.next

theorem reserve_moves {s₀ : State} (s : State) (i : SetId) (n : Nat) (need : Nat) (h₀ : Moves s₀ s) : Moves s₀ (reserve s i n need).1 := by
  unfold reserve
  with_reducible repeat' first | assumption | intro _ | apply onSess_moves | apply cqHold_moves | apply Moves.ite | split | dsimp only

theorem reserve_moves_eq {s₀ t₀ : State} {s : State} {i : SetId} {n : Nat} {need : Nat} {r0} (he₀ : reserve s i n need = (t₀, r0))
    (h₀ : Moves s₀ s) : Moves s₀ t₀ := by
  have := reserve_moves s i n need h₀; rw [he₀] at this; exact this

theorem enterDecode_moves {s₀ : State} (i : SetId) (l : List Nat) (u : Nat) (s : State) (h : Moves s₀ s) : Moves s₀ (enterDecode i l u s)
    := by
  induction l generalizing s u with
  | nil => exact h
  | cons n q ih => exact .ite (fun _ => ih _ _ (onSess_moves _ _ _ _ h)) fun _ => h

theorem readySessions_moves {s₀ : State} (s : State) (i : SetId) (h₀ : Moves s₀ s) : Moves s₀ (readySessions s i) := by
  unfold readySessions
  with_reducible repeat' first | assumption | apply enterDecode_moves

theorem bindDecode_moves {s₀ : State} (s : State) (i : SetId) (n : Nat) (h₀ : Moves s₀ s) : Moves s₀ (bindDecode s i n).1 := by
  unfold bindDecode
  with_reducible repeat' first
    | assumption | intro _ | apply reserve_moves | apply onSess_moves | apply Moves.ite | split
    | (refine reserve_moves_eq (by assumption) ?_) | dsimp only

theorem bindDecode_moves_eq {s₀ t₀ : State} {s : State} {i : SetId} {n : Nat} {r0} (he₀ : bindDecode s i n = (t₀, r0)) (h₀ : Moves s₀ s) :
    Moves s₀ t₀ := by
  have := bindDecode_moves s i n h₀; rw [he₀] at this; exact this

theorem bindPrefill_moves {s₀ : State} (s : State) (i : SetId) (n : Nat) (free : Nat) (h₀ : Moves s₀ s) : Moves s₀
    (bindPrefill s i n free).1 := by
  unfold bindPrefill
  with_reducible repeat' first
    | assumption | intro _ | apply reserve_moves | apply Moves.ite | split | (refine reserve_moves_eq (by assumption) ?_) | dsimp only

theorem bindPrefill_moves_eq {s₀ t₀ : State} {s : State} {i : SetId} {n : Nat} {free : Nat} {r0} (he₀ : bindPrefill s i n free = (t₀, r0))
    (h₀ : Moves s₀ s) : Moves s₀ t₀ := by
  have := bindPrefill_moves s i n free h₀; rw [he₀] at this; exact this

theorem layoutRows_moves {s₀ : State} (s : State) (i : SetId) (h₀ : Moves s₀ s) : Moves s₀ (layoutRows s i).1 := by
  unfold layoutRows
  with_reducible repeat' first
    | assumption | intro _ | apply readySessions_moves | apply bindDecode_moves | apply bindPrefill_moves | apply Moves.ite
    | apply Moves.foldl_fst

theorem layoutRows_moves_eq {s₀ t₀ : State} {s : State} {i : SetId} {r0} (he₀ : layoutRows s i = (t₀, r0)) (h₀ : Moves s₀ s) : Moves s₀ t₀
    := by
  have := layoutRows_moves s i h₀; rw [he₀] at this; exact this

theorem badTokens_moves {s₀ : State} (s : State) (i : SetId) (rows : List RowEnt) (h₀ : Moves s₀ s) : Moves s₀ (badTokens s i rows).1 := by
  unfold badTokens
  with_reducible repeat' first
    | assumption | intro _ | apply store_moves | apply report_moves | apply freeSlot_moves | apply finishSess_moves | apply Moves.ite
    | apply Moves.foldl | split | (refine patchTokens_moves (by assumption) ?_) | dsimp only

theorem badTokens_moves_eq {s₀ t₀ : State} {s : State} {i : SetId} {rows : List RowEnt} {r0} (he₀ : badTokens s i rows = (t₀, r0))
    (h₀ : Moves s₀ s) : Moves s₀ t₀ := by
  have := badTokens_moves s i rows h₀; rw [he₀] at this; exact this

theorem gatherRows_moves {s₀ : State} (s : State) (i : SetId) (h₀ : Moves s₀ s) : Moves s₀ (gatherRows s i) := by
  unfold gatherRows
  with_reducible repeat' first | assumption | intro _ | apply moveWords_moves | apply Moves.ite | apply Moves.foldl | split

theorem execEmbeddingGatherDone_moves {s₀ : State} (i : SetId) (s : State) (h₀ : Moves s₀ s) : MovesOut s₀ (execEmbeddingGatherDone i s)
    := by
  unfold execEmbeddingGatherDone
  with_reducible repeat' first
    | assumption | intro _ | apply onSu_moves | apply gatherRows_moves | apply settle_moves | apply turnSignal_moves | apply Moves.ite
    | apply MovesOut.next | apply MovesOut.ite

theorem showPages_moves {s₀ : State} (s : State) (i : SetId) (h₀ : Moves s₀ s) : Moves s₀ (showPages s i) := by
  unfold showPages
  with_reducible repeat' first | assumption | intro _ | apply setPfld_moves | apply showOpen_moves | apply Moves.foldl

theorem askRepair_moves {s₀ : State} (s : State) (i : SetId) (e : CatEnt) (bank : Nat) (h₀ : Moves s₀ s) : Moves s₀ (askRepair s i e bank)
    := by
  unfold askRepair
  with_reducible repeat' first
    | assumption | intro _ | apply emit_moves | (refine onSet_moves _ (fun _ ht => ht.same rfl rfl) ?_) | apply Moves.ite

theorem repairWord_moves {s₀ : State} (s : State) (i : SetId) (a : Nat) (h₀ : Moves s₀ s) : Moves s₀ (repairWord s i a) := by
  unfold repairWord
  with_reducible repeat' first
    | assumption | intro _ | apply askRepair_moves | apply moveWords_moves | apply emit_moves | apply Moves.ite | split

theorem boundaryRepairs_moves {s₀ : State} (s : State) (i : SetId) (h₀ : Moves s₀ s) : Moves s₀ (boundaryRepairs s i) := by
  unfold boundaryRepairs
  with_reducible repeat' first
    | assumption | intro _ | apply dropHolds_moves | apply startSlots_moves | apply applyPruning_moves | apply repairWord_moves
    | (refine onSet_moves _ (fun _ ht => ht.same rfl rfl) ?_) | apply Moves.foldl

theorem clearHeld_moves {s₀ : State} (s : State) (i : SetId) (h₀ : Moves s₀ s) : Moves s₀ (clearHeld s i) := by
  unfold clearHeld
  with_reducible repeat' first | assumption | intro _ | apply onSu_moves

theorem bindStep_moves {s₀ : State} (s : State) (i : SetId) (h₀ : Moves s₀ s) : Moves s₀ (bindStep s i) := by
  unfold bindStep
  with_reducible repeat' first
    | assumption | intro _ | apply onSu_moves | apply writeShadow_moves | apply layoutRows_moves
    | (refine layoutRows_moves_eq (by assumption) ?_) | apply badTokens_moves | (refine badTokens_moves_eq (by assumption) ?_)
    | apply clearHeld_moves | (refine onSet_moves _ (fun _ ht => ht.same rfl rfl) ?_) | apply Moves.ite | split

theorem takeShare_moves {s₀ : State} (s : State) (i : SetId) (h₀ : Moves s₀ s) : Moves s₀ (takeShare s i) := by
  unfold takeShare
  with_reducible repeat' first | assumption | intro _ | (refine onSet_moves _ (fun _ ht => ht.same rfl rfl) ?_) | apply Moves.ite

theorem boundaryEnd_moves {s₀ : State} (s : State) (i : SetId) (h₀ : Moves s₀ s) : Moves s₀ (boundaryEnd s i) := by
  unfold boundaryEnd
  with_reducible repeat' first | assumption | apply raiseCq_moves | apply postRecs_moves

theorem takeInput_moves {s₀ : State} (s : State) (i : SetId) (n : Nat) (rs : List (Nat × RowEnt)) (h₀ : Moves s₀ s) : Moves s₀ (takeInput s
    i n rs) := by
  unfold takeInput
  with_reducible repeat' first | assumption | intro _ | apply onSess_moves | apply addHist_moves

theorem formPart_moves {s₀ : State} (s : State) (i : SetId) (n : Nat) (h₀ : Moves s₀ s) : Moves s₀ (formPart s i n).1 := by
  unfold formPart
  with_reducible repeat' first
    | assumption | intro _ | apply emit_moves | apply tookTokens_moves | apply takeInput_moves | apply Moves.ite | split | dsimp only

theorem formPart_moves_eq {s₀ t₀ : State} {s : State} {i : SetId} {n : Nat} {r0} (he₀ : formPart s i n = (t₀, r0)) (h₀ : Moves s₀ s) : Moves
    s₀ t₀ := by
  have := formPart_moves s i n h₀; rw [he₀] at this; exact this

theorem sendReturn_moves {s₀ : State} (s : State) (i : SetId) (h₀ : Moves s₀ s) : Moves s₀ (sendReturn s i) := by
  unfold sendReturn
  with_reducible repeat' first
    | assumption | intro _ | apply emit_moves | apply onSu_moves | apply formPart_moves | (refine formPart_moves_eq (by assumption) ?_)
    | apply Moves.ite | apply Moves.foldl | apply Moves.foldl_fst

theorem execStepBoundary_moves {s₀ : State} (i : SetId) (s : State) (h₀ : Moves s₀ s) : MovesOut s₀ (execStepBoundary i s) := by
  unfold execStepBoundary
  with_reducible repeat' first
    | assumption | intro _ | apply MovesOut.next | apply onSu_moves | apply showOpens_moves | apply settle_moves | apply applyInputs_moves
    | apply admitAll_moves | apply endKilled_moves | apply closePages_moves | apply toFive_moves | apply applyCmds_moves
    | apply readySessions_moves | apply showPages_moves | apply boundaryRepairs_moves | apply bindStep_moves | apply takeShare_moves
    | apply boundaryEnd_moves | apply sendReturn_moves | apply Moves.ite | apply MovesOut.ite

end Sys2Proof.Machine
end

