-- ==== Sys2Proof/Laws/MovesCircle.lean ====
section
/-! SUPPORT. `Moves` for each operation and each command: what circulation, the catalogue's versions, folding, loading and the stacks do. -/

namespace Sys2Proof.Machine

theorem onCirc_moves {s₀ : State} (s : State) (i : SetId) (f : CircUnit → CircUnit) (h₀ : Moves s₀ s) : Moves s₀ (onCirc s i f) := by
  unfold onCirc
  with_reducible repeat' first | assumption | (refine onSet_moves _ (fun _ ht => ht.same rfl rfl) ?_)

theorem showStage_moves {s₀ : State} (s : State) (h₀ : Moves s₀ s) : Moves s₀ (showStage s) := by
  unfold showStage
  with_reducible repeat' first | assumption | intro _ | apply setPfld_moves | apply Moves.ite | split

theorem onPort_moves {s₀ : State} (s : State) (i : SetId) (p : Nat) (f : CPort → CPort) (h₀ : Moves s₀ s) : Moves s₀ (onPort s i p f) := by
  unfold onPort
  with_reducible repeat' first | assumption | apply onCirc_moves

theorem stopHere_moves {s₀ : State} (s : State) (i : SetId) (h₀ : Moves s₀ s) : Moves s₀ (stopHere s i) := by
  unfold stopHere
  with_reducible repeat' first
    | assumption | apply discardStep_moves | apply setFld_moves | apply onCirc_moves | apply onSu_moves | apply report_moves
    | apply endSessions_moves

theorem sendStop_moves {s₀ : State} (s : State) (i : SetId) (p : Nat) (h₀ : Moves s₀ s) : Moves s₀ (sendStop s i p) := by
  unfold sendStop
  with_reducible repeat' first | assumption | apply emit_moves

theorem stopCircle_moves {s₀ : State} (s : State) (i : SetId) (h₀ : Moves s₀ s) : Moves s₀ (stopCircle s i) := by
  unfold stopCircle
  with_reducible repeat' first | assumption | intro _ | apply stopHere_moves | apply sendStop_moves | apply Moves.ite | apply Moves.foldl

theorem circFault_moves {s₀ : State} (s : State) (i : SetId) (c : FC) (h : FHdr) (h₀ : Moves s₀ s) : Moves s₀ (circFault s i c h) := by
  unfold circFault
  with_reducible repeat' first | assumption | intro _ | apply setFld_moves | apply stopCircle_moves | apply report_moves

theorem execStopNotice_moves {s₀ : State} (i : SetId) (port : Fin 2) (s : State) (h₀ : Moves s₀ s) : MovesOut s₀ (execStopNotice i port s)
    := by
  unfold execStopNotice
  with_reducible repeat' first
    | assumption | intro _ | apply sendStop_moves | apply settle_moves | apply stopHere_moves | apply Moves.ite | apply MovesOut.next
    | apply MovesOut.ite

theorem takeFrame_moves {s₀ : State} (s : State) (i : SetId) (k : Nat) (e : QEnt) (f : Frame) (h₀ : Moves s₀ s) : Moves s₀
    (takeFrame s i k e f) := by
  unfold takeFrame
  with_reducible repeat' first
    | assumption | intro _ | apply store_moves | apply poisonWord_moves | apply latchTouch_moves | apply addFld_moves | apply markDone_moves
    | apply setFld_moves | apply haltSlot_moves | apply Moves.ite | apply Moves.foldl

theorem onFrames_moves {s₀ : State} (s : State) (i : SetId) (p : Frame → Bool) (f : Frame → Frame) (h₀ : Moves s₀ s) : Moves s₀
    (onFrames s i p f) := by
  unfold onFrames
  with_reducible repeat' first | assumption | intro _ | apply onCirc_moves

theorem consume_moves {s₀ : State} (s : State) (i : SetId) (t : TileId) (h₀ : Moves s₀ s) : Moves s₀ (consume s i t) := by
  unfold consume
  with_reducible repeat' first | assumption | apply onCirc_moves | apply onFrames_moves

theorem takeOne_moves {s₀ : State} (i : SetId) (f : Frame) (t : TileId) (r : State × Bool) (k : Nat) (h : Moves s₀ r.1) : Moves s₀
    (takeOne i f t r k).1 := by
  unfold takeOne
  dsimp only
  split
  · exact h
  · split
    · exact h
    · exact takeFrame_moves _ _ _ _ _ (onFrames_moves _ _ _ _ h)

theorem fromReserve_moves {s₀ : State} (s : State) (i : SetId) (f : Frame) (h₀ : Moves s₀ s) : Moves s₀ (fromReserve s i f).2 := by
  unfold fromReserve
  with_reducible repeat' first
    | assumption | intro _ | apply readWords_moves | (refine readWords_moves_eq (by assumption) ?_) | apply Moves.ite | split

theorem fromReserve_moves_eq {s₀ t₀ : State} {s : State} {i : SetId} {f : Frame} {r0} (he₀ : fromReserve s i f = (r0, t₀)) (h₀ : Moves s₀ s)
    : Moves s₀ t₀ := by
  have := fromReserve_moves s i f h₀; rw [he₀] at this; exact this

theorem present_moves {s₀ : State} (s : State) (i : SetId) (half : Nat) (h₀ : Moves s₀ s) : Moves s₀ (present s i half) := by
  unfold present
  with_reducible repeat' first
    | assumption | intro _ | apply circFault_moves | apply onFrames_moves | apply consume_moves | apply takeOne_moves
    | apply fromReserve_moves | (refine fromReserve_moves_eq (by assumption) ?_) | apply Moves.ite | apply Moves.foldl
    | apply Moves.foldl_fst | apply Moves.foldl_snd | split

theorem sendFrame_moves {s₀ : State} (s : State) (i : SetId) (f : Frame) (p : Nat) (hops : Nat) (h₀ : Moves s₀ s) : Moves s₀
    (sendFrame s i f p hops) := by
  unfold sendFrame
  with_reducible repeat' first | assumption | intro _ | apply onPort_moves | apply emit_moves

theorem sendAll_moves {s₀ : State} (s : State) (i : SetId) (h₀ : Moves s₀ s) : Moves s₀ (sendAll s i) := by
  unfold sendAll
  with_reducible repeat' first | assumption | intro _ | apply onFrames_moves | apply sendFrame_moves | apply Moves.ite | apply Moves.foldl

theorem clearBuf_moves {s₀ : State} (s : State) (i : SetId) (h₀ : Moves s₀ s) : Moves s₀ (clearBuf s i) := by
  unfold clearBuf
  with_reducible repeat' first
    | assumption | intro _ | apply markDone_moves | apply onCirc_moves | apply Moves.ite | apply Moves.foldl | split

theorem bufferFrame_moves {s₀ : State} (s : State) (i : SetId) (f : Frame) (h₀ : Moves s₀ s) : Moves s₀ (bufferFrame s i f) := by
  unfold bufferFrame
  with_reducible repeat' first
    | assumption | intro _ | apply poisonWord_moves | apply store_moves | apply onCirc_moves | apply Moves.ite | apply Moves.foldl | split
    | dsimp only

theorem injectWords_moves {s₀ : State} {s : State} {i : SetId} {q : QEnt} {t : State} {r0 r1} (e : injectWords s i q = some (r0, r1, t))
    (h : Moves s₀ s) : Moves s₀ t := by
  unfold injectWords at e
  dsimp only at e
  generalize (if (readWords s i (inBank s i q.a1) 1).2.1.isEmpty = true then _ else _ : Nat) = n at e
  split at e
  · cases e
  · cases e
    refine onSet_moves _ (fun t ht => ht.same rfl rfl) (readWords_moves _ _ _ _ (.ite (fun _ => readWords_moves _ _ _ _ h) fun _ => h))

theorem injectStart_moves {s₀ : State} (s : State) (i : SetId) (k : Nat) (e : QEnt) (h₀ : Moves s₀ s) : Moves s₀ (injectStart s i k e) := by
  unfold injectStart
  with_reducible repeat' first
    | assumption | (refine injectWords_moves (by assumption) ?_) | intro _ | apply haltSlotWith_moves | apply setFld_moves
    | apply stopCircle_moves | apply haltSlot_moves | apply bufferFrame_moves | apply onCirc_moves | apply onEnt_moves | apply Moves.ite
    | split

theorem injectAll_moves {s₀ : State} (s : State) (i : SetId) (h₀ : Moves s₀ s) : Moves s₀ (injectAll s i) := by
  unfold injectAll
  with_reducible repeat' first | assumption | intro _ | apply markDone_moves | apply injectStart_moves | apply Moves.ite | apply Moves.foldl

theorem circRound_moves {s₀ : State} (s : State) (i : SetId) (h₀ : Moves s₀ s) : Moves s₀ (circRound s i) := by
  unfold circRound
  with_reducible repeat' first
    | assumption | intro _ | apply injectAll_moves | apply clearBuf_moves | apply sendAll_moves | apply present_moves | apply Moves.ite

theorem circRounds_moves {s₀ : State} (i : SetId) (n : Nat) (s : State) (h : Moves s₀ s) : Moves s₀ (circRounds i n s) := by
  induction n generalizing s with
  | zero => exact h
  | succ n ih => exact ih _ (circRound_moves _ _ h)

theorem circPump_moves {s₀ : State} (s : State) (i : SetId) (h₀ : Moves s₀ s) : Moves s₀ (circPump s i) := by
  unfold circPump
  with_reducible repeat' first | assumption | apply circRounds_moves

theorem circStart_moves {s₀ : State} (s : State) (i : SetId) (k : Nat) (e : QEnt) (h₀ : Moves s₀ s) : Moves s₀ (circStart s i k e) := by
  unfold circStart
  with_reducible repeat' first | assumption | intro _ | apply markDone_moves | apply circPump_moves | apply Moves.ite

theorem circIssue_moves {s₀ : State} (t : DType) (ev : Issue) (s : State) (h₀ : Moves s₀ s) : Moves s₀ (circIssue t ev s) := by
  unfold circIssue
  with_reducible repeat' first
    | assumption | intro _ | apply issueEvent_moves | (refine issueEvent_moves_eq (by assumption) ?_) | apply settle_moves
    | apply circPump_moves | apply circStart_moves | split

theorem execInject_moves {s₀ : State} (ev : Issue) (s : State) (h₀ : Moves s₀ s) : MovesOut s₀ (execInject ev s) := by
  unfold execInject
  with_reducible repeat' first | assumption | intro _ | apply MovesOut.next | apply circIssue_moves

theorem execTake_moves {s₀ : State} (ev : Issue) (s : State) (h₀ : Moves s₀ s) : MovesOut s₀ (execTake ev s) := by
  unfold execTake
  with_reducible repeat' first | assumption | intro _ | apply MovesOut.next | apply circIssue_moves

theorem tileArrives_moves {s₀ : State} (s : State) (i : SetId) (p : Nat) (h : FHdr) (d : List Byte) (bad : List Nat) (via : Option Nat) (h₀
    : Moves s₀ s) : Moves s₀ (tileArrives s i p h d bad via) := by
  unfold tileArrives
  with_reducible repeat' first | assumption | intro _ | apply circFault_moves | apply bufferFrame_moves | apply Moves.ite | split

theorem turnArrives_moves {s₀ : State} (s : State) (i : SetId) (p : Nat) (h : FHdr) (h₀ : Moves s₀ s) : Moves s₀ (turnArrives s i p h) := by
  unfold turnArrives
  with_reducible repeat' first | assumption | intro _ | apply circFault_moves | apply setFld_moves | apply onPort_moves | apply Moves.ite

theorem frameArrives_moves {s₀ : State} (s : State) (i : SetId) (p : Nat) (raw : List Byte) (bad : List Nat) (via : Option Nat) (h₀ : Moves
    s₀ s) : Moves s₀ (frameArrives s i p raw bad via) := by
  unfold frameArrives
  with_reducible repeat' first
    | assumption | intro _ | apply onPort_moves | apply circFault_moves | apply tileArrives_moves | apply turnArrives_moves
    | apply Moves.ite

theorem replayHeld_moves {s₀ : State} (s : State) (i : SetId) (h₀ : Moves s₀ s) : Moves s₀ (replayHeld s i) := by
  unfold replayHeld
  with_reducible repeat' first | assumption | intro _ | apply frameArrives_moves | apply onPort_moves | apply Moves.foldl

theorem execTileFrame_moves {s₀ : State} (i : SetId) (port : Fin 2) (frame : List Byte) (bad : List Nat) (s : State) (h₀ : Moves s₀ s) :
    MovesOut s₀ (execTileFrame i port frame bad s) := by
  unfold execTileFrame
  with_reducible repeat' first
    | assumption | intro _ | apply settle_moves | apply circPump_moves | apply frameArrives_moves | apply Moves.ite | apply MovesOut.next
    | apply MovesOut.ite

theorem execTurnFrame_moves {s₀ : State} (i : SetId) (port : Fin 2) (frame : List Byte) (s : State) (h₀ : Moves s₀ s) : MovesOut s₀
    (execTurnFrame i port frame s) := by
  unfold execTurnFrame
  with_reducible repeat' first
    | assumption | intro _ | apply settle_moves | apply circPump_moves | apply frameArrives_moves | apply Moves.ite | apply MovesOut.next
    | apply MovesOut.ite

theorem sendTurn_moves {s₀ : State} (s : State) (i : SetId) (p : Nat) (n : Nat) (h₀ : Moves s₀ s) : Moves s₀ (sendTurn s i p n) := by
  unfold sendTurn
  with_reducible repeat' first | assumption | apply emit_moves | apply onPort_moves

theorem execTurnSend_moves {s₀ : State} (i : SetId) (port : Fin 2) (s : State) (h₀ : Moves s₀ s) : MovesOut s₀ (execTurnSend i port s) := by
  unfold execTurnSend
  with_reducible repeat' first
    | assumption | intro _ | apply settle_moves | apply circPump_moves | apply sendTurn_moves | apply Moves.ite | apply MovesOut.next
    | apply MovesOut.ite

theorem applyChange_moves {s₀ : State} (s : State) (i : SetId) (c : Change) (h₀ : Moves s₀ s) : Moves s₀ (applyChange s i c) := by
  unfold applyChange
  with_reducible repeat' first
    | assumption | intro _ | apply setFld_moves | apply onCirc_moves | apply showStage_moves | apply Moves.ite | split

theorem adoptTmap_moves {s₀ : State} (s : State) (i : SetId) (h₀ : Moves s₀ s) : Moves s₀ (adoptTmap s i) := by
  unfold adoptTmap
  with_reducible repeat' first
    | assumption | intro _ | (refine onSet_moves _ (fun _ ht => ht.same rfl rfl) ?_) | apply onCirc_moves | apply Moves.ite | split

theorem takeTurn_moves {s₀ : State} (s : State) (i : SetId) (n : Nat) (ver : Nat) (h₀ : Moves s₀ s) : Moves s₀ (takeTurn s i n ver) := by
  unfold takeTurn
  with_reducible repeat' first
    | assumption | intro _ | apply setFld_moves | apply onPort_moves | apply applyChange_moves | apply onCirc_moves | apply adoptTmap_moves
    | apply onSu_moves | apply Moves.ite | apply Moves.foldl | split

theorem execTurnHandle_moves {s₀ : State} (i : SetId) (s : State) (h₀ : Moves s₀ s) : MovesOut s₀ (execTurnHandle i s) := by
  unfold execTurnHandle
  with_reducible repeat' first
    | assumption | intro _ | apply settle_moves | apply circFault_moves | apply circPump_moves | apply takeTurn_moves | apply Moves.ite
    | apply MovesOut.next | apply MovesOut.ite | split | dsimp only

theorem enterService_moves {s₀ : State} (s : State) (i : SetId) (m : Nat) (h₀ : Moves s₀ s) : Moves s₀ (enterService s i m) := by
  unfold enterService
  with_reducible repeat' first
    | assumption | intro _ | apply onCirc_moves | apply onPort_moves | apply sendTurn_moves | apply replayHeld_moves | apply Moves.foldl

theorem toOthers_moves {s₀ : State} (s : State) (i : SetId) (code : Nat) (args : List Nat) (h₀ : Moves s₀ s) : Moves s₀
    (toOthers s i code args) := by
  unfold toOthers
  with_reducible repeat' first | assumption | intro _ | apply emit_moves | apply Moves.foldl

theorem setResult_moves {s₀ : State} (s : State) (i : SetId) (r : Nat) (h₀ : Moves s₀ s) : Moves s₀ (setResult s i r) := by
  unfold setResult
  with_reducible repeat' first | assumption | apply setFld_moves

theorem holdChange_moves {s₀ : State} (s : State) (i : SetId) (c : Change) (h₀ : Moves s₀ s) : Moves s₀ (holdChange s i c) := by
  unfold holdChange
  with_reducible repeat' first | assumption | apply onCirc_moves | apply setFld_moves | apply setResult_moves | apply showStage_moves

theorem confirmChange_moves {s₀ : State} (s : State) (i : SetId) (h₀ : Moves s₀ s) : Moves s₀ (confirmChange s i) := by
  unfold confirmChange
  with_reducible repeat' first | assumption | intro _ | apply setFld_moves | apply onCirc_moves | apply Moves.ite | split

theorem dropChange_moves {s₀ : State} (s : State) (i : SetId) (h₀ : Moves s₀ s) : Moves s₀ (dropChange s i) := by
  unfold dropChange
  with_reducible repeat' first
    | assumption | intro _ | apply showStage_moves | apply setResult_moves | apply setFld_moves | apply onCirc_moves | apply Moves.ite
    | split

theorem tryConfirm_moves {s₀ : State} (s : State) (i : SetId) (h₀ : Moves s₀ s) : Moves s₀ (tryConfirm s i) := by
  unfold tryConfirm
  with_reducible repeat' first
    | assumption | intro _ | apply confirmChange_moves | apply onCirc_moves | apply toOthers_moves | apply Moves.ite | split

theorem tryCommit_moves {s₀ : State} (s : State) (i : SetId) (h₀ : Moves s₀ s) : Moves s₀ (tryCommit s i) := by
  unfold tryCommit
  with_reducible repeat' first
    | assumption | intro _ | apply toOthers_moves | apply holdChange_moves | apply tryConfirm_moves | apply onCirc_moves | apply Moves.ite
    | split

theorem requestChange_moves {s₀ : State} (s : State) (i : SetId) (kind : Nat) (ver : Nat) (h₀ : Moves s₀ s) : Moves s₀
    (requestChange s i kind ver) := by
  unfold requestChange
  with_reducible repeat' first
    | assumption | intro _ | apply setResult_moves | apply onCirc_moves | apply tryCommit_moves | apply toOthers_moves | apply Moves.ite

theorem writeSwitch_moves {s₀ : State} (s : State) (i : SetId) (ver : Nat) (unfold : Bool) (go : Bool) (h₀ : Moves s₀ s) : Moves s₀
    (writeSwitch s i ver unfold go) := by
  unfold writeSwitch
  with_reducible repeat' first | assumption | intro _ | apply requestChange_moves | apply emit_moves | apply Moves.ite

theorem execCircSwitch_moves {s₀ : State} (i : SetId) (ver : Nat) (unfold : Bool) (go : Bool) (s : State) (h₀ : Moves s₀ s) : MovesOut s₀
    (execCircSwitch i ver unfold go s) := by
  unfold execCircSwitch
  with_reducible repeat' first | assumption | apply settle_moves | apply writeSwitch_moves | apply MovesOut.next

theorem execChangeRequest_moves {s₀ : State} (i : SetId) (unfold : Bool) (ver : Nat) (s : State) (h₀ : Moves s₀ s) : MovesOut s₀
    (execChangeRequest i unfold ver s) := by
  unfold execChangeRequest
  with_reducible repeat' first | assumption | intro _ | apply requestChange_moves | apply Moves.ite | apply MovesOut.next

theorem execReadinessQuery_moves {s₀ : State} (i : SetId) (unfold : Bool) (ver : Nat) (s : State) (h₀ : Moves s₀ s) : MovesOut s₀
    (execReadinessQuery i unfold ver s) := by
  unfold execReadinessQuery
  with_reducible repeat' first | assumption | intro _ | apply emit_moves | apply Moves.ite | apply MovesOut.next

theorem execReadinessReply_moves {s₀ : State} (i : SetId) (place : Nat) (ready : Bool) (s : State) (h₀ : Moves s₀ s) : MovesOut s₀
    (execReadinessReply i place ready s) := by
  unfold execReadinessReply
  with_reducible repeat' first | assumption | intro _ | apply tryCommit_moves | apply onCirc_moves | apply Moves.ite | apply MovesOut.next

theorem execReadinessTimeout_moves {s₀ : State} (i : SetId) (s : State) (h₀ : Moves s₀ s) : MovesOut s₀ (execReadinessTimeout i s) := by
  unfold execReadinessTimeout
  with_reducible repeat' first | assumption | intro _ | apply setResult_moves | apply onCirc_moves | apply Moves.ite | apply MovesOut.next

theorem execCommitNotice_moves {s₀ : State} (i : SetId) (kind : Fin 3) (ver : Nat) (target : Nat) (epoch : Nat) (s : State)
    (h₀ : Moves s₀ s) : MovesOut s₀ (execCommitNotice i kind ver target epoch s) := by
  unfold execCommitNotice
  with_reducible repeat' first | assumption | intro _ | apply emit_moves | apply holdChange_moves | apply Moves.ite | apply MovesOut.next

theorem execCommitAck_moves {s₀ : State} (i : SetId) (place : Nat) (s : State) (h₀ : Moves s₀ s) : MovesOut s₀ (execCommitAck i place s)
    := by
  unfold execCommitAck
  with_reducible repeat' first
    | assumption | apply settle_moves | apply circPump_moves | apply tryConfirm_moves | apply onCirc_moves | apply MovesOut.next

theorem execCommitAckTimeout_moves {s₀ : State} (i : SetId) (s : State) (h₀ : Moves s₀ s) : MovesOut s₀ (execCommitAckTimeout i s) := by
  unfold execCommitAckTimeout
  with_reducible repeat' first
    | assumption | intro _ | apply settle_moves | apply circPump_moves | apply dropChange_moves | apply onCirc_moves | apply toOthers_moves
    | apply Moves.ite | apply MovesOut.next | apply MovesOut.ite | split

theorem execConfirm_moves {s₀ : State} (i : SetId) (s : State) (h₀ : Moves s₀ s) : MovesOut s₀ (execConfirm i s) := by
  unfold execConfirm
  with_reducible repeat' first | assumption | apply settle_moves | apply circPump_moves | apply confirmChange_moves | apply MovesOut.next

theorem execAbort_moves {s₀ : State} (i : SetId) (s : State) (h₀ : Moves s₀ s) : MovesOut s₀ (execAbort i s) := by
  unfold execAbort
  with_reducible repeat' first
    | assumption | intro _ | apply settle_moves | apply circPump_moves | apply dropChange_moves | apply Moves.ite | apply MovesOut.next
    | apply MovesOut.ite | split

theorem foldChange_moves {s₀ : State} (s : State) (i : SetId) (h₀ : Moves s₀ s) : Moves s₀ (foldChange s i) := by
  unfold foldChange
  with_reducible repeat' first
    | assumption | intro _ | apply setResult_moves | apply onCirc_moves | apply dropChange_moves | apply Moves.ite | split | dsimp only

theorem dropPasses_moves {s₀ : State} (s : State) (i : SetId) (h₀ : Moves s₀ s) : Moves s₀ (dropPasses s i) := by
  unfold dropPasses
  with_reducible repeat' first | assumption | intro _ | apply onSu_moves | apply onSess_moves | apply unreserve_moves | apply Moves.foldl

theorem leaveService_moves {s₀ : State} (s : State) (i : SetId) (h₀ : Moves s₀ s) : Moves s₀ (leaveService s i) := by
  unfold leaveService
  with_reducible repeat' first
    | assumption | intro _ | apply discardStep_moves | apply foldChange_moves | apply onCirc_moves | apply onSu_moves
    | apply dropPasses_moves | apply setFld_moves | apply Moves.ite

theorem passNotice_moves {s₀ : State} (s : State) (i : SetId) (from_ : Option Nat) (epoch : Nat) (l : FoldLoss) (h₀ : Moves s₀ s) : Moves s₀
    (passNotice s i from_ epoch l) := by
  unfold passNotice
  with_reducible repeat' first | assumption | intro _ | apply emit_moves | apply Moves.ite | apply Moves.foldl

theorem ackFold_moves {s₀ : State} (s : State) (i : SetId) (epoch : Nat) (l : FoldLoss) (h₀ : Moves s₀ s) : Moves s₀ (ackFold s i epoch l)
    := by
  unfold ackFold
  with_reducible repeat' first | assumption | intro _ | apply onCirc_moves | apply emit_moves | apply Moves.ite

theorem dropSlotWaits_moves {s₀ : State} (s : State) (i : SetId) (j : Nat) (h₀ : Moves s₀ s) : Moves s₀ (dropSlotWaits s i j) := by
  unfold dropSlotWaits
  with_reducible repeat' first | assumption | intro _ | apply setWaiters_moves | apply Moves.ite | apply Moves.foldl

theorem restartJob_moves {s₀ : State} (s : State) (i : SetId) (h₀ : Moves s₀ s) : Moves s₀ (restartJob s i) := by
  unfold restartJob
  with_reducible repeat' first
    | assumption | intro _ | apply discardJob_moves | apply serve_moves | apply initCtrs_moves | apply openChans_moves
    | apply restartSeq_moves | apply resetHeaders_moves | apply dropHolds_moves | apply startSlots_moves | apply dropSlotWaits_moves
    | (refine onSet_moves _ (fun _ ht => ht.same rfl rfl) ?_) | apply Moves.ite | apply Moves.foldl

theorem takeFold_moves {s₀ : State} (s : State) (i : SetId) (epoch : Nat) (line : List Nat) (l : FoldLoss) (h₀ : Moves s₀ s) : Moves s₀
    (takeFold s i epoch line l) := by
  unfold takeFold
  with_reducible repeat' first | assumption | intro _ | apply onCirc_moves | apply setFld_moves

theorem refold_moves {s₀ : State} (s : State) (i : SetId) (epoch : Nat) (m : Nat) (line : List Nat) (l : FoldLoss) (h₀ : Moves s₀ s) : Moves
    s₀ (refold s i epoch m line l) := by
  unfold refold
  with_reducible repeat' first
    | assumption | intro _ | apply takeFold_moves | apply stopCircle_moves | apply restartJob_moves | apply endSessions_moves
    | apply enterService_moves | apply Moves.ite

theorem sendRefold_moves {s₀ : State} (s : State) (i : SetId) (epoch : Nat) (m : Nat) (line : List Nat) (stand : List StandIn) (h₀ : Moves
    s₀ s) : Moves s₀ (sendRefold s i epoch m line stand) := by
  unfold sendRefold
  with_reducible repeat' first | assumption | intro _ | apply emit_moves | apply Moves.ite | apply Moves.foldl

theorem tryRefold_moves {s₀ : State} (s : State) (i : SetId) (h₀ : Moves s₀ s) : Moves s₀ (tryRefold s i) := by
  unfold tryRefold
  with_reducible repeat' first
    | assumption | intro _ | apply report_moves | apply onCirc_moves | apply stopCircle_moves | apply refold_moves | apply sendRefold_moves
    | apply Moves.ite | apply Moves.foldl | split

theorem breakLost_moves {s₀ : State} (s : State) (i : SetId) (q : Nat) (h₀ : Moves s₀ s) : Moves s₀ (breakLost s i q) := by
  unfold breakLost
  with_reducible repeat' first | assumption | intro _ | apply breakNode_moves | apply Moves.ite | apply Moves.foldl

theorem notedGone_moves {s₀ : State} (s : State) (i : SetId) (q : Nat) (h₀ : Moves s₀ s) : Moves s₀ (notedGone s i q) := by
  unfold notedGone
  with_reducible repeat' first | assumption | intro _ | apply breakLost_moves | apply onCirc_moves | apply report_moves | apply Moves.ite

theorem foldNotice_moves {s₀ : State} (s : State) (i : SetId) (from_ : Option Nat) (epoch : Nat) (l : FoldLoss) (h₀ : Moves s₀ s) : Moves s₀
    (foldNotice s i from_ epoch l) := by
  unfold foldNotice
  with_reducible repeat' first
    | assumption | intro _ | apply notedGone_moves | apply stopCircle_moves | apply leaveService_moves | apply onCirc_moves
    | apply passNotice_moves | apply tryRefold_moves | apply ackFold_moves | apply Moves.ite | apply Moves.foldl

theorem beginFold_moves {s₀ : State} (s : State) (i : SetId) (l : FoldLoss) (h₀ : Moves s₀ s) : Moves s₀ (beginFold s i l) := by
  unfold beginFold
  with_reducible repeat' first | assumption | intro _ | apply foldNotice_moves | apply Moves.ite | split

theorem execFoldNotice_moves {s₀ : State} (i : SetId) (port : Fin 2) (epoch : Nat) (loss : FoldLoss) (s : State) (h₀ : Moves s₀ s) :
    MovesOut s₀ (execFoldNotice i port epoch loss s) := by
  unfold execFoldNotice
  with_reducible repeat' first | assumption | apply settle_moves | apply foldNotice_moves | apply MovesOut.next

theorem execFoldAck_moves {s₀ : State} (i : SetId) (place : Nat) (rev : Nat) (epoch : Nat) (s : State) (h₀ : Moves s₀ s) : MovesOut s₀
    (execFoldAck i place rev epoch s) := by
  unfold execFoldAck
  with_reducible repeat' first
    | assumption | intro _ | apply settle_moves | apply tryRefold_moves | apply onCirc_moves | apply Moves.ite | apply MovesOut.next
    | apply MovesOut.ite | split

theorem execRefold_moves {s₀ : State} (i : SetId) (epoch : Nat) (m : Nat) (line : List Nat) (loss : FoldLoss) (s : State) (h₀ : Moves s₀ s)
    : MovesOut s₀ (execRefold i epoch m line loss s) := by
  unfold execRefold
  with_reducible repeat' first
    | assumption | intro _ | apply settle_moves | apply circPump_moves | apply refold_moves | apply Moves.ite | apply MovesOut.next
    | apply MovesOut.ite | split

theorem onPiece_moves {s₀ : State} (s : State) (i : SetId) (e : CatEnt) (f : PieceSt → PieceSt) (h₀ : Moves s₀ s) : Moves s₀
    (onPiece s i e f) := by
  unfold onPiece
  with_reducible repeat' first | assumption | apply onCirc_moves

theorem showLoad_moves {s₀ : State} (s : State) (i : SetId) (l : List CatEnt) (h₀ : Moves s₀ s) : Moves s₀ (showLoad s i l) := by
  unfold showLoad
  with_reducible repeat' first | assumption | apply setFld_moves

theorem announceNext_moves {s₀ : State} (s : State) (i : SetId) (h₀ : Moves s₀ s) : Moves s₀ (announceNext s i) := by
  unfold announceNext
  with_reducible repeat' first | assumption | intro _ | apply emit_moves | apply onCirc_moves | apply Moves.ite | split

theorem beginLoad_moves {s₀ : State} (s : State) (i : SetId) (l : List CatEnt) (h₀ : Moves s₀ s) : Moves s₀ (beginLoad s i l) := by
  unfold beginLoad
  with_reducible repeat' first
    | assumption | intro _ | apply setFld_moves | apply onCirc_moves | apply onPiece_moves | apply showLoad_moves | apply announceNext_moves
    | apply Moves.ite | apply Moves.foldl

theorem pieceMissing_moves {s₀ : State} (s : State) (i : SetId) (e : CatEnt) (h₀ : Moves s₀ s) : Moves s₀ (pieceMissing s i e) := by
  unfold pieceMissing
  with_reducible repeat' first | assumption | intro _ | apply onPiece_moves | apply setFld_moves | apply report_moves | apply Moves.ite

theorem pieceArrived_moves {s₀ : State} (s : State) (i : SetId) (e : CatEnt) (bank : Nat) (h₀ : Moves s₀ s) : Moves s₀
    (pieceArrived s i e bank) := by
  unfold pieceArrived
  with_reducible repeat' first
    | assumption | intro _ | apply onCirc_moves | apply showLoad_moves | apply onPiece_moves | apply report_moves | apply satFld_moves
    | apply emit_moves | apply pieceMissing_moves | apply Moves.ite

theorem loadWrite_moves {s₀ : State} (s : State) (i : SetId) (h : FHdr) (d : List Byte) (bad : List Nat) (h₀ : Moves s₀ s) : Moves s₀
    (loadWrite s i h d bad) := by
  unfold loadWrite
  with_reducible repeat' first
    | assumption | intro _ | apply poisonWord_moves | apply store_moves | apply onPiece_moves | apply pieceArrived_moves | apply Moves.ite
    | apply Moves.foldl | split

theorem loadFrame_moves {s₀ : State} (s : State) (i : SetId) (reader : Nat) (raw : List Byte) (bad : List Nat) (h₀ : Moves s₀ s) : Moves s₀
    (loadFrame s i reader raw bad) := by
  unfold loadFrame
  with_reducible repeat' first
    | assumption | intro _ | apply emit_moves | apply loadWrite_moves | apply Moves.ite | apply Moves.foldl | split

theorem loadArrives_moves {s₀ : State} (s : State) (i : SetId) (reader : Nat) (frame : List Byte) (bad : List Nat) (h₀ : Moves s₀ s) : Moves
    s₀ (loadArrives s i reader frame bad) := by
  unfold loadArrives
  with_reducible repeat' first | assumption | intro _ | apply circFault_moves | apply loadFrame_moves | apply Moves.ite

theorem execLoadFrame_moves {s₀ : State} (i : SetId) (circle : Nat) (frame : List Byte) (bad : List Nat) (s : State) (h₀ : Moves s₀ s) :
    MovesOut s₀ (execLoadFrame i circle frame bad s) := by
  unfold execLoadFrame
  with_reducible repeat' first | assumption | apply settle_moves | apply loadArrives_moves | apply MovesOut.next

theorem execLoadAnnounce_moves {s₀ : State} (i : SetId) (sh : ShardRef) (s : State) (h₀ : Moves s₀ s) : MovesOut s₀
    (execLoadAnnounce i sh s) := by
  unfold execLoadAnnounce
  with_reducible repeat' first | assumption | intro _ | apply MovesOut.next | apply onCirc_moves

theorem execLoadTimerExpire_moves {s₀ : State} (i : SetId) (sh : ShardRef) (s : State) (h₀ : Moves s₀ s) : MovesOut s₀
    (execLoadTimerExpire i sh s) := by
  unfold execLoadTimerExpire
  with_reducible repeat' first | assumption | intro _ | apply MovesOut.next | apply pieceMissing_moves | apply Moves.foldl

theorem fetchAgain_moves {s₀ : State} (s : State) (i : SetId) (piece : Nat) (ver : Nat) (h₀ : Moves s₀ s) : Moves s₀ (fetchAgain s i piece
    ver) := by
  unfold fetchAgain
  with_reducible repeat' first | assumption | intro _ | apply onCirc_moves

theorem sendRepair_moves {s₀ : State} (s : State) (i : SetId) (e : CatEnt) (bank : Nat) (dest : Nat) (h₀ : Moves s₀ s) : Moves s₀
    (sendRepair s i e bank dest) := by
  unfold sendRepair
  with_reducible repeat' first | assumption | intro _ | apply emit_moves | apply readWords_moves

theorem execPieceRerequest_moves {s₀ : State} (i : SetId) (p : PieceRef) (repair : Option RepairAsk) (s : State) (h₀ : Moves s₀
    s) : MovesOut s₀ (execPieceRerequest i p repair s) := by
  unfold execPieceRerequest
  with_reducible repeat' first
    | assumption | intro _ | apply MovesOut.next | apply onCirc_moves | apply fetchAgain_moves | apply sendRepair_moves | apply Moves.ite
    | apply MovesOut.ite | split

theorem nextFetch_moves {s₀ : State} (s : State) (i : SetId) (q : List (Nat × Nat)) (h₀ : Moves s₀ s) : Moves s₀ (nextFetch s i q) := by
  unfold nextFetch
  with_reducible repeat' first | assumption | intro _ | apply onCirc_moves | apply announceNext_moves

theorem fetchFailed_moves {s₀ : State} (s : State) (i : SetId) (h₀ : Moves s₀ s) : Moves s₀ (fetchFailed s i) := by
  unfold fetchFailed
  with_reducible repeat' first
    | assumption | intro _ | apply satFld_moves | apply countDma_moves | apply onCirc_moves | apply onPiece_moves | apply pieceMissing_moves
    | apply nextFetch_moves | apply Moves.ite | split | dsimp only

theorem execPieceFetchDone_moves {s₀ : State} (i : SetId) (data : Option (List Byte)) (s : State) (h₀ : Moves s₀ s) : MovesOut s₀
    (execPieceFetchDone i data s) := by
  unfold execPieceFetchDone
  with_reducible repeat' first
    | assumption | intro _ | apply MovesOut.next | apply emit_moves | apply place_moves | (refine place_moves_eq (by assumption) ?_)
    | apply onCirc_moves | apply loadFrame_moves | apply nextFetch_moves | apply fetchFailed_moves | apply Moves.foldl | split

theorem startWeed_moves {s₀ : State} (s : State) (i : SetId) (h₀ : Moves s₀ s) : Moves s₀ (startWeed s i) := by
  unfold startWeed
  with_reducible repeat' first | assumption | intro _ | apply addFld_moves | apply onCirc_moves | apply Moves.ite

theorem execWeedPassStart_moves {s₀ : State} (i : SetId) (s : State) (h₀ : Moves s₀ s) : MovesOut s₀ (execWeedPassStart i s) := by
  unfold execWeedPassStart
  with_reducible repeat' first
    | assumption | intro _ | apply onCirc_moves | apply setFld_moves | apply startWeed_moves | apply Moves.ite | apply MovesOut.next

theorem scrub_moves {s₀ : State} (s : State) (i : SetId) (a : Nat) (n : Nat) (h₀ : Moves s₀ s) : Moves s₀ (scrub s i a n) := by
  unfold scrub
  with_reducible repeat' first | assumption | intro _ | apply readWord_moves | apply store_moves | apply Moves.ite | apply Moves.foldl

theorem weedPiece_moves {s₀ : State} (s : State) (i : SetId) (key : Nat) (bank : Nat) (e : CatEnt) (h₀ : Moves s₀ s) : Moves s₀
    (weedPiece s i key bank e) := by
  unfold weedPiece
  with_reducible repeat' first
    | assumption | intro _ | apply scrub_moves | apply onCirc_moves | apply report_moves | apply setFld_moves | apply askRepair_moves
    | apply Moves.ite

theorem execWeedPieceDone_moves {s₀ : State} (i : SetId) (s : State) (h₀ : Moves s₀ s) : MovesOut s₀ (execWeedPieceDone i s) := by
  unfold execWeedPieceDone
  with_reducible repeat' first
    | assumption | intro _ | apply weedPiece_moves | apply onCirc_moves | apply addFld_moves | apply startWeed_moves | apply Moves.ite
    | apply MovesOut.next | apply MovesOut.ite | split

theorem execRepairTransfer_moves {s₀ : State} (i : SetId) (piece : Nat) (ver : Nat) (data : List Byte) (s : State) (h₀ : Moves s₀ s) :
    MovesOut s₀ (execRepairTransfer i piece ver data s) := by
  unfold execRepairTransfer
  with_reducible repeat' first
    | assumption | intro _ | apply store_moves | apply onCirc_moves | apply emit_moves | apply Moves.ite | apply MovesOut.next
    | apply MovesOut.ite | split

theorem execTierPieceStaged_moves {s₀ : State} (i : SetId) (r : StagedRef) (data : List Byte) (poisoned : List
    Nat) (lateMs : Nat) (s : State) (h₀ : Moves s₀ s) : MovesOut s₀ (execTierPieceStaged i r data poisoned lateMs s) := by
  unfold execTierPieceStaged
  with_reducible repeat' first
    | assumption | intro _ | apply MovesOut.next | apply setFld_moves | apply satFld_moves | apply report_moves | apply poisonWord_moves
    | apply store_moves | apply unitSignal_moves | apply settle_moves | apply onCirc_moves | apply onPiece_moves | apply pieceMissing_moves
    | apply Moves.ite | apply MovesOut.ite | apply Moves.foldl | apply Moves.foldl_fst | apply Moves.foldl_snd | split

theorem settlePiece_moves {s₀ : State} (s : State) (i : SetId) (e : CatEnt) (h₀ : Moves s₀ s) : Moves s₀ (settlePiece s i e) := by
  unfold settlePiece
  with_reducible repeat' first | assumption | intro _ | apply moveWords_moves | apply readWords_moves | apply onCirc_moves | apply Moves.ite

theorem execResidentSettle_moves {s₀ : State} (i : SetId) (piece : Nat) (s : State) (h₀ : Moves s₀ s) : MovesOut s₀
    (execResidentSettle i piece s) := by
  unfold execResidentSettle
  with_reducible repeat' first
    | assumption | intro _ | apply settlePiece_moves | apply addFld_moves | apply Moves.ite | apply MovesOut.next | apply MovesOut.ite
    | split

theorem execPromenadeSwitch_moves {s₀ : State} (i : SetId) (s : State) (h₀ : Moves s₀ s) : MovesOut s₀ (execPromenadeSwitch i s) := by
  unfold execPromenadeSwitch
  with_reducible repeat' first
    | assumption | intro _ | apply setFld_moves | apply applyChange_moves | apply onCirc_moves | apply settlePiece_moves
    | apply addFld_moves | apply Moves.ite | apply MovesOut.next | apply MovesOut.ite | apply Moves.foldl | split

theorem openPass_moves {s₀ : State} (s : State) (i : SetId) (slots : List Nat) (discard : Bool) (h₀ : Moves s₀ s) : Moves s₀
    (openPass s i slots discard) := by
  unfold openPass openPass.clearHarvest
  refine onSu_moves _ _ _ (onSet_moves _ (fun _ ht => ht.same rfl rfl) ?_)
  exact .ite (fun _ => voidStep_moves _ _ h₀) fun _ => onSu_moves _ _ _ h₀

theorem commitDir_moves {s₀ : State} (s : State) (i : SetId) (n : Nat) (a : Nat) (pos : Nat) (h₀ : Moves s₀ s) : Moves s₀ (commitDir s i n a
    pos) := by
  unfold commitDir
  with_reducible repeat' first | assumption | intro _ | apply dirSet_moves | apply Moves.ite | apply Moves.foldl

theorem passRows_moves {s₀ : State} (s : State) (i : SetId) (n : Nat) (h₀ : Moves s₀ s) : Moves s₀ (passRows s i n).1 := by
  unfold passRows
  split
  · exact bindDecode_moves _ _ _ h₀
  · exact bindPrefill_moves _ _ _ _ h₀

theorem passRows_moves_eq {s₀ t₀ : State} {s : State} {i : SetId} {n : Nat} {r0} (he₀ : passRows s i n = (t₀, r0)) (h₀ : Moves s₀ s) :
    Moves s₀ t₀ := by
  have := passRows_moves s i n h₀; rw [he₀] at this; exact this

theorem pickPass_moves {s₀ : State} (i : SetId) (k : Nat) (room : Nat) (l : List Nat) (s : State) (h₀ : Moves s₀ s) : Moves s₀
    (pickPass i k room l s).1 := by
  induction l generalizing k room s with
  | nil => exact h₀
  | cons n q ih =>
    unfold pickPass
    split
    · exact h₀
    · split
      · exact ih _ _ _ (passRows_moves_eq (by assumption) h₀)
      · exact ih _ _ _ (passRows_moves_eq (by assumption) h₀)

theorem pickPass_moves_eq {s₀ t₀ : State} {i : SetId} {k : Nat} {room : Nat} {l : List Nat} {s : State} {r0}
    (he₀ : pickPass i k room l s = (t₀, r0)) (h₀ : Moves s₀ s) : Moves s₀ t₀ := by
  have := pickPass_moves i k room l s h₀; rw [he₀] at this; exact this

theorem startPass_moves {s₀ : State} (s : State) (i : SetId) (rows : List RowEnt) (h₀ : Moves s₀ s) : Moves s₀ (startPass s i rows) := by
  unfold startPass
  with_reducible repeat' first
    | assumption | intro _ | apply emit_moves | apply onSu_moves | apply onSess_moves | apply writeShadow_moves | apply badTokens_moves
    | (refine badTokens_moves_eq (by assumption) ?_) | apply openPass_moves | apply commitDir_moves | apply Moves.foldl

theorem execPassStart_moves {s₀ : State} (plan : PassPlan) (s : State) (h₀ : Moves s₀ s) : MovesOut s₀ (execPassStart plan s) := by
  unfold execPassStart
  with_reducible repeat' first
    | assumption | intro _ | apply MovesOut.next | apply settle_moves | apply showPages_moves | apply clearHeld_moves
    | apply boundaryEnd_moves | apply pickPass_moves | (refine pickPass_moves_eq (by assumption) ?_) | apply startPass_moves
    | apply Moves.ite | apply MovesOut.ite | split

theorem passTokens_moves {s₀ : State} (s : State) (i : SetId) (n : Nat) (r : PassPart) (h₀ : Moves s₀ s) : Moves s₀ (passTokens s i n r) :=
    by
  unfold passTokens
  with_reducible repeat' first | assumption | intro _ | apply addRec_moves | apply tookTokens_moves | apply Moves.foldl

theorem readyAgain_moves {s₀ : State} (s : State) (i : SetId) (n : Nat) (h₀ : Moves s₀ s) : Moves s₀ (readyAgain s i n) := by
  unfold readyAgain
  with_reducible repeat' first | assumption | intro _ | apply onSu_moves | apply onSess_moves

theorem returnPass_moves {s₀ : State} (s : State) (i : SetId) (rows : List RowEnt) (discard : Bool) (r : PassPart) (h₀ : Moves s₀ s) : Moves
    s₀ (returnPass s i rows discard r) := by
  unfold returnPass
  with_reducible repeat' first
    | assumption | intro _ | apply onSess_moves | apply addRec_moves | apply unreserve_moves | apply finishSess_moves
    | apply passTokens_moves | apply readyAgain_moves | apply Moves.ite | split

theorem execPassReturn_moves {s₀ : State} (i : SetId) (ret : PassRet) (s : State) (h₀ : Moves s₀ s) : MovesOut s₀ (execPassReturn i ret s)
    := by
  unfold execPassReturn
  with_reducible repeat' first
    | assumption | intro _ | apply MovesOut.next | apply onSu_moves | apply showOpens_moves | apply settle_moves | apply boundaryEnd_moves
    | apply returnPass_moves | apply Moves.foldl | apply Moves.foldl_fst | apply Moves.foldl_snd | split

theorem placeHere_moves {s₀ : State} (s : State) (i : SetId) (n : Nat) (f : OpenFacts) (h₀ : Moves s₀ s) : Moves s₀ (placeHere s i n f) :=
    by
  unfold placeHere
  with_reducible repeat' first
    | assumption | intro _ | apply onSess_moves | apply closeDir_moves | apply placeSess_moves | split | dsimp only

theorem boundHere_moves {s₀ : State} (s : State) (i : SetId) (rows : List RowEnt) (b : PassSess) (h₀ : Moves s₀ s) : Moves s₀ (boundHere s i
    rows b) := by
  unfold boundHere
  with_reducible repeat' first | assumption | intro _ | apply onSess_moves | apply commitDir_moves | apply placeHere_moves | apply Moves.ite

theorem execPassHeader_moves {s₀ : State} (i : SetId) (bound : List PassSess) (discard : Bool) (s : State) (h₀ : Moves s₀ s) : MovesOut s₀
    (execPassHeader i bound discard s) := by
  unfold execPassHeader
  with_reducible repeat' first
    | assumption | intro _ | apply MovesOut.next | apply onSu_moves | apply writeShadow_moves | apply turnSignal_moves | apply settle_moves
    | apply openPass_moves | apply boundHere_moves | apply Moves.ite | apply MovesOut.ite | apply Moves.foldl | split

theorem fencePieces_moves {s₀ : State} (s : State) (i : SetId) (ps : List CatEnt) (h₀ : Moves s₀ s) : Moves s₀ (fencePieces s i ps) := by
  unfold fencePieces
  with_reducible repeat' first | assumption | intro _ | apply stopCircle_moves | apply beginFold_moves | apply Moves.ite

theorem dropShares_moves {s₀ : State} (s : State) (i : SetId) (st : Nat) (h₀ : Moves s₀ s) : Moves s₀ (dropShares s i st) := by
  unfold dropShares
  with_reducible repeat' first | assumption | intro _ | apply onEnt_moves | apply onSu_moves | apply Moves.ite | apply Moves.foldl

theorem fenceStack_moves {s₀ : State} (s : State) (i : SetId) (st : Nat) (cause : Nat) (h₀ : Moves s₀ s) : Moves s₀ (fenceStack s i st
    cause) := by
  unfold fenceStack
  with_reducible repeat' first
    | assumption | intro _ | apply setFld_moves | apply report_moves | apply mseErr_moves | apply fenceSet_moves | apply fencePieces_moves
    | apply dropShares_moves | (refine onSet_moves _ (fun _ ht => ht.same rfl rfl) ?_) | apply Moves.ite | apply Moves.foldl

theorem execStackFenceWrite_moves {s₀ : State} (i : SetId) (stack : StackId) (s : State) (h₀ : Moves s₀ s) : MovesOut s₀
    (execStackFenceWrite i stack s) := by
  unfold execStackFenceWrite
  with_reducible repeat' first | assumption | apply settle_moves | apply fenceStack_moves | apply MovesOut.next

theorem enterLevel_moves {s₀ : State} (s : State) (i : SetId) (st : Nat) (old : Nat) (new : Nat) (h₀ : Moves s₀ s) : Moves s₀
    (enterLevel s i st old new) := by
  unfold enterLevel
  with_reducible repeat' first | assumption | intro _ | apply setFld_moves | apply Moves.ite

theorem execStackTempRead_moves {s₀ : State} (i : SetId) (stack : StackId) (temps : List Nat) (s : State) (h₀ : Moves s₀ s) : MovesOut s₀
    (execStackTempRead i stack temps s) := by
  unfold execStackTempRead
  with_reducible repeat' first
    | assumption | intro _ | apply setFld_moves | apply enterLevel_moves | apply settle_moves | apply fenceStack_moves | apply report_moves
    | apply Moves.ite | apply MovesOut.next | apply MovesOut.ite

theorem execStackTempExit_moves {s₀ : State} (i : SetId) (stack : StackId) (s : State) (h₀ : Moves s₀ s) : MovesOut s₀
    (execStackTempExit i stack s) := by
  unfold execStackTempExit
  with_reducible repeat' first | assumption | intro _ | apply setFld_moves | apply Moves.ite | apply MovesOut.next | apply MovesOut.ite

theorem execRefresh_moves {s₀ : State} (_i : SetId) (_stack : StackId) (s : State) (h₀ : Moves s₀ s) : MovesOut s₀ (execRefresh _i _stack s)
    := by
  unfold execRefresh
  with_reducible repeat' first | assumption | apply MovesOut.next

theorem setPatrol_moves {s₀ : State} (s : State) (i : SetId) (st : Nat) (p : Patrol) (h₀ : Moves s₀ s) : Moves s₀ (setPatrol s i st p) := by
  unfold setPatrol
  with_reducible repeat' first | assumption | (refine onSet_moves _ (fun _ ht => ht.same rfl rfl) ?_)

theorem execPatrolPassStart_moves {s₀ : State} (i : SetId) (stack : StackId) (s : State) (h₀ : Moves s₀ s) : MovesOut s₀
    (execPatrolPassStart i stack s) := by
  unfold execPatrolPassStart
  with_reducible repeat' first
    | assumption | intro _ | apply setPatrol_moves | apply setFld_moves | apply Moves.ite | apply MovesOut.next | apply MovesOut.ite

theorem patrolBad_moves {s₀ : State} (s : State) (i : SetId) (st : Nat) (a : Nat) (h₀ : Moves s₀ s) : Moves s₀ (patrolBad s i st a) := by
  unfold patrolBad
  with_reducible repeat' first
    | assumption | intro _ | apply report_moves | apply zeroFill_moves | apply restoreRegion_moves | apply markErr_moves
    | apply leaveJob_moves | apply discardStep_moves | apply skipSess_moves | apply dropSess_moves
    | (refine onSet_moves _ (fun _ ht => ht.same rfl rfl) ?_) | apply Moves.ite | apply Moves.foldl | split

theorem patrolLine_moves {s₀ : State} (s : State) (i : SetId) (st : Nat) (a : Nat) (h₀ : Moves s₀ s) : Moves s₀ (patrolLine s i st a) := by
  unfold patrolLine
  with_reducible repeat' first
    | assumption | intro _ | apply readWord_moves | apply patrolBad_moves | apply store_moves | apply Moves.ite | apply Moves.foldl

theorem execPatrolRead_moves {s₀ : State} (i : SetId) (stack : StackId) (s : State) (h₀ : Moves s₀ s) : MovesOut s₀
    (execPatrolRead i stack s) := by
  unfold execPatrolRead
  with_reducible repeat' first
    | assumption | intro _ | apply patrolLine_moves | apply settle_moves | apply setPatrol_moves | apply addFld_moves | apply Moves.ite
    | apply MovesOut.next | apply MovesOut.ite | split | dsimp only

theorem startLoopback_moves {s₀ : State} (s : State) (i : SetId) (st : Nat) (h₀ : Moves s₀ s) : Moves s₀ (startLoopback s i st) := by
  unfold startLoopback
  with_reducible repeat' first | assumption | intro _ | apply setFld_moves | apply Moves.ite

theorem execLoopbackGo_moves {s₀ : State} (i : SetId) (stack : StackId) (mode : Fin 4) (chan : Fin 32) (durMs : Nat) (s : State)
    (h₀ : Moves s₀ s) : MovesOut s₀ (execLoopbackGo i stack mode chan durMs s) := by
  unfold execLoopbackGo
  with_reducible repeat' first | assumption | apply setFld_moves | apply startLoopback_moves | apply MovesOut.next

theorem execLoopbackEnd_moves {s₀ : State} (i : SetId) (stack : StackId) (errors : Nat) (lane : Nat) (s : State) (h₀ : Moves s₀ s) :
    MovesOut s₀ (execLoopbackEnd i stack errors lane s) := by
  unfold execLoopbackEnd
  with_reducible repeat' first | assumption | intro _ | apply setFld_moves | apply Moves.ite | apply MovesOut.next | apply MovesOut.ite

theorem requestStart_moves {s₀ : State} (s : State) (i : SetId) (k : Nat) (e : QEnt) (h₀ : Moves s₀ s) : Moves s₀ (requestStart s i k e) :=
    by
  unfold requestStart
  with_reducible repeat' first | assumption | intro _ | apply sendStart_moves | apply attnStart_moves | apply harvestStart_moves | split

theorem requestPump_moves {s₀ : State} (i : SetId) (k : Nat) (l : List QEnt) (s : State) (h₀ : Moves s₀ s) : Moves s₀
    (requestPump i k l s) := by
  induction l generalizing s with
  | nil => exact h₀
  | cons x q ih =>
    unfold requestPump
    split
    · exact ih _ h₀
    · exact .ite (fun _ => ih _ h₀) fun _ => .ite (fun _ => h₀) fun _ => ih _ (requestStart_moves _ _ _ _ h₀)

theorem requestGo_moves {s₀ : State} (s : State) (i : SetId) (k : Nat) (h₀ : Moves s₀ s) : Moves s₀ (requestGo s i k) := by
  unfold requestGo
  with_reducible repeat' first | assumption | intro _ | apply requestPump_moves

theorem requestIssue_moves {s₀ : State} (t : DType) (ev : Issue) (s : State) (h₀ : Moves s₀ s) : MovesOut s₀ (requestIssue t ev s) := by
  unfold requestIssue
  with_reducible repeat' first
    | assumption | intro _ | apply MovesOut.next | apply issueEvent_moves | (refine issueEvent_moves_eq (by assumption) ?_)
    | apply settle_moves | apply requestGo_moves

theorem execSend_moves {s₀ : State} (ev : Issue) (s : State) (h₀ : Moves s₀ s) : MovesOut s₀ (execSend ev s) := by
  unfold execSend
  with_reducible repeat' first | assumption | intro _ | apply MovesOut.next | apply requestIssue_moves

theorem execAttn_moves {s₀ : State} (ev : Issue) (s : State) (h₀ : Moves s₀ s) : MovesOut s₀ (execAttn ev s) := by
  unfold execAttn
  with_reducible repeat' first | assumption | intro _ | apply MovesOut.next | apply requestIssue_moves

theorem execHarvest_moves {s₀ : State} (ev : Issue) (residue : Option (Fin 2)) (s : State) (h₀ : Moves s₀ s) : MovesOut s₀ (execHarvest ev
    residue s) := by
  unfold execHarvest
  with_reducible repeat' first
    | assumption | intro _ | apply MovesOut.next | apply issueEvent_moves | (refine issueEvent_moves_eq (by assumption) ?_)
    | apply settle_moves | apply onEnt_moves | apply requestGo_moves | split

theorem execChanAck_moves {s₀ : State} (i : SetId) (core : CoreId) (chan : Fin 64) (s : State) (h₀ : Moves s₀ s) : MovesOut s₀ (execChanAck
    i core chan s) := by
  unfold execChanAck
  with_reducible repeat' first
    | assumption | intro _ | apply MovesOut.next | apply settle_moves | apply markDone_moves | apply requestGo_moves | split

theorem execChanNack_moves {s₀ : State} (i : SetId) (core : CoreId) (chan : Fin 64) (reason : Nat) (s : State) (h₀ : Moves s₀ s) : MovesOut
    s₀ (execChanNack i core chan reason s) := by
  unfold execChanNack
  with_reducible repeat' first
    | assumption | intro _ | apply MovesOut.next | apply setFld_moves | apply settle_moves | apply onEnt_moves | apply sendFail_moves
    | apply requestGo_moves | apply Moves.ite | apply MovesOut.ite | split | dsimp only

theorem startEntry_moves {s₀ : State} (s : State) (i : SetId) (k : Nat) (t : DType) (e : QEnt) (h₀ : Moves s₀ s) : Moves s₀ (startEntry s i
    k t e) := by
  unfold startEntry
  with_reducible repeat' first
    | assumption | intro _ | apply memGo_moves | apply vecStart_moves | apply arrayIssued_moves | apply consume_moves
    | apply circStart_moves | apply requestGo_moves | split

theorem afterComplete_moves {s₀ : State} (s : State) (i : SetId) (k : Nat) (h₀ : Moves s₀ s) : Moves s₀ (afterComplete s i k) := by
  unfold afterComplete
  with_reducible repeat' first | assumption | intro _ | apply memGo_moves | apply heldWindows_moves | apply requestGo_moves

theorem execDescriptorComplete_moves {s₀ : State} (i : SetId) (core : CoreId) (unit : Fin 5) (pos : Nat) (s : State) (h₀ : Moves s₀ s) :
    MovesOut s₀ (execDescriptorComplete i core unit pos s) := by
  unfold execDescriptorComplete
  with_reducible repeat' first
    | assumption | intro _ | apply MovesOut.next | apply settle_moves | apply complete_moves | apply afterComplete_moves | split
    | dsimp only

end Sys2Proof.Machine
end

