-- ==== Sys2Proof/Laws/MovesLinks.lean ====
section
/-! SUPPORT. `Moves` for each operation and each command: what ports, flits and the power die do. -/

namespace Sys2Proof.Machine

theorem almLink_moves {s₀ : State} (s : State) (i : SetId) (p : Nat) (off : Nat) (n : Nat) (h₀ : Moves s₀ s) : Moves s₀
    (almLink s i p off n) := by
  unfold almLink
  with_reducible repeat' first | assumption | apply addAlm_moves

theorem onLink_moves {s₀ : State} (s : State) (i : SetId) (p : Nat) (f : LinkPort → LinkPort) (h₀ : Moves s₀ s) : Moves s₀ (onLink s i p f)
    := by
  unfold onLink
  with_reducible repeat' first | assumption | (refine onSet_moves _ (fun _ ht => ht.same rfl rfl) ?_)

theorem reportTable_moves {s₀ : State} (old : State) (s : State) (i : SetId) (h₀ : Moves s₀ s) : Moves s₀ (reportTable old s i) := by
  unfold reportTable
  with_reducible repeat' first | assumption | intro _ | apply emit_moves | apply Moves.ite

theorem setPort_moves {s₀ : State} (s : State) (i : SetId) (p : Nat) (v : Nat) (h₀ : Moves s₀ s) : Moves s₀ (setPort s i p v) := by
  unfold setPort
  with_reducible repeat' first | assumption | intro _ | apply setFld_moves | apply showStage_moves | apply reportTable_moves

theorem linkFault_moves {s₀ : State} (s : State) (i : SetId) (p : Nat) (c : FC) (ev : Option Field) (h₀ : Moves s₀ s) : Moves s₀
    (linkFault s i p c ev) := by
  unfold linkFault
  with_reducible repeat' first | assumption | intro _ | apply setFld_moves | apply report_moves | apply Moves.ite | split

theorem holdoverReport_moves {s₀ : State} (s : State) (i : SetId) (h₀ : Moves s₀ s) : Moves s₀ (holdoverReport s i) := by
  unfold holdoverReport
  with_reducible repeat' first | assumption | apply report_moves | apply setFld_moves

theorem holdover_moves {s₀ : State} (s : State) (i : SetId) (p : Nat) (h₀ : Moves s₀ s) : Moves s₀ (holdover s i p) := by
  unfold holdover
  with_reducible repeat' first | assumption | intro _ | apply holdoverReport_moves | apply setFld_moves | apply Moves.ite

theorem sendIdle_moves {s₀ : State} (s : State) (i : SetId) (p : Nat) (nak : Bool) (down : Bool) (tstype : Nat) (tsseq : Nat) (stamp : Nat)
    (h₀ : Moves s₀ s) : Moves s₀ (sendIdle s i p nak down tstype tsseq stamp) := by
  unfold sendIdle
  with_reducible repeat' first | assumption | apply emit_moves

theorem sendStored_moves {s₀ : State} (s : State) (i : SetId) (p : Nat) (e : Nat × List Byte) (h₀ : Moves s₀ s) : Moves s₀
    (sendStored s i p e) := by
  unfold sendStored
  with_reducible repeat' first | assumption | apply emit_moves

theorem sendFlits_moves {s₀ : State} (s : State) (i : SetId) (p : Nat) (h₀ : Moves s₀ s) : Moves s₀ (sendFlits s i p) := by
  unfold sendFlits
  with_reducible repeat' first | assumption | intro _ | apply onLink_moves | apply sendStored_moves | apply Moves.ite | apply Moves.foldl

theorem discardFrame_moves {s₀ : State} (s : State) (i : SetId) (c : Nat) (src : Nat) (h₀ : Moves s₀ s) : Moves s₀ (discardFrame s i c src)
    := by
  unfold discardFrame
  with_reducible repeat' first | assumption | intro _ | apply emit_moves | apply Moves.ite

theorem forwardFrame_moves {s₀ : State} (s : State) (i : SetId) (p : Nat) (c : Nat) (f : PartFrame) (h₀ : Moves s₀ s) : Moves s₀
    (forwardFrame s i p c f) := by
  unfold forwardFrame
  with_reducible repeat' first
    | assumption | intro _ | apply discardFrame_moves | apply sendFlits_moves | apply onLink_moves | apply Moves.ite | split

theorem dropLink_moves {s₀ : State} (s : State) (i : SetId) (p : Nat) (h₀ : Moves s₀ s) : Moves s₀ (dropLink s i p) := by
  unfold dropLink
  with_reducible repeat' first
    | assumption | intro _ | apply store_moves | apply onFrames_moves | apply onLink_moves | apply discardFrame_moves | apply Moves.foldl

theorem setGone_moves {s₀ : State} (s : State) (i : SetId) (q : Nat) (h₀ : Moves s₀ s) : Moves s₀ (setGone s i q) := by
  unfold setGone
  with_reducible repeat' first | assumption | intro _ | apply report_moves | apply beginFold_moves | apply Moves.ite

theorem loseLink_moves {s₀ : State} (s : State) (i : SetId) (p : Nat) (h₀ : Moves s₀ s) : Moves s₀ (loseLink s i p) := by
  unfold loseLink
  with_reducible repeat' first
    | assumption | intro _ | apply report_moves | apply setFld_moves | apply almLink_moves | apply setPort_moves | apply dropLink_moves
    | apply holdover_moves | apply setGone_moves | apply beginFold_moves | apply Moves.ite

theorem downReceived_moves {s₀ : State} (s : State) (i : SetId) (p : Nat) (h₀ : Moves s₀ s) : Moves s₀ (downReceived s i p) := by
  unfold downReceived
  with_reducible repeat' first | assumption | intro _ | apply setFld_moves | apply setGone_moves | apply loseLink_moves | apply Moves.ite

theorem execSetLossConfirm_moves {s₀ : State} (i : SetId) (place : Nat) (s : State) (h₀ : Moves s₀ s) : MovesOut s₀
    (execSetLossConfirm i place s) := by
  unfold execSetLossConfirm
  with_reducible repeat' first | assumption | intro _ | apply settle_moves | apply setGone_moves | apply Moves.ite | apply MovesOut.next

theorem execDownEnd_moves {s₀ : State} (i : SetId) (s : State) (h₀ : Moves s₀ s) : MovesOut s₀ (execDownEnd i s) := by
  unfold execDownEnd
  with_reducible repeat' first
    | assumption | intro _ | apply MovesOut.next | apply emit_moves | apply cutRails_moves | apply setPort_moves | apply loseLink_moves
    | apply Moves.ite | apply MovesOut.ite | apply Moves.foldl

theorem excludeBundle_moves {s₀ : State} (s : State) (i : SetId) (p : Nat) (b : Nat) (h₀ : Moves s₀ s) : Moves s₀ (excludeBundle s i p b)
    := by
  unfold excludeBundle
  with_reducible repeat' first | assumption | intro _ | apply linkFault_moves | apply setFld_moves | apply Moves.ite

theorem triggerRetrain_moves {s₀ : State} (s : State) (i : SetId) (p : Nat) (h₀ : Moves s₀ s) : Moves s₀ (triggerRetrain s i p) := by
  unfold triggerRetrain
  with_reducible repeat' first
    | assumption | intro _ | apply loseLink_moves | apply onLink_moves | apply satFld_moves | apply almLink_moves | apply setPort_moves
    | apply Moves.ite

theorem execFecAlignLoss_moves {s₀ : State} (i : SetId) (port : PortId) (bundle : Fin 32) (s : State) (h₀ : Moves s₀ s) : MovesOut s₀
    (execFecAlignLoss i port bundle s) := by
  unfold execFecAlignLoss
  with_reducible repeat' first
    | assumption | intro _ | apply onLink_moves | apply excludeBundle_moves | apply settle_moves | apply loseLink_moves
    | apply triggerRetrain_moves | apply Moves.ite | apply MovesOut.next | apply MovesOut.ite

theorem execCrcSilence_moves {s₀ : State} (i : SetId) (port : PortId) (s : State) (h₀ : Moves s₀ s) : MovesOut s₀ (execCrcSilence i port s)
    := by
  unfold execCrcSilence
  with_reducible repeat' first | assumption | apply settle_moves | apply triggerRetrain_moves | apply MovesOut.next

theorem askRetrain_moves {s₀ : State} (s : State) (i : SetId) (p : Nat) (h₀ : Moves s₀ s) : Moves s₀ (askRetrain s i p) := by
  unfold askRetrain
  with_reducible repeat' first | assumption | intro _ | apply triggerRetrain_moves | apply onLink_moves | apply Moves.ite

theorem execPortRetrain_moves {s₀ : State} (i : SetId) (port : PortId) (s : State) (h₀ : Moves s₀ s) : MovesOut s₀
    (execPortRetrain i port s) := by
  unfold execPortRetrain
  with_reducible repeat' first | assumption | apply settle_moves | apply askRetrain_moves | apply MovesOut.next

theorem replayAll_moves {s₀ : State} (s : State) (i : SetId) (p : Nat) (h₀ : Moves s₀ s) : Moves s₀ (replayAll s i p) := by
  unfold replayAll
  with_reducible repeat' first | assumption | intro _ | apply sendStored_moves | apply Moves.foldl

theorem execRetrain_moves {s₀ : State} (i : SetId) (port : PortId) (bundles : Nat) (s : State) (h₀ : Moves s₀ s) : MovesOut s₀
    (execRetrain i port bundles s) := by
  unfold execRetrain
  with_reducible repeat' first
    | assumption | intro _ | apply triggerRetrain_moves | apply setFld_moves | apply onLink_moves | apply excludeBundle_moves
    | apply settle_moves | apply loseLink_moves | apply sendFlits_moves | apply replayAll_moves | apply setPort_moves | apply Moves.ite
    | apply MovesOut.next | apply MovesOut.ite | apply Moves.foldl

theorem execRetrainTimeout_moves {s₀ : State} (i : SetId) (link : LinkEnd) (s : State) (h₀ : Moves s₀ s) : MovesOut s₀ (execRetrainTimeout i
    link s) := by
  unfold execRetrainTimeout
  with_reducible repeat' first
    | assumption | intro _ | apply MovesOut.next | apply settle_moves | apply fenceStack_moves | apply loseLink_moves | apply Moves.ite
    | apply MovesOut.ite | split

theorem startPort_moves {s₀ : State} (s : State) (i : SetId) (p : Nat) (h₀ : Moves s₀ s) : Moves s₀ (startPort s i p) := by
  unfold startPort
  with_reducible repeat' first
    | assumption | intro _ | apply dropLink_moves | apply onLink_moves | apply setFld_moves | apply setPort_moves | apply Moves.ite
    | apply Moves.foldl

theorem releasePorts_moves {s₀ : State} (s : State) (i : SetId) (h₀ : Moves s₀ s) : Moves s₀ (releasePorts s i) := by
  unfold releasePorts
  with_reducible repeat' first | assumption | intro _ | apply startPort_moves | apply Moves.foldl

theorem rescan_moves {s₀ : State} (s : State) (i : SetId) (p : Nat) (h₀ : Moves s₀ s) : Moves s₀ (rescan s i p) := by
  unfold rescan
  with_reducible repeat' first | assumption | intro _ | apply startPort_moves | apply loseLink_moves | apply Moves.ite

theorem execPortRescan_moves {s₀ : State} (i : SetId) (port : PortId) (s : State) (h₀ : Moves s₀ s) : MovesOut s₀ (execPortRescan i port s)
    := by
  unfold execPortRescan
  with_reducible repeat' first | assumption | apply settle_moves | apply rescan_moves | apply MovesOut.next

theorem writeDisable_moves {s₀ : State} (s : State) (i : SetId) (p : Nat) (on : Bool) (h₀ : Moves s₀ s) : Moves s₀ (writeDisable s i p on)
    := by
  unfold writeDisable
  with_reducible repeat' first
    | assumption | intro _ | apply setFld_moves | apply setPort_moves | apply loseLink_moves | apply startPort_moves | apply Moves.ite

theorem execPortDisable_moves {s₀ : State} (i : SetId) (port : PortId) (s : State) (h₀ : Moves s₀ s) : MovesOut s₀
    (execPortDisable i port s) := by
  unfold execPortDisable
  with_reducible repeat' first | assumption | apply settle_moves | apply writeDisable_moves | apply MovesOut.next

theorem execPortSignalDetect_moves {s₀ : State} (i : SetId) (port : PortId) (s : State) (h₀ : Moves s₀ s) : MovesOut s₀
    (execPortSignalDetect i port s) := by
  unfold execPortSignalDetect
  with_reducible repeat' first | assumption | intro _ | apply setPort_moves | apply linkFault_moves | apply Moves.ite | apply MovesOut.next

theorem trained_moves {s₀ : State} (s : State) (i : SetId) (p : Nat) (bundles : Nat) (next : Nat) (h₀ : Moves s₀ s) : Moves s₀
    (trained s i p bundles next) := by
  unfold trained
  with_reducible repeat' first
    | assumption | intro _ | apply excludeBundle_moves | apply loseLink_moves | apply setPort_moves | apply Moves.ite | apply Moves.foldl

theorem execPortEqualiseDone_moves {s₀ : State} (i : SetId) (port : PortId) (bundles : Nat) (s : State) (h₀ : Moves s₀ s) : MovesOut s₀
    (execPortEqualiseDone i port bundles s) := by
  unfold execPortEqualiseDone
  with_reducible repeat' first | assumption | intro _ | apply trained_moves | apply Moves.ite | apply MovesOut.next

theorem execPortAlignDone_moves {s₀ : State} (i : SetId) (port : PortId) (bundles : Nat) (s : State) (h₀ : Moves s₀ s) : MovesOut s₀
    (execPortAlignDone i port bundles s) := by
  unfold execPortAlignDone
  with_reducible repeat' first
    | assumption | intro _ | apply trained_moves | apply emit_moves | apply Moves.ite | apply MovesOut.next | apply MovesOut.ite

theorem refusePort_moves {s₀ : State} (s : State) (i : SetId) (p : Nat) (c : FC) (ev : Option Field) (h₀ : Moves s₀ s) : Moves s₀
    (refusePort s i p c ev) := by
  unfold refusePort
  with_reducible repeat' first | assumption | apply setPort_moves | apply linkFault_moves

theorem toConfig_moves {s₀ : State} (s : State) (i : SetId) (p : Nat) (rec : List Byte) (h₀ : Moves s₀ s) : Moves s₀ (toConfig s i p rec)
    := by
  unfold toConfig
  with_reducible repeat' first | assumption | apply emit_moves | apply setPort_moves

theorem settlePort_moves {s₀ : State} (s : State) (i : SetId) (p : Nat) (h₀ : Moves s₀ s) : Moves s₀ (settlePort s i p) := by
  unfold settlePort
  with_reducible repeat' first
    | assumption | intro _ | apply refusePort_moves | apply toConfig_moves | apply setFld_moves | apply linkFault_moves | apply Moves.ite
    | split | dsimp only

theorem settleKind_moves {s₀ : State} (s : State) (i : SetId) (p : Nat) (h₀ : Moves s₀ s) : Moves s₀ (settleKind s i p) := by
  unfold settleKind
  with_reducible repeat' first | assumption | intro _ | apply settlePort_moves | apply Moves.ite | apply Moves.foldl

theorem execPortMissing_moves {s₀ : State} (i : SetId) (port : PortId) (s : State) (h₀ : Moves s₀ s) : MovesOut s₀ (execPortMissing i port
    s) := by
  unfold execPortMissing
  with_reducible repeat' first
    | assumption | intro _ | apply MovesOut.next | apply setFld_moves | apply showStage_moves | apply reportTable_moves
    | apply linkFault_moves | apply settleKind_moves | apply Moves.ite | apply MovesOut.ite

theorem identArrives_moves {s₀ : State} (s : State) (i : SetId) (p : Nat) (rec : List Byte) (h₀ : Moves s₀ s) : Moves s₀
    (identArrives s i p rec) := by
  unfold identArrives
  with_reducible repeat' first
    | assumption | intro _ | apply onLink_moves | apply setFld_moves | apply refusePort_moves | apply toConfig_moves
    | apply settleKind_moves | apply Moves.ite

theorem execIdentRecord_moves {s₀ : State} (i : SetId) (port : PortId) (rec : List Byte) (s : State) (h₀ : Moves s₀ s) : MovesOut s₀
    (execIdentRecord i port rec s) := by
  unfold execIdentRecord
  with_reducible repeat' first | assumption | apply identArrives_moves | apply MovesOut.next

theorem execConfigRecord_moves {s₀ : State} (i : SetId) (port : PortId) (lp : Fin 8) (remapped : Bool) (tof : Nat) (s : State)
    (h₀ : Moves s₀ s) : MovesOut s₀ (execConfigRecord i port lp remapped tof s) := by
  unfold execConfigRecord
  with_reducible repeat' first
    | assumption | intro _ | apply refusePort_moves | apply setFld_moves | apply linkFault_moves | apply settle_moves | apply setPort_moves
    | apply Moves.ite | apply MovesOut.next | apply MovesOut.ite | split | dsimp only

theorem execPortTableReport_moves {s₀ : State} (i : SetId) (place : Nat) (loc : Nat) (up : Fin 4) (s : State) (h₀ : Moves s₀ s) : MovesOut
    s₀ (execPortTableReport i place loc up s) := by
  unfold execPortTableReport
  with_reducible repeat' first | assumption | intro _ | apply onCirc_moves | apply report_moves | apply Moves.ite | apply MovesOut.next

theorem timeSync_moves {s₀ : State} (s : State) (i : SetId) (p : Nat) (seq : Nat) (t1 : Nat) (h₀ : Moves s₀ s) : Moves s₀
    (timeSync s i p seq t1) := by
  unfold timeSync
  with_reducible repeat' first | assumption | intro _ | apply sendIdle_moves | apply onLink_moves | apply Moves.ite

theorem timeDreq_moves {s₀ : State} (s : State) (i : SetId) (p : Nat) (seq : Nat) (h₀ : Moves s₀ s) : Moves s₀ (timeDreq s i p seq) := by
  unfold timeDreq
  with_reducible repeat' first | assumption | intro _ | apply sendIdle_moves | apply Moves.ite

theorem timeDresp_moves {s₀ : State} (s : State) (i : SetId) (p : Nat) (seq : Nat) (t4 : Nat) (h₀ : Moves s₀ s) : Moves s₀
    (timeDresp s i p seq t4) := by
  unfold timeDresp
  with_reducible repeat' first
    | assumption | intro _ | apply onLink_moves | apply setFld_moves | (refine onSet_moves _ (fun _ ht => ht.same rfl rfl) ?_)
    | apply Moves.ite | split

theorem tickTime_moves {s₀ : State} (s : State) (i : SetId) (h₀ : Moves s₀ s) : Moves s₀ (tickTime s i) := by
  unfold tickTime
  with_reducible repeat' first
    | assumption | intro _ | apply setFld_moves | apply addFld_moves | (refine onSet_moves _ (fun _ ht => ht.same rfl rfl) ?_)
    | apply Moves.ite | apply Moves.foldl

theorem tickSet_moves {s₀ : State} (s : State) (i : SetId) (h₀ : Moves s₀ s) : Moves s₀ (tickSet s i) := by
  unfold tickSet
  with_reducible repeat' first | assumption | intro _ | apply circPump_moves | apply tickTime_moves

theorem execTimeSync_moves {s₀ : State} (i : SetId) (port : PortId) (seq : Nat) (t1 : Nat) (s : State) (h₀ : Moves s₀ s) : MovesOut s₀
    (execTimeSync i port seq t1 s) := by
  unfold execTimeSync
  with_reducible repeat' first | assumption | apply timeSync_moves | apply MovesOut.next

theorem execTimeDreq_moves {s₀ : State} (i : SetId) (port : PortId) (seq : Nat) (s : State) (h₀ : Moves s₀ s) : MovesOut s₀
    (execTimeDreq i port seq s) := by
  unfold execTimeDreq
  with_reducible repeat' first | assumption | apply timeDreq_moves | apply MovesOut.next

theorem execTimeDresp_moves {s₀ : State} (i : SetId) (port : PortId) (seq : Nat) (t4 : Nat) (s : State) (h₀ : Moves s₀ s) : MovesOut s₀
    (execTimeDresp i port seq t4 s) := by
  unfold execTimeDresp
  with_reducible repeat' first | assumption | apply timeDresp_moves | apply MovesOut.next

theorem execTimeExchangeTick_moves {s₀ : State} (i : SetId) (port : PortId) (s : State) (h₀ : Moves s₀ s) : MovesOut s₀
    (execTimeExchangeTick i port s) := by
  unfold execTimeExchangeTick
  with_reducible repeat' first
    | assumption | intro _ | apply sendIdle_moves | apply onLink_moves | apply Moves.ite | apply MovesOut.next | apply MovesOut.ite

theorem execTimeAltParent_moves {s₀ : State} (i : SetId) (rootLost : Bool) (s : State) (h₀ : Moves s₀ s) : MovesOut s₀
    (execTimeAltParent i rootLost s) := by
  unfold execTimeAltParent
  with_reducible repeat' first
    | assumption | intro _ | apply setFld_moves | (refine onSet_moves _ (fun _ ht => ht.same rfl rfl) ?_) | apply holdoverReport_moves
    | apply Moves.ite | apply MovesOut.next | apply MovesOut.ite

theorem execHoldoverReport_moves {s₀ : State} (i : SetId) (s : State) (h₀ : Moves s₀ s) : MovesOut s₀ (execHoldoverReport i s) := by
  unfold execHoldoverReport
  with_reducible repeat' first | assumption | intro _ | apply holdoverReport_moves | apply Moves.ite | apply MovesOut.next

theorem linkWord_moves {s₀ : State} (s : State) (i : SetId) (p : Nat) (weights : Bool) (n : Nat) (h₀ : Moves s₀ s) : Moves s₀
    (linkWord s i p weights n) := by
  unfold linkWord
  with_reducible repeat' first | assumption | intro _ | apply satFld_moves | apply setFld_moves | apply report_moves

theorem deliverFrame_moves {s₀ : State} (s : State) (i : SetId) (p : Nat) (c : Nat) (f : PartFrame) (h₀ : Moves s₀ s) : Moves s₀
    (deliverFrame s i p c f) := by
  unfold deliverFrame
  with_reducible repeat' first
    | assumption | intro _ | apply emit_moves | apply circPump_moves | apply frameArrives_moves | apply loadArrives_moves
    | apply identArrives_moves | apply linkWord_moves | apply Moves.ite | apply Moves.foldl | split

theorem takePayload_moves {s₀ : State} (s : State) (i : SetId) (p : Nat) (d : List Byte) (h₀ : Moves s₀ s) : Moves s₀ (takePayload s i p d)
    := by
  unfold takePayload
  with_reducible repeat' first
    | assumption | intro _ | apply onLink_moves | apply deliverFrame_moves | apply forwardFrame_moves | apply Moves.ite | split | dsimp only

theorem nakFlit_moves {s₀ : State} (s : State) (i : SetId) (p : Nat) (h₀ : Moves s₀ s) : Moves s₀ (nakFlit s i p) := by
  unfold nakFlit
  with_reducible repeat' first | assumption | intro _ | apply sendIdle_moves | apply onLink_moves | apply Moves.ite

theorem takeAck_moves {s₀ : State} (s : State) (i : SetId) (p : Nat) (d : List Byte) (h₀ : Moves s₀ s) : Moves s₀ (takeAck s i p d) := by
  unfold takeAck
  with_reducible repeat' first
    | assumption | intro _ | apply onLink_moves | apply triggerRetrain_moves | apply replayAll_moves | apply addFld_moves
    | apply almLink_moves | apply Moves.ite

theorem takeTime_moves {s₀ : State} (s : State) (i : SetId) (p : Nat) (d : List Byte) (h₀ : Moves s₀ s) : Moves s₀ (takeTime s i p d) := by
  unfold takeTime
  with_reducible repeat' first
    | assumption | intro _ | apply timeSync_moves | apply timeDreq_moves | apply timeDresp_moves | apply Moves.ite | split

theorem execFlitReceive_moves {s₀ : State} (i : SetId) (port : PortId) (flit : List Byte) (s : State) (h₀ : Moves s₀ s) : MovesOut s₀
    (execFlitReceive i port flit s) := by
  unfold execFlitReceive
  with_reducible repeat' first
    | assumption | intro _ | apply nakFlit_moves | apply addFld_moves | apply onLink_moves | apply takeTime_moves | apply takeAck_moves
    | apply settle_moves | apply downReceived_moves | apply takePayload_moves | apply sendFlits_moves | apply sendIdle_moves
    | apply Moves.ite | apply MovesOut.next | apply MovesOut.ite

theorem execNorouteTimeout_moves {s₀ : State} (i : SetId) (what : NoAnswer) (s : State) (h₀ : Moves s₀ s) : MovesOut s₀ (execNorouteTimeout
    i what s) := by
  unfold execNorouteTimeout
  with_reducible repeat' first
    | assumption | intro _ | apply MovesOut.next | apply haltSlot_moves | apply breakNode_moves | apply remoteReply_moves
    | apply settle_moves | apply sendFail_moves | apply requestGo_moves | apply Moves.ite | apply MovesOut.ite | split

theorem floorFault_moves {s₀ : State} (s : State) (n : Nat) (cause : Nat) (h₀ : Moves s₀ s) : Moves s₀ (floorFault s n cause) := by
  unfold floorFault
  with_reducible repeat' first | assumption | intro _ | apply setPfld_moves | apply reportPkg_moves | apply ringAdd_moves | apply Moves.ite

theorem showBreach_moves {s₀ : State} (s : State) (h₀ : Moves s₀ s) : Moves s₀ (showBreach s) := by
  unfold showBreach
  with_reducible repeat' first | assumption | apply setPfld_moves

theorem showFloor_moves {s₀ : State} (s : State) (n : Nat) (h₀ : Moves s₀ s) : Moves s₀ (showFloor s n) := by
  unfold showFloor
  with_reducible repeat' first | assumption | intro _ | apply setPfld_moves | apply Moves.ite

theorem throttle_moves {s₀ : State} (s : State) (dies : List Nat) (h₀ : Moves s₀ s) : Moves s₀ (throttle s dies) := by
  unfold throttle
  with_reducible repeat' first
    | assumption | intro _ | apply setPfld_moves | apply floorFault_moves | apply showBreach_moves | apply onPm_moves | apply Moves.ite
    | apply Moves.foldl | split

theorem unthrottle_moves {s₀ : State} (s : State) (h₀ : Moves s₀ s) : Moves s₀ (unthrottle s) := by
  unfold unthrottle
  with_reducible repeat' first
    | assumption | intro _ | apply setPfld_moves | apply showBreach_moves | apply onPm_moves | apply Moves.ite | apply Moves.foldl

theorem sprintTick_moves {s₀ : State} (s : State) (h₀ : Moves s₀ s) : Moves s₀ (sprintTick s) := by
  unfold sprintTick
  with_reducible repeat' first
    | assumption | intro _ | apply setPfld_moves | apply onPm_moves | apply drawReserve_moves | apply sprintEnd_moves | apply Moves.ite
    | apply Moves.upd

theorem capSprint_moves {s₀ : State} (s : State) (dies : List Nat) (h₀ : Moves s₀ s) : Moves s₀ (capSprint s dies) := by
  unfold capSprint
  with_reducible repeat' first | assumption | intro _ | apply freeRail_moves | apply Moves.ite | split

theorem execPowerSample_moves {s₀ : State} (watts : Nat) (dies : List Nat) (mv : Nat) (deciAmps : Nat) (s : State) (h₀ : Moves s₀ s) :
    MovesOut s₀ (execPowerSample watts dies mv deciAmps s) := by
  unfold execPowerSample
  with_reducible repeat' first
    | assumption | intro _ | apply MovesOut.next | apply setPfld_moves | apply onPm_moves | apply tickSet_moves | apply throttle_moves
    | apply unthrottle_moves | apply sprintTick_moves | apply capSprint_moves | apply Moves.ite | apply MovesOut.ite

theorem writeCap_moves {s₀ : State} (s : State) (v : Nat) (h₀ : Moves s₀ s) : Moves s₀ (writeCap s v) := by
  unfold writeCap
  with_reducible repeat' first | assumption | intro _ | apply sprintEnd_moves | apply setPfld_moves | apply Moves.ite

theorem execEnvCapWrite_moves {s₀ : State} (v : Nat) (s : State) (h₀ : Moves s₀ s) : MovesOut s₀ (execEnvCapWrite v s) := by
  unfold execEnvCapWrite
  with_reducible repeat' first | assumption | apply writeCap_moves | apply MovesOut.next

theorem execLendThreshold_moves {s₀ : State} (i : SetId) (core : CoreId) (s : State) (h₀ : Moves s₀ s) : MovesOut s₀ (execLendThreshold i
    core s) := by
  unfold execLendThreshold
  with_reducible repeat' first
    | assumption | intro _ | apply MovesOut.next | apply onCore_moves | apply lendShare_moves | apply Moves.ite | apply MovesOut.ite

theorem execLendReclaim_moves {s₀ : State} (i : SetId) (core : CoreId) (s : State) (h₀ : Moves s₀ s) : MovesOut s₀ (execLendReclaim i core
    s) := by
  unfold execLendReclaim
  with_reducible repeat' first
    | assumption | intro _ | apply MovesOut.next | apply onCore_moves | apply revokeLoans_moves | apply Moves.ite | apply MovesOut.ite

theorem chargeReserve_moves {s₀ : State} (s : State) (dur : Nat) (h₀ : Moves s₀ s) : Moves s₀ (chargeReserve s dur) := by
  unfold chargeReserve
  with_reducible repeat' first | assumption | intro _ | apply setPfld_moves | apply promptWrite_moves | apply setAlm_moves | apply Moves.ite

theorem refuseSprint_moves {s₀ : State} (s : State) (c : Nat) (h₀ : Moves s₀ s) : Moves s₀ (refuseSprint s c) := by
  unfold refuseSprint
  with_reducible repeat' first | assumption | apply setPfld_moves

theorem requestSprint_moves {s₀ : State} (s : State) (dur : Nat) (h₀ : Moves s₀ s) : Moves s₀ (requestSprint s dur) := by
  unfold requestSprint
  with_reducible repeat' first
    | assumption | intro _ | apply refuseSprint_moves | apply setPfld_moves | apply chargeReserve_moves | apply onPm_moves
    | apply freeRail_moves | apply Moves.ite | apply Moves.foldl | apply Moves.upd

theorem execSprintRequest_moves {s₀ : State} (dur : Nat) (go : Bool) (s : State) (h₀ : Moves s₀ s) : MovesOut s₀
    (execSprintRequest dur go s) := by
  unfold execSprintRequest
  with_reducible repeat' first | assumption | intro _ | apply requestSprint_moves | apply Moves.ite | apply MovesOut.next

theorem execSprintDurationEnd_moves {s₀ : State} (s : State) (h₀ : Moves s₀ s) : MovesOut s₀ (execSprintDurationEnd s) := by
  unfold execSprintDurationEnd
  with_reducible repeat' first
    | assumption | intro _ | apply MovesOut.next | apply onPm_moves | apply drawReserve_moves | apply sprintEnd_moves | apply Moves.ite
    | apply MovesOut.ite | apply Moves.upd

theorem execSprintCooldownEnd_moves {s₀ : State} (s : State) (h₀ : Moves s₀ s) : MovesOut s₀ (execSprintCooldownEnd s) := by
  unfold execSprintCooldownEnd
  with_reducible repeat' first | assumption | intro _ | apply MovesOut.next | apply setPfld_moves | apply onPm_moves

theorem removeRail_moves {s₀ : State} (s : State) (n : Nat) (c : FC) (h₀ : Moves s₀ s) : Moves s₀ (removeRail s n c) := by
  unfold removeRail
  with_reducible repeat' first
    | assumption | intro _ | apply reportPkg_moves | apply setPfld_moves | apply sprintEnd_moves | apply loseSet_moves
    | apply losePackage_moves | apply Moves.ite

theorem thermalStep_moves {s₀ : State} (s : State) (n : Nat) (h₀ : Moves s₀ s) : Moves s₀ (thermalStep s n) := by
  unfold thermalStep
  with_reducible repeat' first
    | assumption | intro _ | apply setPfld_moves | apply onPm_moves | apply floorFault_moves | apply showBreach_moves | apply Moves.ite

theorem thermalDone_moves {s₀ : State} (s : State) (n : Nat) (h₀ : Moves s₀ s) : Moves s₀ (thermalDone s n) := by
  unfold thermalDone
  with_reducible repeat' first | assumption | intro _ | apply onPm_moves | apply showBreach_moves | apply setPfld_moves | apply Moves.ite

theorem execJunctionSense_moves {s₀ : State} (die : Fin 20) (temp : Nat) (margin : Nat) (s : State) (h₀ : Moves s₀ s) : MovesOut s₀
    (execJunctionSense die temp margin s) := by
  unfold execJunctionSense
  with_reducible repeat' first
    | assumption | intro _ | apply setPfld_moves | apply showBreach_moves | apply onPm_moves | apply removeRail_moves
    | apply showFloor_moves | apply sprintEnd_moves | apply thermalStep_moves | apply thermalDone_moves | apply Moves.ite
    | apply MovesOut.next | apply MovesOut.ite | apply Moves.upd

theorem execRailFault_moves {s₀ : State} (die : Fin 20) (s : State) (h₀ : Moves s₀ s) : MovesOut s₀ (execRailFault die s) := by
  unfold execRailFault
  with_reducible repeat' first | assumption | apply removeRail_moves | apply MovesOut.next

theorem execFloorBreach_moves {s₀ : State} (die : Fin 18) (margin : Nat) (s : State) (h₀ : Moves s₀ s) : MovesOut s₀
    (execFloorBreach die margin s) := by
  unfold execFloorBreach
  with_reducible repeat' first
    | assumption | intro _ | apply setPfld_moves | apply onPm_moves | apply floorFault_moves | apply showBreach_moves | apply Moves.ite
    | apply MovesOut.next | apply MovesOut.ite

theorem execAgeingStep_moves {s₀ : State} (die : Fin 16) (s : State) (h₀ : Moves s₀ s) : MovesOut s₀ (execAgeingStep die s) := by
  unfold execAgeingStep
  with_reducible repeat' first
    | assumption | intro _ | apply setAlm_moves | apply setPfld_moves | apply promptWrite_moves | apply showFloor_moves
    | apply floorFault_moves | apply Moves.ite | apply MovesOut.next

theorem execMpWatchdog_moves {s₀ : State} (s : State) (h₀ : Moves s₀ s) : MovesOut s₀ (execMpWatchdog s) := by
  unfold execMpWatchdog
  with_reducible repeat' first
    | assumption | intro _ | apply losePackage_moves | apply reportPkg_moves | apply Moves.ite | apply MovesOut.next | apply MovesOut.ite
    | apply Moves.upd

theorem execMpRestartDone_moves {s₀ : State} (s : State) (h₀ : Moves s₀ s) : MovesOut s₀ (execMpRestartDone s) := by
  unfold execMpRestartDone
  with_reducible repeat' first
    | assumption | intro _ | apply deliver_moves | apply Moves.ite | apply MovesOut.next | apply MovesOut.ite | apply Moves.foldl
    | apply Moves.upd

theorem execFaultRecord_moves {s₀ : State} (i : SetId) (rec : List Byte) (s : State) (h₀ : Moves s₀ s) : MovesOut s₀
    (execFaultRecord i rec s) := by
  unfold execFaultRecord
  with_reducible repeat' first
    | assumption | intro _ | apply deliver_moves | apply sprintEnd_moves | apply Moves.ite | apply MovesOut.next | apply MovesOut.ite
    | apply Moves.upd

theorem execRefclkStable_moves {s₀ : State} (s : State) (h₀ : Moves s₀ s) : MovesOut s₀ (execRefclkStable s) := by
  unfold execRefclkStable
  with_reducible repeat' first | assumption | apply MovesOut.next | apply Moves.upd

theorem execRefclkLoss_moves {s₀ : State} (s : State) (h₀ : Moves s₀ s) : MovesOut s₀ (execRefclkLoss s) := by
  unfold execRefclkLoss
  with_reducible repeat' first
    | assumption | intro _ | apply losePackage_moves | apply Moves.ite | apply MovesOut.next | apply MovesOut.ite | apply Moves.upd

end Sys2Proof.Machine
end

