-- ==== Sys2Proof/Laws/MovesCard.lean ====
section
/-! SUPPORT. `Moves` for each operation and each command: what the vendor commands, the almanac, the card, start-up and trust do. -/

namespace Sys2Proof.Machine

theorem onMg_moves {s₀ : State} (s : State) (f : Mgmt → Mgmt) (h₀ : Moves s₀ s) : Moves s₀ (onMg s f) := by
  unfold onMg
  with_reducible repeat' first | assumption | apply Moves.upd

theorem toStage_moves {s₀ : State} (s : State) (v : Nat) (h₀ : Moves s₀ s) : Moves s₀ (toStage s v) := by
  unfold toStage
  with_reducible repeat' first | assumption | apply setPfld_moves

theorem measTaken_moves {s₀ : State} (s : State) (n : Nat) (h₀ : Moves s₀ s) : Moves s₀ (measTaken s n) := by
  unfold measTaken
  with_reducible repeat' first | assumption | apply setPfld_moves

theorem showOwner_moves {s₀ : State} (s : State) (h₀ : Moves s₀ s) : Moves s₀ (showOwner s) := by
  unfold showOwner
  with_reducible repeat' first | assumption | intro _ | apply setPfld_moves

theorem takeAuth_moves {s₀ : State} (s : State) (v : Via) (op : Nat) (payload : List Byte) (h₀ : Moves s₀ s) : Moves s₀
    (takeAuth s v op payload).1 := by
  unfold takeAuth
  with_reducible repeat' first | assumption | intro _ | apply onMg_moves | apply Moves.ite | split | dsimp only

theorem takeAuth_moves_eq {s₀ t₀ : State} {s : State} {v : Via} {op : Nat} {payload : List Byte} {r0}
    (he₀ : takeAuth s v op payload = (t₀, r0)) (h₀ : Moves s₀ s) : Moves s₀ t₀ := by
  have := takeAuth_moves s v op payload h₀; rw [he₀] at this; exact this

theorem answer_moves {s₀ : State} (s : State) (v : Via) (op : Nat) (status : Nat) (cause : Nat) (data : List Byte) (h₀ : Moves s₀ s) : Moves
    s₀ (answer s v op status cause data) := by
  unfold answer
  with_reducible repeat' first | assumption | intro _ | apply emit_moves | apply raiseVector_moves | apply Moves.ite

theorem vendorCmd_moves {s₀ : State} (s : State) (v : Via) (g : Gate) (p : List Byte) (run : State → State)
    (hr : ∀ s, Moves s₀ s → Moves s₀ (run s)) (h : Moves s₀ s) : Moves s₀ (vendorCmd s v g p run) := by
  unfold vendorCmd
  with_reducible repeat' first | assumption | intro _ | apply hr | apply answer_moves | apply takeAuth_moves | apply Moves.ite

theorem showHours_moves {s₀ : State} (s : State) (h₀ : Moves s₀ s) : Moves s₀ (showHours s) := by
  unfold showHours
  with_reducible repeat' first | assumption | apply setPfld_moves

theorem execAlmanacSecond_moves {s₀ : State} (s : State) (h₀ : Moves s₀ s) : MovesOut s₀ (execAlmanacSecond s) := by
  unfold execAlmanacSecond
  with_reducible repeat' first
    | assumption | intro _ | apply addAlm_moves | apply showHours_moves | apply satPfld_moves | apply Moves.ite | apply MovesOut.next
    | apply MovesOut.ite | apply Moves.foldl | apply Moves.upd

theorem execAlmanacInterval_moves {s₀ : State} (s : State) (h₀ : Moves s₀ s) : MovesOut s₀ (execAlmanacInterval s) := by
  unfold execAlmanacInterval
  with_reducible repeat' first | assumption | intro _ | apply almWrite_moves | apply Moves.ite | apply MovesOut.next

theorem spoilCopy_moves {s₀ : State} (s : State) (c : Nat) (h₀ : Moves s₀ s) : Moves s₀ (spoilCopy s c) := by
  have := almCopyBase_le c
  exact spend_moves (nvmWrite_moves (.inr ⟨this.1, by rw [length_freeBytes]; omega⟩) h₀)

theorem erasePrompt_moves {s₀ : State} (s : State) (h₀ : Moves s₀ s) : Moves s₀ (erasePrompt s) :=
  .upd (nvmErase_moves (.inr (by unfold promptBase; omega)) h₀)

theorem almDone_moves {s₀ : State} (s : State) (ok : Bool) (h₀ : Moves s₀ s) : Moves s₀ (almDone s ok) := by
  unfold almDone
  split
  · exact h₀
  · rename_i c _
    have h1 : ∀ s : State, Moves s₀ s → Moves s₀ { (s.nvmErase (almCopyBase (1 - c)) 0x20_0000) with almNewest := c } := fun s h =>
      .upd (nvmErase_moves (.inr (almCopyBase_le _).1) h)
    dsimp only
    generalize hs : (if ok = true then _ else _ : State) = s1
    have h2 : Moves s₀ s1 := by
      subst hs
      refine .ite (fun _ => .ite (fun _ => erasePrompt_moves _ (h1 _ ?_)) fun _ => h1 _ ?_) fun _ => setPfld_moves _ _ _ (spoilCopy_moves _ _ (.upd h₀))
      · exact setPfld_moves _ _ _ (setPfld_moves _ _ _ (.upd h₀))
      · exact setPfld_moves _ _ _ (setPfld_moves _ _ _ (.upd h₀))
    split
    · exact almWrite_moves _ (.upd h2)
    · exact h2

theorem execAlmanacWriteDone_moves {s₀ : State} (ok : Bool) (s : State) (h₀ : Moves s₀ s) : MovesOut s₀ (execAlmanacWriteDone ok s) := by
  unfold execAlmanacWriteDone
  with_reducible repeat' first | assumption | apply almDone_moves | apply MovesOut.next

theorem almFinal_moves {s₀ : State} (s : State) (h₀ : Moves s₀ s) : Moves s₀ (almFinal s) := by
  unfold almFinal
  with_reducible repeat' first | assumption | apply almDone_moves | apply almWrite_moves | apply Moves.upd

theorem promptApply_moves {s₀ : State} (q : Nat) (s : State) (k : Nat) (h₀ : Moves s₀ s) : Moves s₀ (promptApply q s k) := by
  unfold promptApply
  refine .ite (fun _ => h₀) fun _ => ?_
  split
  · exact setAlm_moves _ _ _ h₀
  · exact setAlm_moves _ _ _ h₀
  · exact setAlm_moves _ _ _ (almMem_moves (fun w => wf_writeMem w _ _) h₀)
  · exact h₀

theorem showAlm_moves {s₀ : State} (s : State) (h₀ : Moves s₀ s) : Moves s₀ (showAlm s) := by
  unfold showAlm
  with_reducible repeat' first
    | assumption | intro _ | apply setPfld_moves | apply showLife_moves | apply showHours_moves | apply Moves.foldl

theorem almRestore_moves {s₀ : State} (s : State) (h₀ : Moves s₀ s) : Moves s₀ (almRestore s) := by
  have h1 : ∀ (m : SMap Byte) (n p : Nat) (o : Bool), Memory.wf m = true →
      Moves s₀ { s with almMem := m, almNewest := n, promptNext := p, calOver := o } := fun m n p o hm =>
    .upd (s := { s with almMem := m }) (almMem_moves (fun _ => hm) h₀)
  unfold almRestore
  dsimp only
  split
  · exact showAlm_moves _ (setPfld_moves _ _ _ (setPfld_moves _ _ _ (setPfld_moves _ _ _ (addAlm_moves _ _ _ (h1 _ _ _ _ rfl)))))
  · rename_i c _
    refine showAlm_moves _ (setPfld_moves _ _ _ (setPfld_moves _ _ _ ?_))
    have h2 := addAlm_moves 72 4 1 (Moves.foldl (f := promptApply (leAt (s.nvmBytes (almCopyBase c) 64) 8 8)) (fun s a h => promptApply_moves _ s a h)
      (h1 (writeMem [] 64 (s.nvmBytes (almCopyBase c + 64) 17072)) c (promptUsed s) (bit (leAt (s.nvmBytes (almCopyBase c) 64) 6 2) 2)
        (wf_writeMem rfl _ _)) (List.range (promptUsed s)))
    exact .ite (fun _ => h2) fun _ => addAlm_moves _ _ _ h2

theorem execAlmRead_moves {s₀ : State} (v : Via) (off : Nat) (len : Nat) (s : State) (h₀ : Moves s₀ s) : MovesOut s₀
    (execAlmRead v off len s) := by
  unfold execAlmRead
  with_reducible repeat' first | assumption | intro _ | apply vendorCmd_moves | apply answer_moves | apply Moves.ite | apply MovesOut.next

theorem execAlmFlush_moves {s₀ : State} (v : Via) (s : State) (h₀ : Moves s₀ s) : MovesOut s₀ (execAlmFlush v s) := by
  unfold execAlmFlush
  with_reducible repeat' first
    | assumption | intro _ | apply vendorCmd_moves | apply answer_moves | apply almWrite_moves | apply MovesOut.next

theorem execRingRead_moves {s₀ : State} (v : Via) (first : Nat) (count : Nat) (s : State) (h₀ : Moves s₀ s) : MovesOut s₀
    (execRingRead v first count s) := by
  unfold execRingRead
  with_reducible repeat' first | assumption | intro _ | apply vendorCmd_moves | apply answer_moves | apply Moves.ite | apply MovesOut.next

theorem execCalRead_moves {s₀ : State} (v : Via) (off : Nat) (len : Nat) (s : State) (h₀ : Moves s₀ s) : MovesOut s₀
    (execCalRead v off len s) := by
  unfold execCalRead
  with_reducible repeat' first | assumption | intro _ | apply vendorCmd_moves | apply answer_moves | apply Moves.ite | apply MovesOut.next

theorem execCalArm_moves {s₀ : State} (v : Via) (s : State) (h₀ : Moves s₀ s) : MovesOut s₀ (execCalArm v s) := by
  unfold execCalArm
  with_reducible repeat' first
    | assumption | intro _ | apply vendorCmd_moves | apply answer_moves | apply onMg_moves | apply spend_moves | apply MovesOut.next

theorem execCalConfirm_moves {s₀ : State} (v : Via) (code : List Byte) (s : State) (h₀ : Moves s₀ s) : MovesOut s₀ (execCalConfirm v code s)
    := by
  unfold execCalConfirm
  with_reducible repeat' first
    | assumption | intro _ | apply vendorCmd_moves | apply answer_moves | apply onMg_moves | apply setPfld_moves | apply Moves.ite
    | apply MovesOut.next | apply MovesOut.ite | split

theorem execCalWrite_moves {s₀ : State} (v : Via) (off : Nat) (data : List Byte) (s : State) (h₀ : Moves s₀ s) : MovesOut s₀
    (execCalWrite v off data s) := by
  unfold execCalWrite
  with_reducible repeat' first
    | assumption | intro _ | apply vendorCmd_moves | apply answer_moves | apply onMg_moves | apply Moves.ite | apply MovesOut.next

theorem execCalCommit_moves {s₀ : State} (v : Via) (s : State) (h₀ : Moves s₀ s) : MovesOut s₀ (execCalCommit v s) := by
  unfold execCalCommit
  refine .next (vendorCmd_moves _ _ _ _ _ (fun s h => .ite (fun _ => answer_moves _ _ _ _ _ _ h) fun _ => answer_moves _ _ _ _ _ _ (setPfld_moves _ _ _ (.upd ?_))) h₀)
  exact nvmWrite_moves (.inl (by unfold calBase; rw [length_readMem]; omega)) (nvmErase_moves (.inl (by unfold calBase; omega)) h)

theorem execCalUnlockExpire_moves {s₀ : State} (s : State) (h₀ : Moves s₀ s) : MovesOut s₀ (execCalUnlockExpire s) := by
  unfold execCalUnlockExpire
  with_reducible repeat' first | assumption | apply setPfld_moves | apply MovesOut.next

theorem powerSegs_moves {s₀ : State} (s : State) (i : SetId) (h₀ : Moves s₀ s) : Moves s₀ (powerSegs s i) := by
  unfold powerSegs
  with_reducible repeat' first | assumption | intro _ | apply setSeg_moves | apply loseSeg_moves | apply Moves.ite | apply Moves.foldl

theorem applyPlan_moves {s₀ : State} (s : State) (i : SetId) (l : List PlanRec) (h₀ : Moves s₀ s) : Moves s₀ (applyPlan s i l) := by
  unfold applyPlan
  with_reducible repeat' first | assumption | intro _ | apply powerSegs_moves | apply applyRec_moves | apply Moves.ite | apply Moves.foldl

theorem fwTake_moves {s₀ : State} (s : State) (h₀ : Moves s₀ s) : Moves s₀ (fwTake s) := by
  unfold fwTake
  with_reducible repeat' first | assumption | apply Moves.upd

theorem bootAt_moves {s₀ : State} (s : State) (st : Nat) (cause : Nat) (h₀ : Moves s₀ s) : Moves s₀ (bootAt s st cause) := by
  unfold bootAt
  with_reducible repeat' first | assumption | apply setPfld_moves | apply toStage_moves

theorem step4_moves {s₀ : State} (s : State) (h₀ : Moves s₀ s) : Moves s₀ (step4 s) := by
  unfold step4
  with_reducible repeat' first | assumption | apply almRestore_moves | apply measTaken_moves | apply bootAt_moves | apply fwTake_moves

theorem step3_moves {s₀ : State} (s : State) (nvmOk : Bool) (h₀ : Moves s₀ s) : Moves s₀ (step3 s nvmOk) := by
  unfold step3
  with_reducible repeat' first | assumption | intro _ | apply bootAt_moves | apply step4_moves | apply Moves.ite

theorem coldReset_moves {s₀ : State} (s : State) (h₀ : Moves s₀ s) : Moves s₀ (coldReset s) := by
  have h1 : ∀ s : State, Moves s₀ s → Moves s₀ { State.reset with
      pending := s.pending, out := s.out, freeCtr := s.freeCtr, hostMem := s.hostMem, nvm := s.nvm, fuses := s.fuses, pins := s.pins
      sec := s.sec } := fun s h =>
    h.trans ⟨rfl, ⟨[], (List.append_nil _).symm⟩, le_rfl, .refl _, fun _ _ _ => rfl,
      fun v => ⟨regsOk_nil, SetSt.ok_reset 0, SetSt.ok_reset 1, v.host, rfl, v.nvm⟩⟩
  unfold coldReset
  split
  · exact h1 _ (spoilCopy_moves _ _ h₀)
  · exact h1 _ h₀

theorem keepArrays_moves {s₀ : State} (t s : State) (h₀ : Moves s₀ t) : Moves s₀ (keepArrays t s) := by
  unfold keepArrays
  exact .foldl (fun _ _ h => .foldl (fun _ _ h => setFld_moves _ _ _ _ h) h _) (.foldl (fun _ _ h => setPfld_moves _ _ _ h) h₀ _) _

theorem railsAt_moves {s₀ : State} (s : State) (ns : List Nat) (mv : Nat) (h₀ : Moves s₀ s) : Moves s₀ (railsAt s ns mv) :=
  .foldl (fun _ _ h => setPfld_moves _ _ _ h) h₀ _

theorem execPerstAssert_moves {s₀ : State} (us : Nat) (s : State) (h₀ : Moves s₀ s) : MovesOut s₀ (execPerstAssert us s) := by
  unfold execPerstAssert
  exact .ite (fun _ => .next h₀) fun _ => .next (.upd (railsAt_moves _ _ _ (keepArrays_moves _ _ (coldReset_moves _ h₀))))

theorem execVinRise_moves {s₀ : State} (low : Nat) (mv : Nat) (sbAddr : Fin 4) (s : State) (h₀ : Moves s₀ s) : MovesOut s₀
    (execVinRise low mv sbAddr s) := by
  unfold execVinRise
  with_reducible repeat' first
    | assumption | intro _ | apply setPfld_moves | apply railsAt_moves | apply Moves.ite | apply MovesOut.next | apply MovesOut.ite
    | apply Moves.upd

theorem execVinFault_moves {s₀ : State} (mv : Nat) (s : State) (h₀ : Moves s₀ s) : MovesOut s₀ (execVinFault mv s) := by
  unfold execVinFault
  with_reducible repeat' first
    | assumption | intro _ | apply railsAt_moves | apply coldReset_moves | apply Moves.ite | apply MovesOut.next | apply MovesOut.ite | apply Moves.upd

theorem showCoreArrays_moves {s₀ : State} (s : State) (i : SetId) (h₀ : Moves s₀ s) : Moves s₀ (showCoreArrays s i) := by
  unfold showCoreArrays
  with_reducible repeat' first | assumption | intro _ | apply setFld_moves | apply Moves.foldl

theorem showArrays_moves {s₀ : State} (s : State) (h₀ : Moves s₀ s) : Moves s₀ (showArrays s) := by
  unfold showArrays
  with_reducible repeat' first | assumption | intro _ | apply setPfld_moves | apply showCoreArrays_moves | apply Moves.foldl

theorem showStrap_moves {s₀ : State} (s : State) (i : SetId) (strap : Nat) (h₀ : Moves s₀ s) : Moves s₀ (showStrap s i strap) := by
  unfold showStrap
  with_reducible repeat' first | assumption | intro _ | apply setFld_moves | apply fenceSet_moves | apply Moves.ite

theorem execColdStart_moves {s₀ : State} (strap : Nat) (nvmOk : Bool) (s : State) (h₀ : Moves s₀ s) : MovesOut s₀
    (execColdStart strap nvmOk s) := by
  unfold execColdStart
  with_reducible repeat' first
    | assumption | intro _ | apply showOwner_moves | apply showArrays_moves | apply showStrap_moves | apply step3_moves
    | apply measTaken_moves | apply railsAt_moves | apply Moves.ite | apply MovesOut.next | apply MovesOut.ite | apply Moves.upd

theorem execTapInstruction_moves {s₀ : State} (ir : Fin 4) (lands : List Byte) (s : State) (h₀ : Moves s₀ s) : MovesOut s₀
    (execTapInstruction ir lands s) := by
  unfold execTapInstruction
  with_reducible repeat' first
    | assumption | intro _ | apply emit_moves | apply Moves.ite | apply MovesOut.next | apply MovesOut.ite | apply Moves.upd

theorem undoRec_moves {s₀ : State} (s : State) (r : PlanRec) (h₀ : Moves s₀ s) : Moves s₀ (undoRec s r) := by
  unfold undoRec
  with_reducible repeat' first | assumption | intro _ | apply setPfld_moves | apply Moves.ite | apply Moves.foldl | split

theorem unbindPages_moves {s₀ : State} (s : State) (h₀ : Moves s₀ s) : Moves s₀ (unbindPages s) := by
  unfold unbindPages
  with_reducible repeat' first | assumption | intro _ | apply setPfld_moves | apply Moves.foldl

theorem preloadPack_moves {s₀ : State} (s : State) (h₀ : Moves s₀ s) : Moves s₀ (preloadPack s) := by
  unfold preloadPack
  with_reducible repeat' first
    | assumption | intro _ | apply setPfld_moves | apply onPm_moves | apply showBreach_moves | apply Moves.ite | apply Moves.foldl

theorem refuseCard_moves {s₀ : State} (s : State) (b : Bad) (h₀ : Moves s₀ s) : Moves s₀ (refuseCard s b) := by
  unfold refuseCard
  with_reducible repeat' first
    | assumption | apply preloadPack_moves | apply unbindPages_moves | apply toStage_moves | apply setPfld_moves | apply onMg_moves

theorem acceptPower_moves {s₀ : State} (s : State) (v : Nat) (h₀ : Moves s₀ s) : Moves s₀ (acceptPower s v) := by
  unfold acceptPower
  refine normalRails_moves _ (.foldl (fun s n h => showFloor_moves s n h) (.foldl (fun s n h => spend_moves (onPm_moves _ _ h)) ?_ _) _)
  exact setPfld_moves _ _ _ (setPfld_moves _ _ _ (setRegs_moves (fun hm => regsOk_putReg hm _ _ _ _ _) h₀))

theorem readCal_moves {s₀ : State} (s : State) (h₀ : Moves s₀ s) : Moves s₀ (readCal s) := by
  unfold readCal
  with_reducible repeat' first
    | assumption | intro _ | apply setPfld_moves | apply measTaken_moves | apply onMg_moves | apply Moves.ite | apply Moves.upd

theorem showPage_moves {s₀ : State} (s : State) (t : Nat) (h₀ : Moves s₀ s) : Moves s₀ (showPage s t) := by
  unfold showPage
  with_reducible repeat' first | assumption | apply setPfld_moves

theorem lockPackage_moves {s₀ : State} (s : State) (l : List PlanRec) (h₀ : Moves s₀ s) : Moves s₀ (lockPackage s l) := by
  unfold lockPackage
  with_reducible repeat' first
    | assumption | intro _ | apply showHeld_moves | apply applyPkgRec_moves | apply unbindPages_moves | apply showPage_moves
    | apply Moves.foldl

theorem verifyCard_moves {s₀ : State} (s : State) (f : CardFacts) (h₀ : Moves s₀ s) : Moves s₀ (verifyCard s f) := by
  unfold verifyCard
  with_reducible repeat' first
    | assumption | intro _ | apply showHeld_moves | apply trained_moves | apply onMg_moves | apply measTaken_moves | apply bootAt_moves
    | apply undoRec_moves | apply refuseCard_moves | apply acceptPower_moves | apply readCal_moves | apply lockPackage_moves
    | apply Moves.foldl | split | dsimp only | apply Moves.upd

theorem execCardVerify_moves {s₀ : State} (facts : CardFacts) (s : State) (h₀ : Moves s₀ s) : MovesOut s₀ (execCardVerify facts s) := by
  unfold execCardVerify
  with_reducible repeat' first
    | assumption | intro _ | apply bootAt_moves | apply verifyCard_moves | apply Moves.ite | apply MovesOut.next | apply MovesOut.ite

theorem execHbmTrainDone_moves {s₀ : State} (failed : List (Fin 12)) (s : State) (h₀ : Moves s₀ s) : MovesOut s₀ (execHbmTrainDone failed s)
    := by
  unfold execHbmTrainDone
  with_reducible repeat' first
    | assumption | intro _ | apply onSet_moves | apply fenceStack_moves | apply onMg_moves | apply SetSt.ok.upd | apply wf_writeMem
    | apply wf_zeroMem | apply regsOk_putField | apply Moves.ite | apply MovesOut.next | apply MovesOut.ite | apply Moves.foldl | split
    | exact SetSt.ok.reg (by assumption) | exact SetSt.ok.cells (by assumption)

theorem startCirc_moves {s₀ : State} (s : State) (i : SetId) (seedling : Bool) (h₀ : Moves s₀ s) : Moves s₀ (startCirc s i seedling) := by
  unfold startCirc
  with_reducible repeat' first | assumption | intro _ | apply onCirc_moves | apply setFld_moves

theorem planTaken_moves {s₀ : State} (s : State) (i : SetId) (l : List PlanRec) (h₀ : Moves s₀ s) : Moves s₀ (planTaken s i l) := by
  unfold planTaken
  with_reducible repeat' first
    | assumption | intro _ | (refine onSet_moves _ (fun _ ht => ht.same rfl rfl) ?_) | apply setFld_moves | apply Moves.ite
    | apply Moves.foldl

theorem startJobs_moves {s₀ : State} (s : State) (i : SetId) (h₀ : Moves s₀ s) : Moves s₀ (startJobs s i) := by
  unfold startJobs
  with_reducible repeat' first | assumption | intro _ | apply startJob_moves | apply Moves.foldl

theorem lockSet_moves {s₀ : State} (s : State) (i : SetId) (e : Loc) (h₀ : Moves s₀ s) : Moves s₀ (lockSet s i e) := by
  unfold lockSet
  with_reducible repeat' first
    | assumption | intro _ | (refine onSet_moves _ (fun _ ht => ht.same rfl rfl) ?_) | apply startCirc_moves | apply planTaken_moves
    | apply applyPlan_moves | apply setFld_moves | apply Moves.ite

theorem goSet_moves {s₀ : State} (s : State) (i : SetId) (h₀ : Moves s₀ s) : Moves s₀ (goSet s i) := by
  unfold goSet
  with_reducible repeat' first
    | assumption | intro _ | apply settle_moves | apply startJobs_moves | apply beginLoad_moves | apply releasePorts_moves | apply Moves.ite

theorem execSetLock_moves {s₀ : State} (ms : Nat) (s : State) (h₀ : Moves s₀ s) : MovesOut s₀ (execSetLock ms s) := by
  unfold execSetLock
  refine .ite (fun _ => .next h₀) fun _ => .next (showStage_moves _ (goSet_moves _ _ (goSet_moves _ _ (setPfld_moves _ _ _ (bootAt_moves _ _ _
    (measTaken_moves _ _ (.upd (lockSet_moves _ _ _ (lockSet_moves _ _ _ (.ite (fun _ => nvmErase_moves (.inl (by omega)) h₀) fun _ => h₀))))))))))

theorem burnSvn_moves {s₀ : State} (s : State) (h₀ : Moves s₀ s) : Moves s₀ (burnSvn s) := by
  unfold burnSvn
  have h1 := fuses_moves (f := { s.fuses with svn := max s.fuses.svn s.mg.svn })
    ⟨le_max_left _ _, fun _ _ => rfl, fun _ h => h, rfl, rfl, rfl, rfl⟩ h₀
  exact .ite (fun _ => showOwner_moves _ (.upd h1)) fun _ => h₀

theorem mayStart_moves {s₀ : State} {s : State} {i : SetId} {t : State} (e : mayStart s i = some t) (h : Moves s₀ s) : Moves s₀ t := by
  unfold mayStart at e
  dsimp only at e
  split at e
  · cases e; exact h
  split at e
  · cases e
  split at e
  · cases e; exact h
  split at e
  · cases e
  split at e
  · cases e
  split at e
  · cases e
  cases e
  exact takeFold_moves _ _ _ _ _ (sendRefold_moves _ _ _ _ _ _ h)

theorem enter_moves {s₀ : State} (s : State) (i : SetId) (st : Nat) (h₀ : Moves s₀ s) : Moves s₀ (enter s i st) := by
  unfold enter
  with_reducible repeat' first
    | assumption | (refine mayStart_moves (by assumption) ?_) | intro _ | apply setFld_moves | apply onCirc_moves | apply circPump_moves
    | apply enterService_moves | apply showStage_moves | apply burnSvn_moves | apply Moves.ite | split

theorem execSeedlingStart_moves {s₀ : State} (i : SetId) (sec : Nat) (s : State) (h₀ : Moves s₀ s) : MovesOut s₀ (execSeedlingStart i sec s)
    := by
  unfold execSeedlingStart
  with_reducible repeat' first
    | assumption | intro _ | apply setPfld_moves | apply settle_moves | apply enter_moves | apply Moves.ite | apply MovesOut.next
    | apply MovesOut.ite

theorem askPromotion_moves {s₀ : State} (s : State) (i : SetId) (h₀ : Moves s₀ s) : Moves s₀ (askPromotion s i) := by
  unfold askPromotion
  with_reducible repeat' first | assumption | apply toOthers_moves | apply holdChange_moves | apply tryConfirm_moves | apply onCirc_moves

theorem execFullLoadDone_moves {s₀ : State} (i : SetId) (sec : Nat) (s : State) (h₀ : Moves s₀ s) : MovesOut s₀ (execFullLoadDone i sec s)
    := by
  unfold execFullLoadDone
  with_reducible repeat' first
    | assumption | intro _ | apply settle_moves | apply enter_moves | apply setPfld_moves | apply askPromotion_moves | apply Moves.ite
    | apply MovesOut.next | apply MovesOut.ite

theorem killJobs_moves {s₀ : State} (s : State) (i : SetId) (fill : Bool) (h₀ : Moves s₀ s) : Moves s₀ (killJobs s i fill) := by
  unfold killJobs
  with_reducible repeat' first
    | assumption | intro _ | apply clearCtrs_moves | apply leaveJob_moves | apply zeroFill_moves | apply setFld_moves
    | apply setTeardown_moves | (refine onSet_moves _ (fun _ ht => ht.same rfl rfl) ?_) | apply endSessions_moves | apply Moves.ite
    | apply Moves.foldl

theorem execPromote_moves {s₀ : State} (i : SetId) (sec : Nat) (s : State) (h₀ : Moves s₀ s) : MovesOut s₀ (execPromote i sec s) := by
  unfold execPromote
  with_reducible repeat' first
    | assumption | intro _ | apply MovesOut.next | apply setFld_moves | apply setPfld_moves | apply settle_moves | apply onCirc_moves
    | apply circPump_moves | apply enterService_moves | apply applyPlan_moves | apply planTaken_moves | apply startJobs_moves
    | apply killJobs_moves | apply Moves.ite | apply MovesOut.ite | split

theorem execAliasReady_moves {s₀ : State} (s : State) (h₀ : Moves s₀ s) : MovesOut s₀ (execAliasReady s) := by
  unfold execAliasReady
  with_reducible repeat' first | assumption | intro _ | apply setPfld_moves | apply Moves.ite | apply MovesOut.next

theorem boxAnswer_moves {s₀ : State} (s : State) (op : Nat) (code : Nat) (data : List Byte) (h₀ : Moves s₀ s) : Moves s₀
    (boxAnswer s op code data) := by
  unfold boxAnswer
  with_reducible repeat' first | assumption | apply raiseVector_moves | apply emit_moves

theorem boxCmd_moves {s₀ : State} (s : State) (op : Nat) (run : State → State) (hr : ∀ s, Moves s₀ s → Moves s₀ (run s)) (h : Moves s₀ s) :
    Moves s₀ (boxCmd s op run) := by
  unfold boxCmd
  with_reducible repeat' first | assumption | intro _ | apply hr | apply boxAnswer_moves | apply Moves.ite

theorem programFw_moves {s₀ : State} (s : State) (h₀ : Moves s₀ s) : Moves s₀ (programFw s) :=
  nvmWrite_moves (.inl (by unfold staged; rw [length_readMem]; omega)) (nvmErase_moves (.inl (by omega)) h₀)

theorem takePiece_moves {s₀ : State} (s : State) (fresh : Bool) (off : Nat) (data : List Byte) (ho : off + data.length ≤ 0x100_0000)
    (h₀ : Moves s₀ s) : Moves s₀ (takePiece s fresh off data) :=
  .ite (fun _ => nvmWrite_moves (.inl (by omega)) (.ite (fun _ => nvmErase_moves (.inl (by omega)) h₀) fun _ => h₀)) fun _ => onMg_moves _ _ h₀

theorem wholeImage_moves {s₀ : State} (s : State) (h₀ : Moves s₀ s) : Moves s₀ (wholeImage s) := by
  unfold wholeImage
  with_reducible repeat' first | assumption | intro _ | apply boxAnswer_moves | apply onMg_moves | apply programFw_moves | apply Moves.ite

theorem execTransferFw_moves {s₀ : State} (a : Fin 5) (off : Nat) (data : List Byte) (s : State) (h₀ : Moves s₀ s) : MovesOut s₀
    (execTransferFw a off data s) := by
  unfold execTransferFw
  refine .next (boxCmd_moves _ _ _ (fun s h => .ite (fun _ => boxAnswer_moves _ _ _ _ h) fun _ => .ite
    (fun _ => boxAnswer_moves _ _ _ _ (onMg_moves _ _ h)) fun _ => .ite (fun _ => boxAnswer_moves _ _ _ _ h) fun hn => ?_) h₀)
  have h1 := takePiece_moves s (a = 0 || a = 1) off data (by omega) h
  exact .ite (fun _ => wholeImage_moves _ h1) fun _ => boxAnswer_moves _ _ _ _ h1

theorem execActivateFw_moves {s₀ : State} (atRestart : Bool) (s : State) (h₀ : Moves s₀ s) : MovesOut s₀ (execActivateFw atRestart s) := by
  unfold execActivateFw
  with_reducible repeat' first
    | assumption | intro _ | apply boxCmd_moves | apply boxAnswer_moves | apply step4_moves | apply setPfld_moves | apply Moves.ite
    | apply MovesOut.next

theorem execGetFwInfo_moves {s₀ : State} (s : State) (h₀ : Moves s₀ s) : MovesOut s₀ (execGetFwInfo s) := by
  unfold execGetFwInfo
  with_reducible repeat' first | assumption | intro _ | apply boxCmd_moves | apply boxAnswer_moves | apply spend_moves | apply MovesOut.next

theorem execIdentify_moves {s₀ : State} (s : State) (h₀ : Moves s₀ s) : MovesOut s₀ (execIdentify s) := by
  unfold execIdentify
  with_reducible repeat' first | assumption | intro _ | apply boxCmd_moves | apply boxAnswer_moves | apply spend_moves | apply MovesOut.next

theorem execGetBoot_moves {s₀ : State} (v : Via) (s : State) (h₀ : Moves s₀ s) : MovesOut s₀ (execGetBoot v s) := by
  unfold execGetBoot
  with_reducible repeat' first | assumption | intro _ | apply vendorCmd_moves | apply answer_moves | apply MovesOut.next

theorem execNonce_moves {s₀ : State} (v : Via) (s : State) (h₀ : Moves s₀ s) : MovesOut s₀ (execNonce v s) := by
  unfold execNonce
  with_reducible repeat' first
    | assumption | intro _ | apply vendorCmd_moves | apply answer_moves | apply onMg_moves | apply spend_moves | apply MovesOut.next

theorem execNonceExpire_moves {s₀ : State} (s : State) (h₀ : Moves s₀ s) : MovesOut s₀ (execNonceExpire s) := by
  unfold execNonceExpire
  with_reducible repeat' first | assumption | apply onMg_moves | apply MovesOut.next

theorem execVendorUnknown_moves {s₀ : State} (v : Via) (op : Nat) (s : State) (h₀ : Moves s₀ s) : MovesOut s₀ (execVendorUnknown v op s)
    := by
  unfold execVendorUnknown
  with_reducible repeat' first | assumption | intro _ | apply answer_moves | apply Moves.ite | apply MovesOut.next

theorem execCardWrite_moves {s₀ : State} (v : Via) (off : Nat) (data : List Byte) (s : State) (h₀ : Moves s₀ s) : MovesOut s₀
    (execCardWrite v off data s) := by
  unfold execCardWrite
  exact .next (vendorCmd_moves _ _ _ _ _ (fun s h => .ite (fun _ => answer_moves _ _ _ _ _ _ h) fun hn =>
    answer_moves _ _ _ _ _ _ (nvmWrite_moves (.inl (by omega)) h)) h₀)

theorem execCardCheck_moves {s₀ : State} (v : Via) (facts : CardFacts) (s : State) (h₀ : Moves s₀ s) : MovesOut s₀ (execCardCheck v facts s)
    := by
  unfold execCardCheck
  with_reducible repeat' first
    | assumption | intro _ | apply vendorCmd_moves | apply answer_moves | apply Moves.ite | apply MovesOut.next | apply MovesOut.ite | split

theorem execSuppWrite_moves {s₀ : State} (v : Via) (off : Nat) (data : List Byte) (s : State) (h₀ : Moves s₀ s) : MovesOut s₀
    (execSuppWrite v off data s) := by
  unfold execSuppWrite
  with_reducible repeat' first
    | assumption | intro _ | apply vendorCmd_moves | apply answer_moves | apply onMg_moves | apply Moves.ite | apply MovesOut.next

theorem takeSupp_moves {s₀ : State} (s : State) (raw : List Byte) (l : List CatEnt) (hr : raw.length ≤ 0x40_0000) (h₀ : Moves s₀ s) : Moves
    s₀ (takeSupp s raw l) :=
  .foldl (fun s i h => beginLoad_moves _ _ _ (onCirc_moves _ _ _ h)) (nvmWrite_moves (.inl (by omega)) (nvmErase_moves (.inl (by omega)) h₀)) _

theorem execSuppCommit_moves {s₀ : State} (v : Via) (s : State) (h₀ : Moves s₀ s) : MovesOut s₀ (execSuppCommit v s) := by
  unfold execSuppCommit
  refine .next (vendorCmd_moves _ _ _ _ _ (fun s h => ?_) h₀)
  refine .ite (fun _ => answer_moves _ _ _ _ _ _ h) fun hn => .ite (fun _ => answer_moves _ _ _ _ _ _ h) fun _ => .ite
    (fun _ => answer_moves _ _ _ _ _ _ (.foldl (fun s i h => setFld_moves _ _ _ _ h) h _)) fun _ => answer_moves _ _ _ _ _ _ (onMg_moves _ _ (takeSupp_moves _ _ _ ?_ h))
  rw [List.length_append, length_readMem, length_readMem]
  omega

theorem execEnrolBegin_moves {s₀ : State} (v : Via) (modulus : List Byte) (s : State) (h₀ : Moves s₀ s) : MovesOut s₀
    (execEnrolBegin v modulus s) := by
  unfold execEnrolBegin
  with_reducible repeat' first
    | assumption | intro _ | apply vendorCmd_moves | apply answer_moves | apply showOwner_moves | apply onMg_moves | apply spend_moves
    | apply Moves.ite | apply MovesOut.next

theorem clearEnrol_moves {s₀ : State} (s : State) (h₀ : Moves s₀ s) : Moves s₀ (clearEnrol s) := by
  unfold clearEnrol
  with_reducible repeat' first | assumption | apply showOwner_moves | apply onMg_moves

theorem execEnrolConfirm_moves {s₀ : State} (v : Via) (sig : List Byte) (s : State) (h₀ : Moves s₀ s) : MovesOut s₀
    (execEnrolConfirm v sig s) := by
  unfold execEnrolConfirm
  refine .next (vendorCmd_moves _ _ _ _ _ (fun s h => .ite (fun _ => answer_moves _ _ _ _ _ _ h) fun _ => ?_) h₀)
  split
  · rename_i n _ hn
    refine .ite (fun _ => answer_moves _ _ _ _ _ _ (toStage_moves _ _ (measTaken_moves _ _ (clearEnrol_moves _ (onMg_moves _ _ (fuses_moves ?_ h)))))) fun _ =>
      answer_moves _ _ _ _ _ _ (clearEnrol_moves _ h)
    refine ⟨le_rfl, fun k hk => ?_, fun _ h => h, rfl, rfl, rfl, rfl⟩
    have hne : k ≠ n := by
      rintro rfl
      have := List.find?_some hn
      simp [enrolled] at this
      exact hk (SMap.get_of_not_mem fun e he => this.1 e.1 e.2 he)
    exact SMap.get_put_ne hne
  · exact answer_moves _ _ _ _ _ _ h

theorem execEnrolTimeout_moves {s₀ : State} (s : State) (h₀ : Moves s₀ s) : MovesOut s₀ (execEnrolTimeout s) := by
  unfold execEnrolTimeout
  with_reducible repeat' first | assumption | intro _ | apply clearEnrol_moves | apply Moves.ite | apply MovesOut.next

theorem execOwnerRelease_moves {s₀ : State} (v : Via) (s : State) (h₀ : Moves s₀ s) : MovesOut s₀ (execOwnerRelease v s) := by
  unfold execOwnerRelease
  refine .next (vendorCmd_moves _ _ _ _ _ (fun s h => ?_) h₀)
  split
  · exact answer_moves _ _ _ _ _ _ h
  · refine answer_moves _ _ _ _ _ _ (measTaken_moves _ _ (showOwner_moves _ (fuses_moves ?_ h)))
    exact ⟨le_rfl, fun _ _ => rfl, fun k hk => bit_putBits_one hk, rfl, rfl, rfl, rfl⟩

theorem stopAll_moves {s₀ : State} (s : State) (h₀ : Moves s₀ s) : Moves s₀ (stopAll s) := by
  unfold stopAll
  with_reducible repeat' first
    | assumption | intro _ | apply setPfld_moves | apply setAlm_moves | apply sendDown_moves | apply sprintEnd_moves
    | apply disableRing_moves | apply toStage_moves | apply almFinal_moves | apply killJobs_moves
    | (refine onSet_moves _ (fun _ ht => ht.same rfl rfl) ?_) | apply Moves.foldl

theorem resetSet_moves {s₀ : State} (s : State) (i : SetId) (h₀ : Moves s₀ s) : Moves s₀ (resetSet s i) :=
  showCoreArrays_moves _ _ (setFld_moves _ _ _ _ (setFld_moves _ _ _ _ (putSet_moves _ (fun h => ⟨(SetSt.ok_reset i).1, by
    exact SMap.wf_keep (fun k => decide (k < 0x090_0000_0000)) (State.st_ok h i).cells⟩) h₀)))

theorem restartStep4_moves {s₀ : State} (s : State) (h₀ : Moves s₀ s) : Moves s₀ (restartStep4 s) := by
  unfold restartStep4
  with_reducible repeat' first
    | assumption | intro _ | apply preloadPack_moves | apply resetSet_moves | apply setPfld_moves | apply showOwner_moves
    | apply measTaken_moves | apply fwTake_moves | apply bootAt_moves | apply Moves.ite | apply Moves.foldl | apply Moves.upd

theorem execRestart_moves {s₀ : State} (v : Via) (s : State) (h₀ : Moves s₀ s) : MovesOut s₀ (execRestart v s) := by
  unfold execRestart
  with_reducible repeat' first
    | assumption | intro _ | apply vendorCmd_moves | apply restartStep4_moves | apply stopAll_moves | apply answer_moves
    | apply MovesOut.next

theorem execShutdown_moves {s₀ : State} (v : Via) (s : State) (h₀ : Moves s₀ s) : MovesOut s₀ (execShutdown v s) := by
  unfold execShutdown
  with_reducible repeat' first
    | assumption | intro _ | apply vendorCmd_moves | apply stopAll_moves | apply answer_moves | apply toStage_moves | apply onCirc_moves
    | apply MovesOut.next

theorem execCxlMailboxCommand_moves {s₀ : State} (c : MboxCmd) (s : State) (h₀ : Moves s₀ s) : MovesOut s₀ (execCxlMailboxCommand c s) := by
  unfold execCxlMailboxCommand
  refine .next ?_
  cases c <;> refine boxCmd_moves _ _ _ (fun s h => ?_) h₀
  case clearEvents => exact .ite (fun _ => boxAnswer_moves _ _ _ _ h) fun _ => boxAnswer_moves _ _ _ _ (.upd h)
  case getLog => exact .ite (fun _ => boxAnswer_moves _ _ _ _ h) fun _ => boxAnswer_moves _ _ _ _ (spend_moves h)
  case supportedLogs => exact boxAnswer_moves _ _ _ _ (spend_moves h)
  case setTimestamp => exact boxAnswer_moves _ _ _ _ (onMg_moves _ _ h)
  all_goals exact boxAnswer_moves _ _ _ _ h

theorem mctpAnswer_moves {s₀ : State} (s : State) (b : Fin 2) (cmd : Nat) (code : Nat) (data : List Byte) (h₀ : Moves s₀ s) : Moves s₀
    (mctpAnswer s b cmd code data) := by
  unfold mctpAnswer
  with_reducible repeat' first | assumption | apply emit_moves

theorem execMctpControl_moves {s₀ : State} (b : Fin 2) (c : MctpReq) (s : State) (h₀ : Moves s₀ s) : MovesOut s₀ (execMctpControl b c s)
    := by
  unfold execMctpControl
  refine .next (.ite (fun _ => ?_) fun _ => ?_)
  · cases c with
    | ibi on => exact .ite (fun _ => .upd h₀) fun _ => h₀
    | _ => exact h₀
  cases c with
  | setEid e => exact .ite (fun _ => mctpAnswer_moves _ _ _ _ _ h₀) fun _ => mctpAnswer_moves _ _ _ _ _ (onMg_moves _ _ h₀)
  | ibi on => exact .ite (fun _ => .upd h₀) fun _ => h₀
  | _ => exact mctpAnswer_moves _ _ _ _ _ h₀

theorem spdmAnswer_moves {s₀ : State} (s : State) (args : List Nat) (data : List Byte) (h₀ : Moves s₀ s) : Moves s₀ (spdmAnswer s args data)
    := by
  unfold spdmAnswer
  with_reducible repeat' first | assumption | apply emit_moves

theorem spdmError_moves {s₀ : State} (s : State) (code : Nat) (h₀ : Moves s₀ s) : Moves s₀ (spdmError s code) := by
  unfold spdmError
  with_reducible repeat' first | assumption | apply spdmAnswer_moves

theorem spdmCmd_moves {s₀ : State} (s : State) (run : State → State) (hr : ∀ s, Moves s₀ s → Moves s₀ (run s)) (h : Moves s₀ s) : Moves s₀
    (spdmCmd s run) := by
  unfold spdmCmd
  with_reducible repeat' first | assumption | intro _ | apply hr | apply spdmError_moves | apply Moves.ite

theorem showSpdm_moves {s₀ : State} (s : State) (h₀ : Moves s₀ s) : Moves s₀ (showSpdm s) := by
  unfold showSpdm
  with_reducible repeat' first | assumption | apply setPfld_moves

theorem inSession_moves {s₀ : State} (s : State) (run : State → State) (hr : ∀ s, Moves s₀ s → Moves s₀ (run s)) (h : Moves s₀ s) : Moves s₀
    (inSession s run) := by
  unfold inSession
  with_reducible repeat' first | assumption | intro _ | apply hr | apply spdmError_moves | apply Moves.ite

theorem execSpdmRequest_moves {s₀ : State} (r : SpdmReq) (s : State) (h₀ : Moves s₀ s) : MovesOut s₀ (execSpdmRequest r s) := by
  unfold execSpdmRequest
  with_reducible repeat' first
    | assumption | intro _ | apply spdmCmd_moves | apply spdmAnswer_moves | apply spdmError_moves | apply spend_moves | apply onMg_moves
    | apply showSpdm_moves | apply inSession_moves | apply setPfld_moves | apply Moves.ite | apply MovesOut.next | apply MovesOut.ite
    | split

theorem execGetMeasurements_moves {s₀ : State} (index : Nat) (s : State) (h₀ : Moves s₀ s) : MovesOut s₀ (execGetMeasurements index s) := by
  unfold execGetMeasurements
  with_reducible repeat' first
    | assumption | intro _ | apply spdmCmd_moves | apply spdmAnswer_moves | apply spdmError_moves | apply Moves.ite | apply MovesOut.next

theorem holdSlot_moves {s₀ : State} (s : State) (i : SetId) (k : Nat) (n : Nat) (h₀ : Moves s₀ s) : Moves s₀ (holdSlot s i k n) := by
  unfold holdSlot
  with_reducible repeat' first | assumption | intro _ | apply setPfld_moves | apply setSlotState_moves | apply Moves.ite

theorem releaseSlot_moves {s₀ : State} (s : State) (i : SetId) (k : Nat) (n : Nat) (h₀ : Moves s₀ s) : Moves s₀ (releaseSlot s i k n) := by
  unfold releaseSlot
  with_reducible repeat' first | assumption | intro _ | apply setSlotState_moves | apply Moves.ite

theorem writeHold_moves {s₀ : State} (s : State) (i : SetId) (k : Nat) (v : Nat) (h₀ : Moves s₀ s) : Moves s₀ (writeHold s i k v) := by
  unfold writeHold
  with_reducible repeat' first
    | assumption | intro _ | apply setFld_moves | apply holdSlot_moves | apply releaseSlot_moves | apply Moves.ite | apply Moves.foldl

theorem stepSlot_moves {s₀ : State} (s : State) (i : SetId) (k : Nat) (n : Nat) (h₀ : Moves s₀ s) : Moves s₀ (stepSlot s i k n) := by
  unfold stepSlot
  with_reducible repeat' first
    | assumption | intro _ | apply setFld_moves | apply setSlotState_moves | apply haltSlot_moves | apply issueFrom_moves
    | (refine issueFrom_moves_eq (by assumption) ?_) | apply recheckSlot_moves | apply startEntry_moves | apply Moves.ite | split

theorem writeStep_moves {s₀ : State} (s : State) (i : SetId) (k : Nat) (v : Nat) (h₀ : Moves s₀ s) : Moves s₀ (writeStep s i k v) := by
  unfold writeStep
  with_reducible repeat' first | assumption | intro _ | apply stepSlot_moves | apply Moves.ite | apply Moves.foldl

theorem execDebugHold_moves {s₀ : State} (i : SetId) (core : CoreId) (slots : Fin 256) (s : State) (h₀ : Moves s₀ s) : MovesOut s₀
    (execDebugHold i core slots s) := by
  unfold execDebugHold
  with_reducible repeat' first | assumption | intro _ | apply settle_moves | apply writeHold_moves | apply Moves.ite | apply MovesOut.next

theorem execDebugRelease_moves {s₀ : State} (i : SetId) (core : CoreId) (slots : Fin 256) (s : State) (h₀ : Moves s₀ s) : MovesOut s₀
    (execDebugRelease i core slots s) := by
  unfold execDebugRelease
  with_reducible repeat' first | assumption | intro _ | apply settle_moves | apply writeHold_moves | apply Moves.ite | apply MovesOut.next

theorem execDebugStep_moves {s₀ : State} (i : SetId) (core : CoreId) (slots : Fin 256) (s : State) (h₀ : Moves s₀ s) : MovesOut s₀
    (execDebugStep i core slots s) := by
  unfold execDebugStep
  with_reducible repeat' first | assumption | intro _ | apply settle_moves | apply writeStep_moves | apply Moves.ite | apply MovesOut.next

end Sys2Proof.Machine
end

