-- ==== Sys2Proof/Laws/MovesHost.lean ====
section
/-! SUPPORT. `Moves` for each operation and each command: what the host's accesses do. -/

namespace Sys2Proof.Machine

theorem hostAnswer_moves {s₀ : State} (s : State) (kind : Nat) (data : List Byte) (h₀ : Moves s₀ s) : Moves s₀ (hostAnswer s kind data)
    := by
  unfold hostAnswer
  with_reducible repeat' first | assumption | apply emit_moves

theorem hostWord_moves {s₀ : State} (s : State) (i : SetId) (a : Nat) (h₀ : Moves s₀ s) : Moves s₀ (hostWord s i a).2.2 := by
  unfold hostWord
  with_reducible repeat' first | assumption | intro _ | apply countUncorr_moves | apply countCorr_moves | apply Moves.ite | split

theorem hostWord_moves_eq {s₀ t₀ : State} {s : State} {i : SetId} {a : Nat} {r0 r1} (he₀ : hostWord s i a = (r0, r1, t₀)) (h₀ : Moves s₀ s)
    : Moves s₀ t₀ := by
  have := hostWord_moves s i a h₀; rw [he₀] at this; exact this

theorem hostWords_moves {s₀ : State} (i : SetId) (s : State) (a n : Nat) (h : Moves s₀ s) : Moves s₀ (hostWords i s a n).2.2 := by
  induction n generalizing s a with
  | zero => exact h
  | succ n ih => exact ih _ _ (hostWord_moves _ _ _ h)

theorem hostWords_moves_eq {s₀ t : State} {i : SetId} {s : State} {a n : Nat} {r0 r1} (e : hostWords i s a n = (r0, r1, t)) (h : Moves s₀ s)
    : Moves s₀ t := by
  have := hostWords_moves i s a n h; rw [e] at this; exact this

theorem hostBytes_moves {s₀ : State} (s : State) (i : SetId) (a : Nat) (n : Nat) (h₀ : Moves s₀ s) : Moves s₀ (hostBytes s i a n).2.2 := by
  unfold hostBytes
  with_reducible repeat' first | assumption | intro _ | apply hostWords_moves

theorem hostBytes_moves_eq {s₀ t₀ : State} {s : State} {i : SetId} {a : Nat} {n : Nat} {r0 r1} (he₀ : hostBytes s i a n = (r0, r1, t₀))
    (h₀ : Moves s₀ s) : Moves s₀ t₀ := by
  have := hostBytes_moves s i a n h₀; rw [he₀] at this; exact this

theorem aperRead_moves {s₀ : State} (s : State) (a off n : Nat) (h₀ : Moves s₀ s) : Moves s₀ (aperRead s a off n) := by
  unfold aperRead
  generalize aperAt s a off = p
  obtain ⟨i, x⟩ := p
  have h1 := hostBytes_moves s i x n h₀
  refine .ite (fun _ => hostAnswer_moves _ _ _ h₀) fun _ => .ite (fun _ => hostAnswer_moves _ _ _ h₀) fun _ => .ite
    (fun _ => hostAnswer_moves _ _ _ (setPfld_moves _ _ _ h₀)) fun _ => ?_
  generalize hostBytes s i x n = q at h1
  exact .ite (fun _ => hostAnswer_moves _ _ _ (setPfld_moves _ _ _ h1)) fun _ => hostAnswer_moves _ _ _ h1

theorem aperWrite_moves {s₀ : State} (s : State) (a : Nat) (off : Nat) (d : List Byte) (h₀ : Moves s₀ s) : Moves s₀ (aperWrite s a off d) :=
    by
  unfold aperWrite
  with_reducible repeat' first
    | assumption | intro _ | apply setPfld_moves | apply store_moves | apply endDueJobs_moves | apply hostAnswer_moves | apply Moves.ite

theorem hdmRead_moves {s₀ : State} (s : State) (i : SetId) (off : Nat) (n : Nat) (h₀ : Moves s₀ s) : Moves s₀ (hdmRead s i off n) := by
  unfold hdmRead
  with_reducible repeat' first
    | assumption | intro _ | apply hostAnswer_moves | apply setPfld_moves | apply hostBytes_moves | apply Moves.ite | split

theorem hdmWrite_moves {s₀ : State} (s : State) (i : SetId) (off : Nat) (d : List Byte) (h₀ : Moves s₀ s) : Moves s₀ (hdmWrite s i off d)
    := by
  unfold hdmWrite
  with_reducible repeat' first
    | assumption | intro _ | apply store_moves | apply endDueJobs_moves | apply setPfld_moves | apply Moves.ite | split

theorem onCfg_moves {s₀ : State} (s : State) (f : CfgRegs → CfgRegs) (h₀ : Moves s₀ s) : Moves s₀ (onCfg s f) := by
  unfold onCfg
  with_reducible repeat' first | assumption | intro _ | apply Moves.upd

theorem cfgRead_moves {s₀ : State} (s : State) (o : Nat) (n : Nat) (h₀ : Moves s₀ s) : Moves s₀ (cfgRead s o n) := by
  unfold cfgRead
  with_reducible repeat' first | assumption | intro _ | apply hostAnswer_moves | apply Moves.ite

theorem doeRun_moves {s₀ : State} (s : State) (h₀ : Moves s₀ s) : Moves s₀ (doeRun s) := by
  unfold doeRun
  with_reducible repeat' first | assumption | intro _ | apply spend_moves | apply onCfg_moves | apply Moves.ite

theorem cfgWrite_moves {s₀ : State} (s : State) (o : Nat) (d : List Byte) (h₀ : Moves s₀ s) : Moves s₀ (cfgWrite s o d) := by
  unfold cfgWrite
  with_reducible repeat' first
    | assumption | intro _ | apply flushVectors_moves | apply hostAnswer_moves | apply onCfg_moves | apply doeRun_moves | apply Moves.ite
    | apply Moves.upd

theorem hostRead_moves {s₀ : State} (s : State) (bar addr n : Nat) (h₀ : Moves s₀ s) : Moves s₀ (hostRead s bar addr n) := by
  have ha := fun c d => hostAnswer_moves s c d h₀
  unfold hostRead
  refine .ite (fun _ => aperRead_moves _ _ _ _ h₀) fun _ => .ite (fun _ => ha _ _) fun _ => .ite (fun _ => .ite (fun _ => hostAnswer_moves _ _ _ (spend_moves h₀)) fun _ => ?_) fun _ => .ite
    (fun _ => ?_) fun _ => ha _ _
  · split
    · generalize (if setDark _ _ = true then none else _ : Option _) = x
      cases x with
      | none => exact ha _ _
      | some p => exact hostAnswer_moves _ _ _ (onSet_moves _ (fun t ht => ht.regs (regsOk_clearRead ht.1 _ _ _ _)) h₀)
    · generalize regAt .pkg addr = x
      cases x with
      | none => exact ha _ _
      | some p => exact hostAnswer_moves _ _ _ (setRegs_moves (fun hm => regsOk_clearRead hm _ _ _ _) h₀)
  · dsimp only
    generalize regAt .page (addr % 0x1_0000) = x
    cases x <;> exact ha _ _

theorem writePkg_moves {s₀ : State} (s : State) (r : Reg) (ix off : Nat) (d : List Byte) (h₀ : Moves s₀ s) : Moves s₀
    (writePkg s r ix off d) := by
  have hp : ∀ b, Moves s₀ { s with regs := plainWrite s.regs b r ix off d } := fun b => setRegs_moves (fun hm => regsOk_plainWrite hm _ _ _ _ _) h₀
  unfold writePkg
  dsimp only
  split
  · exact .ite (fun _ => writeCap_moves _ _ (hp _)) fun _ => hp _
  · exact .ite (fun _ => requestSprint_moves _ _ h₀) fun _ => h₀
  · exact .ite (fun _ => hp _) fun _ => hp _
  · exact hp _

theorem nextOf_moves {s₀ : State} (o : Out) (s : State) (ho : MovesOut s₀ o) (h₀ : Moves s₀ s) : Moves s₀ (nextOf o s) := by
  unfold nextOf
  split
  · exact ho.state _ rfl
  · exact h₀

theorem writeSegs_moves {s₀ : State} (s : State) (i : SetId) (die : Nat) (v : Nat) (h₀ : Moves s₀ s) : Moves s₀ (writeSegs s i die v) := by
  unfold writeSegs
  with_reducible repeat' first
    | assumption | intro _ | apply nextOf_moves | apply execSegmentPowerOn_moves | apply execSegmentPowerOff_moves | apply Moves.ite
    | apply Moves.foldl

theorem writeJob_moves {s₀ : State} (s : State) (i : SetId) (j : Nat) (v : Nat) (h₀ : Moves s₀ s) : Moves s₀ (writeJob s i j v) := by
  unfold writeJob
  with_reducible repeat' first
    | assumption | intro _ | apply setFld_moves | apply leaveJob_moves | apply fillOnChip_moves | apply startJob_moves | apply Moves.ite

theorem writePort_moves {s₀ : State} (s : State) (i : SetId) (p : Nat) (v : Nat) (h₀ : Moves s₀ s) : Moves s₀ (writePort s i p v) := by
  unfold writePort
  with_reducible repeat' first
    | assumption | intro _ | apply writeDisable_moves | apply askRetrain_moves | apply rescan_moves | apply Moves.ite

theorem writeSet_moves {s₀ : State} (s : State) (i : SetId) (r : Reg) (ix off : Nat) (d : List Byte) (h₀ : Moves s₀ s) : Moves s₀
    (writeSet s i r ix off d) := by
  have hp : ∀ (s : State) (r : Reg) (b : Bool), Moves s₀ s → Moves s₀ (s.onSet i fun t => { t with regs := plainWrite t.regs b r ix off d }) := fun s r b h =>
    onSet_moves _ (fun t ht => ht.regs (regsOk_plainWrite ht.1 _ _ _ _ _)) h
  unfold writeSet
  dsimp only
  split
  · exact .ite (fun _ => writeStep_moves _ _ _ _ (writeHold_moves _ _ _ _ h₀)) fun _ => h₀
  · exact .ite (fun _ => writeSlotMap_moves _ _ _ _ h₀) fun _ => h₀
  · exact .ite (fun _ => writeSegs_moves _ _ _ _ h₀) fun _ => h₀
  · exact .ite (fun _ => h₀) fun _ => .ite (fun _ => writeJob_moves _ _ _ _ h₀) fun _ => hp _ _ _ h₀
  · exact hp _ _ _ h₀
  · exact .ite (fun _ => startLoopback_moves _ _ _ (hp _ _ _ h₀)) fun _ => hp _ _ _ h₀
  · exact .ite (fun _ => fenceStack_moves _ _ _ _ h₀) fun _ => h₀
  · exact .ite (fun _ => h₀) fun _ => .ite (fun _ => writePort_moves _ _ _ _ h₀) fun _ => hp _ _ _ h₀
  · exact .ite (fun _ => writeSwitch_moves _ _ _ _ _ h₀) fun _ => h₀
  all_goals exact hp _ _ _ h₀

theorem writeRing_moves {s₀ : State} (s : State) (t off : Nat) (d : List Byte) (h₀ : Moves s₀ s) : Moves s₀ (writeRing s t off d) := by
  have hp : Moves s₀ { s with regs := plainWrite s.regs false .SESS_RING t off d } := setRegs_moves (fun hm => regsOk_plainWrite hm _ _ _ _ _) h₀
  have h2 := fun a b c => setPfld_moves .SESS_RING_VER t a (setPfld_moves .SESS_RING_CQ_LOG2 t b (setPfld_moves .SESS_RING_SQ_LOG2 t c hp))
  unfold writeRing
  exact .ite (fun _ => hp) fun _ => .ite (fun _ => .ite (fun _ => hp) fun _ => disableRing_moves _ _ _ hp) fun _ => .ite
    (fun _ => enableRing_moves _ _ (h2 _ _ _)) fun _ => h2 _ _ _

theorem writeWait_moves {s₀ : State} (s : State) (t w off : Nat) (d : List Byte) (h₀ : Moves s₀ s) : Moves s₀ (writeWait s t w off d) := by
  unfold writeWait
  exact .ite (fun _ => hostArm_moves _ _ _ _ _ _ _ h₀) fun _ => setRegs_moves (fun hm => regsOk_plainWrite hm _ _ _ _ _)
    (.ite (fun _ => dropHostWait_moves _ _ _ h₀) fun _ => h₀)

theorem writePage_moves {s₀ : State} (s : State) (t : Nat) (r : Reg) (w off : Nat) (d : List Byte) (h₀ : Moves s₀ s) : Moves s₀
    (writePage s t r w off d) := by
  have hp : ∀ r, Moves s₀ { s with regs := plainWrite s.regs true r t off d } := fun r => setRegs_moves (fun hm => regsOk_plainWrite hm _ _ _ _ _) h₀
  unfold writePage
  dsimp only
  split
  · exact hostSignal_moves _ _ _ _ h₀
  · exact writeWait_moves _ _ _ _ _ h₀
  · exact writeRing_moves _ _ _ _ h₀
  · exact .ite (fun _ => writeSqTail_moves _ _ _ h₀) fun _ => h₀
  · exact .ite (fun _ => writeCqHead_moves _ _ _ h₀) fun _ => h₀
  · exact .ite (fun _ => h₀) fun _ => hp _
  · exact .ite (fun _ => h₀) fun _ => hp _
  · exact hp _

theorem writeMsix_moves {s₀ : State} (s : State) (o : Nat) (d : List Byte) (h₀ : Moves s₀ s) : Moves s₀ (writeMsix s o d) := by
  unfold writeMsix
  with_reducible repeat' first | assumption | intro _ | apply flushVectors_moves | apply Moves.ite | apply Moves.upd

theorem hostWriteReg_moves {s₀ : State} (s : State) (bar : Nat) (addr : Nat) (d : List Byte) (h₀ : Moves s₀ s) : Moves s₀
    (hostWriteReg s bar addr d) := by
  unfold hostWriteReg
  with_reducible repeat' first
    | assumption | intro _ | apply aperWrite_moves | apply hostAnswer_moves | apply settle_moves | apply writeSet_moves
    | apply writePkg_moves | apply writePage_moves | apply writeMsix_moves | apply Moves.ite | split | dsimp only

theorem hostDo_moves {s₀ : State} (s : State) (z2 : HostReq) (h₀ : Moves s₀ s) : Moves s₀ (hostDo s z2) := by
  unfold hostDo
  with_reducible repeat' first
    | assumption | intro _ | apply hostRead_moves | apply hostWriteReg_moves | apply aperRead_moves | apply aperWrite_moves
    | apply hdmRead_moves | apply hdmWrite_moves | apply Moves.ite | split

theorem drainHost_moves {s₀ : State} (s : State) (h₀ : Moves s₀ s) : Moves s₀ (drainHost s) := by
  unfold drainHost
  with_reducible repeat' first | assumption | intro _ | apply hostDo_moves | apply Moves.ite | apply Moves.foldl | apply Moves.upd

theorem hostAccess_moves {s₀ : State} (s : State) (r : HostReq) (h₀ : Moves s₀ s) : Moves s₀ (hostAccess s r) := by
  unfold hostAccess
  with_reducible repeat' first | assumption | intro _ | apply hostDo_moves | apply drainHost_moves | apply Moves.ite | apply Moves.upd

theorem dropPages_moves {s₀ : State} (s : State) (h₀ : Moves s₀ s) : Moves s₀ (dropPages s) := by
  unfold dropPages
  with_reducible repeat' first | assumption | intro _ | apply setPfld_moves | apply disableRing_moves | apply Moves.foldl

theorem loseHost_moves {s₀ : State} (s : State) (cause : Nat) (h₀ : Moves s₀ s) : Moves s₀ (loseHost s cause) := by
  unfold loseHost
  with_reducible repeat' first
    | assumption | intro _ | apply setPfld_moves | apply satPfld_moves | apply reportPkg_moves | apply dropPages_moves | apply Moves.ite
    | apply Moves.upd

theorem hostConfig_moves {s₀ : State} (s : State) (o : Nat) (d : List Byte) (h₀ : Moves s₀ s) : Moves s₀ (hostConfig s o d) := by
  unfold hostConfig
  have h := cfgWrite_moves s o d h₀
  exact .ite (fun _ => h) fun _ => .ite (fun _ => drainHost_moves _ (flushVectors_moves _ (showHeld_moves _ (.upd h)))) fun _ =>
    loseHost_moves _ _ h

theorem execRegisterWrite_moves {s₀ : State} (bar : Nat) (addr : Nat) (data : List Byte) (s : State) (h₀ : Moves s₀ s) : MovesOut s₀
    (execRegisterWrite bar addr data s) := by
  unfold execRegisterWrite
  with_reducible repeat' first
    | assumption | intro _ | apply MovesOut.next | apply hostAccess_moves | apply hostConfig_moves | apply Moves.ite

theorem execReadClear_moves {s₀ : State} (bar : Nat) (addr : Nat) (len : Nat) (s : State) (h₀ : Moves s₀ s) : MovesOut s₀ (execReadClear bar
    addr len s) := by
  unfold execReadClear
  with_reducible repeat' first | assumption | intro _ | apply MovesOut.next | apply cfgRead_moves | apply hostAccess_moves | apply Moves.ite

theorem execApertureRead_moves {s₀ : State} (a : Fin 4) (off : Nat) (len : Nat) (s : State) (h₀ : Moves s₀ s) : MovesOut s₀
    (execApertureRead a off len s) := by
  unfold execApertureRead
  with_reducible repeat' first | assumption | apply hostAccess_moves | apply MovesOut.next

theorem execApertureWrite_moves {s₀ : State} (a : Fin 4) (off : Nat) (data : List Byte) (s : State) (h₀ : Moves s₀ s) : MovesOut s₀
    (execApertureWrite a off data s) := by
  unfold execApertureWrite
  with_reducible repeat' first | assumption | apply hostAccess_moves | apply MovesOut.next

theorem execHdmAccess_moves {s₀ : State} (i : SetId) (off : Nat) (len : Nat) (data : Option (List Byte)) (s : State) (h₀ : Moves s₀ s) :
    MovesOut s₀ (execHdmAccess i off len data s) := by
  unfold execHdmAccess
  with_reducible repeat' first
    | assumption | intro _ | apply hostAccess_moves | apply Moves.ite | apply MovesOut.next | apply MovesOut.ite | split

theorem execHostLinkUp_moves {s₀ : State} (mode : Fin 6) (width : Nat) (cache : Bool) (mem : Bool) (bme : Bool) (msix : Bool) (s : State)
    (h₀ : Moves s₀ s) : MovesOut s₀ (execHostLinkUp mode width cache mem bme msix s) := by
  unfold execHostLinkUp
  with_reducible repeat' first
    | assumption | intro _ | apply setPfld_moves | apply drainHost_moves | apply flushVectors_moves | apply showHeld_moves | apply Moves.ite
    | apply MovesOut.next | apply MovesOut.ite | apply Moves.upd

theorem execHostLinkDown_moves {s₀ : State} (cause : Fin 3) (s : State) (h₀ : Moves s₀ s) : MovesOut s₀ (execHostLinkDown cause s) := by
  unfold execHostLinkDown
  with_reducible repeat' first | assumption | intro _ | apply MovesOut.next | apply loseHost_moves | apply Moves.ite

theorem execIdeStateChange_moves {s₀ : State} (io : Bool) (cm : Bool) (s : State) (h₀ : Moves s₀ s) : MovesOut s₀
    (execIdeStateChange io cm s) := by
  unfold execIdeStateChange
  with_reducible repeat' first
    | assumption | intro _ | apply setPfld_moves | apply showHeld_moves | apply drainHost_moves | apply reportPkg_moves | apply Moves.ite
    | apply MovesOut.next | apply MovesOut.ite

theorem execHostDmaFail_moves {s₀ : State} (k : DmaFail) (s : State) (h₀ : Moves s₀ s) : MovesOut s₀ (execHostDmaFail k s) := by
  unfold execHostDmaFail
  with_reducible repeat' first
    | assumption | intro _ | apply execSqFetch_moves | apply fetchFailed_moves | apply reportPkg_moves | apply setPfld_moves
    | apply countDma_moves | apply disableRing_moves | apply onCirc_moves | apply Moves.ite | apply MovesOut.next | apply MovesOut.ite | split

end Sys2Proof.Machine
end

