-- ==== Sys2Proof/Tests/Slice0.lean ====
section
/-! SUPPORT. The model's own tests: what WellFormed refuses, values worked out from the manual or from the standards it names, and for
every statement with hypotheses a state that meets them. -/

namespace Sys2Proof.Tests

open Sys2Proof.Machine

/-! ## Ill-formed commands -/

/-- Issue with the given HBM words disturbed. -/
def upset (u : List Upset) : Issue := { set := 0, core := 0, disagree := false, upsets := u }

def msg (place : Nat) (body : List Byte) (poisoned : List Nat) : ChanMsg :=
  { place := place, core := 0, chan := 0, seq := 0, body := body, poisoned := poisoned }

/-- The return of a pass of one session: its slot, its status, its tokens, records and drafts. -/
def ret (slot status : Nat) (toks : List Nat) (recs : List (List Byte)) (drafts : List Nat) : PassRet :=
  { num := 0, discard := false, parts := [{ slot := slot, commit := 0, reason := 0, status := status, toks := toks, recs := recs, drafts := drafts }] }

/-- The header of a pass that binds one session: its slot, its status, its stop sequences. -/
def bound (slot status : Nat) (stops : List (List Nat)) : Instr :=
  .passHeader 0 [{ slot := slot, commit := 0, first := false, maxnew := 0, gen := 0, status := status, facts := { stops := stops } }] false

def via (auth : Option (List Byte × List Byte)) : Via := { mctp := false, secured := false, auth := auth }

def zeros (n : Nat) : List Byte := List.replicate n 0

/-- One command for each check of WellFormed that fails just this check. -/
def illFormed1 : List Instr :=
  [.coldStart (2 ^ 18) true, .cardVerify { full0 := [[]] }, .cardVerify { seed0 := [[]] }, .cardVerify { full1 := [[]] },
    .cardVerify { seed1 := [[]] }, .powerSample 0 (List.replicate 19 0) 0 0, .envCapWrite 512, .sprintRequest 2048 true]

def illFormed2 : List Instr :=
  [.move (upset [{ addr := 1, pat := zeros 36 }]), .wait (upset [{ addr := 2 ^ 44, pat := zeros 36 }]),
    .harvest (upset [{ addr := 32, pat := zeros 35 }]) none, .windowWrite 0 (2 ^ 18) 0 (zeros 32) [],
    .windowWrite 0 0 (2 ^ 44) (zeros 32) [], .windowWrite 0 0 1 (zeros 32) [], .windowWrite 0 0 0 (zeros 31) [], .windowWrite 0 0 0 [] [],
    .windowWrite 0 0 0 (zeros 32) [32]]

def illFormed3 : List Instr :=
  [.slotMapWrite 0 0 (2 ^ 16), .tileFrame 0 0 [] [], .tileFrame 0 0 (zeros 33) [], .tileFrame 0 0 (zeros 32) [1],
    .turnFrame 0 0 [], .circSwitch 0 (2 ^ 16) false true, .loadFrame 0 1024 (zeros 32) [], .loadFrame 0 0 [] []]

def illFormed4 : List Instr :=
  [.repairTransfer 0 0 0 [0], .tierPieceStaged 0 ⟨0, 0, false⟩ [0] [] 0, .frameSeal 0 0 0 0 512 [],
    .passReturn 0 (ret 16384 0 [] [] []), .passReturn 0 (ret 0 (2 ^ 16) [] [] []), .passReturn 0 (ret 0 0 [2 ^ 32] [] []),
    .passReturn 0 (ret 0 0 [] [zeros 63] []), .passReturn 0 (ret 0 0 [] [] [2 ^ 32]), bound 16384 0 [], bound 0 (2 ^ 16) [],
    bound 0 0 (List.replicate 9 []), bound 0 0 [List.replicate 17 0], bound 0 0 [[2 ^ 32]],
    .stackTempRead 0 0 [85], .sqTailWrite 0 (2 ^ 16), .sqFetch 0 [] none, .cqHeadWrite 0 (2 ^ 20)]

def illFormed5 : List Instr :=
  [.remoteSignal 0 (2 ^ 18) 0 1, .remoteSignal 0 0 0 (2 ^ 31), .hostSignal 0 4096 1, .hostSignal 0 0 (2 ^ 31),
    .hostWaitArm 0 0 4096 1 false 0, .hostWaitArm 0 0 0 (2 ^ 31) false 0, .hostWaitArm 0 0 0 1 true 2048]

def illFormed6 : List Instr :=
  [.chanMessage 0 0 0 (msg (2 ^ 18) [] []), .chanMessage 0 0 0 (msg 0 [0] []), .chanMessage 0 0 0 (msg 0 (zeros 4128) []),
    .chanMessage 0 0 0 (msg 0 [] [0]), .flitReceive 0 0 [], .identRecord 0 0 [], .hostDmaFail (.session 0 []), .hdmAccess 0 0 0 none,
    .hdmAccess 0 0 65 none, .hdmAccess 0 0 2 (some [0])]

def illFormed7 : List Instr :=
  [.apertureRead 0 (2 ^ 26) 4, .apertureRead 0 0 0, .apertureWrite 0 0 [], .registerWrite 1 0 [0], .registerWrite 0 0 [],
    .registerWrite 0 0 (zeros 65), .readClear 1 0 4, .readClear 0 0 0, .readClear 0 0 65]

def illFormed8 : List Instr :=
  [.getBoot (via (some ([], zeros 384))), .shutdown (via (some (zeros 32, []))), .cardCheck (via none) { full0 := [[]] },
    .vendorUnknown (via none) 0xC000, .vendorUnknown (via none) 0xC020, .faultRecord 0 [], .hostLinkUp 0 3 true true true true]

theorem test_illformed_refused : [illFormed1, illFormed2, illFormed3, illFormed4, illFormed5, illFormed6, illFormed7,
    illFormed8].all (fun l => l.all fun c => !c.wf) = true := by decide +kernel

theorem test_wellformed_accepted : [Instr.coldStart (2 ^ 18 - 1) true, .envCapWrite 511, .sprintRequest 2047 true,
    .windowWrite 0 (2 ^ 18 - 1) (2 ^ 44 - 32) (zeros 32) [0, 31], .tileFrame 0 1 (zeros 64) [1],
    .passReturn 0 (ret 16383 (2 ^ 16 - 1) [2 ^ 32 - 1] [zeros 64] [2 ^ 32 - 1]), bound 16383 (2 ^ 16 - 1) (List.replicate 8 (List.replicate 16 (2 ^ 32 - 1))),
    .hdmAccess 1 0 64 (some (zeros 64)), .registerWrite 4 0 (zeros 64),
    .vendorUnknown (via (some (zeros 32, zeros 384))) 0xC01F].all Instr.wf = true := by
  decide +kernel

/-- The table gives its rows no bits: no word spells a command, and none is put into the queue (log entry 3). -/
theorem test_no_words : decodeTableWord 64 0xFFFF_FFFF = none ∧ State.reset.withFetchWord 64 1 = State.reset := by decide +kernel

/-! ## Values the manual works out -/

/-- A state with package fields, and fields of set 0, at given values: (field, instance, value). -/
def setUp (p t : List (Field × Nat × Nat)) (s : State := State.reset) : State :=
  t.foldl (fun s e => s.setFld 0 e.1 e.2.1 e.2.2) (p.foldl (fun s e => s.setPfld e.1 e.2.1 e.2.2) s)

/-- The example of 15.1: b31 = 0x01 alone has check bytes 0x0F, 0x36, 0x78, 0x40; a zero word has zero check bytes. -/
theorem test_check_bytes : checkBytes (List.replicate 31 0 ++ [1]) = [0x0F, 0x36, 0x78, 0x40] ∧ checkBytes (List.replicate 32 0) = [0, 0, 0, 0] := by
  decide +kernel

/-- R409: a word that lost one symbol is corrected, and one that lost two is where the code corrects two. -/
theorem test_word_code : decodeWord false ((List.replicate 31 0 ++ [1]) ++ [0x0F, 0x36, 0x78, 0x41]) = .fixed (symErr 35 1) ∧
    decodeWord true (List.replicate 36 0) = .valid := by decide +kernel

/-- The example of 4.6: 2^24 + 2 in one rounding, where two roundings would lose it. -/
theorem test_step_rounds_once : cellStep (toFP32 (.fin false 1 24)) [decodeF fE2M1 1, decodeF fE2M1 1, decodeF fE2M1 2, decodeF fE2M1 2]
    [decodeF fE2M1 4, decodeF fE2M1 4, .zero, .zero] = toFP32 (.fin false 16777218 0) := by decide +kernel

/-- The example of 4.7: a block whose largest magnitude is 5.3 converts to FP4 E2M1 under the scale byte 0x7F; 5.3, -0.74 and 2.5 become
6, -0.5 and 2. -/
theorem test_block_convert : (fun r => (r.2.1.take 3, r.1)) (encodeUE8 .e2m1 (([0x40A9_999A, 0xBF3D_70A4, 0x4020_0000] ++ List.replicate 29 0).map
    fun c => (ofFP32 c, .even))) = ([0x7, 0x9, 0x4], [0x7F]) := by decide +kernel

/-- The example of 4.7 on stochastic rounding: 2.5 becomes 3 with u = 0x9000_0000 and 2 with u = 0x7000_0000. -/
theorem test_stochastic : (encodeElem .e2m1 (.stoch 0x9000_0000) false (.fin false 5 (-1))).code = 5 ∧
    (encodeElem .e2m1 (.stoch 0x7000_0000) false (.fin false 5 (-1))).code = 4 := by decide +kernel

/-- The example of 4.4: a packed vector of 8,704 FP4 elements has 4,640 bytes. -/
theorem test_packed : Fmt.e2m1.packed 8704 = 4640 := by decide +kernel

/-- The example of 6.4: four BF16 elements of a sub-stream with C = 124 and table 5 (k = 1, Q = 6). -/
theorem test_sub_stream : subDecode 8 7 124 1 6 4 [0x20, 0x80, 0x40, 0x00] [0xE4, 0xFE, 0x00] =
    some [0x20, 0x3E, 0x80, 0xBD, 0x40, 0x40, 0x00, 0x00] := by decide +kernel

/-- The examples of 5.3, 9.2 and 0.5: an offset's segment, an address's stack, a die-memory address. -/
theorem test_addresses : spaceOf 0xC00_4A12_3400 = .die 1 0xA12_3400 ∧ segsOf 0xA12_3400 1 = [2] ∧ stackOf 0x01E_1234_5600 = 1 ∧
    spaceOf 0xC00_4010_0000 = .die 1 0x10_0000 := by decide +kernel

/-- A sampled row. -/
def row (t : Nat) : RowRes := { tok := t, lp := 0, alts := [], accept := true }

/-- The example of 10.5: drafts 512, 77, 4031, 9 against samples 512, 77, 2200, 9, 10 emit 512, 77 and 2200. -/
theorem test_drafts : (row 512 :: accepted [row 512, row 77, row 2200, row 9, row 10] [512, 77, 4031, 9]).map (·.tok) = [512, 77, 2200] := by
  decide +kernel

/-- Set 0 with the times of the example of 12.8 noted. -/
def timed : State := onLink (setUp [] [(.LINK_FT_TIME, 0, 2_000_000), (.LINK_FT_CFG_PARENT, 0, 2)]) 0 0 fun l =>
  { l with exch := some (9, 1_000_000, 1_000_312, 1_004_000) }

/-- The example of 12.8: the four times give a delay of 298 ns and an offset of 14 ns, shown as 140 tenths; the time steps back at the
first lock. -/
theorem test_time_exchange : (fun t => (t.fld 0 .LINK_FT_STAT_OFFSET, t.fld 0 .LINK_FT_STAT_DELAY, t.fld 0 .LINK_FT_STAT_STATE, t.time 0))
    (timeDresp timed 0 0 9 1_004_284) = (140, 298, 1, 1_999_986) := by decide +kernel

/-- FIPS 180-4: the digest of "abc". -/
theorem test_sha256 : sha256 [0x61, 0x62, 0x63] = [0xBA, 0x78, 0x16, 0xBF, 0x8F, 0x01, 0xCF, 0xEA, 0x41, 0x41, 0x40, 0xDE, 0x5D, 0xAE, 0x22, 0x23,
    0xB0, 0x03, 0x61, 0xA3, 0x96, 0x17, 0x7A, 0x9C, 0xB4, 0x10, 0xFF, 0x61, 0xF2, 0x00, 0x15, 0xAD] := by decide +kernel

/-- R326: the CRC of the flits is the one known as CRC-64/XZ, whose check value of "123456789" is 0x995D_C9BB_DF19_39FA. -/
theorem test_crc64 : crc64 (ascii "123456789") = 0x995D_C9BB_DF19_39FA := by decide +kernel

/-! ## States that meet the hypotheses of the statements

One theorem for each statement with hypotheses; its clauses stand in the statement's order. -/

/-- The reset state with PWR_GOOD. -/
def live : State := { State.reset with pins := { State.reset.pins with pwrGood := true } }

/-- Set 0 changed. -/
def on0 (s : State) (f : SetSt → SetSt) : State := s.onSet 0 f

theorem inv_bare {s : State} (h1 : s.regs = []) (h2 : s.set0.regs = (SetSt.reset 0).regs) (h3 : s.set1.regs = (SetSt.reset 1).regs)
    (h4 : s.set0.mem = []) (h5 : s.set1.mem = []) (h6 : s.hostMem = []) (h7 : s.almMem = []) (h8 : s.nvm = []) : s.Inv := by
  refine ⟨h1 ▸ regsOk_nil, ⟨h2 ▸ (SetSt.ok_reset 0).reg, ?_⟩, ⟨h3 ▸ (SetSt.ok_reset 1).reg, ?_⟩, ?_, ?_, ?_⟩
  · rw [h4]; rfl
  · rw [h5]; rfl
  · rw [h6]; rfl
  · rw [h7]; rfl
  · rw [h8]; exact ⟨rfl, fun _ h => by cases h⟩

theorem inv_setUp (p t : List (Field × Nat × Nat)) {s : State} (h : s.Inv) : (setUp p t s).Inv := by
  have h1 := Moves.foldl (r := s) (f := fun s e => s.setPfld e.1 e.2.1 e.2.2) (fun _ _ h => setPfld_moves _ _ _ h) (.refl s) p
  have h2 := Moves.foldl (r := s) (f := fun s e => s.setFld 0 e.1 e.2.1 e.2.2) (fun _ _ h => setFld_moves _ _ _ _ h) h1 t
  exact h2.inv h

theorem inv_fields (p t : List (Field × Nat × Nat)) : (setUp p t).Inv := inv_setUp p t (inv_bare rfl rfl rfl rfl rfl rfl rfl rfl)

/-- No stack is fenced where the registers list no fence bit. -/
theorem unfenced {s : State} {i : SetId} (h : ((s.st i).regs.all fun e => e.1 % 1024 != Field.MEM_HBM_TEMPs_FENCED.code) = true) (n : Nat) :
    fenced s i n = false := by
  have hg : SMap.get Field.MEM_HBM_TEMPs_FENCED.info.rst (s.st i).regs (Field.MEM_HBM_TEMPs_FENCED.key n) = 0 := by
    refine SMap.get_of_not_mem fun e he hk => ?_
    have := List.all_eq_true.1 h e he
    rw [hk, Field.key, Nat.add_mul_mod_self_left, Nat.mod_eq_of_lt Field.MEM_HBM_TEMPs_FENCED.code_lt, bne_self_eq_false] at this
    cases this
  simp [fenced, State.fld, getField, hg]

/-! ### Tempo and power -/

theorem witness_EnvelopeAndCap :
    (let s := setUp [(.PD_CLASS_ACCEPTED, 0, 1), (.PD_CLASS_ENV, 0, 350), (.PD_ENV_CAP_CAP, 0, 350)] [] live
     s.pins.pwrGood = true ∧ s.pm.envLow = [] ∧ s.pfld .PD_SPRINT_STAT_ACTIVE = 0 ∧ s.pfld .PD_SPRINT_STAT_COOL_LEFT = 0 ∧
       (∀ i, circulates s i = false) ∧ (3500 :: s.pm.samples.take 999).foldl (· + ·) 0 / (3500 :: s.pm.samples.take 999).length ≤ envelope s) ∧
    (let s := setUp [(.PD_CLASS_P_PLAN, 0, 300), (.PD_CLASS_ENV, 0, 511), (.PD_SPRINT_STAT_ACTIVE, 0, 1)] []
     (s.pfld .PD_CLASS_P_PLAN ≤ 300 ∧ 511 ≤ s.pfld .PD_CLASS_ENV) ∧ 299 < s.pfld .PD_CLASS_P_PLAN ∧ s.pfld .PD_SPRINT_STAT_ACTIVE = 1) ∧
    (setUp [(.PD_CLASS_ENV, 0, 510)] []).pfld .PD_CLASS_ENV < 511 := by decide +kernel

/-- Every slot of core 0 waits. -/
def waiting : State := setUp [(.PD_CLASS_LEND, 0, 3)] ((List.range 8).map fun n => (.CORE_SLOTn_STAT_STATE, n, 4))

theorem witness_LendingKeepsFloor : (waiting.pfld .PD_CLASS_LEND ≠ 0 ∧ (waiting.core 0 0).stopped = false ∧ (waiting.core 0 0).lender = false ∧
    (waiting.st 0).lost = false ∧ ∀ n < 8, slotState waiting 0 0 n = 4) ∧ waiting.Inv ∧
    (let s := setUp [] [(.CORE_SLOTn_STAT_STATE, 7, 1)]
     ∃ n < 8, slotState s 0 0 n ≠ 0 ∧ slotState s 0 0 n ≠ 4 ∧ slotState s 0 0 n ≠ 6) :=
  ⟨by decide +kernel, inv_fields _ _, 7, by decide +kernel⟩

/-- A package that may sprint, with a die, the host bridge and the power die at 90 °C. -/
def maySprint (l : List (Field × Nat × Nat)) : State := setUp ([(.PD_SPRINT_LIFE_RESERVE, 0, 1500), (.PD_CLASS_SPRINT_OK, 0, 1),
  (.PD_CLASS_ACCEPTED, 0, 1), (.PD_CLASS_ENV, 0, 350), (.PD_ENV_CAP_CAP, 0, 350), (.PD_TEMPOn_TJ, 17, 90), (.PD_SENSE_TJ_HB, 0, 90),
  (.PD_SENSE_TJ_PD, 0, 90), (.PD_SPRINT_LIFE_EXHAUSTED, 0, 0)] ++ l) []

theorem witness_Sprint :
    (let s := maySprint []
     (1500 ≤ reserveLeft s ∧ s.pfld .PD_CLASS_SPRINT_OK = 1 ∧ s.pfld .PD_CLASS_ACCEPTED = 1 ∧
       s.pfld .PD_SPRINT_STAT_ACTIVE = 0 ∧ s.pfld .PD_SPRINT_STAT_COOL_LEFT = 0 ∧ s.pfld .PD_CLASS_ENV ≤ s.pfld .PD_ENV_CAP_CAP ∧
       (∀ n < 18, s.pfld .PD_TEMPOn_TJ n ≤ 90) ∧ s.pfld .PD_SENSE_TJ_HB ≤ 90 ∧ s.pfld .PD_SENSE_TJ_PD ≤ 90 ∧ s.pfld .PD_FLOOR_EVT_ACTIVE = 0 ∧ s.pfld .PD_SPRINT_LIFE_EXHAUSTED = 0)) ∧
    (let s := maySprint [(.PD_SPRINT_STAT_ACTIVE, 0, 1), (.PD_SPRINT_STAT_LEFT, 0, 1500)]
     s.pfld .PD_SPRINT_STAT_ACTIVE = 1 ∧ s.sprintRan + s.pfld .PD_SPRINT_STAT_LEFT ≤ 1500) ∧
    (maySprint [(.PD_CLASS_SPRINT_OK, 0, 0)]).pfld .PD_CLASS_SPRINT_OK = 0 ∧ (maySprint [(.PD_SPRINT_STAT_COOL_LEFT, 0, 1)]).pfld
      .PD_SPRINT_STAT_COOL_LEFT ≠ 0 ∧
    (let s := maySprint [(.PD_ENV_CAP_CAP, 0, 349)]
     s.pfld .PD_ENV_CAP_CAP < s.pfld .PD_CLASS_ENV) ∧
    90 < (maySprint [(.PD_TEMPOn_TJ, 17, 91)]).pfld .PD_TEMPOn_TJ 17 ∧ 90 < (maySprint [(.PD_SENSE_TJ_HB, 0, 91)]).pfld .PD_SENSE_TJ_HB ∧
    90 < (maySprint [(.PD_SENSE_TJ_PD, 0, 91)]).pfld .PD_SENSE_TJ_PD ∧
    (maySprint [(.PD_SPRINT_LIFE_EXHAUSTED, 0, 1)]).pfld .PD_SPRINT_LIFE_EXHAUSTED = 1 ∧ reserveLeft (maySprint []) ≠ 0 ∧ 1500 < 1501 % 2048 ∧
    (maySprint [(.PD_FLOOR_EVT_ACTIVE, 0, 1)]).pfld .PD_FLOOR_EVT_ACTIVE = 1 := by
  decide +kernel

theorem witness_Sprint_inv : (maySprint []).Inv := inv_fields _ _

theorem witness_HeatRailsFloors :
    ((16 : Nat) ≤ (16 : Fin 20).val ∧ (17 : Fin 20).val < 18 ∧ live.pins.pwrGood = true ∧ 104 < 105 ∧ 114 < 115 ∧
       live.pfld .PD_SPRINT_STAT_ACTIVE = 0 ∧ 999 < 1000) ∧
    (let s := setUp [(.PD_TEMPOn_VSET, 17, 780)] [] live
     s.pins.pwrGood = true ∧ 115 ≤ 115 ∧ s.pfld .PD_TEMPOn_VSET 17 ≠ 0 ∧ vset s 17 ≠ 0) ∧
    ({ live with pm := { live.pm with envLow := [17] } } : State).pm.envLow.contains (17 : Fin 18).val = true := by decide +kernel

/-- Core 0 with both its arrays, awake. -/
def arrays : List (Field × Nat × Nat) := [(.CORE_CAP_ARRAYS, 0, 3), (.ARR_STATp_IDLE, 0, 0), (.ARR_STATp_IDLE, 1, 0)]

theorem witness_RampLimiter : ((setUp [] arrays).core 0 0).arrayQ = [] ∧ 1 ∈ coreArrays (setUp [] arrays) 0 0 ∧
    (setUp [] arrays).fld 0 .ARR_STATp_IDLE (2 * (0 : CoreId).val + 1) = 0 := by decide +kernel

/-! ### Cores, on-chip memories and jobs -/

/-- A descriptor: its type's code, and the bytes at the given offsets. -/
def desc (code : Byte) (fs : List (Nat × Byte)) : List Byte := fs.foldl (fun d p => d.set p.1 p.2) (code :: zeros 63)

/-- Core 0 of set 0 with slot 0 of job 0 ready to issue one descriptor, everything in the reach of the job. -/
def ready (d : List Byte) (fs : List (Field × Nat × Nat)) (sl : Slot := {}) : State :=
  on0 (setUp [] ([(.CORE_SLOTn_STAT_STATE, 0, 1), (.MEM_RGNi_0_VALID, 0, 1), (.MEM_RGNi_0_RD, 0, 1), (.MEM_RGNi_0_WR, 0, 1),
    (.MEM_RGNi_0_SIZE, 0, 0x600), (.MEM_RGNi_1_BASE, 0, 0xD00_0000_0), (.MEM_RGNi_0_VALID, 1, 1), (.MEM_RGNi_0_RD, 1, 1),
    (.MEM_RGNi_0_WR, 1, 1), (.MEM_RGNi_0_SIZE, 1, 0x140), (.MEM_RGNi_1_BASE, 1, 0xE00_0000_0), (.CORE_CAP_ARRAYS, 0, 3)] ++ fs))
    fun t => { t with cores := [(0, { slots := [(0, { sl with prefetch := [(0xD00_0000_0000, d)] })] })] }

/-- The Boolean form of IssuesAt for a descriptor that `ready` set up. -/
def issues (s : State) (t : DType) (d : List Byte) : Bool :=
  !(s.st 0).lost && !(s.core 0 0).stopped && nextSlot s 0 0 == some 0 && (s.slot 0 0 0).prefetch.head? == some (0xD00_0000_0000, d) &&
    !holdOn s 0 0 0 && dtype d == some t && (match issueCheck s 0 0 0 (s.fld 0 .CORE_SLOTn_PC_JOB (slotIx 0 0)) t d with
      | .go _ => true | _ => false)

theorem issues_at {s : State} {t : DType} {d : List Byte} (h : issues s t d = true) :
    ∃ x, IssuesAt s (upset []) t 0 0xD00_0000_0000 d x := by
  simp only [issues, Bool.and_eq_true, Bool.not_eq_true', beq_iff_eq] at h
  obtain ⟨⟨⟨⟨⟨⟨h1, h2⟩, h3⟩, h4⟩, h5⟩, h6⟩, h7⟩ := h
  split at h7
  · exact ⟨_, rfl, h1, h2, h3, h4, h5, rfl, h6, ‹_›⟩
  · cases h7

/-- GEMM of one row and one column over 32 INT8 elements; operands in array 0's W, A and P buffers. -/
def gemm1 : List Byte := desc 2 [(13, 0xE), (18, 8), (21, 0xE), (26, 0x10), (29, 0xE), (41, 0x10), (45, 0xE), (48, 1), (50, 1), (52, 32),
  (55, 5), (56, 5), (58, 1), (60, 1), (62, 1)]

/-- CONV of one position, 4 channels. -/
def conv1 : List Byte := desc 3 [(13, 0xE), (18, 8), (21, 0xE), (26, 0x10), (29, 0xE), (33, 0x10), (37, 0xE), (40, 1), (42, 1), (44, 4),
  (46, 1), (55, 1), (57, 5), (58, 5), (60, 1), (62, 1)]

def graft1 : List Byte := desc 0x11 [(13, 0xD), (18, 1), (21, 0xD), (26, 2), (29, 0xD), (34, 3), (37, 0xD), (40, 4), (41, 1), (44, 1),
  (46, 1), (48, 4)]
def vec1 : List Byte := desc 4 [(13, 0xD), (18, 1), (21, 0xD), (26, 2), (29, 0xD), (32, 1), (35, 1)]
def move1 : List Byte := desc 1 [(13, 0xD), (18, 1), (21, 0xD), (24, 1), (32, 1), (36, 1)]
def fill1 : List Byte := desc 9 [(13, 0xD), (16, 1), (20, 0x5A), (28, 1)]
def attn1 : List Byte := desc 5 [(34, 1), (37, 0xD), (42, 1), (46, 1)]
def send1 : List Byte := desc 8 [(13, 0xD), (17, 1)]
def inject1 : List Byte := desc 14 [(16, 1)]
def take1 : List Byte := desc 15 [(13, 0xE), (18, 4), (21, 0xE), (24, 1), (32, 1)]


/-- A KV store of one layer. -/
def kvOn : List (Field × Nat × Nat) := [(.MSE_KVCFG_LAYERS, 0, 1), (.MSE_KVCFG_HKV, 0, 1), (.MSE_KVCFG_D, 0, 128)]

theorem witness_IssueEntersQueue : DType.move.unit = some 2 ∧ ∃ x, IssuesAt (ready move1 []) (upset []) .move 0 0xD00_0000_0000 move1 x :=
  ⟨rfl, issues_at (by decide +kernel)⟩

theorem witness_IssuedUnitsStart :
    (∃ x, IssuesAt (ready move1 []) (upset []) .move 0 0xD00_0000_0000 move1 x) ∧
    (∃ x, IssuesAt (ready (move1.set 0 10) []) (upset []) .copy 0 0xD00_0000_0000 (move1.set 0 10) x) ∧
    (∃ x, IssuesAt (ready fill1 []) (upset []) .fill 0 0xD00_0000_0000 fill1 x) ∧
    (∃ x, IssuesAt (ready gemm1 []) (upset []) .gemm 0 0xD00_0000_0000 gemm1 x) ∧
    (∃ x, IssuesAt (ready conv1 []) (upset []) .conv 0 0xD00_0000_0000 conv1 x) ∧
    (∃ x, IssuesAt (ready graft1 []) (upset []) .graft 0 0xD00_0000_0000 graft1 x) ∧
    (∃ x, IssuesAt (ready vec1 []) (upset []) .vec 0 0xD00_0000_0000 vec1 x) ∧
    (∃ x, IssuesAt (ready (desc 16 []) []) (upset []) .harvest 0 0xD00_0000_0000 (desc 16 []) x) ∧
    (∃ x, IssuesAt (ready attn1 kvOn) (upset []) .attn 0 0xD00_0000_0000 attn1 x ∧ ((ready attn1 kvOn).core 0 0).requestQ = [] ∧ leAt attn1 42 2 ≠ 0 ∧
      (kvGeo (issuedState (ready attn1 kvOn) (upset []) .attn 0 0xD00_0000_0000 attn1 x) 0).layers ≠ 0 ∧
      askedStacks (issuedState (ready attn1 kvOn) (upset []) .attn 0 0xD00_0000_0000 attn1 x) 0 attn1 ≠ 0) ∧
    (∃ x, IssuesAt (ready send1 []) (upset []) .send 0 0xD00_0000_0000 send1 x) ∧
    (∃ x, IssuesAt (ready inject1 [(.MEM_RGNi_0_VALID, 2, 1), (.MEM_RGNi_0_RD, 2, 1), (.MEM_RGNi_0_SIZE, 2, 1)]) (upset []) .inject 0
      0xD00_0000_0000 inject1 x) ∧
    ∃ x, IssuesAt (ready take1 []) (upset []) .take 0 0xD00_0000_0000 take1 x := by
  refine ⟨issues_at ?_, issues_at ?_, issues_at ?_, issues_at ?_, issues_at ?_, issues_at ?_, issues_at ?_, issues_at ?_, ?_, issues_at ?_,
    issues_at ?_, issues_at ?_⟩
  case refine_9 =>
    exact ⟨issued (ready attn1 kvOn) 0 0 .attn attn1 (0, 0, 0), ⟨rfl, by decide +kernel, by decide +kernel, by decide +kernel, by decide +kernel,
      by decide +kernel, rfl, by decide +kernel, by decide +kernel⟩, by decide +kernel⟩
  all_goals decide +kernel

/-- Job 0 with one counter, physical counter 0. -/
def counter (v : Nat) : List (Field × Nat × Nat) := [(.SYNC_JOBj_COUNT, 0, 1), (.SYNC_CTRp_1_VALUE, 0, v)]

def loop1 : List Byte := desc 0xC [(8, 2)]
def wait1 (code : Byte) : List Byte := desc code [(12, 3)]
def inLoop : Slot := { loops := [{ body := 0xD00_0000_0000, left := 0, saved := [0, 0, 0], strides := [32, 0, 0] }] }

theorem witness_CallerTypes :
    (∃ x, IssuesAt (ready loop1 []) (upset []) .loop 0 0xD00_0000_0000 loop1 x ∧ leAt loop1 11 1 = 0 ∧ leAt loop1 8 3 ≠ 0 ∧
      ((ready loop1 []).slot 0 0 0).loops.length < 4) ∧
    (∃ x, IssuesAt (ready (desc 0xD []) [] inLoop) (upset []) .endloop 0 0xD00_0000_0000 (desc 0xD []) x ∧
      ((ready (desc 0xD []) [] inLoop).slot 0 0 0).loops = inLoop.loops) ∧
    (∃ x, IssuesAt (ready (desc 0xB []) []) (upset []) .fence 0 0xD00_0000_0000 (desc 0xB []) x ∧
      fenceDone (advance (ready (desc 0xB []) []) 0 0 0 0xD00_0000_0000 (desc 0xB [])) 0 0 0 (leAt (desc 0xB []) 8 1) = true) ∧
    (let s := ready (wait1 7) (counter 0)
     ∃ x, IssuesAt s (upset []) .wait 0 0xD00_0000_0000 (wait1 7) x ∧ ctrOf s 0 (jobOf s 0 0 0) 0 = some 0 ∧
       s.fld 0 .SYNC_CTRp_0_RETURN 0 = 0 ∧ s.fld 0 .SYNC_CTRp_0_KIND 0 = 0) ∧
    (let s := ready (wait1 0x12) (counter 3)
     ∃ x, IssuesAt s (upset []) .consume 0 0xD00_0000_0000 (wait1 0x12) x ∧ ctrOf s 0 (jobOf s 0 0 0) 0 = some 0 ∧
       s.fld 0 .SYNC_CTRp_0_RETURN 0 = 0 ∧ s.fld 0 .SYNC_CTRp_0_KIND 0 = 0 ∧ leAt (wait1 0x12) 12 4 ≤ s.fld 0 .SYNC_CTRp_1_VALUE 0) ∧
    (let s := ready (wait1 6) (counter (2 ^ 31 - 4))
     ∃ x, IssuesAt s (upset []) .signal 0 0xD00_0000_0000 (wait1 6) x ∧ ctrOf s 0 (jobOf s 0 0 0) 0 = some 0 ∧
       s.fld 0 .SYNC_CTRp_0_KIND 0 = 0 ∧ s.fld 0 .SYNC_CTRp_1_VALUE 0 + leAt (wait1 6) 12 4 < 2 ^ 31) := by
  refine ⟨?_, ?_, ?_, ?_, ?_, ?_⟩
  · have ⟨x, h⟩ := issues_at (s := ready loop1 []) (t := .loop) (d := loop1) (by decide +kernel)
    exact ⟨x, h, by decide +kernel⟩
  · have ⟨x, h⟩ := issues_at (s := ready (desc 0xD []) [] inLoop) (t := .endloop) (d := desc 0xD []) (by decide +kernel)
    exact ⟨x, h, by decide +kernel⟩
  · have ⟨x, h⟩ := issues_at (s := ready (desc 0xB []) []) (t := .fence) (d := desc 0xB []) (by decide +kernel)
    exact ⟨x, h, by decide +kernel⟩
  · have ⟨x, h⟩ := issues_at (s := ready (wait1 7) (counter 0)) (t := .wait) (d := wait1 7) (by decide +kernel)
    exact ⟨x, h, by decide +kernel⟩
  · have ⟨x, h⟩ := issues_at (s := ready (wait1 0x12) (counter 3)) (t := .consume) (d := wait1 0x12) (by decide +kernel)
    exact ⟨x, h, by decide +kernel⟩
  · have ⟨x, h⟩ := issues_at (s := ready (wait1 6) (counter (2 ^ 31 - 4))) (t := .signal) (d := wait1 6) (by decide +kernel)
    exact ⟨x, h, by decide +kernel⟩

def entry (d : List Byte) (p : Phase) : QEnt :=
  { id := 0, slot := 0, job := 0, pc := 0, tag := 0, raw := d, a1 := 0, a2 := 0, a3 := 0, phase := p }

def run1 (n : Nat) : TileRun := { stage := 0, steps := n, acc := [[0]], chkS := [[0]], chkB := [[0]], opBad := false }

/-- An entry of gemm1 at the head of the array queue, with its tile after n steps. -/
def onArray (n : Nat) : State :=
  on0 (setUp [] arrays) fun t => { t with cores := [(0, { arrayQ := [entry gemm1 .running], tile := some (run1 n) })] }

def tile1 : Tile := { m := 1, kk := 32, k := 2, mode := 0, rows := 1, shares := [{ p := 0, r0 := 0, rn := 1, c0 := 0, cn := 1 }] }

theorem witness_ArraysAndCompletion :
    (let s := onArray 15
     arrayHead s 0 (0 : CoreId).val = some (entry gemm1 .running) ∧ arraysRun s 0 0 = true ∧ (s.core 0 0).tile = some (run1 15) ∧
       tileOf (entry gemm1 .running) 0 = some tile1 ∧ 15 < tile1.steps) ∧
    (let s := onArray 16
     arrayHead s 0 (0 : CoreId).val = some (entry gemm1 .running) ∧ arraysRun s 0 0 = true ∧ (s.core 0 0).tile = some (run1 16) ∧
       tileOf (entry gemm1 .running) 0 = some tile1 ∧ tile1.steps ≤ 16 ∧ (run1 16).stage ≠ 1 ∧ badRows s 0 0 tile1 (run1 16) = [] ∧
       (s.core 0 0).failed = false) ∧
    (({ memoryQ := [entry [] .done] } : Core).queue 2)[0]? = some (entry [] .done) := by
  decide +kernel

theorem witness_FetchAndSlotMap :
    (let s := ready [] [(.CORE_SLOTn_PC_PC, 1, 0xD00_0000_0040), (.CORE_SLOTn_STAT_STATE, 1, 5)]
     slotState s 0 0 1 ≠ 0 ∧ slotState s 0 0 1 ≠ 6 ∧ (s.core 0 0).stopped = false ∧ (s.slot 0 0 1).prefetch.length < 8 ∧
       fetchOk s 0 0 1 (fetchAddr s 0 0 1) = true ∧ cleanRange s 0 (fetchAddr s 0 0 1) 1 = true) ∧
    (let s := on0 (setUp [] [(.CORE_SLOT_MAP_SLOT_MAP_PENDING, 0, 1)]) fun t => { t with cores := [(0, { arrayQ := [entry gemm1 .queued] })] }
     s.fld 0 .CORE_SLOT_MAP_SLOT_MAP_PENDING 0 = 1 ∧ ∀ e ∈ (s.core 0 0).arrayQ, opxEndOf s 0 0 e = 0) := by decide +kernel

/-! ### On-chip memories, windows and jobs -/

/-- In the reset state every stored word is valid and no stack is fenced. -/
theorem witness_FillStoresPattern : (∀ n, fenced State.reset 0 n = false) ∧ 0 % 32 = 0 ∧ rowsAt 0 0 (leAt fill1 16 3 * 32) (max 1 (leAt fill1 24 3)) ≠ [] :=
  ⟨unfenced rfl, rfl, by decide +kernel⟩

theorem witness_MoveCopiesRow : (State.reset.st 0).chk = [] ∧ (∀ n, fenced State.reset 0 n = false) ∧ bit (leAt move1 27 1) 1 = false ∧
    leAt move1 28 3 ≤ 1 ∧ 0 + leAt move1 24 3 * 32 ≤ 32 := ⟨rfl, unfenced rfl, by decide +kernel⟩

def segment (n : SegState) (on : Nat) : State := on0 (setUp [] [(.MEM_SEGPWRd_ON, 1, on)]) fun t => { t with segs := [(17, n)] }

/-- An incoming window of 4 KiB at address 0 for package 7, with a credit register of 4 KiB of the ACTIVE job 0. -/
def window : State := on0 (setUp [] [(.MEM_WINw_0_OPEN, 63, 1), (.MEM_WINw_1_SENDER, 63, 7), (.MEM_WINw_1_SIZE, 63, 1), (.MEM_JOBj_STATE, 0, 1),
  (.MEM_OWINw_1_SIZE, 63, 128), (.MEM_OWINw_1_CREDIT, 63, 127)]) fun t => { t with cores := [(0, { memoryQ := [entry move1 .running] })] }

theorem witness_SegmentsAndWindows : segState (segment .ready 256) 0 (1 : CDie).val (8 : Fin 9).val = .ready ∧
    segState (segment .off 0) 0 1 8 = .off ∧
    (let s := segment .draining 0
     segState s 0 1 8 = .draining ∧ segInUse s 0 1 8 = false ∧ segOn s 0 1 8 = false) ∧
    (let s := segment .powering 256
     segState s 0 1 8 = .powering ∧ segOn s 0 1 8 = true) ∧
    (inWindow window 0 7 4064 (zeros 32).length = some 63 ∧ powered window 0 4064 32 = true ∧
      (window.core 0 (window.fld 0 .MEM_WINw_0_HOME 63)).sb.length < sbDepth ∧ 4064 % 32 = 0 ∧
      (zeros 32).length % 32 = 0) ∧
    inWindow window 0 7 4065 (zeros 32).length = none ∧
    ((window.core 0 0).memoryQ[0]? = some (entry move1 .running) ∧ (entry move1 .running).phase = .running) ∧
    window.fld 0 .MEM_JOBj_STATE (window.fld 0 .MEM_OWINw_1_JOB 63) = 1 ∧
      window.fld 0 .MEM_OWINw_1_CREDIT 63 + 1 ≤ window.fld 0 .MEM_OWINw_1_SIZE 63 := by decide +kernel

theorem witness_SegmentsAndWindows_unfenced (n : Nat) : fenced window 0 n = false := unfenced (by decide +kernel) n

def tearing (filling : Bool) (fs : List (Field × Nat × Nat)) : State :=
  on0 (setUp [] ((.MEM_JOBj_STATE, 255, 2) :: fs)) fun t => { t with teardowns := [(255, some { exit := .byKill, filling := filling })] }

/-- An HBM region of 4 KiB of job 255. -/
def hbmRegion : List (Field × Nat × Nat) := [(.MEM_RGNi_0_VALID, 0, 1), (.MEM_RGNi_0_JOB, 0, 255), (.MEM_RGNi_0_SIZE, 0, 1), (.MEM_RGNi_1_BASE, 0, 1)]

theorem witness_JobStates : (setUp [] [(.MEM_JOBj_STATE, 255, 1)]).fld 0 .MEM_JOBj_STATE (255 : JobId).val = 1 ∧
    (∀ pm : Fin 2, let s := tearing false [(.MEM_JOBj_PM_HOLD, 255, pm.val)]
     teardownOf s 0 255 = some { exit := .byKill, filling := false } ∧ s.fld 0 .MEM_JOBj_STATE 255 = 2 ∧ jobBusy s 0 255 = false ∧
       (clearCtrs (clearLatches (closeWindows s 0 255) 0 255) 0 255).fld 0 .MEM_JOBj_PM_HOLD 255 = pm.val) ∧
    (teardownOf (tearing true []) 0 255 = some { exit := .byKill, filling := true } ∧ (tearing true []).fld 0 .MEM_JOBj_STATE 255 = 2) ∧
    (setUp [] [(.MEM_JOBj_STATE, 255, 3)]).fld 0 .MEM_JOBj_STATE 255 = 3 ∧ State.reset.fld 0 .MEM_JOBj_STATE 255 = 0 ∧
    (State.reset.st 0).lost = false := by decide +kernel

theorem witness_TeardownErasesHbm : teardownOf (tearing true hbmRegion) 0 255 = some { exit := .byKill, filling := true } ∧
    (tearing true hbmRegion).fld 0 .MEM_JOBj_STATE 255 = 2 ∧
    (fillRegions (tearing true hbmRegion) 0 255).any (fun r => r.hbm && r.holds 0x1FFF && !r.holds 0x2000) = true := by decide +kernel

theorem witness_TeardownErasesHbm_unfenced (n : Nat) : fenced (tearing true hbmRegion) 0 n = false := unfenced (by decide +kernel) n

/-! ### Circulation -/

/-- Set 0 at place 1 of a circle whose line is 0, 1, 2, in service at revolution 5, last turn(5) received on port 0. -/
def inLine (fs : List (Field × Nat × Nat)) (u : CircUnit → CircUnit) : State :=
  on0 (setUp [] ([(.CIRC_CFG_PLACE, 0, 1), (.CIRC_CFG_N, 0, 3), (.CIRC_STAT_STATE, 0, 3), (.CIRC_REV_REV, 0, 5)] ++ fs)) fun t =>
    { t with circ := u { t.circ with up := true, line := [0, 1, 2], ports := [(0, { last := some ⟨5, 0, 0, false⟩, tx := 5 })] } }

def header (kind epoch rev version len : Nat) : List Byte := FHdr.bytes <|
  { kind := kind, flags := 0, owner := 0, hops := 0, layer := 0, stage := 0, tile := 0, version := version, epoch := epoch, rev := rev
    len := len, piece := 0 }

theorem witness_CirculationFrames :
    (let s := inLine [] id
     let raw := header 1 0 5 0 1 ++ zeros 32
     circulates s 0 = true ∧ hdrOk raw = true ∧ leAt raw 0 1 = 1 ∧ (cport s 0 (0 : Fin 2).val).last = some ⟨5, 0, 0, false⟩ ∧
       (fhdr raw).epoch = 0 ∧ (fhdr raw).rev = 5 ∧ (fhdr raw).version = 0 ∧
       let r := inLine [] fun c => { c with line := [] }
       circulates r 0 = true ∧ (cport r 0 0).last = some ⟨5, 0, 0, false⟩ ∧ (circ r 0).line = []) ∧
    (let s := inLine [] id
     let raw := header 2 0 6 0 0
     circulates s 0 = true ∧ hdrOk raw = true ∧ leAt raw 0 1 = 2 ∧ (fhdr raw).epoch = s.fld 0 .CIRC_STAT_EPOCH ∧
       (fhdr raw).rev = nextRev s 0 0 ∧ (fhdr raw).rev ≠ s.fld 0 .CIRC_REV_REV) ∧
    (let s := inLine [] id
     circulates s 0 = true ∧ (circ s 0).first = none ∧ s.fld 0 .CIRC_REV_REV + 1 = 6 ∧ (cport s 0 0).tx + 1 = 6 ∧
       (livePorts s 0 6).contains 0 = true ∧ turnHeld s 0 6 = false ∧ unsentKeys s 0 0 = []) ∧
    (let s := inLine [] fun c => { c with ports := [(0, { turns := [⟨6, 0, 0, false⟩] }), (1, { turns := [⟨6, 0, 0, false⟩] })] }
     circulates s 0 = true ∧ turnReady s 0 (turnDue s 0) = true ∧
       ∀ p < 2, ∀ t ∈ (cport s 0 p).turns, t.rev = turnDue s 0 → t.ver = verAt s 0 (turnDue s 0)) ∧
    (inLine [] id).fld 0 .CIRC_STAT_STATE ≠ 5 ∧ ((inLine [] id).st 0).lost = false := by decide +kernel

theorem witness_WrongFramesStopCircle : circulates (inLine [] id) 0 = true ∧ (cport (inLine [] id) 0 (0 : Fin 2).val).last = some ⟨5, 0, 0, false⟩ ∧
    (∀ h ∈ [header 1 1 4 1 0, header 1 0 4 1 0, header 1 0 5 1 0], hdrOk h = true ∧ leAt h 0 1 = 1) ∧ (fhdr (header 1 1 4 1 0)).epoch ≠ 0 ∧
    ((fhdr (header 1 0 4 1 0)).epoch = 0 ∧ (fhdr (header 1 0 4 1 0)).rev ≠ 5) ∧
    ((fhdr (header 1 0 5 1 0)).epoch = 0 ∧ (fhdr (header 1 0 5 1 0)).rev = 5 ∧ (fhdr (header 1 0 5 1 0)).version ≠ 0) := by decide +kernel

theorem witness_UnconfirmedCommitHoldsTurns :
    let c : Change := { kind := 0, ver := 1, s := 6, ep := 0, confirmed := false }
    let s := inLine [] fun u => { u with chg := some c }
    (circ s 0).chg = some c ∧ c.s ≤ (cport s 0 (0 : Fin 2).val).tx + 1 ∧ c.s ≤ turnDue s 0 := by decide +kernel

theorem witness_ChangesAndFolding :
    (mayChange (inLine [] id) 0 = true ∧ isLeader (inLine [] id) 0 = false) ∧
    (let s := inLine [(.CIRC_CFG_PLACE, 0, 0)] id
     mayChange s 0 = true ∧ isLeader s 0 = true ∧ (circ s 0).chg = none ∧ (circ s 0).req = none) ∧
    (let r : Request := { kind := 0, ver := 1, ready := [], acks := [] }
     let c : Change := { kind := 0, ver := 1, s := 6, ep := 0, confirmed := false }
     let f : FoldSt := { epoch := 1, cuts := [], gone := [], stand := [], prev := 5, acks := [] }
     (let s := inLine [] fun u => { u with req := some r }
      (circ s 0).req = some r ∧ (circ s 0).chg = none) ∧
     (let s := inLine [] fun u => { u with req := some r, chg := some c }
      (circ s 0).chg = some c ∧ c.confirmed = false ∧ (circ s 0).req = some r) ∧
     (let s := inLine [] fun u => { u with fold := some f }
      (circ s 0).fold = some f) ∧
     let s := inLine [] id
     s.fld 0 .CIRC_STAT_STATE ≠ 5 ∧ (s.st 0).lost = false ∧ (circ s 0).fold = none ∧
       laterEpoch (s.fld 0 .CIRC_STAT_EPOCH) 0 = false ∧ laterEpoch 0 (s.fld 0 .CIRC_STAT_EPOCH) = false) := by decide +kernel

theorem witness_FrameHeaderRoundTrip : 
    let h : FHdr := ⟨255, 255, 255, 255, 65535, 255, 65535, 65535, 65535, 2 ^ 48 - 1, 2 ^ 32 - 1, 2 ^ 32 - 1⟩
    h.kind < 256 ∧ h.flags < 256 ∧ h.owner < 256 ∧ h.hops < 256 ∧ h.layer < 65536 ∧ h.stage < 256 ∧ h.tile < 65536 ∧ h.version < 65536 ∧
      h.epoch < 65536 ∧ h.rev < 2 ^ 48 ∧ h.len < 2 ^ 32 ∧ h.piece < 2 ^ 32 := by decide +kernel

/-- A piece of 32 bytes of zeros at 0x1000 of place 1, digested. -/
def piece (p flags : Nat) : CatEnt :=
  { piece := p, version := 0, owner := 1, partner := 0, addr := 0x1000, paddr := 0, aux := 0x2000, len := 1, flags := flags, digest := sha256 (zeros 32) }

theorem witness_Loading : (circ State.reset 0).announced.contains (7, 0) = false ∧
    (let s := inLine [] fun u => { u with reader := (inLine [] id).place 0 }
     isReader s 0 = true ∧ (s.st 0).lost = false) ∧
    (let s := inLine [] fun u => { u with cat := [piece 4 0] }
     (s.st 0).lost = false ∧ loadEntry s 0 4 0 = some (piece 4 0, 0) ∧ loads s 0 (piece 4 0) = true) ∧
    (hdrOk (header 3 0 0 0 1 ++ zeros 32) = true ∧ leAt (header 3 0 0 0 1) 0 1 = 3) ∧
    (let s := inLine [] fun u => { u with cat := [piece 4 0], fetch := [(4, 0)] }
     (circ s 0).fetch = [(4, 0)] ∧ loadEntry s 0 4 0 = some (piece 4 0, 0) ∧ owedFor s 0 4 0 = none) ∧
    (let s := inLine [] fun u => { u with cat := [piece 4 0], fetch := [(4, 0)], owed := [(4, 0, 2)] }
     owedFor s 0 4 0 = some (4, 0, 2)) := by decide +kernel

theorem witness_WeedRepairSettle :
    (let s := inLine [] fun u => { u with cat := [piece 4 0], load := [(4, { clean := true })], up := false }
     (circ s 0).weedOn = false ∧ weedList s 0 ≠ []) ∧
    (let s := inLine [] fun u => { u with cat := [piece 4 0], weed := [(4, 0), (5, 0)] }
     (circ s 0).weed = [(4, 0), (5, 0)] ∧ weedable s 0 (4, 0) = true ∧ entryOf s 0 4 = some (piece 4 0) ∧
       fenced s 0 (stackOf (pieceAddr s 0 (piece 4 0) 0)) = false ∧ (circ (weedPiece s 0 4 0 (piece 4 0)) 0).weed = [(4, 0), (5, 0)]) ∧
    (let s := inLine [] fun u => { u with cat := [piece 4 0], repair := [(4, 0)] }
     (circ s 0).repair.find? (fun r => r.1 = 4 + 2 ^ 32 * 0) = some (4 + 2 ^ 32 * 0, 0) ∧ entryOf s 0 (4 + 2 ^ 32 * 0) = some (piece 4 0) ∧
       sha256 (slice (zeros 32) 0 (32 * 1)) = (piece 4 0).digest) ∧
    (let s := (inLine [(.CIRC_AUX_TIER_EN, 0, 1)] fun u => { u with cat := [piece 4 2], tierSeen := [(4, 0)] }).setPfld .HB_HOSTCFG_SHARE0 0 50
     loadEntry s 0 4 0 = some (piece 4 2, 0) ∧ bit (piece 4 2).flags 1 = true ∧ s.fld 0 .CIRC_AUX_TIER_EN = 1 ∧ (s.st 0).lost = false ∧
       hostShare s 0 ≠ 0 ∧ 0 = s.fld 0 .CIRC_STAT_BANK ∧ (circ s 0).tierSeen.contains (4, 0) = true ∧
       (tierAddr s 0 (piece 4 2) + 0 * (s.fld 0 .CIRC_BANKOFS_OFS * 4096) + if false then Config.tierHalf else 0) % 32 = 0) ∧
    (let s := inLine [] fun u => { u with cat := [piece 4 4, piece 5 4], load := [(4, { clean := true })] }
     (residents s 0).find? (fun e => e.piece = 4) = some (piece 4 4) ∧ (circ s 0).settled.contains 4 = false ∧
       (pieceSt s 0 (piece 4 4)).clean = true ∧
       allSettled (settlePiece s 0 (piece 4 4)) 0 = false) ∧
    (let c : Change := { kind := 0, ver := 1, s := 0, ep := 0, confirmed := true }
     let s := inLine [(.CIRC_CFG_MODE, 0, 1)] fun u => { u with chg := some c }
     (circ s 0).chg = some c ∧ promenade s 0 = true ∧ (s.st 0).su.passes = [] ∧ mayChange s 0 = true) ∧
    (let s := inLine [] fun u => { u with cat := [piece 4 0], repair := [(4, 0)] }
     entryOf s 0 4 = some (piece 4 0) ∧ sha256 (slice [1] 0 (32 * 1)) ≠ (piece 4 0).digest) := by decide +kernel

/-! ### The memory side and passes -/

/-- One layer, one KV head of D = 4 in E4M3, one frame; at 0x1_0000 of core 0's memory a parameter block for it; core 0 has sent an ATTN for
stack 0. -/
def attention (u : SessUnit → SessUnit) : State :=
  on0 (setUp [] [(.MSE_KVCFG_LAYERS, 0, 1), (.MSE_KVCFG_HKV, 0, 1), (.MSE_KVCFG_D, 0, 4), (.MSE_KVCFG_FMT, 0, 3), (.MSE_KVCFG_DIRLEN, 0, 1),
    (.MSE_KVCFG_SEAL, 0, 1), (.MSE_STRIPE_W, 0, 1), (.MSE_STKs_0_KVBASE, 0, 1), (.MSE_STKs_1_FRAMES, 0, 1), (.MEM_RGNi_0_VALID, 0, 1),
    (.MEM_RGNi_0_RD, 0, 1), (.MEM_RGNi_0_SIZE, 0, 0x600), (.MEM_RGNi_1_BASE, 0, 0xD00_0000_0), (.CORE_SLOTn_STAT_STATE, 0, 1)]) fun t =>
  { t with cores := [(0, { requestQ := [{ entry attn1 .running with waits := 1 }] })]
           mem := writeMem [(1, 1), (8, 1)] 0xD00_0001_0000 [1, 3, 1, 1, 1, 1, 1, 0, 4]
           su := u t.su }

def share1 : Share :=
  { stack := 0, core := 0, id := 0, slot := 0, job := 0, tag := 0, raw := attn1, a1 := 0, a2 := 0, a3 := 0, param := [], scales := [], rows := []
    left := [], parts := [] }

def unit0 : AUnit := { slot := 0, head := 0, slice := 0, block := 0 }

theorem witness_AttentionCommands :
    (let p := purge (attention id) 0
     let r0 := readOperandBytes p 0 0 0 (leAt attn1 32 8) 64
     let r1 := readOperandBytes r0.2.2.2 0 0 0 (leAt attn1 32 8 + 64) (2 * (aparam r0.1).drot)
     requestFor p 0 (0 : StackId).val (0 : CoreId).val = some { entry attn1 .running with waits := 1 } ∧ r0.2.2.1 = false ∧ r1.2.2.1 = false ∧
       (aparam r0.1).scales = 0 ∧ paramOk (kvGeo p 0) (leAt attn1 44 1) (leAt attn1 45 1) r0.1 [] = true) ∧
    (let p := purge (attention fun u => { u with shares := [share1], engs := [(15, { cur := some ((0, 0), unit0) })] }) 0
     (p.st 0).chk = [] ∧ (engOf p 0 0 15).cur = some ((0, 0), unit0) ∧ shareOf p 0 0 (0, 0) = some share1 ∧
       dirFrame p 0 (kvGeo p 0) 0 unit0.slot unit0.block = some 0 ∧ (blockView p 0 (kvGeo p 0) 0 0 share1.layer).cause = 0) ∧
    (let p := purge (attention fun u => { u with shares := [share1] }) 0
     (p.st 0).su.shares.find? (fun x => x.stack = 0 ∧ x.core = 0) = some share1 ∧ share1.left = []) := by decide +kernel

theorem witness_AttentionCommands_unfenced (n : Nat) :
    fenced (purge (attention fun u => { u with shares := [share1], engs := [(15, { cur := some ((0, 0), unit0) })] }) 0) 0 n = false :=
  unfenced (by decide +kernel) n

theorem witness_PartsCombineInBlockOrder :
    let q : APart := { row := 0, qhead := 0, block := 0, m := 0, l := 0x3F80_0000, o := [0] }
    let a : Share := { share1 with parts := [q, { q with block := 1 }] }
    let b : Share := { share1 with parts := [{ q with block := 1 }, q] }
    a.parts.Perm b.parts ∧ (a.parts.map fun p => (p.row, p.qhead, p.block)).Nodup := by decide +kernel

/-- A format-2 stream of one block of 2,048 zero bytes. -/
def zeroStream : List Byte :=
  [0x32, 0x5A, 2, 3, 1, 0, 0, 0, 64, 0, 0, 0, 6, 0, 0, 0, 0xFF] ++ zeros 47 ++ [5, 0, 0, 0, 6] ++ zeros 11 ++ [2] ++ zeros 15

/-- Place 0 of a circle in promenade, with a session in prefill. -/
def passes (u : SessUnit → SessUnit) : State :=
  on0 (inLine [(.CIRC_CFG_PLACE, 0, 0), (.CIRC_CFG_MODE, 0, 1), (.SESS_CFG_0_CHUNK, 0, 16)] id) fun t => { t with su := u t.su }

theorem witness_BoundarySealPasses :
    (let s := attention id
     let g := kvGeo s 0
     dirFrame s 0 g (0 : StackId).val 0 0 = some 0 ∧ g.sealOn = true ∧ 0 < g.layers ∧ bit (dirFlags s 0 g 0 0) 0 = true ∧
       256 * (0 + 1) ≤ dirLen s 0 g 0 0 ∧ sealed s 0 g 0 0 0 = false ∧ blockInFlight s 0 g 0 0 0 = false ∧ fenced s 0 0 = false ∧
       s.fld 0 .MEM_HBM_TEMPs_LEVEL 0 = 0 ∧ sealStream g (peek s 0 (blockAddr s 0 g 0 0 0) g.layerBlk) zeroStream = true) ∧
    (let s := attention fun u => { u with gather := true }
     (s.st 0).su.gather = true ∧ (s.st 0).lost = false) ∧
    (let s := attention fun u => { u with due := true }
     (s.st 0).lost = false ∧ boundaryOpen s 0 = true ∧ promenade s 0 = false ∧ promenade (takeShare (boundaryRepairs (onSu
       (applyInputs (admitAll (closePages (applyCmds (toFive s 0) 0) 0) 0) 0) 0 fun u => { u with
         five := false, cmds := u.cmds.map fun x => { x with late := false } }) 0) 0) 0 = false) ∧
    (let s := passes fun u => { u with sess := [(9, { ph := .prefill, feed := [5] })] }
     mayStartPass s 0 = true ∧ (pickPass 0 1 32 (readyList s 0) (clearHeld s 0)).2.map (·.slot) = [9]) ∧
    (let p : Pass := { slots := [9], num := 0, rows := [], ver := 0 }
     let s := passes fun u => { u with passes := [p] }
     let r := ret 9 0 [7] [] []
     (s.st 0).su.passes.find? (fun p => p.num = r.num) = some p ∧ ∀ n ∈ p.slots, (r.parts.find? fun x => x.slot = n).isSome = true) ∧
    (let s := passes fun u => { u with headers := [zeros 576] }
     (s.st 0).su.headers = [zeros 576] ∧ promenade s 0 = true ∧ mayChange s 0 = true ∧ passGate s 0 = true ∧ allSettled s 0 = true) := by
  decide +kernel

/-! ### Stacks and sessions -/

def level (n : Nat) (tmax : Nat) : State := setUp [] [(.MEM_HBM_TEMPs_LEVEL, 5, n), (.MEM_HBM_TEMPs_TMAX, 5, tmax)]

theorem witness_StackTemperature :
    (85 : Nat) ≤ 85 ∧ (85 < 95 ∧ (level 0 0).fld 0 .MEM_HBM_TEMPs_LEVEL (5 : StackId).val = 0) ∧
    (95 < 105 ∧ (level 1 0).fld 0 .MEM_HBM_TEMPs_LEVEL 5 = 1) ∧ (105 < 106 ∧ (level 2 0).fld 0 .MEM_HBM_TEMPs_LEVEL 5 < 3) ∧
    ((level 2 92).fld 0 .MEM_HBM_TEMPs_LEVEL 5 = 2 ∧ (level 2 92).fld 0 .MEM_HBM_TEMPs_TMAX 5 ≤ 92) ∧
    ((level 1 82).fld 0 .MEM_HBM_TEMPs_LEVEL 5 = 1 ∧ (level 1 82).fld 0 .MEM_HBM_TEMPs_TMAX 5 ≤ 82) := by decide +kernel

theorem witness_FencePatrolLoopback :
    (let s := State.reset
     fenced s 0 (5 : StackId).val = false ∧ fenceAction s 0 5 = 0 ∧ ownedOn s 0 5 = [] ∧ sessionsOn s 0 5 = [] ∧ (s.st 0).selfRef = false ∧
       (patrolOf s 0 5).next = none) ∧
    (∀ a ∈ [5 * 0x18_0000_0000, 6 * 0x18_0000_0000 - 256], let s := on0 State.reset fun t => { t with patrol := [(5, { next := some a })] }
     (patrolOf s 0 5).next = some a ∧ s.fld 0 .MEM_HBM_TEMPs_LEVEL 5 = 0 ∧ s.fld 0 .MEM_HBM_LBs_BUSY 5 ≠ 1 ∧ (s.st 0).selfRef = false ∧ ∀ j < 8, chkOf s 0 (a + 32 * j) = 0) ∧
    5 * 0x18_0000_0000 + 256 < (5 + 1) * 0x18_0000_0000 ∧ (5 + 1) * 0x18_0000_0000 ≤ 6 * 0x18_0000_0000 - 256 + 256 ∧
    (let s := setUp [] [(.MEM_HBM_TEMPs_FENCED, 5, 1)]
     s.fld 0 .MEM_HBM_LBs_BUSY 5 = 0 ∧ (1 : Fin 4) ≠ 0 ∧ 10000 < 2 ^ 14 ∧ fenced s 0 5 = true) ∧
    (setUp [] [(.MEM_HBM_LBs_BUSY, 5, 1)]).fld 0 .MEM_HBM_LBs_BUSY 5 = 1 := by decide +kernel

/-- Page 3 bound to job 0 of set 0, with rings of 64 entries. -/
def page (l : List (Field × Nat × Nat)) : State := setUp ([(.HB_PAGEt_CFG_BOUND, 3, 1), (.HB_PAGE_ID_LOST, 3, 0), (.SESS_RING_VER, 3, 1),
  (.SESS_RING_SQ_LOG2, 3, 6), (.SESS_RING_CQ_LOG2, 3, 6), (.HB_CAP_MODE, 0, 1), (.HB_HOST_STAT_HELD, 0, 0), (.HB_HOSTCFG_SHARE0, 0, 50)] ++ l)
  [(.MEM_JOBj_STATE, 0, 1)]
  { State.reset with busMaster := true }

theorem witness_Rings :
    (pageLive (page []) (3 : PageId).val = true ∧ (page []).pfld .SESS_RING_ENABLE 3 = 0 ∧ (page [(.SESS_RING_VER, 3, 2)]).pfld .SESS_RING_VER 3 ≠ 1 ∧
      (page []).pfld .SESS_RING_VER 3 = 1 ∧ (page [(.SESS_RING_SQ_LOG2, 3, 17)]).pfld .SESS_RING_SQ_LOG2 3 = 17 ∧
      (page []).pfld .SESS_RING_SQ_LOG2 3 = 6 ∧ (page []).pfld .SESS_RING_CQ_LOG2 3 = 6) ∧
    (let s := page [(.SESS_RING_ENABLE, 3, 1), (.SESS_CQ_PTR_TAIL, 3, 63)]
     pageLive s 3 = true ∧ s.pfld .SESS_RING_ENABLE 3 = 1 ∧ 63 < sqSize s 3 ∧ sqSize s 3 ≤ 64 ∧ cqSize s 3 ≤ 64 ∧ 63 < cqSize s 3 ∧
       (63 + cqSize s 3 - s.pfld .SESS_CQ_PTR_HEAD 3) % cqSize s 3 ≤ cqUsed s 3) ∧
    (let s := page [(.SESS_RING_ENABLE, 3, 1), (.SESS_SQ_PTR_TAIL, 3, 1)]
     (s.st 0).lost = false ∧ s.pfld .HB_HOST_STAT_HELD ≠ 1 ∧ hostUp s = true ∧ nextPage s 0 = some 3) ∧
    (let s := on0 (page []) fun t => { t with su := { t.su with sess := [(9, { ph := .pending, page := 3 })], five := true } }
     (sessOf s 0 9).ph = .pending ∧ (sessOf s 0 9).ended = none ∧ (s.st 0).lost = false) := by decide +kernel

/-- A command of page 3 for SESSION 7: its operation's code, and the bytes at the given offsets. -/
def sqCmd (op : Byte) (fs : List (Nat × Byte)) : List Byte := (fs.foldl (fun d p => d.set p.1 p.2) (op :: zeros 63)).set 4 7

/-- A boundary with one fetched command, and session 7 in slot 9 at a phase. -/
def fetched (c : List Byte) (ph : SPhase) (d : Option (List Byte)) : State :=
  on0 (setUp [] [(.SESS_CFG_0_VOCAB, 0, 1024), (.MSE_STKs_1_FRAMES, 0, 8)] (page [(.SESS_RING_ENABLE, 3, 1)])) fun t =>
    { t with su := { t.su with due := true, five := true, cmds := [{ page := 3, cmd := c, data := d }]
                               sess := if ph = .free then [] else [(9, { ph := ph, page := 3, sid := 7 })] } }

theorem witness_SessionCommands :
    (let c := sqCmd 1 [(2, 0xFF), (3, 0xFF), (8, 1), (23, 0x3F)]
     let s := fetched c .free none
     let b := Claims.atCommand s 0
     boundaryOpen s 0 = true ∧ (s.st 0).su.cmds = [{ page := 3, cmd := c, data := none }] ∧ leAt c 0 1 = 1 ∧
       findSess b 0 3 (leAt c 4 4) = none ∧ openOk b 0 c = true ∧ leAt c 40 8 = 0 ∧ leAt c 2 2 = 0xFFFF) ∧
    (let c := sqCmd 5 [(8, 1)]
     leAt c 0 1 = 5 ∧ leAt c 2 2 = 0 ∧ ((fetched c .free (some (zeros 128))).st 0).su.cmds = [{ page := 3, cmd := c, data := some (zeros 128) }]) ∧
    (let c := sqCmd 2 [(16, 1), (20, 1)]
     let d := [0xFF, 3, 0, 0]
     let s := fetched c .idle (some d)
     let b := Claims.atCommand s 0
     boundaryOpen s 0 = true ∧ (s.st 0).su.cmds = [{ page := 3, cmd := c, data := some d }] ∧ findSess b 0 3 (leAt c 4 4) = some 9 ∧ leAt c 0 1 = 2 ∧
       leAt c 2 2 = 0 ∧ (sessOf b 0 9).ph = .idle ∧ sidWaits b 0 3 (leAt c 4 4) = false ∧ leAt c 16 4 = 1 ∧
       leAt d 0 4 < b.fld 0 .SESS_CFG_0_VOCAB ∧ (sessOf (Claims.atCommand (fetched c .decode (some d)) 0) 0 9).ph ≠ .idle) ∧
    (∀ op ∈ [3, 4], let c := sqCmd op []
     let x : SqCmd := { page := 3, cmd := sqCmd 2 [], data := none }
     let s := onSu (fetched c .decode none) 0 fun u => { u with inputs := [x] }
     boundaryOpen s 0 = true ∧ findSess (Claims.atCommand s 0) 0 3 (leAt c 4 4) = some 9 ∧ leAt c 2 2 = 0 ∧
       sidWaits (Claims.atCommand s 0) 0 3 (leAt c 4 4) = true) ∧
    (let c := sqCmd 3 [(8, 1), (12, 16)]
     let b := Claims.atCommand (fetched c .idle none) 0
     findSess b 0 3 (leAt c 4 4) = some 9 ∧ leAt c 0 1 = 3 ∧ leAt c 2 2 = 0 ∧ sidWaits b 0 3 (leAt c 4 4) = false ∧ leAt c 12 4 = 16 ∧
       (sessOf b 0 9).len < leAt c 8 4 ∧ hostShare b 0 ≠ 0) ∧
    (leAt (sqCmd 4 [(9, 2)]) 0 1 = 4 ∧ leAt (sqCmd 4 [(9, 2)]) 2 2 = 0 ∧ leAt (sqCmd 4 [(9, 2)]) 9 1 ≤ 2 ∧
      sidWaits (Claims.atCommand (fetched (sqCmd 4 [(9, 2)]) .idle none) 0) 0 3 7 = false) ∧
    (leAt (sqCmd 6 []) 0 1 = 6 ∧ leAt (sqCmd 6 []) 2 2 = 0) := by decide +kernel

/-- A free session slot: which one is a free value. -/
theorem witness_SessionCommands_free (op : Byte) : ∃ n, freeSess (Claims.atCommand (fetched (sqCmd op []) .free none) 0) 0 = some n := by
  have h : sessSlots (Claims.atCommand (fetched (sqCmd op []) .free none) 0) 0 = [] := by rfl
  simp [freeSess, h]

/-! ### Sync, channels, links and time -/

theorem witness_WaitOrder : (SMap.get [] (State.reset.st 0).waiters 5 = [] ∧ 3 ≤ (setUp [] [(.SYNC_CTRp_1_VALUE, 5, 3)]).fld 0 .SYNC_CTRp_1_VALUE 5) ∧
    State.reset.fld 0 .SYNC_CTRp_1_VALUE 5 < 1 ∧
    SMap.get [] ((on0 State.reset fun t => { t with waiters := [(5, [.slot 0 0 9])] }).st 0).waiters 5 ≠ [] := by decide +kernel

/-- Job 0 ACTIVE with counter 0, which the host may reach, and a barrier node for counter 1. -/
def sync (l : List (Field × Nat × Nat)) : State :=
  setUp [] ([(.MEM_JOBj_STATE, 0, 1), (.SYNC_JOBj_COUNT, 0, 2), (.SYNC_CTRp_0_HOST_OK, 0, 1), (.SYNC_BNODEi_0_VALID, 7, 1), (.SYNC_BNODEi_0_CTR, 7, 1),
    (.SYNC_CTRp_0_KIND, 1, 2)] ++ l) (page [])

theorem witness_SyncFromOutside :
    (let s := sync [(.SYNC_EXPe_VALID, 4095, 1), (.SYNC_EXPe_SENDER, 4095, 9), (.SYNC_CTRp_1_VALUE, 0, 2 ^ 31 - 2)]
     s.fld 0 .SYNC_EXPe_CTR (4095 : Fin 4096).val = 0 ∧ s.fld 0 .SYNC_EXPe_VALID 4095 = 1 ∧ s.fld 0 .SYNC_EXPe_SENDER 4095 = 9 ∧
       s.fld 0 .MEM_JOBj_STATE (s.fld 0 .SYNC_CTRp_0_JOB 0) = 1 ∧ s.fld 0 .SYNC_CTRp_0_KIND 0 = 0 ∧ s.fld 0 .SYNC_CTRp_1_VALUE 0 + 1 < 2 ^ 31) ∧
    (sync []).fld 0 .SYNC_EXPe_VALID 4095 = 0 ∧
    (let r : RemoteOut := { place := 1, exp := 2, n := 3, tag := 4, pc := 0 }
     ((ready [] [] { remote := [r] }).slot 0 (0 : CoreId).val (0 : SlotId).val).remote = [r]) ∧
    (let s := sync []
     (1 : Nat) < 4096 ∧ pageLive s (3 : PageId).val = true ∧ (s.st (pageSet s 3)).waiters = [] ∧ hostRefuse s 3 0 1 true = 0 ∧ hostRefuse s 3 0 1 false = 0 ∧
       ctrOf s (pageSet s 3) (s.pfld .HB_PAGEt_CFG_JOB 3) 0 = some 0) ∧
    (let s := sync []
     nodeOf s 0 1 = some 7 ∧ s.fld 0 .SYNC_CTRp_1_BROKEN 1 = 0 ∧ SMap.get [] (s.st 0).children 7 = []) := by decide +kernel

/-- An open receive end of 256 units for place 7, core 2, channel 1, and core 3 with a send on channel 63. -/
def channel (p : Phase) (tail : Nat) : State :=
  on0 (setUp [] [(.CHAN_RXk_c_0_VALID, 5, 1), (.CHAN_RXk_c_1_SPLACE, 5, 7), (.CHAN_RXk_c_2_SCORE, 5, 2), (.CHAN_RXk_c_2_SCHAN, 5, 1),
    (.CHAN_RXk_c_2_OPEN, 5, 1), (.CHAN_RXk_c_1_SIZE, 5, 256), (.CHAN_RXk_c_2_TAIL, 5, tail), (.CHAN_TXk_c_0_RETRY, 255, 3)]) fun t =>
    { t with rx := [(5, { expect := some 9, recs := if tail = 0 then [] else [(tail, 0)] })]
             cores := [(3, { requestQ := [entry (send1.set 16 63) p] })] }

def msg9 : ChanMsg := { place := 7, core := 2, chan := 1, seq := 9, body := zeros 32, poisoned := [] }

theorem witness_ChannelMessages :
    (let s := channel .running 0
     (s.st 0).lost = false ∧ rxAccepts s 0 (chanIx (0 : CoreId).val (5 : Fin 64).val) msg9 = true ∧ s.fld 0 .CHAN_RXk_c_2_OPEN (chanIx 0 5) = 1 ∧
       (SMap.get {} (s.st 0).rx (chanIx 0 5)).expect = some msg9.seq ∧ ringPlace (s.fld 0 .CHAN_RXk_c_1_SIZE 5) (s.fld 0 .CHAN_RXk_c_2_HEAD 5)
         (s.fld 0 .CHAN_RXk_c_2_TAIL 5) (ringUsed (SMap.get {} (s.st 0).rx 5)) (msg9.body.length / 32 + 1) = some (0, 0) ∧
       isPassEnd (chanReply (placeMsg s 0 5 msg9 0 0) 0 msg9 0) 0 5 = false) ∧
    (let s := channel .running 255
     rxAccepts s 0 5 msg9 = true ∧ ringPlace (s.fld 0 .CHAN_RXk_c_1_SIZE 5) (s.fld 0 .CHAN_RXk_c_2_HEAD 5) (s.fld 0 .CHAN_RXk_c_2_TAIL 5)
       (ringUsed (SMap.get {} (s.st 0).rx 5)) (msg9.body.length / 32 + 1) = none) ∧
    (let s := setUp [] [(.CHAN_RXk_c_2_OPEN, 5, 0)] (channel .running 0)
     (s.st 0).lost = false ∧ s.fld 0 .CHAN_RXk_c_0_VALID (chanIx 0 5) = 1 ∧ s.fld 0 .CHAN_RXk_c_2_OPEN (chanIx 0 5) = 0) ∧
    (let e := entry (send1.set 16 63) .running
     sendOf (channel .running 0) 0 3 63 .running = some e ∧ e.tries ≠ (channel .running 0).fld 0 .CHAN_TXk_c_0_RETRY (chanIx 3 63)) ∧
    sendOf (channel .backoff 0) 0 3 63 .backoff = some (entry (send1.set 16 63) .backoff) := by decide +kernel

theorem witness_RingKeepsUnread : (2 : Nat) < 8 ∧ 7 < 8 ∧ ((5 : Nat) = 0 → 2 = 7) ∧ ringPlace 8 2 7 5 2 = some (1, 0) := by decide +kernel

/-- Right after the first expiry of the watchdog. -/
def expired : State := { State.reset with mg := { State.reset.mg with watchdogAt := 1 } }

theorem witness_HeartbeatsAndReports :
    (corePruned State.reset 0 (79 : CoreId).val = false ∧ (State.reset.st 0).lost = false) ∧ State.reset.mg.watchdogAt = 0 ∧
    (expired.mg.watchdogAt ≠ 0 ∧ expired.time 0 < expired.mg.watchdogAt + 1000000000) ∧ ({ State.reset with mpDown := true } : State).mpDown = true ∧
    ((frecOf (slice (zeros 32) 0 32)).sev < 3 ∧ 3 ≤ (frecOf (slice ((FRec.bytes { FC.rail.fr with sev := 3 }) 0) 0 32)).sev) := by decide +kernel

def port (l : List (Field × Nat × Nat)) (k : LinkPort) : State := on0 (setUp [] l) fun t => { t with links := [(4, k)] }

theorem witness_LinkRetrain : ((State.reset.st 0).lost = false ∧ (State.reset.st 0).selfRef = false) ∧
    (let s := port [(.LINK_PORTp_STAT_0_STATE, 4, 7), (.LINK_PORTp_STAT_1_FEAT, 4, 20), (.LINK_PORTp_STAT_0_BUNDLES, 4, 2 ^ 32 - 1)] {}
     portState s 0 (4 : PortId).val = 7 ∧ featOn s 0 4 4 = true ∧ bit (s.fld 0 .LINK_PORTp_STAT_0_BUNDLES 4) (31 : Fin 32).val = true ∧
       SMap.get 0 (lport s 0 4).alignAt 31 = 0 ∧ tooFew s 0 4 = false) ∧
    (let s := port [(.LINK_PORTp_STAT_0_STATE, 4, 7)] {}
     portState s 0 4 = 7 ∧ featOn s 0 4 4 = false) ∧
    (let s := port [(.LINK_PORTp_STAT_0_STATE, 4, 8), (.LINK_PORTp_STAT_0_BUNDLES, 4, 2 ^ 32 - 1)] {}
     portState s 0 4 = 8 ∧ (∀ b < bundlesOf 4, bit (2 ^ 32 - 1) b = true) ∧ (lport s 0 4).asked = false ∧ tooFew s 0 4 = false) := by decide +kernel

def state4 (n : Nat) : State := port [(.LINK_PORTp_STAT_0_STATE, 4, n), (.LINK_PORTp_STAT_0_BUNDLES, 4, 2 ^ 32 - 1), (.LINK_IDENT_STRAP_VALID, 0, 1)] {}

theorem witness_LinkTraining :
    (∀ n ∈ [1, 2, 3, 4, 5], portState (state4 n) 0 (4 : PortId).val = n) ∧ (∀ b < bundlesOf 4, bit (2 ^ 32 - 1) b = true) ∧
    tooFew (state4 3) 0 4 = false ∧ tooFew (state4 4) 0 4 = false ∧
    (let r := zeros 64
     r.length = 64 ∧ (lport (state4 5) 0 4).ident = none ∧ bit (leAt r 4 4) 19 = false ∧ bit (leAt (r.set 6 8) 4 4) 19 = true ∧
       (state4 5).fld 0 .LINK_IDENT_STRAP_VALID = 1 ∧ commonVer (state4 5) 0 (r.set 6 8) = 0) ∧
    (let r := (zeros 64).set 2 2
     let s := port [(.LINK_PORTp_STAT_0_STATE, 4, 6), (.LINK_PORTp_CFG_1_TOF_MIN, 4, 5), (.LINK_PORTp_CFG_1_TOF_MAX, 4, 9)] { ident := some r }
     portState s 0 4 = 6 ∧ (lport s 0 4).ident = some r ∧ leAt r 3 1 % 8 = s.fld 0 .LINK_PORTp_CFG_0_PEER_PORT (logPort s 0 4) ∧
       leAt r 8 4 = s.fwVer % 2 ^ 32 ∧ s.fld 0 .LINK_PORTp_CFG_1_TOF_MIN 4 ≤ 5 ∧ 9 ≤ s.fld 0 .LINK_PORTp_CFG_1_TOF_MAX 4) ∧
    portState (state4 5) 0 4 ≠ 7 ∧ portState (state4 5) 0 4 ≠ 8 ∧ (state4 5).fld 0 .LINK_PORTp_CTL_DISABLE 4 = 0 ∧ ((state4 5).st 0).lost = false := by
  decide +kernel

/-- The bytes of a number are the number. -/
theorem leNat_leBytes (n v : Nat) : leNat (leBytes n v) = v % 256 ^ n := by
  induction n generalizing v with
  | zero => simp [leBytes, leNat, Nat.mod_one]
  | succ n ih => rw [leBytes, leNat, ih, BitVec.toNat_ofNat, show 256 ^ (n + 1) = 256 * 256 ^ n from Nat.pow_succ', Nat.mod_mul]

theorem crcByte_lt {c : Nat} (b : Byte) (h : c < 2 ^ 64) : crcByte c b < 2 ^ 64 := by
  have hs : ∀ (l : List Nat) a, a < 2 ^ 64 → l.foldl (fun a _ => if a % 2 = 1 then (a >>> 1) ^^^ 0xC96C5795D7870F42 else a >>> 1) a < 2 ^ 64 := by
    intro l
    induction l with
    | nil => exact fun _ h => h
    | cons _ _ ih =>
      intro a h
      have h1 : a >>> 1 < 2 ^ 64 := Nat.lt_of_le_of_lt (Nat.shiftRight_le a 1) h
      refine ih _ ?_
      dsimp only; split
      · exact Nat.xor_lt_two_pow h1 (by decide)
      · exact h1
  exact hs _ _ (Nat.xor_lt_two_pow h (Nat.lt_of_lt_of_le b.isLt (by decide)))

theorem crc64_lt (d : List Byte) : crc64 d < 2 ^ 64 := by
  have : ∀ (d : List Byte) c, c < 2 ^ 64 → d.foldl crcByte c < 2 ^ 64 := by
    intro d
    induction d with
    | nil => exact fun _ h => h
    | cons b _ ih => exact fun c h => ih _ (crcByte_lt b h)
  exact Nat.xor_lt_two_pow (this d _ (by decide)) (by decide)

/-- A flit of class 0 with SEQ 0 and its CRC, plus n. -/
def flit (n : Nat) : List Byte := zeros 504 ++ leBytes 8 (crc64 (zeros 504) + n)

theorem flit_length (n : Nat) : (flit n).length = 512 := by
  rw [flit, List.length_append, zeros, List.length_replicate]; rfl

theorem flit_crc (n : Nat) : leAt (flit n) 504 8 = (crc64 ((flit n).take 504) + n) % 2 ^ 64 := by
  have h1 : (flit n).take 504 = zeros 504 := by exact List.take_left' (List.length_replicate ..)
  have h2 : ((flit n).drop 504).take 8 = leBytes 8 (crc64 (zeros 504) + n) := by
    exact (congrArg (List.take 8) (List.drop_left' (List.length_replicate ..))).trans (List.take_of_length_le (Nat.le_refl 8))
  rw [leAt, h2, leNat_leBytes, h1]; rfl

theorem flit_good : crc64 ((flit 0).take 504) = leAt (flit 0) 504 8 := by
  rw [flit_crc, Nat.add_zero, Nat.mod_eq_of_lt (crc64_lt _)]

theorem flit_bad : crc64 ((flit 1).take 504) ≠ leAt (flit 1) 504 8 := by
  have := crc64_lt ((flit 1).take 504)
  rw [flit_crc]; omega

theorem witness_LossesTablesFlits :
    (let s := inLine [] id
     (s.st 0).lost = false ∧ 2 < places s 0 ∧ 2 ≠ myPlace s 0 ∧ (circ s 0).gone.contains 2 = false) ∧
    (circ (inLine [] fun c => { c with gone := [2] }) 0).gone.contains 2 = true ∧
    ((on0 State.reset fun t => { t with lost := true }).st 0).lost = true ∧
    (let s := inLine [] fun c => { c with tables := [(3, some (77, 0))] }
     (∀ e ∈ (circ s 0).tables, e.1 ≠ 1 → ∀ x ∈ e.2, x.1 ≠ 78) ∧ (3, some (77, 0)) ∈ (circ s 0).tables) ∧
    (let s := port [(.LINK_PORTp_STAT_0_STATE, 4, 7)] {}
     let d := flit 0
     (s.st 0).lost = false ∧ 5 ≤ portState s 0 (4 : PortId).val ∧ portState s 0 4 ≠ 8 ∧
       leAt d 2 2 ≠ (lport (port [(.LINK_PORTp_STAT_0_STATE, 4, 7)] { rxSeq := 1 }) 0 4).rxSeq ∧ leAt d 2 2 = (lport s 0 4).rxSeq ∧
       leAt d 0 1 % 8 ≠ 7 ∧ bit (leAt d 0 1) 5 = false ∧
       portState (sendFlits (takePayload (takeTime (takeAck (onLink s 0 4 fun l => { l with naked := false, rxSeq := (l.rxSeq + 1) % 65536 }) 0 4 d) 0
         4 d) 0 4 d) 0 4) 0 4 = 7) := by decide +kernel

theorem witness_LossesTablesFlits_crc : (flit 0).length = 512 ∧ (flit 1).length = 512 ∧ crc64 ((flit 0).take 504) = leAt (flit 0) 504 8 ∧
    crc64 ((flit 1).take 504) ≠ leAt (flit 1) 504 8 := ⟨flit_length 0, flit_length 1, flit_good, flit_bad⟩

/-- In holdover, the alternate parent's port in state n. -/
def holdover (n : Nat) : State := port [(.LINK_FT_STAT_STATE, 0, 2), (.LINK_FT_CFG_ALT, 0, 5), (.LINK_PORTp_STAT_0_STATE, 4, n)] {}

theorem witness_TimeExchange :
    (let s := port [(.LINK_PORTp_STAT_0_STATE, 4, 7), (.LINK_FT_CFG_PARENT, 0, 5)] { exch := some (255, 1, 2, 3) }
     5 ≤ portState s 0 (4 : PortId).val ∧ portState s 0 4 ≤ 7 ∧ parentPort s 0 = some 4 ∧ s.fld 0 .LINK_FT_STAT_STATE ≠ 3 ∧
       (lport s 0 4).exch = some (255, 1, 2, 3) ∧ featOn s 0 4 6 = false ∧ s.fld 0 .LINK_FT_STAT_STATE = 0) ∧
    (setUp [] [(.LINK_FT_STAT_STATE, 0, 1)]).fld 0 .LINK_FT_STAT_STATE = 1 ∧
    ((setUp [] [(.LINK_FT_CFG_RANK, 0, 1)]).fld 0 .LINK_FT_CFG_RANK ≠ 0 ∧ ((setUp [] [(.LINK_FT_CFG_RANK, 0, 1)]).st 0).lost = false) ∧
    ((holdover 7).fld 0 .LINK_FT_STAT_STATE = 2 ∧ ((holdover 7).st 0).altParent = false ∧ routeUp (holdover 7) 0 ((holdover 7).fld 0 .LINK_FT_CFG_ALT) = true ∧
       routeUp (holdover 1) 0 ((holdover 1).fld 0 .LINK_FT_CFG_ALT) = false) ∧
    (let s := on0 State.reset fun t => { t with slewFrac := 9, slew := 1 }
     (s.st 0).slewFrac < 10 ∧ -10 < (s.st 0).slewFrac ∧ s.time 0 + 1001 < 2 ^ 64) := by decide +kernel

/-! ### The host port -/

theorem witness_HostLinkEvents :
    (live.pins.pwrGood = true ∧ ({ live with pins := { live.pins with perst := false } } : State).pins.perst = false ∧ live.pkgLost = false) ∧
    (let s := setUp [(.HB_CAP_MODE, 0, 6), (.HB_CAP_IDE_IO, 0, 1)] []
     s.pfld .HB_CAP_MODE ≠ 0 ∧ s.pfld .HB_CAP_IDE_IO = 1 ∧ s.pfld .HB_CAP_IDE_CM = 0) ∧
    (let s := inLine [] fun u => { u with cat := [piece 4 0], fetch := [(4, 0)], load := [(4, { tries := 2 })] }
     (circ s 0).fetch = [(4, 0)] ∧ loadEntry (countDma s) 0 4 0 = some (piece 4 0, 0) ∧ (pieceSt (countDma s) 0 (piece 4 0)).tries < 3) ∧
    ((circ State.reset 0).tierFail = none ∧ ∀ t ∈ [5, 1_000_000_005], let s := inLine [(.LINK_FT_TIME, 0, t)] fun u => { u with tierFail := some 5 }
     (circ s 0).tierFail = some 5 ∧ (if t = 5 then s.time 0 < 5 + 1_000_000_000 else 5 + 1_000_000_000 ≤ s.time 0)) ∧
    (page [(.SESS_RING_ENABLE, 4095, 1)]).pfld .SESS_RING_ENABLE (4095 : PageId).val = 1 := by decide +kernel

theorem witness_HostLinkEvents_inv : (setUp [(.HB_CAP_MODE, 0, 6)] []).Inv := inv_fields _ _

/-- The host window and aperture 3 of set 0, and a region of the ACTIVE job 0 behind them. -/
def hosted : State := setUp [(.HB_CAP_MODE, 0, 1), (.HB_CAP_MEM, 0, 1), (.HB_HDMs_SIZE, 0, 1), (.HB_APERa_EN, 3, 1)]
  [(.MEM_RGNi_0_VALID, 0, 1), (.MEM_RGNi_0_SIZE, 0, 1), (.MEM_JOBj_STATE, 0, 1)]

theorem witness_HostMemory : Claims.hostOpen hosted ∧
    (hdmAt hosted 0 0xFE0 (zeros 32).length = some 0xFE0 ∧ hdmOpen hosted 0 0xFE0 = true) ∧
    (hdmAt hosted 0 0x1000 (zeros 32).length = some 0x1000 ∧ hdmOpen hosted 0 0x1000 = false) ∧ (hosted.st 0).chk = [] ∧ (hosted.st 0).endDue = [] ∧
    hosted.pfld .HB_APERa_EN (3 : Fin 4).val = 1 ∧ aperFits 0x3FF_FFE1 32 = false ∧ aperFits 0x3FF_FFE0 32 = true ∧
    aperOpen hosted 0 (aperAt hosted 3 0x1000).2 32 = true ∧ mayPoke hosted 0 (aperAt hosted 3 0x1000).2 = true ∧
    mayPoke (setUp [] [(.MEM_JOBj_STATE, 0, 2)] hosted) 0 (aperAt hosted 3 0).2 = false ∧
    (let s := setUp [(.HB_APERa_EN, 3, 1), (.HB_APERa_BASE, 3, 0x2800)] [] hosted
     s.pfld .HB_APERa_EN 3 = 1 ∧ aperOpen s 0 (aperAt s 3 0).2 32 = false) := by unfold Claims.hostOpen; decide +kernel

theorem witness_HostMemory_unfenced (n : Nat) : fenced hosted 0 n = false := unfenced (by decide +kernel) n

theorem witness_RegisterAccess : Claims.hostOpen hosted ∧ setRegion 0x100_005C = none ∧ cxlRegion 0x100_005C = false ∧ 0x100_005C < 0x1000_0000 ∧
    regAt .pkg 0x100_005C = some (.HB_APERa, 3, 4) ∧ accessFits 0x100_005C 4 = true ∧ accessFits 0x100_005C (zeros 4).length = true ∧
    Reg.HB_APERa ≠ .PD_ENV_CAP ∧ Reg.HB_APERa ≠ .PD_SPRINT_CTL ∧ Reg.HB_APERa ≠ .ALM_CFG := by unfold Claims.hostOpen; decide +kernel

/-! ### Start-up, trust and the almanac -/

/-- The package at a stage of its start. -/
def atStage (n : Nat) : State := setUp [(.HB_BOOT_STAGE, 0, n)] [] { live with pins := { live.pins with refOk := true } }

theorem witness_PowerAndReset :
    (State.reset.pins.pwrGood = false ∧ State.reset.pins.fell = true ∧ 10800 ≤ 10800) ∧ State.reset.almBusy = none ∧ live.pins.pwrGood = true ∧
    ((State.reset.st 0).locked = false ∧ (State.reset.st 1).locked = false) ∧ ((on0 State.reset fun t => { t with locked := true }).st 0).locked = true ∧
    live.pins.perst = true ∧ (0x3_FFFE : Nat) % 2 ^ 18 ≠ 0x3_FFFF := by decide +kernel

theorem witness_StartUp :
    (stage (atStage 2) = 2 ∧ (atStage 2).pins.refOk = true ∧ ownerSlot (atStage 2) = none ∧
      ownerSlot { atStage 2 with fuses := { (atStage 2).fuses with owners := [(3, zeros 32)] } } = some 3) ∧
    (stage (atStage 5) = 5 ∧ (atStage 5).mg.trained = [] ∧ loopbackRuns (atStage 5) = false) ∧
    (let s := { atStage 5 with mg := { cardOk := true, trained := [0, 1] } }
     stage s = 5 ∧ s.mg.cardOk = true ∧ s.mg.trained ≠ [] ∧ loopbackRuns s = false ∧ s.nvmBytes 0x700_0000 4 = List.replicate 4 0xFF#8) ∧
    (∀ b : Bool, let s := on0 (setUp [] [(.CIRC_CFG_N, 0, 2)]) fun t => { t with locked := true, circ := { seedling := b } }
     waitsStart s 0 = true ∧ (circ s 0).seedling = b ∧ allClean s 0 (fun _ => true) = true ∧ allClean s 0 (fun e => bit e.flags 0) = true) ∧
    (let s := inLine [(.CIRC_CFG_PLACE, 0, 0)] fun u => { u with seedling := true }
     circulates s 0 = true ∧ (circ s 0).seedling = true ∧ allClean s 0 (fun _ => true) = true ∧ waitsStart s 0 = false ∧ isLeader s 0 = true ∧
       (circ s 0).chg = none ∧ (circ s 0).req = none) ∧
    (let c : Change := { kind := 2, ver := 0, s := 6, ep := 0, confirmed := true }
     let s := inLine [] fun u => { u with chg := some c }
     (circ s 0).chg = some c ∧ c.kind = 2 ∧ circulates s 0 = true ∧ (circ s 0).first = none ∧ s.fld 0 .CIRC_REV_REV + 1 = c.s) ∧
    fromStep4 (atStage 2) = true := by decide +kernel

theorem witness_FirmwareVerifiedBeforeWritten : 2 ≤ stage (atStage 2) ∧ stage (atStage 2) ≠ 11 ∧ (atStage 2).pkgLost = false ∧ (atStage 2).mpDown = false ∧
    0xFF_FFFF + [(0 : Byte)].length ≤ 0x100_0000 := by decide +kernel

/-- A commit of an empty supplement that nothing but its signature stops. -/
def supplied : State := { atStage 9 with
  fuses := { (atStage 9).fuses with owners := [(0, sha256 [])] }
  cardDigest := zeros 32
  mg := { supp := [(0, 0x50), (1, 0x50), (2, 0x55), (3, 0x53), (4, 1)], suppLen := 448 } }

theorem witness_VendorCommands : Claims.atMailbox (atStage 9) (via none) ∧ cardStage (atStage 9) = true ∧ stage (atStage 9) = 9 ∧
    0x50_0000 + 0x10_0000 ≤ 0x600_0000 ∧ (zeros 1).length ≤ 0x10_0000 ∧ 0x3F_FFFF + (zeros 1).length ≤ 0x40_0000 ∧
    (let s := supplied
     Claims.atMailbox s (via none) ∧ stage s = 9 ∧ 64 = 64 + 80 * leAt (readMem s.mg.supp 0 64) 8 4 ∧ leAt (readMem s.mg.supp 0 64) 0 4 = 0x5355_5050 ∧
       leAt (readMem s.mg.supp 0 64) 4 2 = 1 ∧ 64 + 384 ≤ s.mg.suppLen ∧ ownerKey s = some [] ∧
       pssVerify 384 (leNat []) 65537 (readMem s.mg.supp 0 64) (readMem s.mg.supp 64 384) = false ∧
       slice (readMem s.mg.supp 0 64) 16 32 = s.cardDigest ∧
       (catEnts ((readMem s.mg.supp 0 64).drop 64)).all (suppFits (catEnts (secData s.mg.card 5))) = true ∧ servingSets s = [] ∧ ownerSlot s = some 0) := by
  unfold Claims.atMailbox; decide +kernel

theorem witness_Enrolment :
    (Claims.atMailbox (atStage 3) (via none) ∧ stage (atStage 3) = 3 ∧ ownerSlot (atStage 3) = none ∧ (zeros 384).length = 384 ∧
      nextOwnerSlot (atStage 3) = some 0) ∧
    ({ via none with mctp := true } : Via).mctp = true ∧ ownerSlot supplied ≠ none ∧
    nextOwnerSlot { atStage 3 with fuses := { (atStage 3).fuses with revoked := 15 } } = none ∧
    ({ atStage 3 with mg := { enrol := some (zeros 384, zeros 32) } } : State).mg.enrol = some (zeros 384, zeros 32) ∧ (atStage 3).mg.enrol = none := by
  unfold Claims.atMailbox; decide +kernel

theorem witness_UnauthorisedWritesNothing (op : Nat) (p : List Byte) : (takeAuth (atStage 9) { via none with mctp := true } op p).2 = false ∧
    ∃ t, exec (.restart { via none with mctp := true }) (atStage 9) = .next t := ⟨rfl, _, rfl⟩

theorem witness_ManagementCommands :
    (2 ≤ stage (atStage 2) ∧ stage (atStage 2) ≠ 11 ∧ (atStage 2).pkgLost = false ∧ (atStage 2).mpDown = false) ∧ stage (atStage 1) = 1 ∧
    (atStage 1).pfld .HB_BOOT_CAUSE ≠ 16 ∧
    (let s := setUp [(.SEC_STAT_ALIAS_READY, 0, 1), (.SEC_STAT_MEAS, 0, 128)] [] { atStage 2 with mg := { sessions := 1 } }
     2 ≤ stage s ∧ s.pkgLost = false ∧ s.mpDown = false ∧ s.pfld .SEC_STAT_ALIAS_READY = 1 ∧ s.mg.sessions ≠ 0 ∧ 8 ∈ measHave s ∧ 9 ∈ measHave s) ∧
    (atStage 2).pfld .SEC_STAT_ALIAS_READY = 0 ∧ 1 ≤ 254 ∧ 254 < 255 := by decide +kernel

theorem witness_AlmanacWrites : (2 ≤ stage (atStage 2) ∧ (atStage 2).mpDown = false ∧ (atStage 2).almBusy = none ∧ (atStage 2).almNewest ≤ 1) ∧
    (let s := { State.reset with almBusy := some 1 }
     s.almBusy = some 1 ∧ s.almDue = [] ∧ s.promptFull = false) ∧
    (Claims.atMailbox (atStage 9) (via none) ∧ stage (atStage 9) ≠ 12 ∧ 17135 + 1 ≤ 17136) := by unfold Claims.atMailbox; decide +kernel

/-- A calibration block in form. -/
def calBlock : SMap Byte := [(0, 0x31), (1, 0x4C), (2, 0x41), (3, 0x43), (4, 1), (8, 0xE0), (9, 0xCE)]

theorem witness_CalibrationSteps : Claims.atMailbox (atStage 9) (via none) ∧ 0xF_FFFF + 1 ≤ 0x10_0000 ∧
    ({ atStage 9 with mg := { calCode := some (zeros 4) } } : State).mg.calCode = some (zeros 4) ∧
    (let s := setUp [(.ALM_STAT_CAL_UNLOCKED, 0, 1)] [] { atStage 9 with mg := { calStage := calBlock } }
     Claims.atMailbox s (via none) ∧ calUnlocked s = true ∧ 0xF_FFFF + (zeros 1).length ≤ 0x10_0000 ∧ calFormOk s.mg.calStage = true) := by
  unfold Claims.atMailbox; decide +kernel

/-- A set in service whose debug unit the card allows (d = 1), with slot 0 of core 79 in state n. -/
def debugged (d n hold : Nat) : State := setUp [(.ALM_CFG_DEBUG_OK, 0, d)] [(.CORE_SLOTn_STAT_STATE, 632, n), (.CORE_DBG_HOLD, 79, hold)]
  (on0 State.reset fun t => { t with locked := true })

/-- Slot 0 of core 0 held, with a MOVE to issue. -/
def heldMove : State := setUp [(.ALM_CFG_DEBUG_OK, 0, 1)] [(.CORE_SLOTn_STAT_STATE, 0, 7)] (on0 (ready move1 []) fun t => { t with locked := true })

theorem inv_on0 {s : State} (f : SetSt → SetSt) (hr : ∀ t, (f t).regs = t.regs) (hm : ∀ t, (f t).mem = t.mem) (h : s.Inv) : (on0 s f).Inv :=
  (onSet_moves 0 (f := f) (fun t ht => ht.same (hr t) (hm t)) (.refl s)).inv h

theorem heldMove_inv : heldMove.Inv :=
  inv_setUp _ _ (inv_on0 _ (fun _ => rfl) (fun _ => rfl) (inv_on0 _ (fun _ => rfl) (fun _ => rfl) (inv_fields _ _)))

theorem witness_DebugHolds_step : heldMove.Inv ∧ debugOpen heldMove 0 = true ∧ (1 : Fin 256).val = 2 ^ 0 ∧ slotState heldMove 0 0 0 = 7 ∧
    (heldMove.slot 0 0 0).fence = none ∧ (heldMove.slot 0 0 0).prefetch = [(0xD00_0000_0000, move1)] ∧ dtype move1 = some .move ∧
    (match issueCheck (setSlotState heldMove 0 0 0 1) 0 0 0 (heldMove.fld 0 .CORE_SLOTn_PC_JOB (slotIx 0 0)) .move move1 with
      | .go _ => true | _ => false) = true ∧
    slotState (issueFrom (setSlotState heldMove 0 0 0 1) 0 0 0 0xD00_0000_0000 .move move1).1 0 0 0 = 1 := ⟨heldMove_inv, by decide +kernel⟩

theorem witness_DebugHolds : (∀ d n h, (debugged d n h).Inv) ∧ debugOpen (debugged 1 3 0) 0 = true ∧
    ((debugged 0 3 0).pfld .ALM_CFG_DEBUG_OK = 0 ∧ (debugged 1 3 0).pfld .ALM_CFG_DEBUG_OK = 1 ∧ bit (1 : Fin 256).val 0 = true ∧
      slotState (debugged 1 3 0) 0 (79 : CoreId).val 0 = 3) ∧
    (bit ((debugged 1 7 1).fld 0 .CORE_DBG_HOLD 79) 0 = true ∧ slotState (debugged 1 7 1) 0 79 0 = 7 ∧ ((debugged 1 7 1).slot 0 79 0).fence = none) ∧
    ∀ n < 8, bit (255 : Fin 256).val n = true → slotState (debugged 1 3 0) 0 79 n ≠ 7 :=
  ⟨fun _ _ _ => inv_setUp _ _ (inv_bare rfl rfl rfl rfl rfl rfl rfl rfl), by decide +kernel⟩

/-! ### The whole block -/

theorem witness_IdleAndWords : State.reset.pending = [] := rfl

theorem witness_StepKeepsInv : ∃ t, ({ State.reset with pending := [.nonceExpire] } : State).Inv ∧
    step { State.reset with pending := [.nonceExpire] } = .next t := ⟨_, inv_bare rfl rfl rfl rfl rfl rfl rfl rfl, rfl⟩

theorem witness_FusesAndIdentityStand : ∃ t, ({ State.reset with pending := [.enrolTimeout] } : State).Inv ∧
    step { State.reset with pending := [.enrolTimeout] } = .next t := ⟨_, inv_bare rfl rfl rfl rfl rfl rfl rfl rfl, rfl⟩

theorem witness_StoreReadsBack : onFenced State.reset 0 0x18_0000_0000 = false ∧ stackRest 0x18_0000_0000 (zeros 64).length = (zeros 64).length ∧
    0x18_0000_0000 % 32 = 0 ∧ (0x18_0000_0000 + (zeros 64).length) % 32 = 0 ∧ onFenced State.reset 0 0xD00_0000_0001 = false ∧
    stackRest 0xD00_0000_0001 (zeros 64).length = (zeros 64).length ∧ chkOf State.reset 0 0xD00_0000_0001 = 0 ∧
    chkOf State.reset 0 (0xD00_0000_0001 + (zeros 64).length) = 0 := by decide +kernel

theorem witness_InactiveJobsFetchNothing : State.reset.fld 0 .MEM_JOBj_STATE (State.reset.pfld .HB_PAGEt_CFG_JOB 4095) ≠ 1 := by decide +kernel

theorem witness_FaultRecordRoundTrip :
    let r : FRec := ⟨2 ^ 16 - 1, 255, 255, 2 ^ 18 - 1, 31, 127, 255, 255, 65535, 65535, 65535, 2 ^ 64 - 1, 2 ^ 64 - 1⟩
    r.code < 2 ^ 16 ∧ r.sev < 2 ^ 8 ∧ r.action < 2 ^ 8 ∧ r.place < 2 ^ 18 ∧ r.die < 2 ^ 5 ∧ r.unit < 2 ^ 7 ∧ r.sub < 2 ^ 8 ∧ r.cause < 2 ^ 8 ∧
      r.job < 2 ^ 16 ∧ r.sess < 2 ^ 16 ∧ r.tag < 2 ^ 16 ∧ r.time < 2 ^ 64 ∧ r.detail < 2 ^ 64 := by decide +kernel

end Sys2Proof.Tests
end

section
/-! PROOF. What whole-word writes and FILL do to a set's memory, and what they leave (R77, R121, R264). -/

namespace Sys2Proof.Machine

/-! ## What a write of a set's memory leaves -/

/-- From `s` to `t` nothing moves that a write of memory of set `i` leaves: the other set, host memory, messages and registers. -/
structure KeepsBesidesMemory (i : SetId) (s t : State) : Prop where
  others : ∀ j, j ≠ i → t.st j = s.st j
  hostMem : t.hostMem = s.hostMem
  out : t.out = s.out
  regs : t.regs = s.regs
  setRegs : (t.st i).regs = (s.st i).regs

namespace KeepsBesidesMemory

variable {i : SetId} {s t u : State}

theorem refl (i : SetId) (s : State) : KeepsBesidesMemory i s s := ⟨fun _ _ => rfl, rfl, rfl, rfl, rfl⟩

theorem trans (h : KeepsBesidesMemory i s t) (k : KeepsBesidesMemory i t u) : KeepsBesidesMemory i s u :=
  ⟨fun j hj => (k.others j hj).trans (h.others j hj), k.hostMem.trans h.hostMem, k.out.trans h.out, k.regs.trans h.regs,
    k.setRegs.trans h.setRegs⟩

theorem onSet {f : SetSt → SetSt} (hf : ∀ x, (f x).regs = x.regs) : KeepsBesidesMemory i s (s.onSet i f) :=
  ⟨fun _ hj => s.st_onSet_ne f hj, by simp, by simp, by simp, by simp [hf]⟩

theorem fenced_eq (h : KeepsBesidesMemory i s t) (n : Nat) : fenced t i n = fenced s i n := by
  unfold fenced State.fld
  rw [h.setRegs]

theorem unfenced (h : KeepsBesidesMemory i s t) (hs : ∀ n, fenced s i n = false) (n : Nat) : fenced t i n = false := by
  rw [h.fenced_eq, hs]

end KeepsBesidesMemory

/-! ## Writes of whole words -/

theorem storePiece_keeps (s : State) (i : SetId) (a : Nat) (d : List Byte) : KeepsBesidesMemory i s (storePiece s i a d) := by
  unfold storePiece
  split
  · exact .refl i s
  · exact .onSet fun _ => rfl

theorem storeRaw_keeps (s : State) (i : SetId) (a : Nat) (d : List Byte) : KeepsBesidesMemory i s (storeRaw s i a d) :=
  (storePiece_keeps ..).trans (storePiece_keeps ..)

theorem onFenced_of_unfenced {s : State} {i : SetId} (h : ∀ n, fenced s i n = false) (a : Nat) : onFenced s i a = false := by
  simp [onFenced, h]

theorem get_storePiece {s : State} {i : SetId} {a : Nat} (d : List Byte) (x : Nat) (h : onFenced s i a = false) :
    SMap.get 0 ((storePiece s i a d).st i).mem x =
      if a ≤ x ∧ x < a + d.length then d.getD (x - a) 0 else SMap.get 0 (s.st i).mem x := by
  unfold storePiece
  cases d with
  | nil => simp
  | cons b d => rw [if_neg (by simp [h]), State.st_onSet_same, get_writeMem]

/-- The two pieces of R264, one per stack, together write the whole range. -/
theorem get_storeRaw {s : State} {i : SetId} (a : Nat) (d : List Byte) (x : Nat) (h : ∀ n, fenced s i n = false) :
    SMap.get 0 ((storeRaw s i a d).st i).mem x =
      if a ≤ x ∧ x < a + d.length then d.getD (x - a) 0 else SMap.get 0 (s.st i).mem x := by
  have hcut : stackRest a d.length ≤ d.length := by unfold stackRest; split <;> omega
  unfold storeRaw
  generalize stackRest a d.length = m at hcut ⊢
  have hfirst := storePiece_keeps s i a (d.take m)
  rw [get_storePiece _ _ (onFenced_of_unfenced (hfirst.unfenced h) _), get_storePiece _ _ (onFenced_of_unfenced h _)]
  simp only [List.length_drop, List.length_take, Nat.min_eq_left hcut, List.getD_eq_getElem?_getD]
  by_cases hlow : x < a + m
  · by_cases ha : a ≤ x
    · rw [if_neg (by omega), if_pos ⟨ha, hlow⟩, if_pos ⟨ha, by omega⟩, List.getElem?_take_of_lt (by omega)]
    · rw [if_neg (by omega), if_neg (by omega), if_neg (by omega)]
  · by_cases hd : x < a + d.length
    · rw [if_pos (by omega), if_pos (by omega), List.getElem?_drop, show m + (x - (a + m)) = x - a by omega]
    · rw [if_neg (by omega), if_neg (by omega), if_neg (by omega)]

theorem storePart_nil (s : State) (i : SetId) (a : Nat) : storePart s i a [] = s := by simp [storePart]

/-- Whole words from a word address leave nothing to the narrow writes of R123. -/
theorem store_words (s : State) (i : SetId) {a : Nat} {d : List Byte} (ha : a % 32 = 0) (hd : d.length % 32 = 0) :
    store s i a d = storeRaw s i a d := by
  have hwhole : d.length / 32 * 32 = d.length := by omega
  simp [store, ha, hwhole, storePart_nil]

/-! ## Writes of rows -/

/-- Rows of the length of `d` that begin at words. -/
def WordRows (d : List Byte) (rows : List (Nat × Nat)) : Prop := ∀ r ∈ rows, r.1 % 32 = 0 ∧ r.2 = d.length

theorem storeRows_keeps {i : SetId} {d : List Byte} (hd : d.length % 32 = 0) (rows : List (Nat × Nat)) (hrow : WordRows d rows) :
    ∀ s : State, KeepsBesidesMemory i s (rows.foldl (fun s r => store s i r.1 d) s) := by
  induction rows with
  | nil => exact .refl i
  | cons r rows ih =>
    intro s
    rw [List.foldl_cons, store_words s i (hrow r (by simp)).1 hd]
    exact (storeRaw_keeps ..).trans (ih (fun q hq => hrow q (by simp [hq])) _)

/-- The same whole words written to every row: a byte of a row is what `f` says, when `f` says in every row what the words hold there. -/
theorem get_storeRows {i : SetId} {d : List Byte} (hd : d.length % 32 = 0) (f : Nat → Byte) (x : Nat) (rows : List (Nat × Nat))
    (hrow : WordRows d rows) (hf : ∀ r ∈ rows, r.1 ≤ x → x < r.1 + r.2 → d.getD (x - r.1) 0 = f x) :
    ∀ s : State, (∀ n, fenced s i n = false) →
      SMap.get 0 ((rows.foldl (fun s r => store s i r.1 d) s).st i).mem x =
        if ∃ r ∈ rows, r.1 ≤ x ∧ x < r.1 + r.2 then f x else SMap.get 0 (s.st i).mem x := by
  induction rows with
  | nil => simp
  | cons r rows ih =>
    intro s hs
    obtain ⟨halign, hlen⟩ := hrow r (by simp)
    rw [List.foldl_cons, store_words s i halign hd, ih (fun q hq => hrow q (by simp [hq])) (fun q hq => hf q (by simp [hq])) _
      ((storeRaw_keeps s i r.1 d).unfenced hs), get_storeRaw _ _ _ hs, ← hlen]
    by_cases hr : r.1 ≤ x ∧ x < r.1 + r.2
    · simp only [List.exists_mem_cons_iff, hr, and_self, true_or, if_true, hf r (by simp) hr.1 hr.2, ite_self]
    · simp only [List.exists_mem_cons_iff, hr, false_or, if_false]

/-! ## FILL -/

theorem mem_rowsAt {a pitch len n : Nat} {r : Nat × Nat} : r ∈ rowsAt a pitch len n ↔ ∃ q < n, r = (a + q * pitch, len) := by
  simp [rowsAt, eq_comm]

theorem length_slice (l : List Byte) (lo len : Nat) : (slice l lo len).length = len := by simp [slice]

/-- A pattern of `p` bytes laid `n` times one behind another. -/
theorem getD_repeated {w : List Byte} {p : Nat} (hw : w.length = p) :
    ∀ (n : Nat) {x : Nat}, x < n * p → ((List.range n).flatMap fun _ => w).getD x 0 = w.getD (x % p) 0
  | 0, x, hx => by omega
  | n + 1, x, hx => by
    rw [Nat.add_mul, Nat.one_mul] at hx
    rw [List.range_succ_eq_map, List.flatMap_cons, List.flatMap_map]
    by_cases hp : x < p
    · rw [List.getD_append _ _ _ _ (by omega), Nat.mod_eq_of_lt hp]
    · rw [List.getD_append_right _ _ _ _ (by omega), hw, getD_repeated hw n (by omega), ← Nat.mod_eq_sub_mod (by omega)]

theorem latchTouch_keeps (s : State) (i : SetId) (k : Nat) (rows : List (Nat × Nat)) : KeepsBesidesMemory i s (latchTouch s i k rows) := by
  unfold latchTouch
  split
  · exact .refl i s
  · exact .onSet fun _ => rfl

theorem latchTouch_mem (s : State) (i : SetId) (k : Nat) (rows : List (Nat × Nat)) : ((latchTouch s i k rows).st i).mem = (s.st i).mem := by
  unfold latchTouch State.onCore
  split
  · rfl
  · rw [State.st_onSet_same]

/-- The rows that FILL writes: none when their length is zero. -/
def fillRows (d : List Byte) (a1 : Nat) : List (Nat × Nat) :=
  if leAt d 16 3 * 32 = 0 then [] else rowsAt a1 (leAt d 28 3 * 32) (leAt d 16 3 * 32) (max 1 (leAt d 24 3))

/-- The bytes that FILL writes to each row. -/
def fillRow (d : List Byte) : List Byte := (List.range (leAt d 16 3 * 32 / 4)).flatMap fun _ => slice d 20 4

theorem doFill_eq (s : State) (i : SetId) (k : Nat) (d : List Byte) (a1 : Nat) :
    doFill s i k d a1 = latchTouch ((fillRows d a1).foldl (fun s r => store s i r.1 (fillRow d)) s) i k (fillRows d a1) := rfl

theorem length_fillRow (d : List Byte) : (fillRow d).length = leAt d 16 3 * 32 := by
  simp [fillRow, List.length_flatMap]; omega

theorem mem_fillRows {d : List Byte} {a1 : Nat} {r : Nat × Nat} (h : r ∈ fillRows d a1) :
    ∃ q, r = (a1 + 32 * (q * leAt d 28 3), leAt d 16 3 * 32) := by
  unfold fillRows at h
  split at h
  · simp at h
  · obtain ⟨q, -, rfl⟩ := mem_rowsAt.1 h
    exact ⟨q, by congr 2; ring⟩

/-- A row of length zero holds no byte, so the rows as the operands give them cover what FILL writes. -/
theorem covered_fillRows (d : List Byte) (a1 x : Nat) :
    (∃ r ∈ fillRows d a1, r.1 ≤ x ∧ x < r.1 + r.2) ↔
      ∃ r ∈ rowsAt a1 (leAt d 28 3 * 32) (leAt d 16 3 * 32) (max 1 (leAt d 24 3)), r.1 ≤ x ∧ x < r.1 + r.2 := by
  unfold fillRows
  split
  · rename_i hlen
    refine ⟨fun ⟨r, hr, _⟩ => absurd hr List.not_mem_nil, fun ⟨r, hr, h1, h2⟩ => ?_⟩
    obtain ⟨q, -, rfl⟩ := mem_rowsAt.1 hr
    simp only [hlen] at h1 h2
    omega
  · rfl

/-- Rows lie whole words apart, so every row holds the pattern's byte at the same place modulo 4. -/
theorem getD_fillRow {d : List Byte} {a1 x : Nat} {r : Nat × Nat} (hr : r ∈ fillRows d a1) (h1 : r.1 ≤ x) (h2 : x < r.1 + r.2) :
    (fillRow d).getD (x - r.1) 0 = (slice d 20 4).getD ((x - a1) % 4) 0 := by
  obtain ⟨q, rfl⟩ := mem_fillRows hr
  dsimp only at h1 h2 ⊢
  unfold fillRow
  rw [getD_repeated (length_slice d 20 4) _ (by omega)]
  congr 1
  omega

theorem wordRows_fillRows (d : List Byte) {a1 : Nat} (ha : a1 % 32 = 0) : WordRows (fillRow d) (fillRows d a1) := fun r hr => by
  obtain ⟨q, rfl⟩ := mem_fillRows hr
  exact ⟨by dsimp only; omega, (length_fillRow d).symm⟩

theorem length_fillRow_words (d : List Byte) : (fillRow d).length % 32 = 0 := by rw [length_fillRow, Nat.mul_mod_left]

theorem doFill_keeps (s : State) (i : SetId) (k : Nat) (d : List Byte) {a1 : Nat} (ha : a1 % 32 = 0) :
    KeepsBesidesMemory i s (doFill s i k d a1) := by
  rw [doFill_eq]
  exact (storeRows_keeps (length_fillRow_words d) _ (wordRows_fillRows d ha) s).trans (latchTouch_keeps ..)

/-- FILL's effect on memory, byte by byte (R77). -/
theorem get_doFill {s : State} {i : SetId} (k : Nat) (d : List Byte) {a1 : Nat} (hs : ∀ n, fenced s i n = false) (ha : a1 % 32 = 0) (x : Nat) :
    SMap.get 0 ((doFill s i k d a1).st i).mem x =
      if ∃ r ∈ fillRows d a1, r.1 ≤ x ∧ x < r.1 + r.2 then (slice d 20 4).getD ((x - a1) % 4) 0 else SMap.get 0 (s.st i).mem x := by
  rw [doFill_eq, latchTouch_mem]
  exact get_storeRows (length_fillRow_words d) (fun y => (slice d 20 4).getD ((y - a1) % 4) 0) x _ (wordRows_fillRows d ha)
    (fun _ => getD_fillRow) s hs

/-- Settles O11: the rows are written one after another, each with the same bytes at the same addresses modulo 4. -/
theorem fillStoresPattern : Obligations.FillStoresPattern := by
  intro s i k a1 d hs ha rows t
  obtain ⟨others, hostMem, out, regs, setRegs⟩ := doFill_keeps s i k d ha
  refine ⟨fun x hx => ?_, fun x hx => ?_, others, hostMem, out, regs, setRegs⟩
  · rw [get_doFill k d hs ha, if_pos ((covered_fillRows d a1 x).2 hx)]
  · rw [get_doFill k d hs ha, if_neg (mt (covered_fillRows d a1 x).1 hx)]

end Sys2Proof.Machine
end

section
/-! PROOF. SQ_FETCH takes at most one command, and from a page of an ACTIVE job only (R273, R392). -/

namespace Sys2Proof.Machine

/-! ## The session unit and the room of a completion ring -/

@[simp] theorem pfld_onSu (s : State) (i : SetId) (f : SessUnit → SessUnit) (g : Field) (ix : Nat) : (onSu s i f).pfld g ix = s.pfld g ix :=
  s.pfld_putSet ..

@[simp] theorem su_onSu_same (s : State) (i : SetId) (f : SessUnit → SessUnit) : ((onSu s i f).st i).su = f (s.st i).su := by simp [onSu]

@[simp] theorem pfld_cqHold (s : State) (t n : Nat) (g : Field) (ix : Nat) : (cqHold s t n).pfld g ix = s.pfld g ix := rfl

@[simp] theorem st_cqHold (s : State) (t n : Nat) (i : SetId) : (cqHold s t n).st i = s.st i := rfl

/-! ## What SQ_FETCH can do -/

theorem exec_sqFetch (i : SetId) (cmd : List Byte) (data : Option (List Byte)) (s : State) :
    exec (.sqFetch i cmd data) s = execSqFetch i cmd data s := rfl

/-- A command of page `t` has been fetched: the ring's head moves on, CQ room is held, and the command waits in the session unit. -/
def fetchedFrom (s : State) (i : SetId) (t : Nat) (cmd : List Byte) (data : Option (List Byte)) : State :=
  onSu (cqHold (s.setPfld .SESS_SQ_PTR_HEAD t ((s.pfld .SESS_SQ_PTR_HEAD t + 1) % sqSize s t)) t 1) i fun u =>
    { u with lastPage := t, cmds := u.cmds ++ [{ page := t, cmd := cmd, data := data, late := u.five }] }

theorem canFetch_of_nextPage {s : State} {i : SetId} {t : Nat} (h : nextPage s i = some t) : canFetch s i t = true := by
  unfold nextPage at h
  dsimp only at h
  split at h
  case h_1 hlater =>
    cases h
    have hlast := List.find?_some hlater
    rw [Bool.and_eq_true] at hlast
    exact hlast.2
  case h_2 => exact List.find?_some h

theorem jobActive_of_canFetch {s : State} {i : SetId} {t : Nat} (h : canFetch s i t = true) :
    s.fld i .MEM_JOBj_STATE (s.pfld .HB_PAGEt_CFG_JOB t) = 1 := by
  simp only [canFetch, Bool.and_eq_true, beq_iff_eq] at h
  obtain ⟨⟨⟨-, hjob⟩, -⟩, -⟩ := h
  exact hjob

/-- SQ_FETCH leaves the state, or fetches from a page that passes every condition of a fetch. -/
theorem execSqFetch_cases (i : SetId) (cmd : List Byte) (data : Option (List Byte)) (s : State) :
    execSqFetch i cmd data s = .next s ∨
      ∃ t, canFetch s i t = true ∧ execSqFetch i cmd data s = .next (fetchedFrom s i t cmd data) := by
  unfold execSqFetch
  split
  · exact .inl rfl
  · cases hpage : nextPage s i with
    | none => exact .inl rfl
    | some t => exact .inr ⟨t, canFetch_of_nextPage hpage, rfl⟩

/-! ## What a fetch leaves to the other pages -/

section
variable (s : State) (i : SetId) {t p : Nat} (cmd : List Byte) (data : Option (List Byte))

theorem sqHead_fetchedFrom_ne (h : p ≠ t) : (fetchedFrom s i t cmd data).pfld .SESS_SQ_PTR_HEAD p = s.pfld .SESS_SQ_PTR_HEAD p := by
  simp [fetchedFrom, h]

theorem sqTail_fetchedFrom (p : Nat) : (fetchedFrom s i t cmd data).pfld .SESS_SQ_PTR_TAIL p = s.pfld .SESS_SQ_PTR_TAIL p := by
  simp [fetchedFrom]

theorem cmds_fetchedFrom_ne (h : p ≠ t) :
    ((fetchedFrom s i t cmd data).st i).su.cmds.filter (fun c => c.page = p) = (s.st i).su.cmds.filter fun c => c.page = p := by
  simp [fetchedFrom, h.symm]

end

/-- Settles O60: the page that a command is fetched from has an ACTIVE job, and a fetch moves the ring and the commands of that page only. -/
theorem inactiveJobsFetchNothing : Obligations.InactiveJobsFetchNothing := by
  intro s i cmd data
  rw [exec_sqFetch]
  obtain hidle | ⟨t, hfetch, hnext⟩ := execSqFetch_cases i cmd data s
  · exact ⟨s, hidle, fun _ _ => ⟨rfl, rfl, rfl⟩⟩
  · refine ⟨_, hnext, fun p hp => ?_⟩
    have hne : p ≠ t := by
      rintro rfl
      exact hp (jobActive_of_canFetch hfetch)
    exact ⟨sqHead_fetchedFrom_ne s i cmd data hne, sqTail_fetchedFrom s i cmd data p, cmds_fetchedFrom_ne s i cmd data hne⟩

end Sys2Proof.Machine
end

section
/-! PROOF. What admission and answers of vendor commands leave, and enrolment of an owner (R381, R383, R407). -/

namespace Sys2Proof.Machine

/-! ## Answers -/

theorem raiseVector_eq (s : State) (n : Nat) : ∃ out msixPending, raiseVector s n = { s with out := out, msixPending := msixPending } := by
  unfold raiseVector
  split
  · exact ⟨_, _, rfl⟩
  · dsimp only
    split <;> exact ⟨_, _, rfl⟩

/-- An answer leaves a message and perhaps an interrupt that is pending, and touches nothing else. -/
theorem answer_eq (s : State) (v : Via) (op status cause : Nat) (data : List Byte) :
    ∃ out msixPending, answer s v op status cause data = { s with out := out, msixPending := msixPending } := by
  unfold answer
  dsimp only
  split
  · exact ⟨_, _, rfl⟩
  · obtain ⟨out, msixPending, h⟩ := raiseVector_eq (s.emit .vendor 0 [op, status, cause] data) 1
    exact ⟨out, msixPending, h⟩

/-! ## What enrolment changes -/

/-- From `s` to `t` the pending request, the fuses and the stage stand. -/
structure KeepsEnrolment (s t : State) : Prop where
  enrol : t.mg.enrol = s.mg.enrol
  fuses : t.fuses = s.fuses
  stage : stage t = stage s

namespace KeepsEnrolment

variable {s t u : State}

theorem refl (s : State) : KeepsEnrolment s s := ⟨rfl, rfl, rfl⟩

theorem trans (h : KeepsEnrolment s t) (k : KeepsEnrolment t u) : KeepsEnrolment s u :=
  ⟨k.enrol.trans h.enrol, k.fuses.trans h.fuses, k.stage.trans h.stage⟩

end KeepsEnrolment

theorem answer_keepsEnrolment (s : State) (v : Via) (op status cause : Nat) (data : List Byte) :
    KeepsEnrolment s (answer s v op status cause data) := by
  obtain ⟨out, msixPending, h⟩ := answer_eq s v op status cause data
  rw [h]
  exact ⟨rfl, rfl, rfl⟩

/-- A check of authority uses up a nonce at most. -/
theorem takeAuth_keepsEnrolment (s : State) (v : Via) (op : Nat) (payload : List Byte) : KeepsEnrolment s (takeAuth s v op payload).1 := by
  unfold takeAuth
  split
  · exact .refl s
  · split
    · dsimp only
      split <;> exact ⟨rfl, rfl, rfl⟩
    · exact .refl s

/-- Whatever keeps a command out keeps enrolment, so a command does when its effect does, from every state that admission hands it. -/
theorem vendorCmd_keepsEnrolment {s : State} {v : Via} {g : Gate} {payload : List Byte} {run : State → State}
    (hrun : g.stageOk = true → ∀ u, KeepsEnrolment u (run u)) : KeepsEnrolment s (vendorCmd s v g payload run) := by
  unfold vendorCmd
  split
  · exact .refl s
  split
  · exact answer_keepsEnrolment ..
  cases hstage : g.stageOk with
  | false => exact answer_keepsEnrolment ..
  | true =>
    have hauth := takeAuth_keepsEnrolment s v g.op payload
    rw [if_neg (by simp)]
    split
    · exact answer_keepsEnrolment ..
    split
    · dsimp only
      split
      · exact hauth.trans (hrun hstage _)
      · exact hauth.trans (answer_keepsEnrolment ..)
    · exact hrun hstage s

/-- Through the mailbox, a command that its stage accepts is carried out unless it needs authority on every path (R383). -/
theorem vendorCmd_of_atMailbox {s : State} {v : Via} (h : Claims.atMailbox s v) {g : Gate} (hstage : g.stageOk = true) (howner : g.owner = false)
    (payload : List Byte) (run : State → State) : vendorCmd s v g payload run = run s := by
  obtain ⟨hmctp, hlow, hrestart, hlost, hmp⟩ := h
  have hoff : stage s ≠ 0 := by omega
  simp [vendorCmd, hmctp, hrestart, hlost, hmp, hstage, howner, hoff]

/-! ## The stage -/

@[simp] theorem stage_setPfld_ne (s : State) {f : Field} (ix v : Nat) (h : f ≠ .HB_BOOT_STAGE) : stage (s.setPfld f ix v) = stage s :=
  s.pfld_setPfld_ne v fun hf => h hf.1.symm

@[simp] theorem stage_showOwner (s : State) : stage (showOwner s) = stage s := by simp [showOwner]

@[simp] theorem stage_clearEnrol (s : State) : stage (clearEnrol s) = stage s := stage_showOwner _

@[simp] theorem stage_toStage (s : State) (v : Nat) : stage (toStage s v) = v % 16 := s.pfld_setPfld_same ..

/-! ## Enrolment -/

theorem exec_enrolBegin (v : Via) (modulus : List Byte) (s : State) : exec (.enrolBegin v modulus) s = execEnrolBegin v modulus s := rfl

theorem exec_enrolConfirm (v : Via) (sig : List Byte) (s : State) : exec (.enrolConfirm v sig) s = execEnrolConfirm v sig s := rfl

theorem exec_enrolTimeout (s : State) : exec .enrolTimeout s = execEnrolTimeout s := rfl

theorem enrolOpen_iff {s : State} : enrolOpen s = true ↔ stage s = 3 ∧ ownerSlot s = none ∧ nextOwnerSlot s ≠ none := by
  simp [enrolOpen, Option.isSome_iff_ne_none, and_assoc]

/-- Enrolment is open only without an owner and while a slot remains, so a command that it admits then came through MCTP. -/
theorem mctp_of_enrolOpen {s : State} {v : Via} (h : v.mctp = true ∨ ownerSlot s ≠ none ∨ nextOwnerSlot s = none) (hopen : enrolOpen s = true) :
    v.mctp = true := by
  obtain ⟨-, howner, hslot⟩ := enrolOpen_iff.1 hopen
  exact h.resolve_right fun hclosed => hclosed.elim (· howner) hslot

theorem enrolBegin_refused {s : State} {v : Via} (modulus : List Byte) (h : v.mctp = true ∨ ownerSlot s ≠ none ∨ nextOwnerSlot s = none) :
    ∃ t, execEnrolBegin v modulus s = .next t ∧ KeepsEnrolment s t :=
  ⟨_, rfl, vendorCmd_keepsEnrolment fun hopen u => by simp only [mctp_of_enrolOpen h hopen, if_true, answer_keepsEnrolment]⟩

theorem enrolConfirm_refused {s : State} {v : Via} (sig : List Byte) (h : v.mctp = true ∨ ownerSlot s ≠ none ∨ nextOwnerSlot s = none) :
    ∃ t, execEnrolConfirm v sig s = .next t ∧ KeepsEnrolment s t :=
  ⟨_, rfl, vendorCmd_keepsEnrolment fun hopen u => by simp only [mctp_of_enrolOpen h hopen, if_true, answer_keepsEnrolment]⟩

/-- A request to enrol `modulus` pends with a new nonce, in place of any request before it. -/
def enrolPending (s : State) (modulus : List Byte) : State :=
  showOwner (onMg s.spend fun m => { m with enrol := some (modulus, s.freeBytes 32) })

/-- The hash of `modulus` has been burnt into slot `n`; nothing pends, and the start goes on at step 5. -/
def ownerEnrolled (s : State) (n : Nat) (modulus : List Byte) : State :=
  toStage (measTaken (clearEnrol (onMg { s with fuses := { s.fuses with owners := SMap.put [] s.fuses.owners n (sha256 modulus) } }
    fun m => { m with ownerKey := modulus })) 8) 2

section
variable {s : State} {v : Via} (hbox : Claims.atMailbox s v) (hopen : enrolOpen s = true)
include hbox hopen

theorem execEnrolBegin_of_open {modulus : List Byte} (hlen : modulus.length = 384) :
    execEnrolBegin v modulus s = .next (answer (enrolPending s modulus) v 0xC008 0 0 (s.freeBytes 32)) := by
  unfold execEnrolBegin
  rw [vendorCmd_of_atMailbox hbox hopen rfl, if_neg (by simp [hbox.1]), if_neg (by simp [hlen])]
  rfl

theorem execEnrolConfirm_of_pending {modulus nonce : List Byte} {n : Nat} (sig : List Byte) (hpend : s.mg.enrol = some (modulus, nonce))
    (hslot : nextOwnerSlot s = some n) :
    execEnrolConfirm v sig s = .next (if pssVerify 384 (leNat modulus) 65537 (sha256 (nonce ++ sha256 modulus)) sig
      then answer (ownerEnrolled s n modulus) v 0xC009 0 else answer (clearEnrol s) v 0xC009 5) := by
  unfold execEnrolConfirm
  rw [vendorCmd_of_atMailbox hbox hopen rfl, if_neg (by simp [hbox.1]), hpend, hslot]
  rfl

theorem execEnrolConfirm_of_none (sig : List Byte) (hpend : s.mg.enrol = none) :
    execEnrolConfirm v sig s = .next (answer s v 0xC009 2) := by
  unfold execEnrolConfirm
  rw [vendorCmd_of_atMailbox hbox hopen rfl, if_neg (by simp [hbox.1]), hpend]

end

theorem execEnrolTimeout_clears (s : State) : ∃ t, execEnrolTimeout s = .next t ∧ t.mg.enrol = none ∧ t.fuses = s.fuses := by
  unfold execEnrolTimeout
  cases hpend : s.mg.enrol with
  | none => exact ⟨s, rfl, hpend, rfl⟩
  | some _ => exact ⟨clearEnrol s, rfl, rfl, rfl⟩

/-- Settles O46: a closed enrolment refuses at admission, MCTP at the command itself; one equation per command says what an open one does. -/
theorem enrolment : Obligations.Enrolment := by
  simp only [Obligations.Enrolment, exec_enrolBegin, exec_enrolConfirm, exec_enrolTimeout]
  refine ⟨fun s v d hclosed =>
      ⟨(enrolBegin_refused d hclosed).imp fun _ ⟨hnext, hkept⟩ => ⟨hnext, hkept.enrol, hkept.fuses, hkept.stage⟩,
        (enrolConfirm_refused d hclosed).imp fun _ ⟨hnext, hkept⟩ => ⟨hnext, hkept.enrol, hkept.fuses, hkept.stage⟩⟩,
    fun s v d hbox hstage howner hlen hslot => ?_, execEnrolTimeout_clears,
    fun s v sig n hbox hstage howner hslot => ?_⟩
  · exact ⟨s.freeBytes 32, enrolPending s d, execEnrolBegin_of_open hbox (enrolOpen_iff.2 ⟨hstage, howner, hslot⟩) hlen,
      length_freeBytes .., rfl, rfl⟩
  · have hopen : enrolOpen s = true := enrolOpen_iff.2 ⟨hstage, howner, by simp [hslot]⟩
    refine ⟨fun m nonce hpend => ?_, execEnrolConfirm_of_none hbox hopen sig⟩
    rw [execEnrolConfirm_of_pending hbox hopen sig hpend hslot]
    cases pssVerify 384 (leNat m) 65537 (sha256 (nonce ++ sha256 m)) sig with
    | true => exact ⟨ownerEnrolled s n m, rfl, rfl, stage_toStage _ 2, rfl⟩
    | false => exact ⟨clearEnrol s, rfl, rfl, (stage_clearEnrol s).trans hstage, rfl⟩

end Sys2Proof.Machine
end

section
/-! PROOF. Fault records as bytes, and the logs that take them (R436, R437). -/

namespace Sys2Proof.Machine

/-! ## Fields of a byte string -/

theorem leNat_lt (l : List Byte) : leNat l < 256 ^ l.length := by
  induction l with
  | nil => simp [leNat]
  | cons b l ih =>
    have := b.isLt
    rw [leNat, List.length_cons, Nat.pow_succ']
    omega

theorem leAt_lt (l : List Byte) (lo len : Nat) : leAt l lo len < 256 ^ len :=
  (leNat_lt _).trans_le (Nat.pow_le_pow_right (by decide) (List.length_take_le _ _))

/-- A number at the front of a byte string reads back modulo its size. -/
@[simp] theorem leAt_leBytes_append (n v : Nat) (l : List Byte) : leAt (leBytes n v ++ l) 0 n = v % 256 ^ n := by
  induction n generalizing v with
  | zero => simp [leAt, leNat, Nat.mod_one]
  | succ n ih =>
    have ih : leNat ((leBytes n (v / 256) ++ l).take n) = v / 256 % 256 ^ n := ih _
    rw [leAt, List.drop_zero, leBytes, List.cons_append, List.take_succ_cons, leNat, ih, BitVec.toNat_ofNat,
      show 256 ^ (n + 1) = 256 * 256 ^ n from Nat.pow_succ', Nat.mod_mul]

@[simp] theorem leAt_leBytes (n v : Nat) : leAt (leBytes n v) 0 n = v % 256 ^ n := by
  simpa using leAt_leBytes_append n v []

/-- What follows a number of `n` bytes is read without it. -/
theorem leAt_leBytes_append_of_le {n lo : Nat} (h : n ≤ lo) (v : Nat) (l : List Byte) (len : Nat) :
    leAt (leBytes n v ++ l) lo len = leAt l (lo - n) len := by
  rw [leAt, leAt, List.drop_append, List.drop_of_length_le (by simpa using h), length_leBytes, List.nil_append]

/-! ## The 32 bytes of a record -/

/-- SRC of a record of set `i` (Table 15-9). -/
def FRec.src (r : FRec) (i : SetId) : Nat := r.place % 2 ^ 18 + 2 ^ 18 * i.val + 2 ^ 19 * r.die + 2 ^ 24 * (r.unit % 128)

theorem FRec.length_bytes (r : FRec) (i : SetId) : (r.bytes i).length = 32 := by simp [FRec.bytes]

/-- Where the fields of a record stand in its bytes (Table 15-9). -/
theorem FRec.leAt_bytes (r : FRec) (i : SetId) :
    leAt (r.bytes i) 0 2 = r.code % 2 ^ 16 ∧ leAt (r.bytes i) 2 1 = r.sev % 2 ^ 8 ∧ leAt (r.bytes i) 3 1 = r.action % 2 ^ 8 ∧
      leAt (r.bytes i) 4 4 = r.src i % 2 ^ 32 ∧ leAt (r.bytes i) 8 1 = r.sub % 2 ^ 8 ∧ leAt (r.bytes i) 9 1 = r.cause % 2 ^ 8 ∧
      leAt (r.bytes i) 10 2 = r.job % 2 ^ 16 ∧ leAt (r.bytes i) 12 2 = r.sess % 2 ^ 16 ∧ leAt (r.bytes i) 14 2 = r.tag % 2 ^ 16 ∧
      leAt (r.bytes i) 16 8 = r.time % 2 ^ 64 ∧ leAt (r.bytes i) 24 8 = r.detail % 2 ^ 64 := by
  simp [FRec.bytes, FRec.src, List.append_assoc, leAt_leBytes_append_of_le]

/-- Where the parts of SRC stand, for a die below 32 (Table 15-9). -/
theorem FRec.bits_src {r : FRec} (i : SetId) (hdie : r.die < 2 ^ 5) :
    bits (r.src i % 2 ^ 32) 0 18 = r.place % 2 ^ 18 ∧ bits (r.src i % 2 ^ 32) 18 1 = i.val ∧ bits (r.src i % 2 ^ 32) 19 5 = r.die ∧
      bits (r.src i % 2 ^ 32) 24 7 = r.unit % 2 ^ 7 ∧ bits (r.src i % 2 ^ 32) 31 1 = 0 := by
  have hset := i.isLt
  unfold bits FRec.src
  omega

theorem frecOf_bytes {r : FRec} (i : SetId) (hcode : r.code < 2 ^ 16) (hsev : r.sev < 2 ^ 8) (haction : r.action < 2 ^ 8)
    (hplace : r.place < 2 ^ 18) (hdie : r.die < 2 ^ 5) (hunit : r.unit < 2 ^ 7) (hsub : r.sub < 2 ^ 8) (hcause : r.cause < 2 ^ 8)
    (hjob : r.job < 2 ^ 16) (hsess : r.sess < 2 ^ 16) (htag : r.tag < 2 ^ 16) (htime : r.time < 2 ^ 64) (hdetail : r.detail < 2 ^ 64) :
    frecOf (r.bytes i) = r := by
  obtain ⟨place_at, -, die_at, unit_at, -⟩ := FRec.bits_src i hdie
  rw [bits, Nat.pow_zero, Nat.div_one] at place_at
  simp only [frecOf, r.leAt_bytes i, Nat.mod_eq_of_lt, *]

/-! ## The logs -/

theorem fld_ite (p : Prop) [Decidable p] (s t : State) (i : SetId) (f : Field) (ix : Nat) :
    (if p then s else t).fld i f ix = if p then s.fld i f ix else t.fld i f ix := apply_ite (State.fld · i f ix) p s t

/-- A register array written entry by entry from index `c` holds each entry, cut to the field. -/
theorem fld_setFlds (i : SetId) (f : Field) (c : Nat) (v : Nat → Nat) {n w : Nat} (hw : w < n) (s : State) :
    ((List.range n).foldl (fun s w => s.setFld i f (c + w) (v w)) s).fld i f (c + w) = v w % 2 ^ f.info.len := by
  induction n with
  | zero => omega
  | succ n ih =>
    rw [List.range_succ, List.foldl_append, List.foldl_cons, List.foldl_nil]
    by_cases hlast : w = n
    · rw [hlast, State.fld_setFld_same]
    · rw [State.fld_setFld_ne _ _ (by omega), ih (by omega)]

/-- The pointer, the summary bits and the counter that follow leave the entry as it was written. -/
theorem fld_logRecord_rec (s : State) (i : SetId) (r : FRec) {w : Nat} (hw : w < 4) :
    (logRecord s i r).fld i .SET_FLOGe_w_REC (4 * s.fld i .SET_FLOG_PTR_HEAD + w) = leAt (r.bytes i) (8 * w) 8 := by
  have hwritten := fld_setFlds i .SET_FLOGe_w_REC (4 * s.fld i .SET_FLOG_PTR_HEAD) (fun w => leAt (r.bytes i) (8 * w) 8) hw s
  have hfits : leAt (r.bytes i) (8 * w) 8 < 2 ^ Field.SET_FLOGe_w_REC.info.len := leAt_lt _ _ 8
  rw [Nat.mod_eq_of_lt hfits] at hwritten
  rw [← hwritten]
  simp [logRecord, State.addFld, fld_ite]

@[simp] theorem cxlLog_almWrite (s : State) (clean : Bool) : (almWrite s clean).cxlLog = s.cxlLog := by
  unfold almWrite
  split <;> rfl

@[simp] theorem cxlLog_promptWrite (s : State) (type : Nat) (payload : List Byte) : (promptWrite s type payload).cxlLog = s.cxlLog := by
  simp [promptWrite, State.nvmWrite, apply_ite State.cxlLog]

@[simp] theorem cxlLog_ringAdd (s : State) (d : List Byte) : (ringAdd s d).cxlLog = s.cxlLog := by
  simp [ringAdd, State.setAlm, apply_ite State.cxlLog]

@[simp] theorem cxlLog_raiseVector (s : State) (n : Nat) : (raiseVector s n).cxlLog = s.cxlLog := by
  obtain ⟨_, _, heq⟩ := raiseVector_eq s n
  rw [heq]

theorem cxlLog_deliver (s : State) (i : SetId) (r : FRec) : ∃ l, (deliver s i r).cxlLog = s.cxlLog ++ [(l, r.bytes i)] := by
  simp [deliver, apply_ite State.cxlLog]

/-- Settles O58: each number reads back from its place behind the ones before it, and no later write of a delivery or of the fault log
touches what the logs took. -/
theorem faultRecordRoundTrip : Obligations.FaultRecordRoundTrip := by
  refine ⟨fun r i hdie => ?_, fun r i => frecOf_bytes i, fun s i r w => fld_logRecord_rec s i r, cxlLog_deliver⟩
  simp only [r.length_bytes, r.leAt_bytes, FRec.bits_src i hdie, and_self]

end Sys2Proof.Machine
end

section
/-! PROOF. Every command answers a next state, and every step keeps what the whole block keeps (15.7, R4, R458, Table 14-1). -/

namespace Sys2Proof.Machine

/-! ## A next state for every command -/

/-- The command answers a next state. -/
def Completes (o : Out) : Prop := ∃ t, o = .next t

theorem Completes.next (t : State) : Completes (.next t) := ⟨t, rfl⟩

theorem Completes.ite {c : Prop} [Decidable c] {a b : Out} (ha : Completes a) (hb : Completes b) : Completes (if c then a else b) := by
  split
  · exact ha
  · exact hb

theorem execColdStart_completes (strap : Nat) (nvmOk : Bool) (s : State) : Completes (execColdStart strap nvmOk s) := by
  unfold execColdStart
  exact .ite (.next _) (.next _)

theorem execPerstAssert_completes (us : Nat) (s : State) : Completes (execPerstAssert us s) := by
  unfold execPerstAssert
  exact .ite (.next _) (.next _)

theorem execVinRise_completes (low mv : Nat) (sbAddr : Fin 4) (s : State) : Completes (execVinRise low mv sbAddr s) := by
  unfold execVinRise
  exact .ite (.next _) (.next _)

theorem execVinFault_completes (mv : Nat) (s : State) : Completes (execVinFault mv s) := by
  unfold execVinFault
  exact .ite (.next _) (.next _)

theorem execCardVerify_completes (facts : CardFacts) (s : State) : Completes (execCardVerify facts s) := by
  unfold execCardVerify
  exact .ite (.next _) (.ite (.next _) (.next _))

theorem execHbmTrainDone_completes (failed : List (Fin 12)) (s : State) : Completes (execHbmTrainDone failed s) := by
  unfold execHbmTrainDone
  exact .ite (.next _) (.next _)

theorem execSetLock_completes (ms : Nat) (s : State) : Completes (execSetLock ms s) := by
  unfold execSetLock
  exact .ite (.next _) (.next _)

theorem execSeedlingStart_completes (i : SetId) (sec : Nat) (s : State) : Completes (execSeedlingStart i sec s) := by
  unfold execSeedlingStart
  exact .ite (.next _) (.next _)

theorem execPromote_completes (i : SetId) (sec : Nat) (s : State) : Completes (execPromote i sec s) := by
  unfold execPromote
  split
  · exact .ite (.next _) (.next _)
  · exact .next _

theorem execPowerSample_completes (watts : Nat) (dies : List Nat) (mv : Nat) (deciAmps : Nat) (s : State) :
    Completes (execPowerSample watts dies mv deciAmps s) := by
  unfold execPowerSample
  with_reducible repeat' first | exact .next _ | apply Completes.ite

theorem execLendThreshold_completes (i : SetId) (core : CoreId) (s : State) : Completes (execLendThreshold i core s) := by
  unfold execLendThreshold
  exact .ite (.next _) (.next _)

theorem execLendReclaim_completes (i : SetId) (core : CoreId) (s : State) : Completes (execLendReclaim i core s) := by
  unfold execLendReclaim
  exact .ite (.next _) (.next _)

theorem execSprintDurationEnd_completes (s : State) : Completes (execSprintDurationEnd s) := by
  unfold execSprintDurationEnd
  exact .ite (.next _) (.next _)

theorem execJunctionSense_completes (die : Fin 20) (temp margin : Nat) (s : State) : Completes (execJunctionSense die temp margin s) := by
  unfold execJunctionSense
  repeat' first | exact .next _ | apply Completes.ite

theorem execFloorBreach_completes (die : Fin 18) (margin : Nat) (s : State) : Completes (execFloorBreach die margin s) := by
  unfold execFloorBreach
  exact .ite (.next _) (.next _)

theorem execDescriptorFetch_completes (i : SetId) (core : CoreId) (slot : SlotId) (s : State) :
    Completes (execDescriptorFetch i core slot s) := by
  unfold execDescriptorFetch
  repeat' first | exact .next _ | apply Completes.ite

theorem execVec_completes (ev : Issue) (residue : Bool) (s : State) : Completes (execVec ev residue s) := by
  unfold execVec
  split <;> exact .next _

theorem execHarvest_completes (ev : Issue) (residue : Option (Fin 2)) (s : State) : Completes (execHarvest ev residue s) := by
  unfold execHarvest
  split <;> exact .next _

theorem execDescriptorComplete_completes (i : SetId) (core : CoreId) (unit : Fin 5) (pos : Nat) (s : State) :
    Completes (execDescriptorComplete i core unit pos s) := by
  unfold execDescriptorComplete
  dsimp only
  split <;> exact .next _

theorem execArrayStep_completes (i : SetId) (core : CoreId) (upset : Option CellUpset) (s : State) :
    Completes (execArrayStep i core upset s) := by
  unfold execArrayStep
  repeat' first | exact .next _ | apply Completes.ite | split | dsimp only

theorem execTileDrain_completes (i : SetId) (core : CoreId) (s : State) : Completes (execTileDrain i core s) := by
  unfold execTileDrain
  repeat' first | exact .next _ | apply Completes.ite | split | dsimp only

theorem execMpWatchdog_completes (s : State) : Completes (execMpWatchdog s) := by
  unfold execMpWatchdog
  exact .ite (.next _) (.next _)

theorem execSegmentDrainEnd_completes (i : SetId) (die : CDie) (seg : Fin 9) (s : State) : Completes (execSegmentDrainEnd i die seg s) := by
  unfold execSegmentDrainEnd
  exact .ite (.next _) (.next _)

theorem execSegmentReady_completes (i : SetId) (die : CDie) (seg : Fin 9) (s : State) : Completes (execSegmentReady i die seg s) := by
  unfold execSegmentReady
  exact .ite (.next _) (.next _)

theorem execWindowWrite_completes (i : SetId) (sender addr : Nat) (data : List Byte) (poisoned : List Nat) (s : State) :
    Completes (execWindowWrite i sender addr data poisoned s) := by
  unfold execWindowWrite
  repeat' first | exact .next _ | apply Completes.ite | split

theorem execWindowWriteAck_completes (i : SetId) (core : CoreId) (pos : Nat) (reply : WinReply) (s : State) :
    Completes (execWindowWriteAck i core pos reply s) := by
  unfold execWindowWriteAck
  repeat' first | exact .next _ | apply Completes.ite | split | dsimp only

theorem execJobRelease_completes (i : SetId) (job : JobId) (s : State) : Completes (execJobRelease i job s) := by
  unfold execJobRelease
  exact .ite (.next _) (.next _)

theorem execJobStart_completes (i : SetId) (job : JobId) (s : State) : Completes (execJobStart i job s) := by
  unfold execJobStart
  exact .ite (.next _) (.next _)

theorem execTeardownSettled_completes (i : SetId) (job : JobId) (s : State) : Completes (execTeardownSettled i job s) := by
  unfold execTeardownSettled
  repeat' first | exact .next _ | apply Completes.ite | split | dsimp only

theorem execTeardownFillDone_completes (i : SetId) (job : JobId) (s : State) : Completes (execTeardownFillDone i job s) := by
  unfold execTeardownFillDone
  dsimp only
  split
  · exact .ite (.next _) (.next _)
  · exact .next _

theorem execSlotMapApply_completes (i : SetId) (core : CoreId) (s : State) : Completes (execSlotMapApply i core s) := by
  unfold execSlotMapApply
  exact .ite (.next _) (.next _)

theorem execTileFrame_completes (i : SetId) (port : Fin 2) (frame : List Byte) (bad : List Nat) (s : State) :
    Completes (execTileFrame i port frame bad s) := by
  unfold execTileFrame
  exact .ite (.next _) (.next _)

theorem execTurnFrame_completes (i : SetId) (port : Fin 2) (frame : List Byte) (s : State) : Completes (execTurnFrame i port frame s) := by
  unfold execTurnFrame
  exact .ite (.next _) (.next _)

theorem execTurnSend_completes (i : SetId) (port : Fin 2) (s : State) : Completes (execTurnSend i port s) := by
  unfold execTurnSend
  exact .ite (.next _) (.next _)

theorem execTurnHandle_completes (i : SetId) (s : State) : Completes (execTurnHandle i s) := by
  unfold execTurnHandle
  repeat' first | exact .next _ | apply Completes.ite | split | dsimp only

theorem execWeedPieceDone_completes (i : SetId) (s : State) : Completes (execWeedPieceDone i s) := by
  unfold execWeedPieceDone
  split
  · exact .next _
  · exact .ite (.next _) (.next _)

theorem execRepairTransfer_completes (i : SetId) (piece ver : Nat) (data : List Byte) (s : State) :
    Completes (execRepairTransfer i piece ver data s) := by
  unfold execRepairTransfer
  repeat' first | exact .next _ | apply Completes.ite | split

theorem execTierPieceStaged_completes (i : SetId) (r : StagedRef) (data : List Byte) (poisoned : List Nat) (lateMs : Nat) (s : State) :
    Completes (execTierPieceStaged i r data poisoned lateMs s) := by
  unfold execTierPieceStaged
  repeat' first | exact .next _ | apply Completes.ite | split

theorem execResidentSettle_completes (i : SetId) (piece : Nat) (s : State) : Completes (execResidentSettle i piece s) := by
  unfold execResidentSettle
  split
  · exact .ite (.next _) (.next _)
  · exact .next _

theorem execPromenadeSwitch_completes (i : SetId) (s : State) : Completes (execPromenadeSwitch i s) := by
  unfold execPromenadeSwitch
  split
  · exact .ite (.next _) (.next _)
  · exact .next _

theorem execStopNotice_completes (i : SetId) (port : Fin 2) (s : State) : Completes (execStopNotice i port s) := by
  unfold execStopNotice
  exact .ite (.next _) (.next _)

theorem execAttnRequest_completes (i : SetId) (stack : StackId) (core : CoreId) (s : State) :
    Completes (execAttnRequest i stack core s) := by
  unfold execAttnRequest
  repeat' first | exact .next _ | apply Completes.ite | split | dsimp only

theorem execAttnUnitDone_completes (i : SetId) (stack : StackId) (engine : Fin 16) (residue : Bool) (s : State) :
    Completes (execAttnUnitDone i stack engine residue s) := by
  unfold execAttnUnitDone
  dsimp only
  split <;> exact .next _

theorem execAttnShareDone_completes (i : SetId) (stack : StackId) (core : CoreId) (s : State) :
    Completes (execAttnShareDone i stack core s) := by
  unfold execAttnShareDone
  dsimp only
  split
  · exact .next _
  · exact .ite (.next _) (.next _)

theorem execFrameSeal_completes (i : SetId) (stack : StackId) (slot frame layer : Nat) (stream : List Byte) (s : State) :
    Completes (execFrameSeal i stack slot frame layer stream s) := by
  unfold execFrameSeal
  dsimp only
  split
  · exact .next _
  · exact .ite (.next _) (.next _)

theorem execStepBoundary_completes (i : SetId) (s : State) : Completes (execStepBoundary i s) := by
  unfold execStepBoundary
  exact .ite (.next _) (.ite (.next _) (.next _))

theorem execEmbeddingGatherDone_completes (i : SetId) (s : State) : Completes (execEmbeddingGatherDone i s) := by
  unfold execEmbeddingGatherDone
  exact .ite (.next _) (.next _)

theorem execPassStart_completes (plan : PassPlan) (s : State) : Completes (execPassStart plan s) := by
  unfold execPassStart
  repeat' first | exact .next _ | apply Completes.ite | split

theorem execPassHeader_completes (i : SetId) (bound : List PassSess) (discard : Bool) (s : State) :
    Completes (execPassHeader i bound discard s) := by
  unfold execPassHeader
  split
  · exact .next _
  · split <;> exact .next _

theorem execPassReturn_completes (i : SetId) (ret : PassRet) (s : State) : Completes (execPassReturn i ret s) := by
  unfold execPassReturn
  split <;> exact .next _

theorem execStackTempRead_completes (i : SetId) (stack : StackId) (temps : List Nat) (s : State) :
    Completes (execStackTempRead i stack temps s) := by
  unfold execStackTempRead
  exact .ite (.next _) (.ite (.next _) (.next _))

theorem execStackTempExit_completes (i : SetId) (stack : StackId) (s : State) : Completes (execStackTempExit i stack s) := by
  unfold execStackTempExit
  exact .ite (.next _) (.ite (.next _) (.next _))

theorem execPatrolPassStart_completes (i : SetId) (stack : StackId) (s : State) : Completes (execPatrolPassStart i stack s) := by
  unfold execPatrolPassStart
  exact .ite (.next _) (.ite (.next _) (.next _))

theorem execPatrolRead_completes (i : SetId) (stack : StackId) (s : State) : Completes (execPatrolRead i stack s) := by
  unfold execPatrolRead
  repeat' first | exact .next _ | apply Completes.ite | split | dsimp only

theorem execLoopbackEnd_completes (i : SetId) (stack : StackId) (errors lane : Nat) (s : State) :
    Completes (execLoopbackEnd i stack errors lane s) := by
  unfold execLoopbackEnd
  exact .ite (.next _) (.next _)

theorem execSqFetch_completes (i : SetId) (cmd : List Byte) (data : Option (List Byte)) (s : State) :
    Completes (execSqFetch i cmd data s) := by
  unfold execSqFetch
  split
  · exact .next _
  · split <;> exact .next _

theorem execOpenTimeout_completes (i : SetId) (slot : Nat) (s : State) : Completes (execOpenTimeout i slot s) := by
  unfold execOpenTimeout
  exact .ite (.next _) (.next _)

theorem execBarrierArrive_completes (i : SetId) (ctr place cctr : Nat) (s : State) : Completes (execBarrierArrive i ctr place cctr s) := by
  unfold execBarrierArrive
  repeat' first | exact .next _ | apply Completes.ite | split

theorem execBarrierRelease_completes (i : SetId) (ctr : Nat) (s : State) : Completes (execBarrierRelease i ctr s) := by
  unfold execBarrierRelease
  split
  · exact .next _
  · split <;> exact .next _

theorem execBarrierBroken_completes (i : SetId) (ctr place fromCtr : Nat) (s : State) :
    Completes (execBarrierBroken i ctr place fromCtr s) := by
  unfold execBarrierBroken
  split <;> exact .next _

theorem execChanMessage_completes (i : SetId) (core : CoreId) (chan : Fin 64) (msg : ChanMsg) (s : State) :
    Completes (execChanMessage i core chan msg s) := by
  unfold execChanMessage
  repeat' first | exact .next _ | apply Completes.ite | split

theorem execChanAck_completes (i : SetId) (core : CoreId) (chan : Fin 64) (s : State) : Completes (execChanAck i core chan s) := by
  unfold execChanAck
  split <;> exact .next _

theorem execChanNack_completes (i : SetId) (core : CoreId) (chan : Fin 64) (reason : Nat) (s : State) :
    Completes (execChanNack i core chan reason s) := by
  unfold execChanNack
  dsimp only
  split
  · exact .next _
  · exact .ite (.next _) (.next _)

theorem execChanRetry_completes (i : SetId) (core : CoreId) (chan : Fin 64) (s : State) : Completes (execChanRetry i core chan s) := by
  unfold execChanRetry
  dsimp only
  split <;> exact .next _

theorem execNorouteTimeout_completes (i : SetId) (what : NoAnswer) (s : State) : Completes (execNorouteTimeout i what s) := by
  unfold execNorouteTimeout
  repeat' first | exact .next _ | apply Completes.ite | split

theorem execFlitReceive_completes (i : SetId) (port : PortId) (flit : List Byte) (s : State) :
    Completes (execFlitReceive i port flit s) := by
  unfold execFlitReceive
  repeat' first | exact .next _ | apply Completes.ite

theorem execFecAlignLoss_completes (i : SetId) (port : PortId) (bundle : Fin 32) (s : State) :
    Completes (execFecAlignLoss i port bundle s) := by
  unfold execFecAlignLoss
  exact .ite (.next _) (.next _)

theorem execRetrain_completes (i : SetId) (port : PortId) (bundles : Nat) (s : State) : Completes (execRetrain i port bundles s) := by
  unfold execRetrain
  exact .ite (.next _) (.next _)

theorem execRetrainTimeout_completes (i : SetId) (link : LinkEnd) (s : State) : Completes (execRetrainTimeout i link s) := by
  unfold execRetrainTimeout
  split <;> exact .next _

theorem execPortAlignDone_completes (i : SetId) (port : PortId) (bundles : Nat) (s : State) :
    Completes (execPortAlignDone i port bundles s) := by
  unfold execPortAlignDone
  exact .ite (.next _) (.next _)

theorem execPortMissing_completes (i : SetId) (port : PortId) (s : State) : Completes (execPortMissing i port s) := by
  unfold execPortMissing
  exact .ite (.next _) (.next _)

theorem execConfigRecord_completes (i : SetId) (port : PortId) (lp : Fin 8) (remapped : Bool) (tof : Nat) (s : State) :
    Completes (execConfigRecord i port lp remapped tof s) := by
  unfold execConfigRecord
  repeat' first | exact .next _ | apply Completes.ite | split | dsimp only

theorem execTimeExchangeTick_completes (i : SetId) (port : PortId) (s : State) : Completes (execTimeExchangeTick i port s) := by
  unfold execTimeExchangeTick
  exact .ite (.next _) (.next _)

theorem execTimeAltParent_completes (i : SetId) (rootLost : Bool) (s : State) : Completes (execTimeAltParent i rootLost s) := by
  unfold execTimeAltParent
  repeat' first | exact .next _ | apply Completes.ite

theorem execHostDmaFail_completes (k : DmaFail) (s : State) : Completes (execHostDmaFail k s) := by
  unfold execHostDmaFail
  repeat' first | exact .next _ | apply Completes.ite | split

theorem execIdeStateChange_completes (io cm : Bool) (s : State) : Completes (execIdeStateChange io cm s) := by
  unfold execIdeStateChange
  exact .ite (.next _) (.next _)

theorem execAlmanacSecond_completes (s : State) : Completes (execAlmanacSecond s) := by
  unfold execAlmanacSecond
  exact .ite (.next _) (.next _)

theorem execHostLinkUp_completes (mode : Fin 6) (width : Nat) (cache mem bme msix : Bool) (s : State) :
    Completes (execHostLinkUp mode width cache mem bme msix s) := by
  unfold execHostLinkUp
  exact .ite (.next _) (.next _)

theorem execFullLoadDone_completes (i : SetId) (sec : Nat) (s : State) : Completes (execFullLoadDone i sec s) := by
  unfold execFullLoadDone
  exact .ite (.next _) (.ite (.next _) (.ite (.next _) (.next _)))

theorem execPieceFetchDone_completes (i : SetId) (data : Option (List Byte)) (s : State) : Completes (execPieceFetchDone i data s) := by
  unfold execPieceFetchDone
  repeat' first | exact .next _ | apply Completes.ite | split

theorem execMpRestartDone_completes (s : State) : Completes (execMpRestartDone s) := by
  unfold execMpRestartDone
  exact .ite (.next _) (.next _)

theorem execTapInstruction_completes (ir : Fin 4) (lands : List Byte) (s : State) : Completes (execTapInstruction ir lands s) := by
  unfold execTapInstruction
  exact .ite (.next _) (.next _)

theorem exec_completes (c : Instr) (s : State) : Completes (exec c s) := by
  cases c with
  | coldStart => exact execColdStart_completes ..
  | perstAssert => exact execPerstAssert_completes ..
  | vinRise => exact execVinRise_completes ..
  | vinFault => exact execVinFault_completes ..
  | refclkStable => exact .next _
  | refclkLoss => exact .next _
  | cardVerify => exact execCardVerify_completes ..
  | hbmTrainDone => exact execHbmTrainDone_completes ..
  | setLock => exact execSetLock_completes ..
  | seedlingStart => exact execSeedlingStart_completes ..
  | promote => exact execPromote_completes ..
  | aliasReady => exact .next _
  | powerSample => exact execPowerSample_completes ..
  | envCapWrite => exact .next _
  | rampAdmit => exact .next _
  | rampRelease => exact .next _
  | markTimeout => exact .next _
  | lendThreshold => exact execLendThreshold_completes ..
  | lendReclaim => exact execLendReclaim_completes ..
  | sprintRequest => exact .next _
  | sprintDurationEnd => exact execSprintDurationEnd_completes ..
  | sprintCooldownEnd => exact .next _
  | junctionSense => exact execJunctionSense_completes ..
  | railFault => exact .next _
  | floorBreach => exact execFloorBreach_completes ..
  | ageingStep => exact .next _
  | descriptorFetch => exact execDescriptorFetch_completes ..
  | move => exact .next _
  | copy => exact .next _
  | fill => exact .next _
  | gemm => exact .next _
  | conv => exact .next _
  | vec => exact execVec_completes ..
  | attn => exact .next _
  | signal => exact .next _
  | wait => exact .next _
  | consume => exact .next _
  | send => exact .next _
  | fence => exact .next _
  | loop => exact .next _
  | endloop => exact .next _
  | inject => exact .next _
  | take => exact .next _
  | harvest => exact execHarvest_completes ..
  | graft => exact .next _
  | descriptorComplete => exact execDescriptorComplete_completes ..
  | arrayStep => exact execArrayStep_completes ..
  | tileDrain => exact execTileDrain_completes ..
  | coreHeartbeat => exact .next _
  | heartbeatTimeout => exact .next _
  | linkDieHeartbeatTimeout => exact .next _
  | mpWatchdog => exact execMpWatchdog_completes ..
  | segmentPowerOff => exact .next _
  | segmentPowerOn => exact .next _
  | segmentDrainEnd => exact execSegmentDrainEnd_completes ..
  | segmentReady => exact execSegmentReady_completes ..
  | windowWrite => exact execWindowWrite_completes ..
  | windowWriteAck => exact execWindowWriteAck_completes ..
  | creditGrant => exact .next _
  | jobEnd => exact .next _
  | jobKill => exact .next _
  | jobRelease => exact execJobRelease_completes ..
  | jobStart => exact execJobStart_completes ..
  | teardownSettled => exact execTeardownSettled_completes ..
  | teardownFillDone => exact execTeardownFillDone_completes ..
  | slotMapWrite => exact .next _
  | slotMapApply => exact execSlotMapApply_completes ..
  | tileFrame => exact execTileFrame_completes ..
  | turnFrame => exact execTurnFrame_completes ..
  | turnSend => exact execTurnSend_completes ..
  | turnHandle => exact execTurnHandle_completes ..
  | circSwitch => exact .next _
  | changeRequest => exact .next _
  | readinessQuery => exact .next _
  | readinessReply => exact .next _
  | readinessTimeout => exact .next _
  | commitNotice => exact .next _
  | commitAck => exact .next _
  | commitAckTimeout => exact .next _
  | confirm => exact .next _
  | abort => exact .next _
  | loadAnnounce => exact .next _
  | loadFrame => exact .next _
  | pieceRerequest => exact .next _
  | loadTimerExpire => exact .next _
  | weedPassStart => exact .next _
  | weedPieceDone => exact execWeedPieceDone_completes ..
  | repairTransfer => exact execRepairTransfer_completes ..
  | tierPieceStaged => exact execTierPieceStaged_completes ..
  | residentSettle => exact execResidentSettle_completes ..
  | promenadeSwitch => exact execPromenadeSwitch_completes ..
  | foldNotice => exact .next _
  | foldAck => exact .next _
  | refold => exact .next _
  | stopNotice => exact execStopNotice_completes ..
  | attnRequest => exact execAttnRequest_completes ..
  | attnUnitDone => exact execAttnUnitDone_completes ..
  | attnShareDone => exact execAttnShareDone_completes ..
  | frameSeal => exact execFrameSeal_completes ..
  | stepBoundary => exact execStepBoundary_completes ..
  | embeddingGatherDone => exact execEmbeddingGatherDone_completes ..
  | passStart => exact execPassStart_completes ..
  | passHeader => exact execPassHeader_completes ..
  | passReturn => exact execPassReturn_completes ..
  | stackTempRead => exact execStackTempRead_completes ..
  | stackTempExit => exact execStackTempExit_completes ..
  | stackFenceWrite => exact .next _
  | refresh => exact .next _
  | patrolPassStart => exact execPatrolPassStart_completes ..
  | patrolRead => exact execPatrolRead_completes ..
  | loopbackGo => exact .next _
  | loopbackEnd => exact execLoopbackEnd_completes ..
  | sqTailWrite => exact .next _
  | sqFetch => exact execSqFetch_completes ..
  | cqHeadWrite => exact .next _
  | ringEnable => exact .next _
  | ringDisable => exact .next _
  | openS => exact .next _
  | input => exact .next _
  | draft => exact .next _
  | mask => exact .next _
  | maskload => exact .next _
  | close => exact .next _
  | openTimeout => exact execOpenTimeout_completes ..
  | remoteSignal => exact .next _
  | remoteSignalReply => exact .next _
  | barrierArrive => exact execBarrierArrive_completes ..
  | barrierRelease => exact execBarrierRelease_completes ..
  | barrierBroken => exact execBarrierBroken_completes ..
  | hostSignal => exact .next _
  | hostWaitArm => exact .next _
  | chanMessage => exact execChanMessage_completes ..
  | chanAck => exact execChanAck_completes ..
  | chanNack => exact execChanNack_completes ..
  | chanRetry => exact execChanRetry_completes ..
  | norouteTimeout => exact execNorouteTimeout_completes ..
  | flitReceive => exact execFlitReceive_completes ..
  | fecAlignLoss => exact execFecAlignLoss_completes ..
  | crcSilence => exact .next _
  | retrain => exact execRetrain_completes ..
  | retrainTimeout => exact execRetrainTimeout_completes ..
  | setLossConfirm => exact .next _
  | downEnd => exact .next _
  | portDisable => exact .next _
  | portRetrain => exact .next _
  | portRescan => exact .next _
  | portEqualiseDone => exact .next _
  | portAlignDone => exact execPortAlignDone_completes ..
  | portMissing => exact execPortMissing_completes ..
  | identRecord => exact .next _
  | configRecord => exact execConfigRecord_completes ..
  | portTableReport => exact .next _
  | timeSync => exact .next _
  | timeDreq => exact .next _
  | timeDresp => exact .next _
  | timeExchangeTick => exact execTimeExchangeTick_completes ..
  | timeAltParent => exact execTimeAltParent_completes ..
  | holdoverReport => exact .next _
  | hostLinkDown => exact .next _
  | hostDmaFail => exact execHostDmaFail_completes ..
  | ideStateChange => exact execIdeStateChange_completes ..
  | hdmAccess => exact .next _
  | apertureRead => exact .next _
  | apertureWrite => exact .next _
  | registerWrite => exact .next _
  | readClear => exact .next _
  | transferFw => exact .next _
  | activateFw => exact .next _
  | getFwInfo => exact .next _
  | identify => exact .next _
  | getBoot => exact .next _
  | nonce => exact .next _
  | nonceExpire => exact .next _
  | cardWrite => exact .next _
  | cardCheck => exact .next _
  | suppWrite => exact .next _
  | suppCommit => exact .next _
  | restart => exact .next _
  | shutdown => exact .next _
  | enrolBegin => exact .next _
  | enrolConfirm => exact .next _
  | enrolTimeout => exact .next _
  | ownerRelease => exact .next _
  | vendorUnknown => exact .next _
  | spdmRequest => exact .next _
  | getMeasurements => exact .next _
  | mctpControl => exact .next _
  | faultRecord => exact .next _
  | almanacSecond => exact execAlmanacSecond_completes ..
  | almanacInterval => exact .next _
  | almanacWriteDone => exact .next _
  | almRead => exact .next _
  | almFlush => exact .next _
  | ringRead => exact .next _
  | calRead => exact .next _
  | calArm => exact .next _
  | calConfirm => exact .next _
  | calWrite => exact .next _
  | calCommit => exact .next _
  | calUnlockExpire => exact .next _
  | debugHold => exact .next _
  | debugRelease => exact .next _
  | debugStep => exact .next _
  | portSignalDetect => exact .next _
  | hostLinkUp => exact execHostLinkUp_completes ..
  | fullLoadDone => exact execFullLoadDone_completes ..
  | pieceFetchDone => exact execPieceFetchDone_completes ..
  | mpRestartDone => exact execMpRestartDone_completes ..
  | tapInstruction => exact execTapInstruction_completes ..
  | cxlMailboxCommand => exact .next _

/-! ## What every command keeps -/

theorem exec_moves {s₀ : State} (c : Instr) (s : State) (h : Moves s₀ s) : MovesOut s₀ (exec c s) := by
  cases c with
  | coldStart => exact execColdStart_moves (h₀ := h) ..
  | perstAssert => exact execPerstAssert_moves (h₀ := h) ..
  | vinRise => exact execVinRise_moves (h₀ := h) ..
  | vinFault => exact execVinFault_moves (h₀ := h) ..
  | refclkStable => exact execRefclkStable_moves (h₀ := h) ..
  | refclkLoss => exact execRefclkLoss_moves (h₀ := h) ..
  | cardVerify => exact execCardVerify_moves (h₀ := h) ..
  | hbmTrainDone => exact execHbmTrainDone_moves (h₀ := h) ..
  | setLock => exact execSetLock_moves (h₀ := h) ..
  | seedlingStart => exact execSeedlingStart_moves (h₀ := h) ..
  | promote => exact execPromote_moves (h₀ := h) ..
  | aliasReady => exact execAliasReady_moves (h₀ := h) ..
  | powerSample => exact execPowerSample_moves (h₀ := h) ..
  | envCapWrite => exact execEnvCapWrite_moves (h₀ := h) ..
  | rampAdmit => exact execRampAdmit_moves (h₀ := h) ..
  | rampRelease => exact execRampRelease_moves (h₀ := h) ..
  | markTimeout => exact execMarkTimeout_moves (h₀ := h) ..
  | lendThreshold => exact execLendThreshold_moves (h₀ := h) ..
  | lendReclaim => exact execLendReclaim_moves (h₀ := h) ..
  | sprintRequest => exact execSprintRequest_moves (h₀ := h) ..
  | sprintDurationEnd => exact execSprintDurationEnd_moves (h₀ := h) ..
  | sprintCooldownEnd => exact execSprintCooldownEnd_moves (h₀ := h) ..
  | junctionSense => exact execJunctionSense_moves (h₀ := h) ..
  | railFault => exact execRailFault_moves (h₀ := h) ..
  | floorBreach => exact execFloorBreach_moves (h₀ := h) ..
  | ageingStep => exact execAgeingStep_moves (h₀ := h) ..
  | descriptorFetch => exact execDescriptorFetch_moves (h₀ := h) ..
  | move => exact execMove_moves (h₀ := h) ..
  | copy => exact execCopy_moves (h₀ := h) ..
  | fill => exact execFill_moves (h₀ := h) ..
  | gemm => exact execGemm_moves (h₀ := h) ..
  | conv => exact execConv_moves (h₀ := h) ..
  | vec => exact execVec_moves (h₀ := h) ..
  | attn => exact execAttn_moves (h₀ := h) ..
  | signal => exact execSignal_moves (h₀ := h) ..
  | wait => exact execWait_moves (h₀ := h) ..
  | consume => exact execConsume_moves (h₀ := h) ..
  | send => exact execSend_moves (h₀ := h) ..
  | fence => exact execFence_moves (h₀ := h) ..
  | loop => exact execLoop_moves (h₀ := h) ..
  | endloop => exact execEndloop_moves (h₀ := h) ..
  | inject => exact execInject_moves (h₀ := h) ..
  | take => exact execTake_moves (h₀ := h) ..
  | harvest => exact execHarvest_moves (h₀ := h) ..
  | graft => exact execGraft_moves (h₀ := h) ..
  | descriptorComplete => exact execDescriptorComplete_moves (h₀ := h) ..
  | arrayStep => exact execArrayStep_moves (h₀ := h) ..
  | tileDrain => exact execTileDrain_moves (h₀ := h) ..
  | coreHeartbeat => exact execCoreHeartbeat_moves (h₀ := h) ..
  | heartbeatTimeout => exact execHeartbeatTimeout_moves (h₀ := h) ..
  | linkDieHeartbeatTimeout => exact execLinkDieHeartbeatTimeout_moves (h₀ := h) ..
  | mpWatchdog => exact execMpWatchdog_moves (h₀ := h) ..
  | segmentPowerOff => exact execSegmentPowerOff_moves (h₀ := h) ..
  | segmentPowerOn => exact execSegmentPowerOn_moves (h₀ := h) ..
  | segmentDrainEnd => exact execSegmentDrainEnd_moves (h₀ := h) ..
  | segmentReady => exact execSegmentReady_moves (h₀ := h) ..
  | windowWrite => exact execWindowWrite_moves (h₀ := h) ..
  | windowWriteAck => exact execWindowWriteAck_moves (h₀ := h) ..
  | creditGrant => exact execCreditGrant_moves (h₀ := h) ..
  | jobEnd => exact execJobEnd_moves (h₀ := h) ..
  | jobKill => exact execJobKill_moves (h₀ := h) ..
  | jobRelease => exact execJobRelease_moves (h₀ := h) ..
  | jobStart => exact execJobStart_moves (h₀ := h) ..
  | teardownSettled => exact execTeardownSettled_moves (h₀ := h) ..
  | teardownFillDone => exact execTeardownFillDone_moves (h₀ := h) ..
  | slotMapWrite => exact execSlotMapWrite_moves (h₀ := h) ..
  | slotMapApply => exact execSlotMapApply_moves (h₀ := h) ..
  | tileFrame => exact execTileFrame_moves (h₀ := h) ..
  | turnFrame => exact execTurnFrame_moves (h₀ := h) ..
  | turnSend => exact execTurnSend_moves (h₀ := h) ..
  | turnHandle => exact execTurnHandle_moves (h₀ := h) ..
  | circSwitch => exact execCircSwitch_moves (h₀ := h) ..
  | changeRequest => exact execChangeRequest_moves (h₀ := h) ..
  | readinessQuery => exact execReadinessQuery_moves (h₀ := h) ..
  | readinessReply => exact execReadinessReply_moves (h₀ := h) ..
  | readinessTimeout => exact execReadinessTimeout_moves (h₀ := h) ..
  | commitNotice => exact execCommitNotice_moves (h₀ := h) ..
  | commitAck => exact execCommitAck_moves (h₀ := h) ..
  | commitAckTimeout => exact execCommitAckTimeout_moves (h₀ := h) ..
  | confirm => exact execConfirm_moves (h₀ := h) ..
  | abort => exact execAbort_moves (h₀ := h) ..
  | loadAnnounce => exact execLoadAnnounce_moves (h₀ := h) ..
  | loadFrame => exact execLoadFrame_moves (h₀ := h) ..
  | pieceRerequest => exact execPieceRerequest_moves (h₀ := h) ..
  | loadTimerExpire => exact execLoadTimerExpire_moves (h₀ := h) ..
  | weedPassStart => exact execWeedPassStart_moves (h₀ := h) ..
  | weedPieceDone => exact execWeedPieceDone_moves (h₀ := h) ..
  | repairTransfer => exact execRepairTransfer_moves (h₀ := h) ..
  | tierPieceStaged => exact execTierPieceStaged_moves (h₀ := h) ..
  | residentSettle => exact execResidentSettle_moves (h₀ := h) ..
  | promenadeSwitch => exact execPromenadeSwitch_moves (h₀ := h) ..
  | foldNotice => exact execFoldNotice_moves (h₀ := h) ..
  | foldAck => exact execFoldAck_moves (h₀ := h) ..
  | refold => exact execRefold_moves (h₀ := h) ..
  | stopNotice => exact execStopNotice_moves (h₀ := h) ..
  | attnRequest => exact execAttnRequest_moves (h₀ := h) ..
  | attnUnitDone => exact execAttnUnitDone_moves (h₀ := h) ..
  | attnShareDone => exact execAttnShareDone_moves (h₀ := h) ..
  | frameSeal => exact execFrameSeal_moves (h₀ := h) ..
  | stepBoundary => exact execStepBoundary_moves (h₀ := h) ..
  | embeddingGatherDone => exact execEmbeddingGatherDone_moves (h₀ := h) ..
  | passStart => exact execPassStart_moves (h₀ := h) ..
  | passHeader => exact execPassHeader_moves (h₀ := h) ..
  | passReturn => exact execPassReturn_moves (h₀ := h) ..
  | stackTempRead => exact execStackTempRead_moves (h₀ := h) ..
  | stackTempExit => exact execStackTempExit_moves (h₀ := h) ..
  | stackFenceWrite => exact execStackFenceWrite_moves (h₀ := h) ..
  | refresh i st => exact execRefresh_moves i st s h
  | patrolPassStart => exact execPatrolPassStart_moves (h₀ := h) ..
  | patrolRead => exact execPatrolRead_moves (h₀ := h) ..
  | loopbackGo => exact execLoopbackGo_moves (h₀ := h) ..
  | loopbackEnd => exact execLoopbackEnd_moves (h₀ := h) ..
  | sqTailWrite => exact execSqTailWrite_moves (h₀ := h) ..
  | sqFetch => exact execSqFetch_moves (h₀ := h) ..
  | cqHeadWrite => exact execCqHeadWrite_moves (h₀ := h) ..
  | ringEnable => exact execRingEnable_moves (h₀ := h) ..
  | ringDisable => exact execRingDisable_moves (h₀ := h) ..
  | openS => exact execOpen_moves (h₀ := h) ..
  | input => exact execInput_moves (h₀ := h) ..
  | draft => exact execDraft_moves (h₀ := h) ..
  | mask => exact execMask_moves (h₀ := h) ..
  | maskload => exact execMaskload_moves (h₀ := h) ..
  | close => exact execClose_moves (h₀ := h) ..
  | openTimeout => exact execOpenTimeout_moves (h₀ := h) ..
  | remoteSignal => exact execRemoteSignal_moves (h₀ := h) ..
  | remoteSignalReply => exact execRemoteSignalReply_moves (h₀ := h) ..
  | barrierArrive => exact execBarrierArrive_moves (h₀ := h) ..
  | barrierRelease => exact execBarrierRelease_moves (h₀ := h) ..
  | barrierBroken => exact execBarrierBroken_moves (h₀ := h) ..
  | hostSignal => exact execHostSignal_moves (h₀ := h) ..
  | hostWaitArm => exact execHostWaitArm_moves (h₀ := h) ..
  | chanMessage => exact execChanMessage_moves (h₀ := h) ..
  | chanAck => exact execChanAck_moves (h₀ := h) ..
  | chanNack => exact execChanNack_moves (h₀ := h) ..
  | chanRetry => exact execChanRetry_moves (h₀ := h) ..
  | norouteTimeout => exact execNorouteTimeout_moves (h₀ := h) ..
  | flitReceive => exact execFlitReceive_moves (h₀ := h) ..
  | fecAlignLoss => exact execFecAlignLoss_moves (h₀ := h) ..
  | crcSilence => exact execCrcSilence_moves (h₀ := h) ..
  | retrain => exact execRetrain_moves (h₀ := h) ..
  | retrainTimeout => exact execRetrainTimeout_moves (h₀ := h) ..
  | setLossConfirm => exact execSetLossConfirm_moves (h₀ := h) ..
  | downEnd => exact execDownEnd_moves (h₀ := h) ..
  | portDisable => exact execPortDisable_moves (h₀ := h) ..
  | portRetrain => exact execPortRetrain_moves (h₀ := h) ..
  | portRescan => exact execPortRescan_moves (h₀ := h) ..
  | portEqualiseDone => exact execPortEqualiseDone_moves (h₀ := h) ..
  | portAlignDone => exact execPortAlignDone_moves (h₀ := h) ..
  | portMissing => exact execPortMissing_moves (h₀ := h) ..
  | identRecord => exact execIdentRecord_moves (h₀ := h) ..
  | configRecord => exact execConfigRecord_moves (h₀ := h) ..
  | portTableReport => exact execPortTableReport_moves (h₀ := h) ..
  | timeSync => exact execTimeSync_moves (h₀ := h) ..
  | timeDreq => exact execTimeDreq_moves (h₀ := h) ..
  | timeDresp => exact execTimeDresp_moves (h₀ := h) ..
  | timeExchangeTick => exact execTimeExchangeTick_moves (h₀ := h) ..
  | timeAltParent => exact execTimeAltParent_moves (h₀ := h) ..
  | holdoverReport => exact execHoldoverReport_moves (h₀ := h) ..
  | hostLinkDown => exact execHostLinkDown_moves (h₀ := h) ..
  | hostDmaFail => exact execHostDmaFail_moves (h₀ := h) ..
  | ideStateChange => exact execIdeStateChange_moves (h₀ := h) ..
  | hdmAccess => exact execHdmAccess_moves (h₀ := h) ..
  | apertureRead => exact execApertureRead_moves (h₀ := h) ..
  | apertureWrite => exact execApertureWrite_moves (h₀ := h) ..
  | registerWrite => exact execRegisterWrite_moves (h₀ := h) ..
  | readClear => exact execReadClear_moves (h₀ := h) ..
  | transferFw => exact execTransferFw_moves (h₀ := h) ..
  | activateFw => exact execActivateFw_moves (h₀ := h) ..
  | getFwInfo => exact execGetFwInfo_moves (h₀ := h) ..
  | identify => exact execIdentify_moves (h₀ := h) ..
  | getBoot => exact execGetBoot_moves (h₀ := h) ..
  | nonce => exact execNonce_moves (h₀ := h) ..
  | nonceExpire => exact execNonceExpire_moves (h₀ := h) ..
  | cardWrite => exact execCardWrite_moves (h₀ := h) ..
  | cardCheck v facts => exact execCardCheck_moves v facts s h
  | suppWrite => exact execSuppWrite_moves (h₀ := h) ..
  | suppCommit => exact execSuppCommit_moves (h₀ := h) ..
  | restart => exact execRestart_moves (h₀ := h) ..
  | shutdown => exact execShutdown_moves (h₀ := h) ..
  | enrolBegin => exact execEnrolBegin_moves (h₀ := h) ..
  | enrolConfirm => exact execEnrolConfirm_moves (h₀ := h) ..
  | enrolTimeout => exact execEnrolTimeout_moves (h₀ := h) ..
  | ownerRelease => exact execOwnerRelease_moves (h₀ := h) ..
  | vendorUnknown => exact execVendorUnknown_moves (h₀ := h) ..
  | spdmRequest => exact execSpdmRequest_moves (h₀ := h) ..
  | getMeasurements => exact execGetMeasurements_moves (h₀ := h) ..
  | mctpControl => exact execMctpControl_moves (h₀ := h) ..
  | faultRecord => exact execFaultRecord_moves (h₀ := h) ..
  | almanacSecond => exact execAlmanacSecond_moves (h₀ := h) ..
  | almanacInterval => exact execAlmanacInterval_moves (h₀ := h) ..
  | almanacWriteDone => exact execAlmanacWriteDone_moves (h₀ := h) ..
  | almRead => exact execAlmRead_moves (h₀ := h) ..
  | almFlush => exact execAlmFlush_moves (h₀ := h) ..
  | ringRead => exact execRingRead_moves (h₀ := h) ..
  | calRead => exact execCalRead_moves (h₀ := h) ..
  | calArm => exact execCalArm_moves (h₀ := h) ..
  | calConfirm => exact execCalConfirm_moves (h₀ := h) ..
  | calWrite => exact execCalWrite_moves (h₀ := h) ..
  | calCommit => exact execCalCommit_moves (h₀ := h) ..
  | calUnlockExpire => exact execCalUnlockExpire_moves (h₀ := h) ..
  | debugHold => exact execDebugHold_moves (h₀ := h) ..
  | debugRelease => exact execDebugRelease_moves (h₀ := h) ..
  | debugStep => exact execDebugStep_moves (h₀ := h) ..
  | portSignalDetect => exact execPortSignalDetect_moves (h₀ := h) ..
  | hostLinkUp => exact execHostLinkUp_moves (h₀ := h) ..
  | fullLoadDone => exact execFullLoadDone_moves (h₀ := h) ..
  | pieceFetchDone => exact execPieceFetchDone_moves (h₀ := h) ..
  | mpRestartDone => exact execMpRestartDone_moves (h₀ := h) ..
  | tapInstruction => exact execTapInstruction_moves (h₀ := h) ..
  | cxlMailboxCommand => exact execCxlMailboxCommand_moves (h₀ := h) ..

theorem step_of_pending_nil {s : State} (h : s.pending = []) : step s = .next s := by
  unfold step
  rw [h]

theorem step_of_pending_cons {s : State} {c : Instr} {q : List Instr} (h : s.pending = c :: q) :
    step s = exec c { s with pending := q } := by
  unfold step
  rw [h]

/-- A step idles, or moves on from the state without the command that it takes. -/
theorem moves_of_step {s t : State} (h : step s = .next t) : t = s ∨ ∃ q, Moves { s with pending := q } t := by
  cases hq : s.pending with
  | nil =>
    rw [step_of_pending_nil hq] at h
    cases h
    exact .inl rfl
  | cons c q =>
    rw [step_of_pending_cons hq] at h
    exact .inr ⟨q, (exec_moves c _ (.refl _)).state t h⟩

theorem State.Inv.with_pending {s : State} (h : s.Inv) (q : List Instr) : State.Inv { s with pending := q } :=
  ⟨h.regs, h.set0, h.set1, h.host, h.alm, h.nvm⟩

theorem reset_inv : State.reset.Inv :=
  ⟨regsOk_nil, SetSt.ok_reset 0, SetSt.ok_reset 1, rfl, rfl, rfl, fun _ h => nomatch h⟩

/-- Settles O54: every command has a next state, and every command moves the state as `Moves` says. -/
theorem everyCommandCompletes : Obligations.EveryCommandCompletes := by
  intro c s
  obtain ⟨t, ht⟩ := exec_completes c s
  have moves := (exec_moves c s (.refl s)).state t ht
  exact ⟨t, ht, moves.pending, moves.out⟩

/-- Settles O56: idling keeps the state, and every command keeps the invariant, of which the queue is no part. -/
theorem stepKeepsInv : Obligations.StepKeepsInv := by
  intro s t hs h
  obtain rfl | ⟨q, moves⟩ := moves_of_step h
  · exact hs
  · exact moves.inv (hs.with_pending q)

/-- Settles O57: idling keeps the state, and every command only burns fuses and leaves the identity block. -/
theorem fusesAndIdentityStand : Obligations.FusesAndIdentityStand := by
  intro s t _ h
  obtain rfl | ⟨q, moves⟩ := moves_of_step h
  · exact ⟨.refl _, fun _ _ _ => rfl⟩
  · exact ⟨moves.fuses, moves.identity⟩

/-- Settles O52: the queue of the state is the one that `step` takes its command from. -/
theorem stepTakesFront : Obligations.StepTakesFront := fun _ _ _ => step_of_pending_cons rfl

/-- Settles O53: a step takes nothing from an empty queue, and the decoder answers no word. -/
theorem idleAndWords : Obligations.IdleAndWords := by
  refine ⟨fun s => step_of_pending_nil, fun nbits w => ⟨rfl, fun s => ?_⟩⟩
  unfold State.withFetchWord
  rw [show decodeTableWord nbits w = none from rfl]

/-- Settles O55: the registers and the memories of reset are canonical, and the queue is no part of the invariant. -/
theorem invAtReset : Obligations.InvAtReset := ⟨reset_inv, reset_inv.with_pending⟩

end Sys2Proof.Machine
end

section
/-! PROOF. Reading after an update of one unit of a set: the set's registers, the other units and the package stand. -/

namespace Sys2Proof.Machine

/-- What every step of a fold keeps, the fold keeps. -/
theorem foldl_keeps {σ α β : Type} (v : σ → β) {f : σ → α → σ} (h : ∀ s a, v (f s a) = v s) (l : List α) (s : σ) : v (l.foldl f s) = v s := by
  induction l generalizing s with
  | nil => rfl
  | cons a l ih => rw [List.foldl_cons, ih, h]

section
variable (s : State) (i : SetId)

@[simp] theorem st_setFld_same (f : Field) (ix v : Nat) : (s.setFld i f ix v).st i = { s.st i with regs := putField (s.st i).regs f ix v } :=
  s.st_onSet_same ..

@[simp] theorem st_setFld_ne {j : SetId} (f : Field) (ix v : Nat) (h : j ≠ i) : (s.setFld i f ix v).st j = s.st j := s.st_onSet_ne _ h

theorem fld_onSet_of_regs {f : SetSt → SetSt} (hf : ∀ t, (f t).regs = t.regs) (j : SetId) (g : Field) (x : Nat) :
    (s.onSet i f).fld j g x = s.fld j g x := by
  unfold State.fld
  by_cases hj : j = i
  · rw [hj, State.st_onSet_same, hf]
  · rw [State.st_onSet_ne _ _ hj]

@[simp] theorem pfld_onSet (f : SetSt → SetSt) (g : Field) (x : Nat) : (s.onSet i f).pfld g x = s.pfld g x := s.pfld_putSet ..

/-! ## Cores and slots -/

@[simp] theorem fld_onCore (k : Nat) (f : Core → Core) (j : SetId) (g : Field) (x : Nat) : (s.onCore i k f).fld j g x = s.fld j g x :=
  fld_onSet_of_regs s i (by intro; rfl) j g x

@[simp] theorem fld_onSlot (k n : Nat) (f : Slot → Slot) (j : SetId) (g : Field) (x : Nat) : (s.onSlot i k n f).fld j g x = s.fld j g x :=
  fld_onCore ..

@[simp] theorem core_onCore_same (k : Nat) (f : Core → Core) : (s.onCore i k f).core i k = f (s.core i k) := by
  simp [State.onCore, State.core, SMap.upd]

@[simp] theorem core_setFld (j : SetId) (f : Field) (ix v k : Nat) : (s.setFld i f ix v).core j k = s.core j k := by
  by_cases hj : j = i
  · rw [hj, State.core, st_setFld_same, State.core]
  · rw [State.core, st_setFld_ne _ _ _ _ _ hj, State.core]

@[simp] theorem slot_setFld (j : SetId) (f : Field) (ix v k n : Nat) : (s.setFld i f ix v).slot j k n = s.slot j k n := by
  rw [State.slot, core_setFld, State.slot]

@[simp] theorem slot_onSlot_same (k n : Nat) (f : Slot → Slot) : (s.onSlot i k n f).slot i k n = f (s.slot i k n) := by
  simp [State.onSlot, State.slot, SMap.upd]

@[simp] theorem core_emit (e : EvKind) (n : Nat) (a : List Nat) (d : List Byte) (k : Nat) : (s.emit e n a d).core i k = s.core i k := rfl

@[simp] theorem out_onCore (k : Nat) (f : Core → Core) : (s.onCore i k f).out = s.out := s.onSet_out ..

@[simp] theorem out_onSlot (k n : Nat) (f : Slot → Slot) : (s.onSlot i k n f).out = s.out := out_onCore ..

@[simp] theorem regs_onCore (k : Nat) (f : Core → Core) : (s.onCore i k f).regs = s.regs := s.onSet_regs ..

@[simp] theorem regs_onSlot (k n : Nat) (f : Slot → Slot) : (s.onSlot i k n f).regs = s.regs := regs_onCore ..

/-! ## Links -/

@[simp] theorem fld_onLink (p : Nat) (f : LinkPort → LinkPort) (j : SetId) (g : Field) (x : Nat) :
    (onLink s i p f).fld j g x = s.fld j g x := fld_onSet_of_regs s i (by intro; rfl) j g x

@[simp] theorem out_onLink (p : Nat) (f : LinkPort → LinkPort) : (onLink s i p f).out = s.out := s.onSet_out ..

@[simp] theorem lport_onLink_same (p : Nat) (f : LinkPort → LinkPort) : lport (onLink s i p f) i p = f (lport s i p) := by
  simp [onLink, lport, SMap.upd]

@[simp] theorem lport_setFld (f : Field) (ix v p : Nat) : lport (s.setFld i f ix v) i p = lport s i p := by simp [lport]

/-! ## Circulation -/

@[simp] theorem fld_onCirc (f : CircUnit → CircUnit) (j : SetId) (g : Field) (x : Nat) : (onCirc s i f).fld j g x = s.fld j g x :=
  fld_onSet_of_regs s i (by intro; rfl) j g x

@[simp] theorem out_onCirc (f : CircUnit → CircUnit) : (onCirc s i f).out = s.out := s.onSet_out ..

@[simp] theorem circ_onCirc_same (f : CircUnit → CircUnit) : circ (onCirc s i f) i = f (circ s i) := by simp [onCirc, circ]

@[simp] theorem circ_setFld (f : Field) (ix v : Nat) : circ (s.setFld i f ix v) i = circ s i := by simp [circ]

@[simp] theorem circ_emit (e : EvKind) (n : Nat) (a : List Nat) (d : List Byte) : circ (s.emit e n a d) i = circ s i := rfl

end

end Sys2Proof.Machine
end

section
/-! PROOF. Stored bytes read back with valid check bits, a MOVE of one row, and the zero fill of a teardown (R76, R121, R123, R150). -/

namespace Sys2Proof.Machine

/-! ## What a write of bytes does -/

/-- The words that `n` bytes from `a` touch. -/
abbrev touches (a n k : Nat) : Prop := 0 < n ∧ a / 32 ≤ k ∧ k < (a + n + 31) / 32

/-- From `s` to `t` the bytes `d` are written from `a`, with valid check bits, and nothing else moves. -/
structure Writes (i : SetId) (a : Nat) (d : List Byte) (s t : State) : Prop where
  mem : ∀ x, SMap.get 0 (t.st i).mem x = if a ≤ x ∧ x < a + d.length then d.getD (x - a) 0 else SMap.get 0 (s.st i).mem x
  chk : ∀ k, SMap.get 0 (t.st i).chk k = if touches a d.length k then 0 else SMap.get 0 (s.st i).chk k
  wf : Memory.wf (s.st i).mem = true → Memory.wf (t.st i).mem = true
  keeps : KeepsBesidesMemory i s t
  circ : (t.st i).circ = (s.st i).circ
  endDue : (t.st i).endDue = (s.st i).endDue

namespace Writes

variable {i : SetId} {a : Nat} {d e : List Byte} {s t u : State}

theorem nil (i : SetId) (a : Nat) (s : State) : Writes i a [] s s :=
  ⟨fun x => by simp, fun k => by simp [touches], id, .refl i s, rfl, rfl⟩

/-- Bytes written one behind the other are written together. -/
theorem append (h : Writes i a d s t) (g : Writes i (a + d.length) e t u) : Writes i a (d ++ e) s u := by
  refine ⟨fun x => ?_, fun k => ?_, g.wf ∘ h.wf, h.keeps.trans g.keeps, g.circ.trans h.circ, g.endDue.trans h.endDue⟩
  · rw [g.mem, h.mem, List.length_append]
    by_cases hd : x < a + d.length
    · rw [if_neg (by omega)]
      by_cases ha : a ≤ x
      · rw [if_pos ⟨ha, hd⟩, if_pos (by omega), List.getD_append _ _ _ _ (by omega)]
      · rw [if_neg (by omega), if_neg (by omega)]
    · by_cases he : x < a + d.length + e.length
      · rw [if_pos (by omega), if_pos (by omega), List.getD_append_right _ _ _ _ (by omega), Nat.sub_add_eq]
      · rw [if_neg (by omega), if_neg (by omega), if_neg (by omega)]
  · rw [g.chk, h.chk, List.length_append]
    by_cases hd : touches a d.length k
    · rw [if_pos hd, ite_self, if_pos (show touches a (d.length + e.length) k by unfold touches at *; omega)]
    · by_cases he : touches (a + d.length) e.length k
      · rw [if_pos he, if_pos (by unfold touches at *; omega)]
      · rw [if_neg he, if_neg hd, if_neg (by unfold touches at *; omega)]

theorem onFenced_eq (h : Writes i a d s t) (x : Nat) : onFenced t i x = onFenced s i x := by
  rw [onFenced, onFenced, h.keeps.fenced_eq]

/-- Bytes that a write leaves out keep their check bits. -/
theorem chkOf_eq (h : Writes i a d s t) {x : Nat} (hx : x / 32 < a / 32 ∨ (a + d.length + 31) / 32 ≤ x / 32) : chkOf t i x = chkOf s i x := by
  rw [chkOf, chkOf, h.chk, if_neg (by unfold touches; omega)]

theorem readMem_eq (h : Writes i a d s t) : readMem (t.st i).mem a d.length = d := by
  refine List.ext_getElem (by simp) fun n hn hd => ?_
  have hn : n < d.length := by simpa using hn
  simp only [readMem, List.getElem_map, List.getElem_range]
  rw [h.mem, if_pos (by omega), Nat.add_sub_cancel_left, List.getD_eq_getElem?_getD, List.getElem?_eq_getElem hn, Option.getD_some]

end Writes

/-- No byte of the range lies on a fenced stack. -/
def freeRange (s : State) (i : SetId) (a n : Nat) : Prop := ∀ x, a ≤ x → x < a + n → onFenced s i x = false

theorem freeRange_of_unfenced {s : State} {i : SetId} (h : ∀ n, fenced s i n = false) (a n : Nat) : freeRange s i a n :=
  fun x _ _ => onFenced_of_unfenced h x

theorem freeRange.mono {s : State} {i : SetId} {a n b m : Nat} (h : freeRange s i a n) (hb : a ≤ b) (hm : b + m ≤ a + n) : freeRange s i b m :=
  fun x hx hlt => h x (by omega) (by omega)

theorem freeRange.after {s t : State} {i : SetId} {a n b : Nat} {d : List Byte} (h : freeRange s i a n) (hw : Writes i b d s t) :
    freeRange t i a n := fun x hx hlt => by rw [hw.onFenced_eq, h x hx hlt]

/-! ## Whole pieces -/

theorem storePiece_writes {s : State} {i : SetId} {a : Nat} {d : List Byte} (h : freeRange s i a d.length) :
    Writes i a d s (storePiece s i a d) := by
  cases d with
  | nil => simpa [storePiece] using Writes.nil i a s
  | cons b d =>
    have hfree : onFenced s i a = false := h a le_rfl (by simp)
    have heq : storePiece s i a (b :: d) = s.onSet i fun t => { t with
        mem := writeMem t.mem a (b :: d)
        chk := SMap.keep (fun k => k < a / 32 || (a + (b :: d).length + 31) / 32 ≤ k) t.chk } := by
      rw [storePiece, if_neg (by simp [hfree])]
    rw [heq]
    refine ⟨fun x => ?_, fun k => ?_, fun hwf => ?_, .onSet fun _ => rfl, by simp, by simp⟩
    · rw [State.st_onSet_same, get_writeMem]
    · rw [State.st_onSet_same, SMap.get_keep]
      by_cases hk : touches a (b :: d).length k
      · rw [if_pos hk, if_neg (by unfold touches at hk; simp; simp at hk; omega)]
      · rw [if_neg hk, if_pos (by unfold touches at hk; simp; simp at hk; omega)]
    · rw [State.st_onSet_same]
      exact wf_writeMem hwf _ _

theorem storeRaw_writes {s : State} {i : SetId} {a : Nat} {d : List Byte} (h : freeRange s i a d.length) : Writes i a d s (storeRaw s i a d) := by
  have hcut : stackRest a d.length ≤ d.length := by unfold stackRest; split <;> omega
  unfold storeRaw
  generalize stackRest a d.length = m at hcut ⊢
  have hlen : (d.take m).length = m := by rw [List.length_take]; omega
  have first : Writes i a (d.take m) s (storePiece s i a (d.take m)) := storePiece_writes (h.mono le_rfl (by omega))
  have second : Writes i (a + m) (d.drop m) (storePiece s i a (d.take m)) (storePiece (storePiece s i a (d.take m)) i (a + m) (d.drop m)) :=
    storePiece_writes (freeRange.after (h.mono (by omega) (by rw [List.length_drop]; omega)) first)
  have both := first.append (by rw [hlen]; exact second)
  rwa [List.take_append_drop] at both

/-! ## Parts of a word (R123) -/

theorem spaceOf_hbm_iff (a : Nat) : spaceOf a = .hbm ↔ a < 0x90_0000_0000 := by
  unfold spaceOf
  dsimp only
  split
  · simpa
  · rename_i h
    refine iff_of_false ?_ h
    repeat' split
    all_goals simp

/-- The bytes of a word lie on one stack. -/
theorem onFenced_congr {s : State} {i : SetId} {a b : Nat} (h : a / 32 = b / 32) : onFenced s i a = onFenced s i b := by
  have hstack : stackOf a = stackOf b := by unfold stackOf; omega
  have hspace : (spaceOf a == .hbm) = (spaceOf b == .hbm) := by
    rw [Bool.eq_iff_iff, beq_iff_eq, beq_iff_eq, spaceOf_hbm_iff, spaceOf_hbm_iff]
    omega
  rw [onFenced, onFenced, hstack, hspace]

theorem readWord_of_valid {s : State} {i : SetId} {a : Nat} (hfree : onFenced s i a = false) (hvalid : chkOf s i a = 0) :
    readWord s i a = (readMem (s.st i).mem a 32, false, s) := by
  simp [readWord, hfree, hvalid, decodeDiff]

/-- A word with the bytes `d` in it from byte `n`. -/
def mergeWord (old d : List Byte) (n : Nat) : List Byte := old.take n ++ d ++ old.drop (n + d.length)

theorem length_mergeWord {old d : List Byte} {n : Nat} (h : n + d.length ≤ old.length) : (mergeWord old d n).length = old.length := by
  simp [mergeWord]
  omega

theorem getD_mergeWord {old d : List Byte} {n : Nat} (h : n + d.length ≤ old.length) (x : Nat) :
    (mergeWord old d n).getD x 0 = if n ≤ x ∧ x < n + d.length then d.getD (x - n) 0 else old.getD x 0 := by
  have htake : (old.take n).length = n := by rw [List.length_take]; omega
  have hlen : (old.take n ++ d).length = n + d.length := by rw [List.length_append, htake]
  unfold mergeWord
  by_cases hd : x < n + d.length
  · rw [List.getD_append _ _ _ _ (by omega)]
    by_cases hn : n ≤ x
    · rw [if_pos ⟨hn, hd⟩, List.getD_append_right _ _ _ _ (by omega), htake]
    · rw [if_neg (by omega), List.getD_append _ _ _ _ (by omega), List.getD_eq_getElem?_getD, List.getElem?_take_of_lt (by omega),
        List.getD_eq_getElem?_getD]
  · rw [if_neg (by omega), List.getD_append_right _ _ _ _ (by omega), hlen, List.getD_eq_getElem?_getD, List.getElem?_drop,
      List.getD_eq_getElem?_getD]
    congr 2
    omega

theorem getD_readMem {m : SMap Byte} {a n x : Nat} (h : x < n) : (readMem m a n).getD x 0 = SMap.get 0 m (a + x) := by
  simp [readMem, List.getD_eq_getElem?_getD, h]

theorem storePart_of_valid {s : State} {i : SetId} {a : Nat} {d : List Byte} (hfree : onFenced s i a = false) (hvalid : chkOf s i a = 0)
    (hd : d ≠ []) :
    storePart s i a d = storeRaw s i (a / 32 * 32) (mergeWord (readMem (s.st i).mem (a / 32 * 32) 32) d (a - a / 32 * 32)) := by
  have hword : a / 32 * 32 / 32 = a / 32 := by omega
  have hread := readWord_of_valid (s := s) (i := i) (a := a / 32 * 32) (by rw [onFenced_congr hword, hfree])
    (by rw [chkOf, hword]; exact hvalid)
  rw [storePart, if_neg (by simp [hfree, hd]), hread]
  simp only [mergeWord, Bool.false_eq_true, if_false, show a + d.length - a / 32 * 32 = a - a / 32 * 32 + d.length by omega]

/-- A narrow write within a word that is valid (R123). -/
theorem storePart_writes {s : State} {i : SetId} {a : Nat} {d : List Byte} (hfit : a % 32 + d.length ≤ 32)
    (hfree : d ≠ [] → onFenced s i a = false) (hvalid : d ≠ [] → chkOf s i a = 0) : Writes i a d s (storePart s i a d) := by
  by_cases hd : d = []
  · subst hd
    rw [storePart_nil]
    exact .nil i a s
  have hpos : 0 < d.length := List.length_pos_iff.2 hd
  rw [storePart_of_valid (hfree hd) (hvalid hd) hd]
  have hin : a - a / 32 * 32 + d.length ≤ (readMem (s.st i).mem (a / 32 * 32) 32).length := by rw [length_readMem]; omega
  have hlen := length_mergeWord hin
  rw [length_readMem] at hlen
  have word := storeRaw_writes (s := s) (i := i) (a := a / 32 * 32)
    (d := mergeWord (readMem (s.st i).mem (a / 32 * 32) 32) d (a - a / 32 * 32)) fun x hx hlt => by
      rw [hlen] at hlt
      rw [onFenced_congr (show x / 32 = a / 32 by omega), hfree hd]
  refine ⟨fun x => ?_, fun k => ?_, word.wf, word.keeps, word.circ, word.endDue⟩
  · rw [word.mem, hlen, getD_mergeWord hin]
    by_cases hx : a / 32 * 32 ≤ x ∧ x < a / 32 * 32 + 32
    · rw [if_pos hx]
      by_cases hxd : a ≤ x ∧ x < a + d.length
      · rw [if_pos hxd, if_pos (by omega), show x - a / 32 * 32 - (a - a / 32 * 32) = x - a by omega]
      · rw [if_neg hxd, if_neg (by omega), getD_readMem (by omega), show a / 32 * 32 + (x - a / 32 * 32) = x by omega]
    · rw [if_neg hx, if_neg (by omega)]
  · rw [word.chk, hlen]
    exact if_congr (by unfold touches; omega) rfl rfl

/-! ## Bytes (R121, R123) -/

/-- Bytes of which none lies on a fenced stack are written, when the words that they cover in part are valid. -/
theorem store_writes {s : State} {i : SetId} {a : Nat} {d : List Byte} (hfree : freeRange s i a d.length)
    (hfront : a % 32 = 0 ∨ chkOf s i a = 0) (hback : (a + d.length) % 32 = 0 ∨ chkOf s i (a + d.length) = 0) :
    Writes i a d s (store s i a d) := by
  unfold store
  extract_lets front whole s1 s2
  have hfl : front ≤ d.length := by unfold front; split <;> omega
  have hwl : front + whole ≤ d.length := by unfold whole; omega
  have hfa : a % 32 + front ≤ 32 ∧ (a % 32 = 0 → front = 0) ∧ (front < d.length → (a + front) % 32 = 0) := by
    unfold front; split <;> omega
  have hlen1 : (d.take front).length = front := by rw [List.length_take]; omega
  have hlen2 : ((d.drop front).take whole).length = whole := by rw [List.length_take, List.length_drop]; omega
  have hlen3 : (d.drop (front + whole)).length = d.length - (front + whole) := List.length_drop
  have w1 : Writes i a (d.take front) s s1 := storePart_writes (by omega)
    (fun h => hfree a le_rfl (by have := List.length_pos_iff.2 h; omega)) (fun h => hfront.resolve_left fun h0 => by simp [hfa.2.1 h0] at h)
  have w2 : Writes i (a + front) ((d.drop front).take whole) s1 s2 :=
    storeRaw_writes (freeRange.after (hfree.mono (by omega) (by omega)) w1)
  have w12 := w1.append (by rw [hlen1]; exact w2)
  have hlen12 : (d.take front ++ (d.drop front).take whole).length = front + whole := by rw [List.length_append, hlen1, hlen2]
  have w3 : Writes i (a + front + whole) (d.drop (front + whole)) s2 (storePart s2 i (a + front + whole) (d.drop (front + whole))) := by
    refine storePart_writes (by unfold whole at *; omega) (fun h => ?_) fun h => ?_
    · have := List.length_pos_iff.2 h
      rw [w12.onFenced_eq, hfree _ (by omega) (by omega)]
    · have := List.length_pos_iff.2 h
      rw [w12.chkOf_eq (by rw [hlen12]; unfold whole at *; omega)]
      have hvalid : chkOf s i (a + d.length) = 0 := hback.resolve_left (by unfold whole at *; omega)
      rw [chkOf] at hvalid ⊢
      rw [show (a + front + whole) / 32 = (a + d.length) / 32 by unfold whole at *; omega]
      exact hvalid
  have all := w12.append (by rw [hlen12, ← Nat.add_assoc]; exact w3)
  rwa [← List.take_add, List.take_append_drop] at all

/-- Bytes that lie in one stack are free when the first is. -/
theorem freeRange_of_stackRest {s : State} {i : SetId} {a n : Nat} (hfree : onFenced s i a = false) (hrest : stackRest a n = n) :
    freeRange s i a n := by
  intro x hx hlt
  unfold stackRest at hrest
  by_cases hspace : spaceOf a = .hbm
  · rw [hspace] at hrest
    have ha := (spaceOf_hbm_iff a).1 hspace
    have hstack : stackOf x = stackOf a := by unfold stackOf at *; simp at hrest; omega
    have hx : spaceOf x = .hbm := (spaceOf_hbm_iff x).2 (by unfold stackOf at *; simp at hrest; omega)
    rw [onFenced, hspace] at hfree
    rw [onFenced, hstack, hx, hfree]
  · have hx : spaceOf x ≠ .hbm := fun h => hspace ((spaceOf_hbm_iff a).2 (by have := (spaceOf_hbm_iff x).1 h; omega))
    simp [onFenced, hx]

/-- Settles O59: the front, the whole words and the back of the bytes are written one behind another. -/
theorem storeReadsBack : Obligations.StoreReadsBack := by
  intro s i a d hfree hrest hfront hback t
  have writes : Writes i a d s t := store_writes (freeRange_of_stackRest hfree hrest) hfront hback
  obtain ⟨others, hostMem, out, regs, setRegs⟩ := writes.keeps
  refine ⟨writes.readMem_eq, fun b hb => ?_, fun k hlo hhi hd => ?_, writes.wf, setRegs, others, regs, out, hostMem⟩
  · rw [writes.mem, if_neg (by omega)]
  · rw [writes.chk, if_pos ⟨List.length_pos_iff.2 hd, hlo, hhi⟩]

/-! ## A set without changed words -/

theorem chkOf_of_nil {s : State} {i : SetId} (h : (s.st i).chk = []) (a : Nat) : chkOf s i a = 0 := by simp [chkOf, h, SMap.get]

/-- With every stored word valid and no stack fenced, every store writes its bytes. -/
theorem store_writes_of_clean {s : State} {i : SetId} (hvalid : (s.st i).chk = []) (hfree : ∀ n, fenced s i n = false) (a : Nat)
    (d : List Byte) : Writes i a d s (store s i a d) :=
  store_writes (freeRange_of_unfenced hfree _ _) (.inr (chkOf_of_nil hvalid _)) (.inr (chkOf_of_nil hvalid _))

theorem readWords_of_clean {s : State} {i : SetId} (hvalid : (s.st i).chk = []) (hfree : ∀ n, fenced s i n = false) (a n : Nat) :
    readWords s i a n = (readMem (s.st i).mem a (32 * n), [], s) := by
  cases n with
  | zero => simp [readWords, readMem]
  | succ n => simp [readWords, cleanRange, hvalid, onFenced_of_unfenced hfree]

/-! ## MOVE and COPY of one row (R76) -/

theorem latchTouch_writes {i : SetId} {a : Nat} {d : List Byte} {s t : State} (h : Writes i a d s t) (k : Nat) (rows : List (Nat × Nat)) :
    Writes i a d s (latchTouch t i k rows) := by
  have hsame : ((latchTouch t i k rows).st i).mem = (t.st i).mem ∧ ((latchTouch t i k rows).st i).chk = (t.st i).chk ∧
      ((latchTouch t i k rows).st i).circ = (t.st i).circ ∧ ((latchTouch t i k rows).st i).endDue = (t.st i).endDue := by
    unfold latchTouch State.onCore
    split
    · exact ⟨rfl, rfl, rfl, rfl⟩
    · rw [State.st_onSet_same]
      exact ⟨rfl, rfl, rfl, rfl⟩
  obtain ⟨hmem, hchk, hcirc, hdue⟩ := hsame
  exact ⟨fun x => by rw [hmem, h.mem], fun k => by rw [hchk, h.chk], fun hwf => by rw [hmem]; exact h.wf hwf,
    h.keeps.trans (latchTouch_keeps ..), by rw [hcirc, h.circ], by rw [hdue, h.endDue]⟩

/-- One row that is not transposed is read as it stands and written to the destination. -/
theorem doMove_writes {s : State} {i : SetId} {k a1 a2 : Nat} {d : List Byte} (hvalid : (s.st i).chk = []) (hfree : ∀ n, fenced s i n = false)
    (hplain : bit (leAt d 27 1) 1 = false) (hone : leAt d 28 3 ≤ 1) :
    Writes i a2 (readMem (s.st i).mem a1 (leAt d 24 3 * 32)) s (doMove s i k d a1 a2) := by
  by_cases hlen : leAt d 24 3 = 0
  · simpa [doMove, hlen, readMem] using Writes.nil i a2 s
  have hrows : max 1 (leAt d 28 3) = 1 := by omega
  have heq : doMove s i k d a1 a2 =
      latchTouch (store s i a2 (readMem (s.st i).mem a1 (leAt d 24 3 * 32))) i k (moveDst d a2) := by
    simp [doMove, hlen, moveData, moveSrc, moveDst, rowsAt, hrows, hplain, readRows, readWords_of_clean hvalid hfree, writeRows,
      Nat.mul_comm 32]
  rw [heq]
  exact latchTouch_writes (store_writes_of_clean hvalid hfree ..) k _

/-- Settles O12: the destination takes the source's bytes, which the write leaves when the two share none. -/
theorem moveCopiesRow : Obligations.MoveCopiesRow := by
  intro s i k a1 a2 d hvalid hfree hplain hone _ t
  have writes : Writes i a2 _ s t := doMove_writes hvalid hfree hplain hone
  obtain ⟨others, hostMem, out, regs, setRegs⟩ := writes.keeps
  refine ⟨fun n hn => ?_, fun a ha => ?_, others, hostMem, out, regs, setRegs⟩
  · rw [writes.mem, length_readMem, if_pos (by omega), Nat.add_sub_cancel_left, getD_readMem hn]
  · rw [writes.mem, length_readMem, if_neg (by omega)]

/-! ## The zero fill (R139, R150) -/

/-- From `s` to `t` the bytes that `p` holds read zero, and nothing else of the set's memory and of the package moves. -/
structure Zeroes (i : SetId) (p : Nat → Prop) (s t : State) : Prop where
  zero : ∀ a, p a → SMap.get 0 (t.st i).mem a = 0
  kept : ∀ a, ¬p a → SMap.get 0 (t.st i).mem a = SMap.get 0 (s.st i).mem a
  keeps : KeepsBesidesMemory i s t

namespace Zeroes

variable {i : SetId} {p q : Nat → Prop} {s t u : State}

theorem none (i : SetId) (s : State) : Zeroes i (fun _ => False) s s := ⟨fun _ h => h.elim, fun _ _ => rfl, .refl i s⟩

theorem trans (h : Zeroes i p s t) (g : Zeroes i q t u) : Zeroes i (fun a => p a ∨ q a) s u := by
  refine ⟨fun a ha => ?_, fun a ha => ?_, h.keeps.trans g.keeps⟩
  · by_cases hq : q a
    · exact g.zero a hq
    · rw [g.kept a hq, h.zero a (ha.resolve_right hq)]
  · rw [not_or] at ha
    rw [g.kept a ha.2, h.kept a ha.1]

theorem congr (h : Zeroes i p s t) (hpq : ∀ a, p a ↔ q a) : Zeroes i q s t := by
  rwa [show q = p from funext fun a => (propext (hpq a)).symm]

end Zeroes

/-- A fold of fills zeroes what each of them does. -/
theorem foldl_zeroes {α : Type} {i : SetId} {f : State → α → State} {p : α → Nat → Prop} (l : List α)
    (hf : ∀ x ∈ l, ∀ s, (∀ n, fenced s i n = false) → Zeroes i (p x) s (f s x)) :
    ∀ s : State, (∀ n, fenced s i n = false) → Zeroes i (fun a => ∃ x ∈ l, p x a) s (l.foldl f s) := by
  induction l with
  | nil => exact fun s _ => (Zeroes.none i s).congr fun a => by simp
  | cons x l ih =>
    intro s hs
    have first := hf x (by simp) s hs
    have rest := ih (fun y hy => hf y (by simp [hy])) _ (first.keeps.unfenced hs)
    exact (first.trans rest).congr fun a => by simp

theorem zeroPiece_zeroes {s : State} {i : SetId} (hfree : ∀ n, fenced s i n = false) (a n : Nat) :
    Zeroes i (fun x => a ≤ x ∧ x < a + n) s (zeroPiece s i a n) := by
  unfold zeroPiece
  split
  · rename_i h
    obtain rfl : n = 0 := h.resolve_right (by simp [onFenced_of_unfenced hfree])
    exact (Zeroes.none i s).congr fun x => by simp
  · refine ⟨fun x hx => ?_, fun x hx => ?_, .onSet fun _ => rfl⟩
    · rw [State.st_onSet_same, get_zeroMem, if_pos hx]
    · rw [State.st_onSet_same, get_zeroMem, if_neg hx]

/-- The fill of a range that begins in HBM goes stack by stack to the end of HBM. -/
theorem zeroFill_zeroes {s : State} {i : SetId} (hfree : ∀ n, fenced s i n = false) {a : Nat} (ha : spaceOf a = .hbm) (n : Nat) :
    Zeroes i (fun x => a ≤ x ∧ x < a + n ∧ x < 0x90_0000_0000) s (zeroFill s i a n) := by
  rw [zeroFill, if_pos (by simp [ha])]
  refine (foldl_zeroes _ (fun k _ s hs => zeroPiece_zeroes hs _ _) s hfree).congr fun x => ?_
  constructor
  · rintro ⟨k, hk, hlo, hhi⟩
    rw [List.mem_range] at hk
    omega
  · rintro ⟨hlo, hhi, htop⟩
    exact ⟨x / 0x18_0000_0000, List.mem_range.2 (by omega), by omega, by omega⟩

/-- A job whose fill is done is FREE, and its HBM regions are filled. -/
theorem execTeardownFillDone_of_filling {s : State} {i : SetId} {j : JobId} {x : Teardown} (hteardown : teardownOf s i j.val = some x)
    (hstate : s.fld i .MEM_JOBj_STATE j.val = 2) (hfilling : x.filling = true) :
    execTeardownFillDone i j s = .next (setTeardown (((((fillRegions s i j.val).filter (·.hbm)).foldl
      (fun s r => zeroFill s i r.base r.size) s).setFld i .MEM_JOBj_FILL_LEFT j.val 0).setFld i .MEM_JOBj_STATE j.val 0) i j.val none) := by
  simp [execTeardownFillDone, hteardown, hstate, hfilling]

/-- Settles O15: each HBM region of the job is filled, and what follows the fill is no memory. -/
theorem teardownErasesHbm : Obligations.TeardownErasesHbm := by
  intro s i j x hteardown hstate hfilling hfree
  have fills : Zeroes i _ s (((fillRegions s i j).filter (·.hbm)).foldl (fun s r => zeroFill s i r.base r.size) s) :=
    foldl_zeroes _ (fun r hr s hs => zeroFill_zeroes hs (by simpa [Rgn.hbm] using (List.mem_filter.1 hr).2) _) s hfree
  refine ⟨_, execTeardownFillDone_of_filling hteardown hstate hfilling, fun a ha hr => ?_, fun a hr => ?_, fun y hy => ?_, ?_⟩
  · obtain ⟨r, hr, hhbm, hholds⟩ := hr
    simp only [Rgn.holds, Bool.and_eq_true, decide_eq_true_eq] at hholds
    simpa [setTeardown] using fills.zero a ⟨r, List.mem_filter.2 ⟨hr, hhbm⟩, hholds.1, hholds.2, ha⟩
  · simp only [setTeardown, State.st_onSet_same, st_setFld_same]
    refine fills.kept a fun ⟨r, hmem, hlo, hhi, _⟩ => hr ⟨r, (List.mem_filter.1 hmem).1, (List.mem_filter.1 hmem).2, ?_⟩
    simp [Rgn.holds, hlo, hhi]
  · simpa [setTeardown, hy] using fills.keeps.others y hy
  · simpa [setTeardown] using fills.keeps.out

end Sys2Proof.Machine
end

section
/-! PROOF. Frame headers as bytes, frames that stop a circle, turns that an unconfirmed commit holds, the places of a receive ring and the
queue of a counter (R192, R201, R204, R300, R315). -/

namespace Sys2Proof.Machine

/-! ## Frame headers (Table 7-3) -/

theorem FHdr.length_bytes (h : FHdr) : h.bytes.length = 32 := by simp [FHdr.bytes]

/-- Settles O20: each field is read behind the fields that stand before it in the header. -/
theorem frameHeaderRoundTrip : Obligations.FrameHeaderRoundTrip := by
  intro h rest hkind hflags howner hhops hlayer hstage htile hversion hepoch hrev hlen hpiece
  refine ⟨?_, h.length_bytes⟩
  have hrev := Nat.mod_eq_of_lt hrev
  have hlen := Nat.mod_eq_of_lt hlen
  have hpiece := Nat.mod_eq_of_lt hpiece
  norm_num at hrev hlen hpiece
  simp [fhdr, FHdr.bytes, List.append_assoc, leAt_leBytes_append_of_le, Nat.mod_eq_of_lt, *]

/-! ## Frames that arrive in service (R192, R201) -/

theorem circulates_iff {s : State} {i : SetId} : circulates s i = true ↔
    (circ s i).up = true ∧ (circ s i).fold = none ∧ promenade s i = false ∧ s.fld i .CIRC_STAT_STATE ≠ 5 ∧ (s.st i).lost = false := by
  simp [circulates, and_assoc]

/-- In service a well-formed frame goes to the meaning of its kind. -/
theorem frameArrives_of_circulates {s : State} {i : SetId} {raw : List Byte} (hcirc : circulates s i = true) (hok : hdrOk raw = true)
    (p : Nat) (bad : List Nat) (via : Option Nat) :
    frameArrives s i p raw bad via =
      if (fhdr raw).kind = 1 then tileArrives s i p (fhdr raw) (slice raw 32 (32 * (fhdr raw).len)) bad via
      else if (fhdr raw).kind = 2 then turnArrives s i p (fhdr raw) else s := by
  obtain ⟨hup, hfold, hprom, hstate, hlost⟩ := circulates_iff.1 hcirc
  simp [frameArrives, hup, hfold, hprom, hstate, hlost, hok]

theorem execTileFrame_of_circulates {s : State} {i : SetId} {raw : List Byte} (hcirc : circulates s i = true) (hok : hdrOk raw = true)
    (hkind : leAt raw 0 1 = 1) (p : Fin 2) (bad : List Nat) :
    execTileFrame i p raw bad s =
      .next (settle (circPump (tileArrives s i p.val (fhdr raw) (slice raw 32 (32 * (fhdr raw).len)) bad none) i) i) := by
  rw [execTileFrame, if_neg (by omega), frameArrives_of_circulates hcirc hok, if_pos (show (fhdr raw).kind = 1 from hkind)]

/-- Settles O17: the three checks follow one another in this order. -/
theorem wrongFramesStopCircle : Obligations.WrongFramesStopCircle := by
  intro s i p raw bad t hcirc hok hkind hlast
  dsimp only
  rw [show exec (.tileFrame i p raw bad) s = execTileFrame i p raw bad s from rfl, execTileFrame_of_circulates hcirc hok hkind, tileArrives,
    hlast]
  dsimp only
  refine ⟨fun hepoch => ?_, fun hepoch hrev => ?_, fun hepoch hrev hver => ?_⟩
  · rw [if_pos hepoch]
  · rw [if_neg (not_not.2 hepoch), if_pos hrev]
  · rw [if_neg (not_not.2 hepoch), if_neg (not_not.2 hrev), if_pos hver]

/-! ## Turns that a commit holds (R204) -/

theorem turnHeld_of_unconfirmed {s : State} {i : SetId} {c : Change} {n : Nat} (hchg : (circ s i).chg = some c) (hconf : c.confirmed = false)
    (hn : c.s ≤ n) : turnHeld s i n = true := by
  simp [turnHeld, hchg, hconf, hn]

/-- Settles O18: both commands ask `turnHeld` of the turn that they would send or handle. -/
theorem unconfirmedCommitHoldsTurns : Obligations.UnconfirmedCommitHoldsTurns := by
  intro s i p c hchg hconf
  refine ⟨fun hn => ?_, fun hn => ?_⟩
  · have held := turnHeld_of_unconfirmed hchg hconf hn
    exact if_neg fun ⟨_, _, _, _, hfree, _⟩ => by simp [held] at hfree
  · have held := turnHeld_of_unconfirmed hchg hconf hn
    exact if_neg fun ⟨_, hready⟩ => by simp [turnReady, held] at hready

/-! ## Receive rings (R315) -/

/-- Settles O33: in each of the three placements the message and its pad lie between the tail and the head. -/
theorem ringKeepsUnread : Obligations.RingKeepsUnread := by
  intro size head tail used l pad off hhead htail hempty hplace
  unfold ringPlace at hplace
  dsimp only
  split at hplace
  · rename_i hwrapped
    split at hplace <;> simp at hplace
    obtain ⟨rfl, rfl⟩ := hplace
    refine ⟨by omega, .inl ⟨rfl, rfl⟩, ?_, ?_⟩ <;> intro u <;> split <;> omega
  · rename_i hahead
    split at hplace
    · simp at hplace
      obtain ⟨rfl, rfl⟩ := hplace
      refine ⟨by omega, .inl ⟨rfl, rfl⟩, ?_, ?_⟩ <;> intro u <;> split <;> omega
    · split at hplace <;> simp at hplace
      obtain ⟨rfl, rfl⟩ := hplace
      refine ⟨by omega, .inr ⟨rfl, rfl⟩, ?_, ?_⟩ <;> intro u <;> split <;> omega

/-! ## The queue of a counter (R300) -/

/-- The registers that show a counter's queue. -/
theorem showWaiters_eq (s : State) (i : SetId) (p : Nat) : ∃ c n h, showWaiters s i p =
    (((s.setFld i .SYNC_CTRp_1_WAITERS p (min (SMap.get [] (s.st i).waiters p).length 1023)).setFld i .SYNC_CTRp_2_FW_CORE p c).setFld i
      .SYNC_CTRp_2_FW_SLOT p n).setFld i .SYNC_CTRp_2_FW_HOST p h := by
  unfold showWaiters
  dsimp only
  split <;> exact ⟨_, _, _, rfl⟩

theorem waiters_setWaiters (s : State) (i : SetId) (p : Nat) (q : List Waiter) : SMap.get [] ((setWaiters s i p q).st i).waiters p = q := by
  unfold setWaiters
  obtain ⟨c, n, h, heq⟩ := showWaiters_eq (s.onSet i fun t => { t with waiters := SMap.put [] t.waiters p q }) i p
  rw [heq]
  simp

theorem value_setWaiters (s : State) (i : SetId) (p : Nat) (q : List Waiter) :
    (setWaiters s i p q).fld i .SYNC_CTRp_1_VALUE p = s.fld i .SYNC_CTRp_1_VALUE p := by
  unfold setWaiters
  obtain ⟨c, n, h, heq⟩ := showWaiters_eq (s.onSet i fun t => { t with waiters := SMap.put [] t.waiters p q }) i p
  rw [heq]
  simp [fld_onSet_of_regs]

theorem count_setWaiters (s : State) (i : SetId) (p : Nat) (q : List Waiter) :
    (setWaiters s i p q).fld i .SYNC_CTRp_1_WAITERS p = min q.length 1023 := by
  unfold setWaiters
  obtain ⟨c, n, h, heq⟩ := showWaiters_eq (s.onSet i fun t => { t with waiters := SMap.put [] t.waiters p q }) i p
  rw [heq]
  have hfits : min q.length 1023 % 2 ^ Field.SYNC_CTRp_1_WAITERS.info.len = min q.length 1023 :=
    Nat.mod_eq_of_lt (show min q.length 1023 < 1024 by omega)
  simpa using hfits

/-- Settles O30: with no waiter the wait is the whole queue, which is served; behind others it stands last. -/
theorem waitOrder : Obligations.WaitOrder := by
  intro s i p k n m
  refine ⟨fun hempty hcovers => ?_, fun hwaits => ?_⟩
  · simp [enqueue, hempty, serveList, Waiter.amount, hcovers, satisfy]
  · have joins : enqueue s i p (.slot k n m) = setWaiters s i p (SMap.get [] (s.st i).waiters p ++ [.slot k n m]) := by
      unfold enqueue
      cases hq : SMap.get [] (s.st i).waiters p with
      | nil =>
        have hshort : s.fld i .SYNC_CTRp_1_VALUE p < m := hwaits.resolve_left fun h => h hq
        simp [serveList, Waiter.amount, hshort.not_ge]
      | cons w q => rfl
    have count := count_setWaiters s i p (SMap.get [] (s.st i).waiters p ++ [.slot k n m])
    rw [List.length_append, List.length_singleton] at count
    rw [joins]
    exact ⟨waiters_setWaiters .., value_setWaiters .., count⟩

end Sys2Proof.Machine
end

section
/-! PROOF. The combination of partial results does not depend on the order in which the units finished (R240, R242). -/

namespace Sys2Proof.Machine

/-- What `find?` finds where one element at most is sought. -/
theorem find?_eq_some_iff_of_unique {α : Type} {l : List α} {q : α → Bool} (hone : ∀ x ∈ l, ∀ y ∈ l, q x → q y → x = y) {p : α} :
    l.find? q = some p ↔ p ∈ l ∧ q p := by
  refine ⟨fun h => ⟨List.mem_of_find?_eq_some h, List.find?_some h⟩, fun ⟨hmem, hp⟩ => ?_⟩
  obtain ⟨r, hr⟩ := Option.isSome_iff_exists.1 (List.find?_isSome.2 ⟨p, hmem, hp⟩)
  rw [hr, hone r (List.mem_of_find?_eq_some hr) p hmem (List.find?_some hr) hp]

theorem find?_eq_of_perm {α : Type} {l m : List α} {q : α → Bool} (hperm : l.Perm m) (hone : ∀ x ∈ l, ∀ y ∈ l, q x → q y → x = y) :
    l.find? q = m.find? q := by
  have hone' : ∀ x ∈ m, ∀ y ∈ m, q x → q y → x = y := fun x hx y hy => hone x (hperm.mem_iff.2 hx) y (hperm.mem_iff.2 hy)
  ext p
  rw [find?_eq_some_iff_of_unique hone, find?_eq_some_iff_of_unique hone', hperm.mem_iff]

/-- The results of a row and query head, block after block, do not depend on the order in which they are kept. -/
theorem partsOf_eq_of_perm {a b : Share} (hperm : a.parts.Perm b.parts) (hone : (a.parts.map fun p => (p.row, p.qhead, p.block)).Nodup)
    (row head : Nat) : partsOf a row head = partsOf b row head := by
  have hperm := hperm.filter fun p => decide (p.row = row ∧ p.qhead = head)
  have hblock : ∀ n, ∀ x ∈ a.parts.filter (fun p => decide (p.row = row ∧ p.qhead = head)),
      ∀ y ∈ a.parts.filter (fun p => decide (p.row = row ∧ p.qhead = head)),
      decide (x.block = n) = true → decide (y.block = n) = true → x = y := by
    intro n x hx y hy hxn hyn
    simp only [List.mem_filter, decide_eq_true_eq] at hx hy hxn hyn
    exact List.inj_on_of_nodup_map hone hx.1 hy.1 (by simp [hx.2, hy.2, hxn, hyn])
  unfold partsOf
  dsimp only
  rw [hperm.foldl_eq' fun _ _ _ _ _ => by omega]
  exact List.filterMap_congr fun n _ => by rw [find?_eq_of_perm hperm (hblock n)]

/-- Settles O24: equal lists of results in block order combine to equal outputs. -/
theorem partsCombineInBlockOrder : Obligations.PartsCombineInBlockOrder := by
  intro a b row head ofmt hperm hone
  rw [partsOf_eq_of_perm hperm hone]

end Sys2Proof.Machine
end

section
/-! PROOF. The exchange that carries fabric time, holdover, and the rate at which time runs (R344 to R346). -/

namespace Sys2Proof.Machine

section
variable (s : State) (i : SetId)

/-! ## What an update of a port's link leaves to the exchange -/

@[simp] theorem altParent_onLink (p : Nat) (f : LinkPort → LinkPort) : ((onLink s i p f).st i).altParent = (s.st i).altParent := by
  simp [onLink]

@[simp] theorem parentPort_onLink (p : Nat) (f : LinkPort → LinkPort) : parentPort (onLink s i p f) i = parentPort s i := by
  have hport : ∀ n, physPort (onLink s i p f) i n = physPort s i n := fun n => by simp [physPort]
  unfold parentPort
  rw [funext hport]
  simp [parentCode]

@[simp] theorem portState_onLink (p q : Nat) (f : LinkPort → LinkPort) : portState (onLink s i p f) i q = portState s i q := by
  simp [portState]

@[simp] theorem slew_onLink (p : Nat) (f : LinkPort → LinkPort) : ((onLink s i p f).st i).slew = (s.st i).slew := by simp [onLink]

@[simp] theorem time_onLink (p : Nat) (f : LinkPort → LinkPort) : (onLink s i p f).time i = s.time i := fld_onLink ..

end

/-! ## The answer that ends an exchange (R344, R345) -/

/-- The port's link once the exchange has ended: a port in IDENT keeps the time of flight (R336). -/
def exchangeEnded (s : State) (i : SetId) (p tof : Nat) : State :=
  if portState s i p = 5 then onLink (onLink s i p fun l => { l with exch := none }) i p fun l => { l with tof := tof }
  else onLink s i p fun l => { l with exch := none }

/-- OFFSET and DELAY as an exchange gives them. -/
def exchangeShown (s : State) (i : SetId) (offset : Int) (delay : Nat) : State :=
  (s.setFld i .LINK_FT_STAT_OFFSET 0 (unsigned 16 offset)).setFld i .LINK_FT_STAT_DELAY 0 delay

section
variable (s : State) (i : SetId) (p tof : Nat)

@[simp] theorem fld_exchangeEnded (j : SetId) (g : Field) (x : Nat) : (exchangeEnded s i p tof).fld j g x = s.fld j g x := by
  unfold exchangeEnded
  split <;> simp

@[simp] theorem out_exchangeEnded : (exchangeEnded s i p tof).out = s.out := by
  unfold exchangeEnded
  split <;> simp

@[simp] theorem slew_exchangeEnded : ((exchangeEnded s i p tof).st i).slew = (s.st i).slew := by
  unfold exchangeEnded
  split <;> simp

@[simp] theorem parentPort_exchangeEnded : parentPort (exchangeEnded s i p tof) i = parentPort s i := by
  unfold exchangeEnded
  split <;> simp

@[simp] theorem exch_exchangeEnded : (lport (exchangeEnded s i p tof) i p).exch = none := by
  unfold exchangeEnded
  split <;> simp

theorem tof_exchangeEnded (h : portState s i p = 5) : (lport (exchangeEnded s i p tof) i p).tof = tof := by
  simp [exchangeEnded, h]

@[simp] theorem fld_exchangeShown (o : Int) (d : Nat) {g : Field} (h : g ≠ .LINK_FT_STAT_OFFSET) (h' : g ≠ .LINK_FT_STAT_DELAY) (x : Nat) :
    (exchangeShown s i o d).fld i g x = s.fld i g x := by
  simp [exchangeShown, h, h']

end

theorem unsigned_lt (n : Nat) (v : Int) : unsigned n v < 2 ^ n := by
  have hpos : (0 : Int) < 2 ^ n := by positivity
  rw [unsigned, Int.toNat_lt (Int.emod_nonneg v hpos.ne')]
  exact_mod_cast Int.emod_lt_of_pos v hpos

theorem lport_onSet_of_links (s : State) (i : SetId) {f : SetSt → SetSt} (hf : ∀ t, (f t).links = t.links) (p : Nat) :
    lport (s.onSet i f) i p = lport s i p := by simp [lport, hf]

/-- An answer that fits its exchange, from the port that gives the set its time, steps the time at the first lock and slews it later. -/
theorem timeDresp_of_exchange {s : State} {i : SetId} {p seq t1 t2 t3 : Nat} (hexch : (lport s i p).exch = some (seq, t1, t2, t3))
    (hparent : parentPort s i = some p) (hstate : s.fld i .LINK_FT_STAT_STATE ≠ 3) (htrim : featOn s i p 6 = false) (t4 : Nat) :
    let offset : Int := 5 * (((t2 : Int) - t1) - ((t4 : Int) - t3))
    let delay := ((((t2 : Int) - t1) + ((t4 : Int) - t3)) / 2).toNat
    let u := exchangeShown (exchangeEnded s i p delay) i offset delay
    timeDresp s i p seq t4 = (if s.fld i .LINK_FT_STAT_STATE = 0
      then u.setFld i .LINK_FT_TIME 0 (unsigned 64 ((s.time i : Int) - Int.tdiv offset 10))
      else u.onSet i fun t => { t with slew := -offset }).setFld i .LINK_FT_STAT_STATE 0 1 := by
  intro offset delay u
  have takes : takesTime (exchangeEnded s i p delay) i p = true := by simp [takesTime, hparent, hstate]
  have notrim : featOn (exchangeEnded s i p delay) i p 6 = false := by rw [featOn, fld_exchangeEnded]; exact htrim
  unfold timeDresp
  rw [hexch]
  dsimp only
  rw [portState_onLink]
  simp only [true_and]
  change (if seq ≠ seq ∨ (!takesTime (exchangeEnded s i p delay) i p) = true then exchangeEnded s i p delay
    else
      let trim := if featOn (exchangeEnded s i p delay) i p 6 then asymTrim (exchangeEnded s i p delay) i p else 0
      let o := offset - Int.tdiv trim 10
      let v := exchangeShown (exchangeEnded s i p delay) i o delay
      if v.fld i .LINK_FT_STAT_STATE = 0 then
        (v.setFld i .LINK_FT_TIME 0 (unsigned 64 ((v.time i : Int) - Int.tdiv o 10))).setFld i .LINK_FT_STAT_STATE 0 1
      else (v.onSet i fun t => { t with slew := -o }).setFld i .LINK_FT_STAT_STATE 0 1) = _
  have htime : ∀ o, (exchangeShown (exchangeEnded s i p delay) i o delay).time i = s.time i := fun o => by simp [State.time]
  simp only [takes, notrim, htime, apply_ite (fun v : State => v.setFld i .LINK_FT_STAT_STATE 0 1)]
  simp [u]

/-! ## The rate of time (R345) -/

/-- A microsecond of slewing moves time by at most 1 ns, a tenth of which it takes from what is left to slew at a time. -/
theorem tickTime_facts (s : State) (i : SetId) (hlow : -10 < (s.st i).slewFrac) (hhigh : (s.st i).slewFrac < 10)
    (hmax : s.time i + 1001 < 2 ^ 64) : ∃ d c : Int, (d = -1 ∨ d = 0 ∨ d = 1) ∧ (c = -1 ∨ c = 0 ∨ c = 1) ∧
      ((tickTime s i).time i : Int) = s.time i + 1000 + c ∧ ((tickTime s i).st i).slewFrac = (s.st i).slewFrac + d - 10 * c ∧
      -10 < (s.st i).slewFrac + d - 10 * c ∧ (s.st i).slewFrac + d - 10 * c < 10 := by
  unfold tickTime
  extract_lets d f c t u
  have hd : d = -1 ∨ d = 0 ∨ d = 1 := by unfold d; split <;> [skip; split] <;> simp
  have hf : f = (s.st i).slewFrac + d := rfl
  have hc : c = 1 ∧ f = 10 ∨ c = -1 ∧ f = -10 ∨ c = 0 ∧ f ≠ 10 ∧ f ≠ -10 := by unfold c; split <;> [skip; split] <;> simp_all
  have htime : u.time i = s.time i := by
    have held : u.time i = t.time i := foldl_keeps (fun s : State => s.time i) (fun s l => by simp [State.addFld, State.time]) _ t
    rw [held]
    exact fld_onSet_of_regs s i (by intro; rfl) ..
  have hfrac : (u.st i).slewFrac = f - 10 * c := by
    have held : (u.st i).slewFrac = (t.st i).slewFrac :=
      foldl_keeps (fun s : State => (s.st i).slewFrac) (fun s l => by simp [State.addFld]) _ t
    rw [held, State.st_onSet_same]
  have hwide : Field.LINK_FT_TIME.info.len = 64 := rfl
  refine ⟨d, c, hd, by omega, ?_, by simpa using by omega, by omega, by omega⟩
  rw [State.time, State.fld_setFld_same, htime, hwide]
  omega

/-! ## The statement -/

/-- Settles O38: the flits of the exchange are the commands' own, `timeDresp_of_exchange` says what its end does, and a microsecond adds
1,000 ns and at most one of slew. -/
theorem timeExchange : Obligations.TimeExchange := by
  refine ⟨⟨fun s i p hlow hhigh seq t1 hseq => ⟨?_, ?_, fun hparent hstate => ?_⟩, fun s i p seq t1 t2 t3 t4 hseq hexch hparent hstate htrim => ?_,
    fun s i hrank hlost => ?_, fun s i hstate => ⟨?_, fun hup => ?_, fun hdown => ?_⟩⟩, fun s i hlow hhigh hmax => ?_⟩
  · change execTimeExchangeTick i p s = _
    rw [execTimeExchangeTick, if_neg (by omega)]
  · change Host.Outcome.next (timeDreq s i p.val (seq % 256)) = _
    rw [Nat.mod_eq_of_lt hseq, timeDreq, if_neg (by omega)]
  · change Host.Outcome.next (timeSync s i p.val (seq % 256) t1) = _
    have takes : takesTime s i p.val = true := by simp [takesTime, hparent, hstate]
    rw [Nat.mod_eq_of_lt hseq, timeSync, if_neg (by simp [takes]; omega)]
  · refine ⟨_, rfl, ?_⟩
    rw [Nat.mod_eq_of_lt hseq, timeDresp_of_exchange hexch hparent hstate htrim]
    have hoffset : unsigned 16 (5 * (((t2 : Int) - t1) - ((t4 : Int) - t3))) < 65536 := unsigned_lt 16 _
    have offsetLen : Field.LINK_FT_STAT_OFFSET.info.len = 16 := rfl
    have delayLen : Field.LINK_FT_STAT_DELAY.info.len = 12 := rfl
    have stateLen : Field.LINK_FT_STAT_STATE.info.len = 2 := rfl
    have timeLen : Field.LINK_FT_TIME.info.len = 64 := rfl
    refine ⟨?_, ?_, ?_, ?_, ?_, fun hident => ?_, fun hfirst => ?_, fun hlater => ?_⟩
    · split <;> simp [exchangeShown, fld_onSet_of_regs, offsetLen, hoffset]
    · split <;> simp [exchangeShown, fld_onSet_of_regs, delayLen]
    · simp [stateLen]
    · split <;> simp [exchangeShown, lport_onSet_of_links]
    · split <;> simp [exchangeShown]
    · split <;> simp [exchangeShown, lport_onSet_of_links, tof_exchangeEnded, hident]
    · have htime := Nat.mod_eq_of_lt (unsigned_lt 64 ((s.time i : Int) - Int.tdiv (5 * (((t2 : Int) - t1) - ((t4 : Int) - t3))) 10))
      refine ⟨?_, by simp [hfirst, exchangeShown]⟩
      rw [if_pos hfirst, State.time, State.fld_setFld_ne _ _ (by simp), State.fld_setFld_same, timeLen, htime]
    · simp [hlater, State.time, fld_onSet_of_regs]
  · change execTimeAltParent i true s = _
    simp [execTimeAltParent, hrank, hlost]
  · change Host.Outcome.next _ = _
    rw [if_pos hstate]
  · change execTimeAltParent i false s = _
    rw [execTimeAltParent, if_neg (by simp [hstate]), if_neg (by simp), if_neg (by simp [hstate])]
    exact if_pos hup
  · change execTimeAltParent i false s = _
    rw [execTimeAltParent, if_neg (by simp [hstate]), if_neg (by simp), if_neg (by simp [hstate])]
    exact if_neg (by simp [hdown])
  · obtain ⟨d, c, hd, hc, htime, hfrac, hlow', hhigh'⟩ := tickTime_facts s i hlow hhigh hmax
    rw [hfrac]
    omega

end Sys2Proof.Machine
end

section
/-! PROOF. The ramp limiter of a compute die (R48, R87). -/

namespace Sys2Proof.Machine

/-- From `s` to `t` nothing moves that the limiter leaves: memory, messages, package registers, and every register of the set but IDLE and
MARKING of the arrays. -/
structure KeepsBesidesArrays (i : SetId) (s t : State) : Prop where
  mem : (t.st i).mem = (s.st i).mem
  out : t.out = s.out
  regs : t.regs = s.regs

theorem KeepsBesidesArrays.refl (i : SetId) (s : State) : KeepsBesidesArrays i s s := ⟨rfl, rfl, rfl⟩

theorem KeepsBesidesArrays.trans {i : SetId} {s t u : State} (h : KeepsBesidesArrays i s t) (k : KeepsBesidesArrays i t u) :
    KeepsBesidesArrays i s u := ⟨k.mem.trans h.mem, k.out.trans h.out, k.regs.trans h.regs⟩

section
variable (s : State) (i : SetId) (d : Nat) (q : List Nat)

@[simp] theorem leaveQueue_setFld (f : Field) (x v : Nat) : leaveQueue (s.setFld i f x v) i d = leaveQueue s i d := by simp [leaveQueue]

@[simp] theorem enterQueue_setFld (f : Field) (x v : Nat) : enterQueue (s.setFld i f x v) i d = enterQueue s i d := by simp [enterQueue]

@[simp] theorem leaveQueue_setLeave : leaveQueue (setLeave s i d q) i d = q := by simp [leaveQueue, setLeave]

@[simp] theorem enterQueue_setLeave : enterQueue (setLeave s i d q) i d = enterQueue s i d := by simp [enterQueue, setLeave]

@[simp] theorem enterQueue_setEnter : enterQueue (setEnter s i d q) i d = q := by simp [enterQueue, setEnter]

@[simp] theorem leaveQueue_setEnter : leaveQueue (setEnter s i d q) i d = leaveQueue s i d := by simp [leaveQueue, setEnter]

@[simp] theorem fld_setLeave (f : Field) (x : Nat) : (setLeave s i d q).fld i f x = s.fld i f x := fld_onSet_of_regs s i (by intro; rfl) ..

@[simp] theorem fld_setEnter (f : Field) (x : Nat) : (setEnter s i d q).fld i f x = s.fld i f x := fld_onSet_of_regs s i (by intro; rfl) ..

theorem setFld_keepsBesidesArrays (f : Field) (x v : Nat) : KeepsBesidesArrays i s (s.setFld i f x v) := ⟨by simp, by simp, by simp⟩

theorem setLeave_keepsBesidesArrays : KeepsBesidesArrays i s (setLeave s i d q) := ⟨by simp [setLeave], by simp [setLeave], by simp [setLeave]⟩

theorem setEnter_keepsBesidesArrays : KeepsBesidesArrays i s (setEnter s i d q) := ⟨by simp [setEnter], by simp [setEnter], by simp [setEnter]⟩

end

/-! ## Groups of four (R48) -/

/-- Arrays that take the same IDLE, one after another. -/
theorem fld_foldl_idle {i : SetId} {v : Nat} {f : State → Nat → State} (hsame : ∀ s x, (f s x).fld i .ARR_STATp_IDLE x = v)
    (hother : ∀ s x y, y ≠ x → (f s x).fld i .ARR_STATp_IDLE y = s.fld i .ARR_STATp_IDLE y) (l : List Nat) (y : Nat) :
    ∀ s : State, (l.foldl f s).fld i .ARR_STATp_IDLE y = if y ∈ l then v else s.fld i .ARR_STATp_IDLE y := by
  induction l with
  | nil => simp
  | cons x l ih =>
    intro s
    rw [List.foldl_cons, ih]
    by_cases hy : y ∈ l
    · simp [hy]
    · by_cases hx : y = x
      · simp [hx, hsame]
      · simp [hx, hy, hother s x y hx]

theorem foldl_keepsBesidesArrays {α : Type} {i : SetId} {f : State → α → State} (hf : ∀ s x, KeepsBesidesArrays i s (f s x)) (l : List α) :
    ∀ s : State, KeepsBesidesArrays i s (l.foldl f s) := by
  induction l with
  | nil => exact .refl i
  | cons x l ih => exact fun s => (hf s x).trans (ih _)

/-! ## Arrays that are due to enter idle (R87) -/

/-- One array's request to enter idle. -/
def arrayToIdle (i : SetId) (d k : Nat) (s : State) (p : Nat) : State :=
  let x := 2 * k + p
  let s := setLeave s i d ((leaveQueue s i d).filter (· != x))
  if s.fld i .ARR_STATp_IDLE x = 1 ∨ (enterQueue s i d).contains x then s
  else setEnter (s.setFld i .ARR_STATp_MARKING x 1) i d (enterQueue s i d ++ [x])

theorem arraysToIdle_eq (s : State) (i : SetId) (k : Nat) : arraysToIdle s i k = (coreArrays s i k).foldl (arrayToIdle i (dieOf k) k) s := rfl

section
variable (s : State) (i : SetId) (d k p : Nat)

theorem arrayToIdle_keeps : KeepsBesidesArrays i s (arrayToIdle i d k s p) := by
  unfold arrayToIdle
  dsimp only
  split
  · exact setLeave_keepsBesidesArrays ..
  · exact (setLeave_keepsBesidesArrays ..).trans ((setFld_keepsBesidesArrays ..).trans (setEnter_keepsBesidesArrays ..))

theorem idle_arrayToIdle (x : Nat) : (arrayToIdle i d k s p).fld i .ARR_STATp_IDLE x = s.fld i .ARR_STATp_IDLE x := by
  unfold arrayToIdle
  dsimp only
  split <;> simp

/-- The queue only grows, by an array that is not idle and does not stand in it. -/
theorem enterQueue_arrayToIdle : ∃ l, enterQueue (arrayToIdle i d k s p) i d = enterQueue s i d ++ l ∧
    (s.fld i .ARR_STATp_IDLE (2 * k + p) = 0 → 2 * k + p ∈ enterQueue s i d ++ l) := by
  unfold arrayToIdle
  dsimp only
  split
  · rename_i h
    refine ⟨[], by simp, fun hwork => ?_⟩
    simpa [hwork] using h
  · exact ⟨[2 * k + p], by simp, fun _ => by simp⟩

end

theorem foldl_arrayToIdle (i : SetId) (d k : Nat) (l : List Nat) : ∀ s : State,
    (∀ x ∈ enterQueue s i d, x ∈ enterQueue (l.foldl (arrayToIdle i d k) s) i d) ∧
    (∀ p ∈ l, s.fld i .ARR_STATp_IDLE (2 * k + p) = 0 → 2 * k + p ∈ enterQueue (l.foldl (arrayToIdle i d k) s) i d) := by
  induction l with
  | nil => simp
  | cons q l ih =>
    intro s
    obtain ⟨grows, joins⟩ := ih (arrayToIdle i d k s q)
    obtain ⟨m, hqueue, hself⟩ := enterQueue_arrayToIdle s i d k q
    refine ⟨fun x hx => grows x (by rw [hqueue]; exact List.mem_append_left _ hx), fun p hp hwork => ?_⟩
    rcases List.mem_cons.1 hp with rfl | hp
    · exact grows _ (by rw [hqueue]; exact hself hwork)
    · exact joins p hp (by rw [idle_arrayToIdle, hwork])

/-- Settles O5: the groups are folds over the first four of a queue, and every array that works joins the entering-idle queue once. -/
theorem rampLimiter : Obligations.RampLimiter := by
  refine ⟨fun s i d => ⟨_, rfl, ?_, fun x => ?_, ?_, ?_⟩, fun s i d => ⟨_, rfl, ?_, fun x => ?_, ?_, ?_⟩, fun s i k hempty => ?_⟩
  · rw [foldl_keeps (fun s => leaveQueue s i d.val) (fun s x => leaveQueue_setFld ..), leaveQueue_setLeave]
  · rw [fld_foldl_idle (v := 0) (by simp) (by simp_all), fld_setLeave]
  · rw [foldl_keeps (fun s => enterQueue s i d.val) (fun s x => enterQueue_setFld ..), enterQueue_setLeave]
  · have kept := (setLeave_keepsBesidesArrays s i d.val ((leaveQueue s i d.val).drop 4)).trans
      (foldl_keepsBesidesArrays (fun s x => setFld_keepsBesidesArrays s i .ARR_STATp_IDLE x 0) ((leaveQueue s i d.val).take 4) _)
    exact ⟨kept.mem, kept.out, kept.regs⟩
  · rw [foldl_keeps (fun s => enterQueue s i d.val) (fun s x => by simp), enterQueue_setEnter]
  · rw [fld_foldl_idle (v := 1) (by simp [show Field.ARR_STATp_IDLE.info.len = 1 from rfl]) (by simp_all), fld_setEnter]
  · rw [foldl_keeps (fun s => leaveQueue s i d.val) (fun s x => by simp), leaveQueue_setEnter]
  · have kept := (setEnter_keepsBesidesArrays s i d.val ((enterQueue s i d.val).drop 4)).trans
      (foldl_keepsBesidesArrays (fun s x => (setFld_keepsBesidesArrays s i .ARR_STATp_MARKING x 0).trans
        (setFld_keepsBesidesArrays _ i .ARR_STATp_IDLE x 1)) ((enterQueue s i d.val).take 4) _)
    exact ⟨kept.mem, kept.out, kept.regs⟩
  · have kept := foldl_keepsBesidesArrays (arrayToIdle_keeps · i (dieOf k.val) k.val ·) (coreArrays s i k.val) s
    refine ⟨arraysToIdle s i k.val, ?_, fun p hp hwork => ⟨?_, ?_⟩, kept.mem, kept.out, kept.regs⟩
    · change Host.Outcome.next _ = _
      rw [if_pos (by simp [hempty])]
    · exact (foldl_arrayToIdle i (dieOf k.val) k.val (coreArrays s i k.val) s).2 p hp hwork
    · rw [arraysToIdle_eq, foldl_keeps (fun s : State => s.fld i .ARR_STATp_IDLE (2 * k.val + p)) (fun s q => idle_arrayToIdle ..), hwork]

end Sys2Proof.Machine
end

section
/-! PROOF. What an issue event does when every check passes: the entry in the unit's queue, the scoreboard, and the slot that goes on (R62 to R75,
R130). -/

namespace Sys2Proof.Machine

/-! ## Unit queues -/

theorem Core.queue_setQueue_same (c : Core) (u : Nat) (q : List QEnt) : (c.setQueue u q).queue u = q := by
  unfold Core.queue Core.setQueue
  by_cases h0 : u = 0
  · simp [h0]
  by_cases h1 : u = 1
  · simp [h1]
  by_cases h2 : u = 2
  · simp [h2]
  by_cases h3 : u = 3
  · simp [h3]
  simp [h0, h1, h2, h3]

theorem Core.queue_setQueue_ne (c : Core) {u v : Nat} (q : List QEnt) (hu : u < 5) (hv : v < 5) (h : v ≠ u) :
    (c.setQueue u q).queue v = c.queue v := by
  interval_cases u <;> interval_cases v <;> first | exact absurd rfl h | rfl

theorem DType.unit_lt {t : DType} {u : Nat} (h : t.unit = some u) : u < 5 := by
  cases t <;> simp [DType.unit] at h <;> omega

/-! ## The entry made at issue (R65, R130) -/

section
variable (s : State) (i : SetId) (k : Nat)

@[simp] theorem core_showSb : (showSb s i k).core i k = s.core i k := by simp [showSb]

@[simp] theorem mem_showSb : ((showSb s i k).st i).mem = (s.st i).mem := by simp [showSb]

@[simp] theorem out_showSb : (showSb s i k).out = s.out := by simp [showSb]

@[simp] theorem regs_showSb : (showSb s i k).regs = s.regs := by simp [showSb]

@[simp] theorem mem_onCore (f : Core → Core) : ((s.onCore i k f).st i).mem = (s.st i).mem := by simp [State.onCore]

@[simp] theorem mem_onSlot (n : Nat) (f : Slot → Slot) : ((s.onSlot i k n f).st i).mem = (s.st i).mem := mem_onCore ..

/-- A core that has taken an entry: it stands last in its unit's queue, and its written operands stand last on the scoreboard. -/
def Core.withEntry (c : Core) (u : Nat) (e : QEnt) (l : List (Nat × Nat)) : Core :=
  { (c.setQueue u (c.queue u ++ [e])) with nextId := c.nextId + 1, sb := c.sb ++ l.map fun r => { lo := r.1, hi := r.2, owner := some e.id } }

theorem core_place (n j pc u : Nat) (t : DType) (x : Issued) : ∃ g b, (place s i k n j pc u t x).1.core i k =
    Core.withEntry { s.core i k with gap := g, gapDue := b } u (place s i k n j pc u t x).2 (sbEntries t x) := by
  unfold place
  by_cases hu : u = 0
  · exact ⟨dGap x.d, true, by simp [hu, Core.withEntry]⟩
  · exact ⟨(s.core i k).gap, (s.core i k).gapDue, by simp [hu, Core.withEntry]⟩

theorem place_keeps (n j pc u : Nat) (t : DType) (x : Issued) :
    ((place s i k n j pc u t x).1.st i).mem = (s.st i).mem ∧ (place s i k n j pc u t x).1.out = s.out ∧
      (place s i k n j pc u t x).1.regs = s.regs := by
  unfold place
  by_cases hu : u = 0 <;> simp [hu]

/-! ## The slot goes on (R63, R68) -/

@[simp] theorem core_advance (n pc : Nat) (d : List Byte) : (advance s i k n pc d).core i k =
    { s.core i k with slots := SMap.upd {} (s.core i k).slots n fun t => { t with prefetch := t.prefetch.drop 1 }, rr := n } := by
  simp [advance, State.onSlot]

theorem advance_keeps (n pc : Nat) (d : List Byte) :
    ((advance s i k n pc d).st i).mem = (s.st i).mem ∧ (advance s i k n pc d).out = s.out ∧ (advance s i k n pc d).regs = s.regs := by
  simp [advance]

theorem pc_advance (n pc : Nat) (d : List Byte) :
    (advance s i k n pc d).fld i .CORE_SLOTn_PC_PC (slotIx k n) = (pc + 64) % 2 ^ Field.CORE_SLOTn_PC_PC.info.len := by
  simp [advance]

theorem tag_advance (n pc : Nat) (d : List Byte) : (advance s i k n pc d).fld i .CORE_SLOTn_STAT_TAG (slotIx k n) = leAt d 6 2 % 2 ^ 16 := by
  simp [advance, dTag, show Field.CORE_SLOTn_STAT_TAG.info.len = 16 from rfl]

end

/-! ## The issue event -/

section
variable {s : State} {ev : Issue} {t : DType} {n pc : Nat} {d : List Byte} {x : Issued}

theorem issueEvent_of_issuesAt (h : IssuesAt s ev t n pc d x) : issueEvent t ev s = issueFrom s ev.set ev.core.val n pc t d := by
  obtain ⟨hquiet, hlive, hruns, hturn, hhead, hheld, hagree, htype, -⟩ := h
  obtain ⟨q, hq⟩ : ∃ q, (s.slot ev.set ev.core.val n).prefetch = (pc, d) :: q := by
    cases hp : (s.slot ev.set ev.core.val n).prefetch with
    | nil => simp [hp] at hhead
    | cons a q => exact ⟨q, by simpa [hp] using hhead⟩
  simp [issueEvent, hquiet, hlive, hruns, hturn, hq, hheld, hagree, htype]

theorem issueFrom_of_unit {u : Nat} (hu : t.unit = some u) (h : IssuesAt s ev t n pc d x) :
    issueFrom s ev.set ev.core.val n pc t d = (issuedState s ev t n pc d x, some (queueEntry s ev t n pc x)) := by
  have hgo := h.checks
  unfold issueFrom
  dsimp only
  rw [hgo]
  cases t <;> first | rfl | simp [DType.unit] at hu

theorem issueEvent_of_unit {u : Nat} (hu : t.unit = some u) (h : IssuesAt s ev t n pc d x) :
    issueEvent t ev s = (issuedState s ev t n pc d x, some (queueEntry s ev t n pc x)) := by
  rw [issueEvent_of_issuesAt h, issueFrom_of_unit hu h]

end

/-- Settles O6: what `place` and `advance` do to the core, one behind the other. -/
theorem issueEntersQueue : Obligations.IssueEntersQueue := by
  intro s ev t u n pc d x hu hissues e r
  obtain ⟨g, b, hcore⟩ := core_place s ev.set ev.core.val n (jobOf s ev.set ev.core.val n) pc u t x
  obtain ⟨pmem, pout, pregs⟩ := place_keeps s ev.set ev.core.val n (jobOf s ev.set ev.core.val n) pc u t x
  have hr : r = advance (place s ev.set ev.core.val n (jobOf s ev.set ev.core.val n) pc u t x).1 ev.set ev.core.val n pc d := by
    unfold r issuedState
    rw [hu, Option.getD_some]
  have he : e = (place s ev.set ev.core.val n (jobOf s ev.set ev.core.val n) pc u t x).2 := by
    unfold e queueEntry
    rw [hu, Option.getD_some]
  obtain ⟨amem, aout, aregs⟩ := advance_keeps (place s ev.set ev.core.val n (jobOf s ev.set ev.core.val n) pc u t x).1 ev.set ev.core.val n pc d
  rw [← hr] at amem aout aregs
  have hcr := core_advance (place s ev.set ev.core.val n (jobOf s ev.set ev.core.val n) pc u t x).1 ev.set ev.core.val n pc d
  rw [hcore, ← hr, ← he] at hcr
  refine ⟨issueEvent_of_unit hu hissues, ?_, fun v hv hne => ?_, rfl, rfl, rfl, rfl, rfl, ?_, ?_, ?_, ?_, amem.trans pmem, aout.trans pout,
    aregs.trans pregs⟩
  · rw [hcr]
    exact Core.queue_setQueue_same ..
  · rw [hcr]
    exact Core.queue_setQueue_ne _ _ (DType.unit_lt hu) hv hne
  · rw [hcr]
    rfl
  · rw [hcr]
  · rw [hr, pc_advance]
  · rw [hr, tag_advance]

/-! ## Units that start their descriptors at issue (R65) -/

section
variable {s : State} {ev : Issue} {t : DType} {n pc : Nat} {d : List Byte} {x : Issued}

/-- The effective form keeps the descriptor's bytes. -/
theorem issueCheck_go {i : SetId} {k j : Nat} (h : issueCheck s i k n j t d = .go x) : x.d = d := by
  unfold issueCheck at h
  dsimp only at h
  repeat' split at h
  all_goals cases h
  rfl

theorem raw_queueEntry (h : IssuesAt s ev t n pc d x) : (queueEntry s ev t n pc x).raw = d := issueCheck_go h.checks

theorem requestQ_issuedState (hu : t.unit = some 4) (h : IssuesAt s ev t n pc d x) (hempty : (s.core ev.set ev.core.val).requestQ = []) :
    ((issuedState s ev t n pc d x).core ev.set ev.core.val).requestQ = [queueEntry s ev t n pc x] := by
  obtain ⟨-, hqueue, -⟩ := issueEntersQueue s ev t 4 n pc d x hu h
  change _ = (s.core ev.set ev.core.val).requestQ ++ _ at hqueue
  rwa [hempty, List.nil_append] at hqueue

theorem requestQ_onEnt (u : State) (i : SetId) (k id : Nat) (f : QEnt → QEnt) :
    ((onEnt u i k 4 id f).core i k).requestQ = (u.core i k).requestQ.map fun e => if e.id = id then f e else e := by
  simp [onEnt, Core.setQueue, Core.queue]

/-- A request queue of one descriptor that has not started and is no SEND starts it. -/
theorem requestGo_of_single {u : State} {i : SetId} {k : Nat} {e : QEnt} (hqueue : (u.core i k).requestQ = [e]) (hphase : e.phase = .queued)
    (hsend : dtype e.raw ≠ some .send) : requestGo u i k = requestStart u i k e := by
  simp [requestGo, hqueue, requestPump, hphase, isSendOn, hsend]

/-- A HARVEST whose unit reports no residue fault computes when it starts. -/
theorem requestStart_of_harvest {u : State} {i : SetId} {k : Nat} {e : QEnt} (htype : dtype e.raw = some .harvest) (hwaits : e.waits = 0) :
    requestStart u i k e = doHarvest u i k e := by
  rw [requestStart, htype]
  simp [harvestStart, hwaits]

/-- An ATTN of a planned store waits for the stacks that it asks (R234). -/
theorem requestStart_of_attn {u : State} {i : SetId} {k : Nat} {e : QEnt} (hraw : e.raw = d) (htype : dtype d = some .attn)
    (hrows : leAt d 42 2 ≠ 0) (hlayers : (kvGeo u i).layers ≠ 0) (hasked : askedStacks u i d ≠ 0) :
    requestStart u i k e = onEnt u i k 4 e.id fun q => { q with phase := .running, waits := askedStacks u i d } := by
  rw [requestStart, hraw, htype]
  simp [attnStart, hraw, hrows, hlayers, hasked]

theorem next_settle_congr {a b : State} (h : a = b) (i : SetId) : (Host.Outcome.next (settle a i) : Out) = .next (settle b i) := by rw [h]

end

/-- Settles O7: each command starts its unit on the state and the entry that the issue event answers. -/
theorem issuedUnitsStart : Obligations.IssuedUnitsStart := by
  intro s ev n pc d x r e i k
  have issues {t : DType} {u : Nat} (hu : t.unit = some u) (h : IssuesAt s ev t n pc d x) : issueEvent t ev s = (r t, some (e t)) :=
    issueEvent_of_unit hu h
  have memory {t : DType} (hu : t.unit = some 2) (h : IssuesAt s ev t n pc d x) :
      Host.Outcome.next (settle (memGo (issueEvent t ev s).1 i k) i) = (Host.Outcome.next (settle (memGo (r t) i k) i) : Out) := by
    rw [issues hu h]
  have array {t : DType} (hu : t.unit = some 0) (h : IssuesAt s ev t n pc d x) :
      Host.Outcome.next (arrayIssue t ev s) = (Host.Outcome.next (settle (arrayIssued (r t) i k (e t)) i) : Out) := by
    rw [arrayIssue, issues hu h]
  have request {t : DType} (hu : t.unit = some 4) (h : IssuesAt s ev t n pc d x) :
      requestIssue t ev s = .next (settle (requestGo (r t) i k) i) := by
    rw [requestIssue, issues hu h]
  have circulation {t : DType} (hu : t.unit = some 3) (h : IssuesAt s ev t n pc d x) {b : Bool} (hb : emptyCirc (e t) = b) :
      Host.Outcome.next (circIssue t ev s) =
        (Host.Outcome.next (settle (circPump (if b then markDone (r t) i k 3 (e t).id else r t) i) i) : Out) := by
    rw [circIssue, issues hu h]
    simp only [circStart, hb]
    rfl
  refine ⟨memory rfl, memory rfl, memory rfl, array rfl, array rfl, array rfl, fun h => ?_, fun h => ⟨?_, fun hempty => ?_⟩,
    fun h => ⟨request rfl h, fun hempty hrows hlayers hasked => ?_⟩, request rfl, fun h => ?_, fun h => ?_⟩
  · change execVec ev false s = _
    rw [execVec, issues rfl h]
    rfl
  · change execHarvest ev none s = _
    rw [execHarvest, issues rfl h]
  · have hqueue := requestQ_onEnt (r .harvest) i k (e .harvest).id fun q => { q with waits := 0 }
    rw [requestQ_issuedState rfl h hempty, List.map_singleton, if_pos rfl] at hqueue
    have htype : dtype (queueEntry s ev .harvest n pc x).raw = some .harvest := by rw [raw_queueEntry h, h.type]
    change execHarvest ev none s = _
    rw [execHarvest, issues rfl h]
    dsimp only
    rw [requestGo_of_single hqueue rfl (by simp [htype])]
    exact next_settle_congr (requestStart_of_harvest (e := { e .harvest with waits := 0 }) htype rfl) i
  · have hqueue := requestQ_issuedState rfl h hempty
    have htype : dtype (queueEntry s ev .attn n pc x).raw = some .attn := by rw [raw_queueEntry h, h.type]
    change execAttn ev s = _
    rw [execAttn, request rfl h, requestGo_of_single hqueue rfl (by simp [htype])]
    have hraw : (queueEntry s ev .attn n pc x).raw = d := raw_queueEntry h
    exact next_settle_congr (requestStart_of_attn hraw h.type hrows hlayers hasked) i
  · have hraw : (e .inject).raw = d := raw_queueEntry h
    refine (circulation rfl h (b := decide (leAt d 16 3 = 0)) ?_).trans (by simp)
    rw [emptyCirc, hraw, h.type]
    rfl
  · have hraw : (e .take).raw = d := raw_queueEntry h
    refine (circulation rfl h (b := decide (leAt d 24 3 = 0)) ?_).trans (by simp)
    rw [emptyCirc, hraw, h.type]
    rfl

end Sys2Proof.Machine
end

section
/-! PROOF. The types that the caller carries out itself (R69, R71, R82, R297, R300). -/

namespace Sys2Proof.Machine

/-- What the caller does for a type of its own that passes the checks of issue. -/
def callerDoes (t : DType) (s : State) (i : SetId) (k n j pc : Nat) (d : List Byte) : State :=
  match t with
  | .signal => doSignal s i k n j pc d
  | .wait => doWait s i k n j pc d
  | .consume => doConsume s i k n j pc d
  | .fence => doFence s i k n j pc d
  | .loop => doLoop s i k n j pc d
  | .endloop => doEndloop s i k n j pc d
  | _ => s

section
variable {s : State} {i : SetId} {k n j pc p : Nat} {d : List Byte}

theorem issueEvent_of_caller {ev : Issue} {t : DType} {x : Issued} (hcaller : t.unit = none) (h : IssuesAt s ev t n pc d x) :
    (issueEvent t ev s).1 = callerDoes t s ev.set ev.core.val n (jobOf s ev.set ev.core.val n) pc d := by
  have hgo := h.checks
  rw [issueEvent_of_issuesAt h]
  unfold issueFrom
  dsimp only
  rw [hgo]
  cases t <;> first | rfl | simp [DType.unit] at hcaller

/-- The state in which a caller's descriptor has been carried out but for its own effect: the slot goes on, and DONE falls due. -/
def callerOn (s : State) (i : SetId) (k n j pc : Nat) (d : List Byte) : State := oweDone (advance s i k n pc d) i k n j pc d

/-- LOOP with a count of its own and room on the stack (R69). -/
theorem doLoop_of_count (hsrc : leAt d 11 1 = 0) (hcount : leAt d 8 3 ≠ 0) (hroom : (s.slot i k n).loops.length < 4) :
    doLoop s i k n j pc d = showDepth ((callerOn s i k n j pc d).onSlot i k n fun t => { t with loops :=
      { body := pc + 64, left := leAt d 8 3 - 1, saved := (s.slot i k n).ofs, strides := [leAt d 12 4, leAt d 16 4, leAt d 20 4] } ::
        t.loops }) i k n := by
  simp only [doLoop, hsrc, if_true, if_neg (Nat.not_le.2 hroom), if_neg hcount, callerOn]

/-- ENDLOOP of the last run (R71). -/
theorem doEndloop_of_last {f : LoopFrame} {rest : List LoopFrame} (hloops : (s.slot i k n).loops = f :: rest) (hleft : f.left = 0) :
    doEndloop s i k n j pc d =
      showDepth ((callerOn s i k n j pc d).onSlot i k n fun t => { t with loops := rest, ofs := f.saved }) i k n := by
  simp only [doEndloop, hloops, hleft, if_true, callerOn]

/-- FENCE with nothing of its scope in flight (R82). -/
theorem doFence_of_done (hdone : fenceDone (advance s i k n pc d) i k n (leAt d 8 1) = true) :
    doFence s i k n j pc d = callerOn s i k n j pc d := by
  simp only [doFence, hdone, if_true, callerOn]

section
variable (hctr : ctrOf s i j (leAt d 8 2) = some p) (hreturn : s.fld i .SYNC_CTRp_0_RETURN p = 0) (hkind : s.fld i .SYNC_CTRp_0_KIND p = 0)
include hctr hreturn hkind

/-- WAIT on a counting counter (R300). -/
theorem doWait_of_counting : doWait s i k n j pc d =
    sleepOn ((advance s i k n pc d).onSlot i k n fun t => { t with cur := some (pc, d) }) i k n (leAt d 8 2) p (leAt d 12 4) := by
  simp [doWait, hctr, hreturn, hkind]

/-- CONSUME of what a counting counter holds (R297). -/
theorem doConsume_of_covered (hcovers : leAt d 12 4 ≤ s.fld i .SYNC_CTRp_1_VALUE p) : doConsume s i k n j pc d =
    serve ((callerOn s i k n j pc d).setFld i .SYNC_CTRp_1_VALUE p (s.fld i .SYNC_CTRp_1_VALUE p - leAt d 12 4)) i p := by
  simp [doConsume, hctr, hreturn, hkind, Nat.not_lt.2 hcovers, callerOn]

end

/-- SIGNAL of a counting counter that has room for the amount (R297). -/
theorem doSignal_of_counting (hlocal : bit (leAt d 8 2) 15 = false) (hctr : ctrOf s i j (leAt d 8 2 % 4096) = some p)
    (hkind : s.fld i .SYNC_CTRp_0_KIND p = 0) (hroom : s.fld i .SYNC_CTRp_1_VALUE p + leAt d 12 4 < 2 ^ 31) :
    doSignal s i k n j pc d = addBase (callerOn s i k n j pc d) i p (leAt d 12 4) (.slot k n) := by
  have hadd : addCheck s i p (leAt d 12 4) = 0 := by
    simp [addCheck, hkind]
    omega
  simp [doSignal, hlocal, hctr, hadd, hkind, callerOn]

end

/-- Settles O8: each command carries out its type on the state that the issue event leaves. -/
theorem callerTypes : Obligations.CallerTypes := by
  intro s ev n pc p d x
  dsimp only
  have issues {t : DType} (ht : t.unit = none) (h : IssuesAt s ev t n pc d x) {u : State}
      (hu : callerDoes t s ev.set ev.core.val n (jobOf s ev.set ev.core.val n) pc d = u) :
      Host.Outcome.next (settle (issueEvent t ev s).1 ev.set) = (Host.Outcome.next (settle u ev.set) : Out) := by
    rw [issueEvent_of_caller ht h, hu]
  exact ⟨fun h hsrc hcount hroom => issues rfl h (doLoop_of_count hsrc hcount hroom),
    fun f rest h hloops hleft => issues rfl h (doEndloop_of_last hloops hleft), fun h hdone => issues rfl h (doFence_of_done hdone),
    fun h hctr hreturn hkind => issues rfl h (doWait_of_counting hctr hreturn hkind),
    fun h hctr hreturn hkind hcovers => issues rfl h (doConsume_of_covered hctr hreturn hkind hcovers),
    fun h hlocal hctr hkind hroom => issues rfl h (doSignal_of_counting hlocal hctr hkind hroom)⟩

end Sys2Proof.Machine
end

section
/-! PROOF. Host accesses to the package's registers (R11, R12, R359, R360, R456). -/

namespace Sys2Proof.Machine

/-- Some fields at one index take values of their own. -/
def putSome (m : SMap Nat) (l : List Field) (c : Field → Bool) (w : Field → Nat) (ix : Nat) : SMap Nat :=
  l.foldl (fun m f => if c f then putField m f ix (w f) else m) m

theorem getField_putSome (l : List Field) (c : Field → Bool) (w : Field → Nat) (ix : Nat) (g : Field) (jx : Nat) (m : SMap Nat) :
    getField (putSome m l c w ix) g jx = if (g ∈ l ∧ jx = ix) ∧ c g = true then w g % 2 ^ g.info.len else getField m g jx := by
  induction l generalizing m with
  | nil => simp [putSome]
  | cons f l ih =>
    rw [putSome, List.foldl_cons, ← putSome, ih]
    by_cases hg : (g ∈ l ∧ jx = ix) ∧ c g = true
    · rw [if_pos hg, if_pos ⟨⟨List.mem_cons_of_mem _ hg.1.1, hg.1.2⟩, hg.2⟩]
    rw [if_neg hg]
    by_cases hf : g = f ∧ jx = ix
    · obtain ⟨rfl, rfl⟩ := hf
      cases hc : c g <;> simp
    · have hput (v : Nat) : getField (putField m f ix v) g jx = getField m g jx := getField_putField_ne m v hf
      have hcons : ¬((g ∈ f :: l ∧ jx = ix) ∧ c g = true) := by
        simp only [List.mem_cons]
        tauto
      rw [if_neg hcons]
      split
      · exact hput _
      · rfl

theorem putReg_eq_putSome (m : SMap Nat) (ok : FInfo → Bool) (r : Reg) (ix off : Nat) (d : List Byte) : putReg m ok r ix off d =
    putSome m r.fields (fun f => ok f.info && touched f.info off d.length)
      (fun f => bits (overlay (composeReg m r ix) off d) f.info.lo f.info.len) ix := rfl

theorem plainWrite_eq_putSome (m : SMap Nat) (r : Reg) (ix off : Nat) (d : List Byte) : plainWrite m true r ix off d =
    putSome (putReg m (fun f => f.acc == .rw) r ix off d) r.fields
      (fun f => f.info.acc == .w1c && bits (overlay 0 off d) f.info.lo f.info.len != 0) (fun _ => 0) ix := rfl

/-- A field after a plain write, by its access code (R11). -/
theorem getField_plainWrite (m : SMap Nat) (r : Reg) (ix off : Nat) (d : List Byte) (g : Field) (jx : Nat) :
    getField (plainWrite m true r ix off d) g jx =
      if g ∈ r.fields ∧ jx = ix then
        match g.info.acc with
        | .rw => if touched g.info off d.length then bits (overlay (composeReg m r ix) off d) g.info.lo g.info.len else getField m g jx
        | .w1c => if bits (overlay 0 off d) g.info.lo g.info.len = 0 then getField m g jx else 0
        | _ => getField m g jx
      else getField m g jx := by
  rw [plainWrite_eq_putSome, getField_putSome, putReg_eq_putSome, getField_putSome]
  by_cases hg : g ∈ r.fields ∧ jx = ix
  · cases hacc : g.info.acc <;> simp [hg, bits]
  · simp [hg]

/-- A write of a package register whose write has no further effect. -/
theorem writePkg_of_plain (s : State) {r : Reg} (ix off : Nat) (d : List Byte) (hcap : r ≠ .PD_ENV_CAP) (hsprint : r ≠ .PD_SPRINT_CTL)
    (halm : r ≠ .ALM_CFG) : writePkg s r ix off d = { s with regs := plainWrite s.regs true r ix off d } := by
  cases r <;> first | rfl | contradiction

section
variable {s : State}

/-- With the link up and no traffic held an access is made at once. -/
theorem hostAccess_of_open (h : Claims.hostOpen s) (q : HostReq) : hostAccess s q = hostDo s q := by
  obtain ⟨hmode, hheld, hreqs⟩ := h
  have hdrain : drainHost s = s := by
    rw [drainHost, if_neg hheld, hreqs]
    cases s
    simp_all
  rw [hostAccess, if_neg hmode, if_neg hheld, hdrain]

variable {addr : Nat} {r : Reg} {ix off : Nat} (hset : setRegion addr = none) (hlow : addr < 0x1000_0000)
  (hat : regAt .pkg addr = some (r, ix, off))
include hset hlow hat

theorem hostRead_of_pkg (hcxl : cxlRegion addr = false) {n : Nat} (hfits : accessFits addr n = true) : hostRead s 0 addr n =
    hostAnswer { s with regs := clearRead s.regs r ix off n } 0 (leBytes n (readReg s.regs r ix / 256 ^ off)) := by
  have haper : ¬(0 = 0 ∧ 0x3000_0000 ≤ addr ∧ addr < 0x4000_0000) := by omega
  rw [hostRead, if_neg haper]
  simp [hfits, hcxl, hset, hat]

theorem hostWriteReg_of_pkg {d : List Byte} (hfits : accessFits addr d.length = true) : hostWriteReg s 0 addr d = writePkg s r ix off d := by
  have haper : ¬(0 = 0 ∧ 0x3000_0000 ≤ addr ∧ addr < 0x4000_0000) := by omega
  rw [hostWriteReg, if_neg haper]
  simp [hfits, hset, hat]

end

/-- Settles O41: a read clears by the fields' places, and a write is a plain write of the register's fields. -/
theorem registerAccess : Obligations.RegisterAccess := by
  intro s addr hopen hset hcxl hlow r ix off hat
  refine ⟨fun n hfits => ?_, fun d hfits hcap hsprint halm => ?_⟩
  · change Host.Outcome.next (hostAccess s _) = _
    rw [hostAccess_of_open hopen]
    exact congrArg _ (hostRead_of_pkg hset hlow hat hcxl hfits)
  · refine ⟨{ s with regs := plainWrite s.regs true r ix off d }, ?_, rfl, rfl, rfl, fun f hf => ?_, fun f jx hf => ?_⟩
    · change Host.Outcome.next (hostAccess s _) = _
      rw [hostAccess_of_open hopen]
      exact congrArg _ ((hostWriteReg_of_pkg hset hlow hat hfits).trans (writePkg_of_plain s ix off d hcap hsprint halm))
    · have hput := (getField_plainWrite s.regs r ix off d f ix).trans (if_pos ⟨hf, rfl⟩)
      change (_ → _ → getField _ f ix = _) ∧ (_ → _ → getField _ f ix = getField s.regs f ix) ∧
        (_ → getField _ f ix = if _ then getField s.regs f ix else 0) ∧ (_ → _ → getField _ f ix = getField s.regs f ix)
      rw [hput]
      cases hacc : f.info.acc <;> simp +contextual
    · exact (getField_plainWrite s.regs r ix off d f jx).trans (if_neg (by tauto))

end Sys2Proof.Machine
end

section
/-! PROOF. What a command that lacks authority leaves (R383). -/

namespace Sys2Proof.Machine

/-- From `s` to `t` everything that the package keeps stands: sets, registers, fuses, NVM and the almanac. -/
structure KeepsPackage (s t : State) : Prop where
  set0 : t.set0 = s.set0
  set1 : t.set1 = s.set1
  regs : t.regs = s.regs
  fuses : t.fuses = s.fuses
  nvm : t.nvm = s.nvm
  almMem : t.almMem = s.almMem
  almBusy : t.almBusy = s.almBusy

namespace KeepsPackage

variable {s t u : State}

theorem refl (s : State) : KeepsPackage s s := ⟨rfl, rfl, rfl, rfl, rfl, rfl, rfl⟩

theorem trans (h : KeepsPackage s t) (k : KeepsPackage t u) : KeepsPackage s u :=
  ⟨k.set0.trans h.set0, k.set1.trans h.set1, k.regs.trans h.regs, k.fuses.trans h.fuses, k.nvm.trans h.nvm, k.almMem.trans h.almMem,
    k.almBusy.trans h.almBusy⟩

end KeepsPackage

theorem answer_keepsPackage (s : State) (v : Via) (op status cause : Nat) (data : List Byte) :
    KeepsPackage s (answer s v op status cause data) := by
  obtain ⟨out, msixPending, h⟩ := answer_eq s v op status cause data
  rw [h]
  exact ⟨rfl, rfl, rfl, rfl, rfl, rfl, rfl⟩

/-- A check of authority uses up a nonce at most. -/
theorem takeAuth_keepsPackage (s : State) (v : Via) (op : Nat) (payload : List Byte) : KeepsPackage s (takeAuth s v op payload).1 := by
  unfold takeAuth
  split
  · exact .refl s
  · split
    · dsimp only
      split <;> exact ⟨rfl, rfl, rfl, rfl, rfl, rfl, rfl⟩
    · exact .refl s

/-- A command that needs authority and has none does not run: what is left is an answer at most. -/
theorem vendorCmd_of_unauthorised {s : State} {v : Via} {g : Gate} {payload : List Byte} (run : State → State)
    (hneeds : g.owner = true ∨ g.writes = true ∧ v.mctp = true) (hauth : (takeAuth s v g.op payload).2 = false) :
    KeepsPackage s (vendorCmd s v g payload run) := by
  unfold vendorCmd
  split
  · exact .refl s
  split
  · exact answer_keepsPackage ..
  split
  · exact answer_keepsPackage ..
  split
  · exact answer_keepsPackage ..
  dsimp only
  rw [hauth, if_neg (by simp)]
  exact (takeAuth_keepsPackage s v g.op payload).trans (answer_keepsPackage ..)

/-- Settles O47: every such command goes through admission, which needs the authority that is missing. -/
theorem unauthorisedWritesNothing : Obligations.UnauthorisedWritesNothing := by
  intro s t v c op p hauth hcmd hnext
  have refused {g : Gate} {run : State → State} (hop : g.op = op) (hneeds : g.owner = true ∨ g.writes = true ∧ v.mctp = true)
      (hexec : exec c s = .next (vendorCmd s v g p run)) : KeepsPackage s t := by
    subst hop
    obtain rfl : vendorCmd s v g p run = t := by simpa [hexec] using hnext
    exact vendorCmd_of_unauthorised run hneeds hauth
  have hkept : KeepsPackage s t := by
    obtain ⟨hmctp, hwriting⟩ | ⟨rfl, rfl, rfl⟩ | ⟨rfl, rfl⟩ := hcmd
    · have hneeds : false = true ∨ true = true ∧ v.mctp = true := .inr ⟨rfl, hmctp⟩
      obtain ⟨_, _, rfl, rfl, rfl⟩ | ⟨_, _, rfl, rfl, rfl⟩ | ⟨rfl, rfl, rfl⟩ | ⟨rfl, rfl, rfl⟩ | ⟨rfl, rfl, rfl⟩ | ⟨rfl, rfl, rfl⟩ |
        ⟨rfl, rfl, rfl⟩ | ⟨_, _, rfl, rfl, rfl⟩ | ⟨rfl, rfl, rfl⟩ := hwriting <;> exact refused rfl hneeds rfl
    · exact refused rfl (.inl rfl) rfl
    · exact refused rfl (.inl rfl) rfl
  exact ⟨hkept.set0, hkept.set1, hkept.regs, hkept.fuses, hkept.nvm, hkept.almMem, hkept.almBusy⟩

end Sys2Proof.Machine
end

section
/-! PROOF. Images through the firmware commands of the mailbox (R379). -/

namespace Sys2Proof.Machine

theorem boxAnswer_eq (s : State) (op code : Nat) (data : List Byte) :
    ∃ out msixPending, boxAnswer s op code data = { s with out := out, msixPending := msixPending } := by
  obtain ⟨out, msixPending, h⟩ := raiseVector_eq (s.emit .mailbox 0 [op, code] data) 1
  exact ⟨out, msixPending, h⟩

@[simp] theorem nvm_boxAnswer (s : State) (op code : Nat) (data : List Byte) : (boxAnswer s op code data).nvm = s.nvm := by
  obtain ⟨_, _, h⟩ := boxAnswer_eq s op code data
  rw [h]

@[simp] theorem mg_boxAnswer (s : State) (op code : Nat) (data : List Byte) : (boxAnswer s op code data).mg = s.mg := by
  obtain ⟨_, _, h⟩ := boxAnswer_eq s op code data
  rw [h]

section
variable {s : State} (hlow : 2 ≤ stage s)
include hlow

/-- The mailbox carries out its commands from step 4 on, outside a restart. -/
theorem boxCmd_of_open (hrestart : stage s ≠ 11) (hlost : s.pkgLost = false) (hmp : s.mpDown = false) (op : Nat) (run : State → State) :
    boxCmd s op run = run s := by
  have hoff : stage s ≠ 0 := by omega
  have hrec : stage s ≠ 1 := by omega
  simp [boxCmd, hoff, hrec, hrestart, hlost, hmp]

theorem nvmDead_of_step4 : nvmDead s = false := by
  have hrec : stage s ≠ 1 := by omega
  simp [nvmDead, hrec]

/-- Outside RECOVERY a piece only goes to the staging memory. -/
theorem takePiece_of_step4 (fresh : Bool) (off : Nat) (d : List Byte) : takePiece s fresh off d = onMg s fun m => { m with
    image := writeMem (if fresh then [] else m.image) off d
    imageLen := max (if fresh then 0 else m.imageLen) (off + d.length) } :=
  if_neg (by omega)

end

/-- A whole image outside RECOVERY: programmed when it passes, refused when it fails, and dropped from the staging memory in both cases. -/
theorem wholeImage_of_step4 {s : State} (hstage : stage s ≠ 1) : (wholeImage s).mg.image = [] ∧
    (wholeImage s).nvm = if fwOk s (staged s) then (programFw s).nvm else s.nvm := by
  rw [wholeImage, if_neg hstage]
  split <;> simp [onMg]

/-- What the firmware region holds once the image is programmed, and what lies beyond it. -/
theorem get_programFw (s : State) (hlen : s.mg.imageLen ≤ 0x100_0000) :
    (∀ a < s.mg.imageLen, SMap.get 0xFF (programFw s).nvm a = SMap.get 0 s.mg.image a) ∧
      ∀ a, 0x100_0000 ≤ a → SMap.get 0xFF (programFw s).nvm a = SMap.get 0xFF s.nvm a := by
  have hput (a : Nat) : SMap.get 0xFF (programFw s).nvm a =
      if a < s.mg.imageLen then (readMem s.mg.image 0 s.mg.imageLen).getD a 0xFF else SMap.get 0xFF (s.nvmErase 0 0x100_0000).nvm a := by
    rw [programFw, get_nvmWrite]
    simp [staged, Nat.min_eq_left hlen]
  refine ⟨fun a ha => ?_, fun a ha => ?_⟩
  · rw [hput, if_pos ha, List.getD_eq_getElem _ _ (by simpa using ha)]
    simp [readMem]
  · rw [hput, if_neg (by omega), get_nvmErase, if_neg (by omega)]

/-- Settles O44: pieces are staged, and a whole image is verified from the staging memory before the region is programmed. -/
theorem firmwareVerifiedBeforeWritten : Obligations.FirmwareVerifiedBeforeWritten := by
  intro s off d hlow hrestart hlost hmp hfits
  dsimp only
  generalize hp : takePiece s true off d = p
  have hrec : stage s ≠ 1 := by omega
  have hrun (action : Fin 5) : exec (.transferFw action off d) s = .next (if action = 4 then boxAnswer (onMg s fun m => { m with
      image := [], imageLen := 0 }) 0x0201 0 else
        if action = 0 ∨ action = 3 then wholeImage (takePiece s (action = 0 || action = 1) off d)
          else boxAnswer (takePiece s (action = 0 || action = 1) off d) 0x0201 0) := by
    change Host.Outcome.next _ = _
    rw [boxCmd_of_open hlow hrestart hlost hmp, nvmDead_of_step4 hlow, if_neg (by simp), if_neg (Nat.not_lt.2 hfits)]
  have hpiece : p = onMg s fun m => { m with image := writeMem [] off d, imageLen := off + d.length } := by
    simp [← hp, takePiece_of_step4 hlow]
  have hlen : p.mg.imageLen = off + d.length := by rw [hpiece]; rfl
  have hnvm : p.nvm = s.nvm := by rw [hpiece]; rfl
  have hstage : stage p ≠ 1 := by rw [hpiece]; exact hrec
  refine ⟨⟨by simp [hrun, hp], hnvm⟩, by simp [hrun], ⟨_, hrun 4, by simp [onMg], by simp [onMg]⟩, wholeImage p, by simp [hrun, hp], ?_⟩
  obtain ⟨himage, hwhole⟩ := wholeImage_of_step4 hstage
  refine ⟨himage, ?_⟩
  rw [hwhole, ← hnvm]
  generalize fwOk p (staged p) = ok
  cases ok with
  | true => exact get_programFw p (hlen ▸ hfits)
  | false => rfl

end Sys2Proof.Machine
end

section
/-! PROOF. The almanac in memory and its copies in NVM (R441 to R445, R448). -/

namespace Sys2Proof.Machine

/-! ## The fields of the almanac in memory -/

theorem alm_setAlm_same (s : State) (off n v : Nat) : (s.setAlm off n v).alm off n = v % 256 ^ n := by
  have h : readMem (writeMem s.almMem off (leBytes n v)) off n = leBytes n v := by
    simpa using readMem_writeMem s.almMem off (leBytes n v)
  rw [State.alm, State.setAlm, h]
  simpa [leAt, List.take_of_length_le] using leAt_leBytes n v

theorem alm_setAlm_apart (s : State) {off n a m : Nat} (v : Nat) (h : a + m ≤ off ∨ off + n ≤ a) :
    (s.setAlm off n v).alm a m = s.alm a m := by
  refine congrArg leNat (List.map_congr_left fun j hj => ?_)
  have hjm := List.mem_range.1 hj
  exact get_writeMem_outside _ (by simp only [length_leBytes]; omega)

theorem alm_addAlm_apart (s : State) {off n a m : Nat} (v : Nat) (h : a + m ≤ off ∨ off + n ≤ a) :
    (s.addAlm off n v).alm a m = s.alm a m :=
  alm_setAlm_apart s _ h

/-- A counter of eight bytes wraps (R442). -/
theorem alm_addAlm_wide (s : State) (off v : Nat) : (s.addAlm off 8 v).alm off 8 = (s.alm off 8 + v) % 2 ^ 64 := by
  rw [State.addAlm]
  exact alm_setAlm_same s off 8 _

/-- From `s` to `t` only the almanac in memory changes, and in it the powered seconds stand. -/
structure HistogramsOnly (s t : State) : Prop where
  rest : t = { s with almMem := t.almMem }
  secs : t.alm 64 8 = s.alm 64 8

theorem addAlm_histogramsOnly {s t : State} (h : HistogramsOnly s t) {off n : Nat} (v : Nat) (hoff : 72 ≤ off) :
    HistogramsOnly s (t.addAlm off n v) := by
  obtain ⟨hrest, hsecs⟩ := h
  refine ⟨?_, (alm_addAlm_apart t v (.inl hoff)).trans hsecs⟩
  rw [State.addAlm, State.setAlm, hrest]

theorem foldl_histogramsOnly {α : Type} {f : State → α → State} {s : State} (hf : ∀ t x, HistogramsOnly s t → HistogramsOnly s (f t x)) (l : List α) :
    ∀ t, HistogramsOnly s t → HistogramsOnly s (l.foldl f t) := by
  induction l with
  | nil => exact fun _ h => h
  | cons x l ih => exact fun t h => ih _ (hf t x h)

/-- The histograms of one powered second (Table 16-2). -/
def almHistograms (s : State) : State :=
  let s := (almTemps s).zipIdx.foldl (fun s t => s.addAlm (112 + 144 * t.2 + 4 * histBin 0 5 36 (t.1 + 40)) 4 1) s
  (List.range 16).foldl (fun s n => s.addAlm (4720 + 192 * n + 4 * histBin 500 10 48 (s.pfld .PD_TEMPOn_VSET n)) 4 1) s

theorem almHistograms_only (s : State) : HistogramsOnly s (almHistograms s) :=
  foldl_histogramsOnly (fun _ _ h => addAlm_histogramsOnly h 1 (by omega)) _ _
    (foldl_histogramsOnly (fun _ _ h => addAlm_histogramsOnly h 1 (by omega)) _ _ ⟨rfl, rfl⟩)

/-- The seconds of all and of the class `cls` count one more. -/
def almCounted (s : State) (cls : Nat) : State := (s.addAlm 64 8 1).addAlm (80 + 8 * cls) 8 1

theorem almCounted_eq (s : State) (cls : Nat) : ∃ m, almCounted s cls = { s with almMem := m } := ⟨_, rfl⟩

theorem alm_almCounted (s : State) (cls : Nat) : (almCounted s cls).alm 64 8 = (s.alm 64 8 + 1) % 2 ^ 64 := by
  rw [almCounted, alm_addAlm_apart _ _ (.inl (by omega)), alm_addAlm_wide]

/-- A powered second but for its counts (R442). -/
def almTicked (s : State) : State := { showHours (s.satPfld .ALM_STAT_SINCE_S 0 1) with promptSec := 0 }

theorem execAlmanacSecond_of_running {s : State} (hlow : 2 ≤ stage s) (hmp : s.mpDown = false) :
    ∃ cls, execAlmanacSecond s = .next (almTicked (almCounted (almHistograms s) cls)) := by
  refine ⟨if (almHistograms s).pfld .PD_CLASS_ACCEPTED = 0 then 0 else if (almHistograms s).pfld .PD_CLASS_CLASS = 0 then 1 else 2, ?_⟩
  rw [execAlmanacSecond, if_neg (by simp [fromStep4, hlow, hmp])]
  rfl

theorem since_almTicked (s : State) :
    (almTicked s).pfld .ALM_STAT_SINCE_S = min (s.pfld .ALM_STAT_SINCE_S + 1) (2 ^ Field.ALM_STAT_SINCE_S.info.len - 1) := by
  have hput : (almTicked s).pfld .ALM_STAT_SINCE_S = (s.satPfld .ALM_STAT_SINCE_S 0 1).pfld .ALM_STAT_SINCE_S := by
    change (showHours _).pfld .ALM_STAT_SINCE_S = _
    rw [showHours, State.pfld_setPfld_ne _ _ (by simp), State.pfld_setPfld_ne _ _ (by simp)]
  rw [hput, State.satPfld, State.pfld_setPfld_same]
  exact Nat.mod_eq_of_lt (Nat.lt_of_le_of_lt (Nat.min_le_right ..) (Nat.sub_lt (Nat.two_pow_pos _) one_pos))

theorem almTicked_keeps (s : State) : (almTicked s).promptSec = 0 ∧ (almTicked s).almMem = s.almMem ∧ (almTicked s).nvm = s.nvm ∧
    (almTicked s).out = s.out ∧ (almTicked s).set0 = s.set0 ∧ (almTicked s).set1 = s.set1 := by
  simp [almTicked, showHours, State.satPfld]

/-- What a powered second adds, and what it leaves. -/
theorem almTicked_effect (s : State) (cls : Nat) : let t := almTicked (almCounted s cls)
    t.promptSec = 0 ∧ t.pfld .ALM_STAT_SINCE_S = min (s.pfld .ALM_STAT_SINCE_S + 1) (2 ^ Field.ALM_STAT_SINCE_S.info.len - 1) ∧
      t.alm 64 8 = (s.alm 64 8 + 1) % 2 ^ 64 ∧ t.nvm = s.nvm ∧ t.out = s.out ∧ t.set0 = s.set0 ∧ t.set1 = s.set1 := by
  obtain ⟨m, hm⟩ := almCounted_eq s cls
  have halm := alm_almCounted s cls
  dsimp only
  rw [since_almTicked]
  generalize almCounted s cls = u at hm halm ⊢
  obtain ⟨hsec, hmem, hnvm, hout, hset0, hset1⟩ := almTicked_keeps u
  rw [hsec, State.alm, hmem, hnvm, hout, hset0, hset1]
  subst hm
  exact ⟨rfl, rfl, halm, rfl, rfl, rfl, rfl⟩

/-! ## Copies in NVM -/

/-- The copy that a write goes to (R441). -/
def almOlder (s : State) : Nat := if s.almNewest = 0 then 1 else 0

theorem almWrite_of_idle {s : State} (hidle : s.almBusy = none) (clean : Bool) : almWrite s clean =
    { ((s.nvmErase (almCopyBase (almOlder s)) 0x20_0000).nvmWrite (almCopyBase (almOlder s))
      (almImage s (s.pfld .ALM_STAT_SEQ + 1) clean)) with almBusy := some (almOlder s) } := by
  rw [almWrite, hidle]
  rfl

/-- The two copies lie apart (Table 16-1). -/
theorem almCopies_apart {c x : Nat} (hc : c ≤ 1) (hlow : almCopyBase c ≤ x) (hhigh : x < almCopyBase c + 0x20_0000) :
    x < almCopyBase (1 - c) ∨ almCopyBase (1 - c) + 0x20_0000 ≤ x := by
  interval_cases c <;> simp only [almCopyBase] at * <;> simp at * <;> omega

theorem almOlder_eq {s : State} (h : s.almNewest ≤ 1) : almOlder s = 1 - s.almNewest := by
  unfold almOlder
  split <;> omega

/-- A write programs the image of the next SEQ into the older copy and leaves the newest one. -/
theorem almWrite_programs {s : State} (hidle : s.almBusy = none) :
    (almWrite s false).nvmBytes (almCopyBase (almOlder s)) 17136 = almImage s (s.pfld .ALM_STAT_SEQ + 1) false ∧
      (s.almNewest ≤ 1 → ∀ a, almCopyBase s.almNewest ≤ a → a < almCopyBase s.almNewest + 0x20_0000 →
        SMap.get 0xFF (almWrite s false).nvm a = SMap.get 0xFF s.nvm a) := by
  rw [almWrite_of_idle hidle]
  refine ⟨(nvmBytes_nvmWrite _ le_rfl (by simp)).trans (by simp), fun hnewest a hlow hhigh => ?_⟩
  have hapart := almCopies_apart hnewest hlow hhigh
  rw [← almOlder_eq hnewest] at hapart
  rw [get_nvmWrite_outside _ (by simp; omega), get_nvmErase, if_neg (by omega)]

/-- The write of copy `c` has ended well, with nothing waiting behind it (R441). -/
def almWritten (s : State) (c : Nat) : State :=
  let s := ({ s with almBusy := none }.setPfld .ALM_STAT_SEQ 0 (s.pfld .ALM_STAT_SEQ + 1)).setPfld .ALM_STAT_SINCE_S 0 0
  { s.nvmErase (almCopyBase (1 - c)) 0x20_0000 with almNewest := c }

theorem seq_almWritten (s : State) (c : Nat) :
    (almWritten s c).pfld .ALM_STAT_SEQ = (s.pfld .ALM_STAT_SEQ + 1) % 2 ^ Field.ALM_STAT_SEQ.info.len := by
  have hne : ¬(Field.ALM_STAT_SEQ = .ALM_STAT_SINCE_S ∧ 0 = 0) := by simp
  exact (State.pfld_setPfld_ne _ 0 hne).trans (State.pfld_setPfld_same ..)

theorem almDone_of_written {s : State} {c : Nat} (hbusy : s.almBusy = some c) (hdue : s.almDue = []) (hfull : s.promptFull = false) :
    almDone s true = almWritten s c := by
  simp [almDone, almWritten, hbusy, hdue, hfull, State.nvmErase, State.setPfld]
  rfl

/-! ## Commands -/

/-- Settles O49: the second by what histograms leave, the write and its end by the two copies, the commands by their admission. -/
theorem almanacWrites : Obligations.AlmanacWrites := by
  refine ⟨fun s hlow hmp => ⟨?_, fun hidle => ?_⟩, fun s c hbusy hc hdue hfull => ?_, fun s v hbox => ⟨fun hshut => ?_, fun off len hfits => ?_,
    fun first count hcount => ?_⟩⟩
  · obtain ⟨cls, h⟩ := execAlmanacSecond_of_running hlow hmp
    obtain ⟨hrest, hsecs⟩ := almHistograms_only s
    have heffect := almTicked_effect (almHistograms s) cls
    rw [hsecs] at heffect
    generalize almHistograms s = u at h hrest heffect
    generalize u.almMem = m at hrest
    subst hrest
    exact ⟨_, h, heffect⟩
  · have hrun : exec .almanacInterval s = .next (almWrite s false) := by
      change Host.Outcome.next _ = _
      rw [if_neg (by simp [fromStep4, hlow, hmp])]
    obtain ⟨hbytes, hnewest⟩ := almWrite_programs hidle
    have heq := almWrite_of_idle hidle false
    exact ⟨_, hrun, by rw [heq]; rfl, hbytes, hnewest, by rw [heq]; rfl, by rw [heq]; rfl, by rw [heq]; rfl⟩
  · refine ⟨almWritten s c, congrArg _ (almDone_of_written hbusy hdue hfull), rfl, rfl, ?_, fun a hlow hhigh => ?_⟩
    · exact seq_almWritten s c
    · have hapart := almCopies_apart hc hlow hhigh
      exact (get_nvmErase _ _ _ a).trans (if_neg (by omega))
  all_goals
    have hstage := hbox
    obtain ⟨-, hlow, hrestart, -, -⟩ := hstage
    change Host.Outcome.next _ = _
  · rw [vendorCmd_of_atMailbox hbox (by simp [running, hlow, hrestart, hshut]) rfl]
  · rw [vendorCmd_of_atMailbox hbox (by simp [fromStep4, hlow]) rfl, if_neg (by omega)]
  · rw [vendorCmd_of_atMailbox hbox (by simp [fromStep4, hlow]) rfl, if_neg (by omega)]

end Sys2Proof.Machine
end

section
/-! PROOF. What the delivery of a report leaves (R432, R437): everything but messages, pending vectors, logs and the almanac. -/

namespace Sys2Proof.Machine

/-- A state but for what the delivery of reports and of vectors may change. -/
def besidesReports (s : State) : State := { s with
  out := [], msixPending := [], cxlLog := [], mpQueue := [], almMem := [], nvm := [], almBusy := none, almDue := [], promptNext := 0,
  promptSec := 0, promptFull := false }

@[simp] theorem besidesReports_raiseVector (s : State) (n : Nat) : besidesReports (raiseVector s n) = besidesReports s := by
  obtain ⟨_, _, h⟩ := raiseVector_eq s n
  rw [h]
  rfl

@[simp] theorem besidesReports_almWrite (s : State) (clean : Bool) : besidesReports (almWrite s clean) = besidesReports s := by
  unfold almWrite
  split <;> rfl

@[simp] theorem besidesReports_promptWrite (s : State) (type : Nat) (payload : List Byte) :
    besidesReports (promptWrite s type payload) = besidesReports s := by
  have hfull (t : State) : besidesReports (if t.promptNext < 32768 ∨ t.promptFull then t else { almWrite t false with promptFull := true }) =
      besidesReports t := by
    split
    · rfl
    · exact besidesReports_almWrite t false
  rw [promptWrite, hfull]
  split <;> rfl

@[simp] theorem besidesReports_ringAdd (s : State) (d : List Byte) : besidesReports (ringAdd s d) = besidesReports s := by
  unfold ringAdd
  dsimp only
  split
  · exact besidesReports_promptWrite _ 3 d
  · rfl

@[simp] theorem besidesReports_deliver (s : State) (i : SetId) (r : FRec) : besidesReports (deliver s i r) = besidesReports s := by
  have hvector : besidesReports (if s.fld i .SET_FCFG_VEC_SEV ≤ 4 ∧ s.fld i .SET_FCFG_VEC_SEV ≤ r.sev then raiseVector s 0 else s) =
      besidesReports s := by
    split <;> simp
  have hemit (t : State) (c : Prop) [Decidable c] (k : EvKind) (a : List Nat) (d : List Byte) :
      besidesReports (if c then t.emit k i.val a d else t) = besidesReports t := by
    split <;> rfl
  have hlog (t : State) (l : List (Nat × List Byte)) : besidesReports { t with cxlLog := l } = besidesReports t := rfl
  unfold deliver
  dsimp only
  split
  · rw [besidesReports_ringAdd, hemit, hlog, hemit, hvector]
  · rw [hemit, hlog, hemit, hvector]

@[simp] theorem besidesReports_reportPkg (s : State) (r : FRec) : besidesReports (reportPkg s r) = besidesReports s := by
  unfold reportPkg
  dsimp only
  split
  · rfl
  · exact besidesReports_deliver ..

/-! ## What stands therefore -/

section
variable {s t : State} (h : besidesReports t = besidesReports s)
include h

theorem regs_of_besidesReports : t.regs = s.regs := (congrArg State.regs h :)

theorem set0_of_besidesReports : t.set0 = s.set0 := (congrArg State.set0 h :)

theorem set1_of_besidesReports : t.set1 = s.set1 := (congrArg State.set1 h :)

theorem st_of_besidesReports (i : SetId) : t.st i = s.st i := (congrArg (State.st · i) h :)

theorem pm_of_besidesReports : t.pm = s.pm := (congrArg State.pm h :)

theorem pfld_of_besidesReports (f : Field) (ix : Nat) : t.pfld f ix = s.pfld f ix := (congrArg (State.pfld · f ix) h :)

theorem fld_of_besidesReports (i : SetId) (f : Field) (ix : Nat) : t.fld i f ix = s.fld i f ix := (congrArg (State.fld · i f ix) h :)

end

@[simp] theorem pfld_reportPkg (s : State) (r : FRec) (f : Field) (ix : Nat) : (reportPkg s r).pfld f ix = s.pfld f ix :=
  pfld_of_besidesReports (besidesReports_reportPkg s r) f ix

@[simp] theorem st_reportPkg (s : State) (r : FRec) (i : SetId) : (reportPkg s r).st i = s.st i :=
  st_of_besidesReports (besidesReports_reportPkg s r) i

end Sys2Proof.Machine
end

section
/-! PROOF. Rails between two bounds: lending and reclaiming (R49, R50), and the end of a cooldown (R54). -/

namespace Sys2Proof.Machine

/-! ## Values of fields -/

/-- A canonical register file holds values of their widths. -/
theorem getField_lt_of_regsOk {m : SMap Nat} (h : regsOk m) (f : Field) (ix : Nat) : getField m f ix < 2 ^ f.info.len := by
  have hentries : ∀ e ∈ m, e.1 = f.key ix → e.2 < 2 ^ f.info.len := by
    intro e he hkey
    obtain ⟨g, hcode, hlt, -⟩ := h.2 e he
    have hg := f.code_lt
    unfold Field.key at hkey
    obtain rfl : g = f := Field.code_inj (by omega)
    exact hlt
  unfold getField
  clear h
  induction m with
  | nil => exact f.rst_lt
  | cons e m ih =>
    rw [SMap.get]
    split
    · exact hentries e List.mem_cons_self ‹_›
    · exact ih fun x hx => hentries x (List.mem_cons_of_mem _ hx)

/-! ## Rails -/

theorem vset_freeRail_ne (s : State) {n m : Nat} (lo hi : Nat) (h : m ≠ n) : vset (freeRail s n lo hi) m = vset s m := by
  change (s.setPfld .PD_TEMPOn_VSET n _).pfld .PD_TEMPOn_VSET m = _
  rw [State.pfld_setPfld_ne _ _ (by simp [h]), vset]

/-- The setpoint that a rail takes lies between its bounds. -/
theorem vset_freeRail_bounds (s : State) (n : Nat) {lo hi : Nat} (hle : lo ≤ hi) (hfits : hi < 2 ^ 10) :
    lo ≤ vset (freeRail s n lo hi) n ∧ vset (freeRail s n lo hi) n ≤ hi := by
  have hput : vset (freeRail s n lo hi) n = (lo + s.free 10 % (hi - lo + 1)) % 2 ^ 10 :=
    s.pfld_setPfld_same .PD_TEMPOn_VSET n (lo + s.free 10 % (hi - lo + 1))
  have hmod : s.free 10 % (hi - lo + 1) < hi - lo + 1 := Nat.mod_lt _ (Nat.succ_pos _)
  rw [hput, Nat.mod_eq_of_lt (by omega)]
  omega

theorem pfld_freeRail (s : State) (n lo hi : Nat) {f : Field} (h : f ≠ .PD_TEMPOn_VSET) (ix : Nat) :
    (freeRail s n lo hi).pfld f ix = s.pfld f ix := by
  change (s.setPfld .PD_TEMPOn_VSET n _).pfld f ix = _
  rw [State.pfld_setPfld_ne _ _ (by simp [h])]

theorem vClass_le (s : State) : vClass s ≤ 780 := by
  unfold vClass
  split <;> omega

/-- The sets and the messages, which no rail touches. -/
def setsAndOut (s : State) : SetSt × SetSt × List Event := (s.set0, s.set1, s.out)

theorem setsAndOut_riseRail (s : State) (n : Nat) : setsAndOut (riseRail s n) = setsAndOut s := by
  unfold riseRail
  dsimp only
  split <;> rfl

theorem setsAndOut_lendShare (s : State) (who watts : Nat) (dies : List Nat) : setsAndOut (lendShare s who watts dies) = setsAndOut s := by
  unfold lendShare
  dsimp only
  split
  · exact setsAndOut_riseRail ..
  · rfl

section
variable {s t : State} (h : setsAndOut t = setsAndOut s)
include h

theorem st_of_setsAndOut (i : SetId) : t.st i = s.st i := by
  have hset0 : t.set0 = s.set0 := (congrArg Prod.fst h :)
  have hset1 : t.set1 = s.set1 := (congrArg (fun p => p.2.1) h :)
  unfold State.st
  rw [hset0, hset1]

theorem out_of_setsAndOut : t.out = s.out := (congrArg (fun p => p.2.2) h :)

end

/-! ## Lending -/

/-- A borrower's rail rises to V_class at most, and no other rail moves (R49). -/
theorem vset_riseRail (s : State) (n m : Nat) :
    vset s m ≤ vset (riseRail s n) m ∧ (vset (riseRail s n) m = vset s m ∨ vset (riseRail s n) m ≤ vClass s) := by
  unfold riseRail
  dsimp only
  split
  · exact ⟨le_rfl, .inl rfl⟩
  · rename_i hrise
    by_cases hm : m = n
    · subst hm
      have hclass := vClass_le s
      have hle : vset s m ≤ vClass s := by
        have hnot : ¬vClass s ≤ vset s m := fun hle => hrise (.inr (.inr (.inr hle)))
        omega
      obtain ⟨hlow, hhigh⟩ := vset_freeRail_bounds s m hle (by omega)
      exact ⟨hlow, .inr hhigh⟩
    · rw [vset_freeRail_ne s _ _ hm]
      exact ⟨le_rfl, .inl rfl⟩

theorem vset_lendShare (s : State) (who watts : Nat) (dies : List Nat) (m : Nat) : vset s m ≤ vset (lendShare s who watts dies) m ∧
    (vset (lendShare s who watts dies) m = vset s m ∨ vset (lendShare s who watts dies) m ≤ vClass s) := by
  unfold lendShare
  dsimp only
  split
  · exact vset_riseRail (onPm s.spend _) _ m
  · exact ⟨le_rfl, .inl rfl⟩

theorem allWaiting_of_waiting {s : State} {i : SetId} {k : Nat} (h : ∀ n < 8, slotState s i k n = 4) : allWaiting s i k = true := by
  have hmap : (List.range 8).map (slotState s i k) = List.replicate 8 4 :=
    List.eq_replicate_iff.2 ⟨by simp, fun x hx => by
      obtain ⟨n, hn, rfl⟩ := List.mem_map.1 hx
      exact h n (List.mem_range.1 hn)⟩
  rw [allWaiting, hmap]
  rfl

theorem not_allWaiting_of_running {s : State} {i : SetId} {k n : Nat} (hn : n < 8) (hidle : slotState s i k n ≠ 0)
    (hwait : slotState s i k n ≠ 4) (hhalt : slotState s i k n ≠ 6) : allWaiting s i k = false := by
  have hall : ((List.range 8).map (slotState s i k)).all (fun x => x == 4 || x == 0 || x == 6) = false :=
    List.all_eq_false.2 ⟨_, List.mem_map_of_mem (List.mem_range.2 hn), by simp [hidle, hwait, hhalt]⟩
  rw [allWaiting]
  exact (congrArg _ hall).trans (Bool.and_false _)

/-! ## Reclaiming -/

/-- From `s` to `t` rails fall at most, none below its V_f, and sets and messages stand. -/
structure RailsLowered (s t : State) : Prop where
  rails : ∀ n, vset t n ≤ vset s n ∧ (vset t n = vset s n ∨ vfloor s n ≤ vset t n)
  floors : ∀ n, vfloor t n = vfloor s n
  rest : setsAndOut t = setsAndOut s

/-- The rail of a die that had a loan, lowered (R50). -/
def lowerRail (s : State) (n : Nat) : State :=
  if s.pfld .PD_TEMPOn_VSET n ≤ s.pfld .PD_TEMPOn_VF n then s
  else freeRail s n (s.pfld .PD_TEMPOn_VF n) (s.pfld .PD_TEMPOn_VSET n)

theorem lowerRail_lowers {s t : State} (hfits : ∀ n, vset s n < 2 ^ 10) (h : RailsLowered s t) (n : Nat) : RailsLowered s (lowerRail t n) := by
  obtain ⟨hrails, hfloors, hrest⟩ := h
  unfold lowerRail
  split
  · exact ⟨hrails, hfloors, hrest⟩
  · refine ⟨fun m => ?_, fun m => (pfld_freeRail t n _ _ (by simp) m).trans (hfloors m), hrest⟩
    by_cases hm : m = n
    · subst hm
      have hle := (hrails m).1
      have hlt := hfits m
      obtain ⟨hlow, hhigh⟩ := vset_freeRail_bounds t m (lo := vfloor t m) (hi := vset t m) (Nat.le_of_not_le ‹_›) (by omega)
      rw [hfloors m] at hlow
      exact ⟨hhigh.trans hle, .inr (by rw [← hfloors m] at hlow ⊢; exact hlow)⟩
    · rw [vset_freeRail_ne t _ _ hm]
      exact hrails m

theorem revokeLoans_lowers (s : State) (hfits : ∀ n, vset s n < 2 ^ 10) (gone : Loan → Bool) : RailsLowered s (revokeLoans s gone) := by
  have hfold (l : List Nat) : ∀ t, RailsLowered s t → RailsLowered s (l.foldl lowerRail t) := by
    induction l with
    | nil => exact fun _ h => h
    | cons n l ih => exact fun t h => ih _ (lowerRail_lowers hfits h n)
  exact hfold _ _ ⟨fun _ => ⟨le_rfl, .inl rfl⟩, fun _ => rfl, rfl⟩

/-! ## Lenders -/

theorem vset_onCore (s : State) (i : SetId) (k : Nat) (f : Core → Core) (n : Nat) : vset (s.onCore i k f) n = vset s n := pfld_onSet ..

theorem vfloor_onCore (s : State) (i : SetId) (k : Nat) (f : Core → Core) (n : Nat) : vfloor (s.onCore i k f) n = vfloor s n := pfld_onSet ..

theorem vClass_onCore (s : State) (i : SetId) (k : Nat) (f : Core → Core) : vClass (s.onCore i k f) = vClass s := by
  simp [vClass, State.onCore]

/-- Settles O2: a share goes to one rail, which takes a setpoint up to V_class; a revoked one leaves its rail at V_f or above. -/
theorem lendingKeepsFloor : Obligations.LendingKeepsFloor := by
  refine ⟨fun s i k hlend hrun hnot hlost hwait => ?_, fun s i k hinv => ?_⟩
  · let u := s.onCore i k.val fun c => { c with lender := true }
    have hsets := setsAndOut_lendShare u (80 * i.val + k) (coreShare s i k) (lendTo s i k)
    have hexec : exec (.lendThreshold i k) s = .next (lendShare u (80 * i.val + k) (coreShare s i k) (lendTo s i k)) := by
      change execLendThreshold i k s = _
      rw [execLendThreshold]
      simp [hlend, hrun, hnot, hlost, allWaiting_of_waiting hwait, u]
    refine ⟨_, hexec, ?_, fun n _ => ?_, ?_, ?_⟩
    · rw [State.core, st_of_setsAndOut hsets]
      exact congrArg Core.lender (core_onCore_same ..)
    · have hrails := vset_lendShare u (80 * i.val + k) (coreShare s i k) (lendTo s i k) n
      rwa [vset_onCore, vClass_onCore] at hrails
    · rw [st_of_setsAndOut hsets, mem_onCore]
    · rw [out_of_setsAndOut hsets, out_onCore]
  · by_cases hidle : (s.core i k).lender = false ∨ allWaiting s i k = true
    · refine ⟨s, if_pos (by simpa using hidle), fun ⟨n, hn, h0, h4, h6⟩ => ?_, fun _ _ => ⟨le_rfl, .inl rfl⟩, rfl, rfl⟩
      exact hidle.resolve_right (by simp [not_allWaiting_of_running hn h0 h4 h6])
    · let u := s.onCore i k.val fun c => { c with lender := false }
      have hfits (n : Nat) : vset u n < 2 ^ 10 := by
        rw [vset_onCore]
        exact getField_lt_of_regsOk hinv.regs .PD_TEMPOn_VSET n
      obtain ⟨hrails, -, hsets⟩ := revokeLoans_lowers u hfits fun x => x.who == 80 * i.val + k
      refine ⟨_, if_neg (by simpa using hidle), fun _ => ?_, fun n _ => ?_, ?_, ?_⟩
      · rw [State.core, st_of_setsAndOut hsets]
        exact congrArg Core.lender (core_onCore_same ..)
      · have hn := hrails n
        rwa [vset_onCore, vfloor_onCore] at hn
      · rw [st_of_setsAndOut hsets, mem_onCore]
      · rw [out_of_setsAndOut hsets, out_onCore]

/-! ## The end of a cooldown -/

/-- The state after reset with a microsecond of a cooldown counted. -/
def coolingState : State := { State.reset with pm := { State.reset.pm with coolUs := 1 } }

/-- Refutes O3: the end of a cooldown also clears the microseconds that the power manager has counted of it. -/
theorem not_sprint : ¬ Obligations.Sprint := by
  intro h
  obtain ⟨⟨-, -, hcooled⟩, -⟩ := h
  have hnext := hcooled coolingState
  have hcounted : (1 : Nat) = 0 := by
    injection hnext with hstate
    exact (congrArg (fun t => t.pm.coolUs) hstate).symm
  exact absurd hcounted (by decide)

end Sys2Proof.Machine
end

section
/-! PROOF. Power samples, the cap, junction readings, breaches and ageing (R43, R46, R56 to R58). -/

namespace Sys2Proof.Machine

/-! ## A microsecond of fabric time -/

/-- From `s` to `t` no more than fabric time, its slewing and the counters of held frames go on. -/
structure TimeOnly (s t : State) : Prop where
  regs : t.regs = s.regs
  pm : t.pm = s.pm
  out : t.out = s.out
  sets : ∀ j, (t.st j).mem = (s.st j).mem ∧ (t.st j).circ = (s.st j).circ ∧ (t.st j).lost = (s.st j).lost
  fields : ∀ j f x, f ≠ .LINK_FT_TIME → f ≠ .LINK_XP_CNTp_HOLD → t.fld j f x = s.fld j f x

namespace TimeOnly

variable {s t u : State}

theorem refl (s : State) : TimeOnly s s := ⟨rfl, rfl, rfl, fun _ => ⟨rfl, rfl, rfl⟩, fun _ _ _ _ _ => rfl⟩

theorem trans (h : TimeOnly s t) (k : TimeOnly t u) : TimeOnly s u :=
  ⟨k.regs.trans h.regs, k.pm.trans h.pm, k.out.trans h.out,
    fun j => ⟨(k.sets j).1.trans (h.sets j).1, (k.sets j).2.1.trans (h.sets j).2.1, (k.sets j).2.2.trans (h.sets j).2.2⟩,
    fun j f x htime hhold => (k.fields j f x htime hhold).trans (h.fields j f x htime hhold)⟩

theorem onSet (s : State) (i : SetId) {f : SetSt → SetSt}
    (hf : ∀ t, (f t).regs = t.regs ∧ (f t).mem = t.mem ∧ (f t).circ = t.circ ∧ (f t).lost = t.lost) :
    TimeOnly s (s.onSet i f) := by
  refine ⟨s.onSet_regs .., s.onSet_pm .., s.onSet_out .., fun j => ?_, fun j g x _ _ => fld_onSet_of_regs s i (fun t => (hf t).1) j g x⟩
  by_cases hj : j = i
  · rw [hj, State.st_onSet_same]
    exact (hf _).2
  · rw [State.st_onSet_ne _ _ hj]
    exact ⟨rfl, rfl, rfl⟩

theorem setFld (s : State) (i : SetId) {f : Field} (ix v : Nat) (h : f = .LINK_FT_TIME ∨ f = .LINK_XP_CNTp_HOLD) :
    TimeOnly s (s.setFld i f ix v) := by
  refine ⟨s.setFld_regs .., s.setFld_pm .., s.setFld_out .., fun j => ?_, fun j g x htime hhold => ?_⟩
  · by_cases hj : j = i
    · rw [hj, st_setFld_same]
      exact ⟨rfl, rfl, rfl⟩
    · rw [st_setFld_ne _ _ _ _ _ hj]
      exact ⟨rfl, rfl, rfl⟩
  · have hg : g ≠ f := by rcases h with rfl | rfl <;> assumption
    exact s.fld_setFld_ne _ (by simp [hg])

theorem foldl {α : Type} {f : State → α → State} (hf : ∀ s x, TimeOnly s (f s x)) (l : List α) : ∀ s, TimeOnly s (l.foldl f s) := by
  induction l with
  | nil => exact refl
  | cons x l ih => exact fun s => (hf s x).trans (ih _)

theorem tickTime (s : State) (i : SetId) : TimeOnly s (tickTime s i) := by
  unfold Machine.tickTime
  exact ((onSet s i (by intro; exact ⟨rfl, rfl, rfl, rfl⟩)).trans (foldl (fun s l => setFld s i l _ (.inr rfl)) _ _)).trans
    (setFld _ i 0 _ (.inl rfl))

theorem circulates_eq (h : TimeOnly s t) (i : SetId) : circulates t i = circulates s i := by
  obtain ⟨-, hcirc, hlost⟩ := h.sets i
  have hmode := h.fields i .CIRC_CFG_MODE 0 (by simp) (by simp)
  have hstate := h.fields i .CIRC_STAT_STATE 0 (by simp) (by simp)
  simp only [circulates, circ, promenade, hcirc, hlost, hmode, hstate]

end TimeOnly

/-- While a place moves no frames its rounds change nothing. -/
theorem circPump_of_idle {s : State} {i : SetId} (h : circulates s i = false) : circPump s i = s := by
  have hround : circRound s i = s := by
    rw [circRound, h]
    rfl
  have hrounds (n : Nat) : circRounds i n s = s := by
    induction n with
    | zero => rfl
    | succ n ih => rw [circRounds, hround, ih]
  exact hrounds _

theorem tickSet_timeOnly {s : State} {i : SetId} (h : circulates s i = false) : TimeOnly s (tickSet s i) := by
  have htick := TimeOnly.tickTime s i
  rw [tickSet, circPump_of_idle (by rw [htick.circulates_eq, h])]
  exact htick

theorem ticks_timeOnly {s : State} (h : ∀ i, circulates s i = false) : TimeOnly s (tickSet (tickSet s 0) 1) := by
  have h0 := tickSet_timeOnly (h 0)
  exact h0.trans (tickSet_timeOnly (by rw [h0.circulates_eq, h 1]))

/-! ## Power samples -/

@[simp] theorem pfld_onPm (s : State) (f : PowerMgr → PowerMgr) (g : Field) (ix : Nat) : (onPm s f).pfld g ix = s.pfld g ix := rfl

/-- A sample taken and shown (R43). -/
def sampled (s : State) (watts mv amps : Nat) : State :=
  let l := watts :: s.pm.samples.take 999
  let s := onPm s fun p => { p with samples := l }
  let s := s.setPfld .PD_POWER_MEAN_1MS 0 (l.foldl (· + ·) 0 / l.length)
  let s := s.setPfld .PD_POWER_PEAK_1US 0 (max watts (s.pfld .PD_POWER_PEAK_1US))
  (s.setPfld .PD_SENSE_VIN 0 mv).setPfld .PD_SENSE_IIN 0 amps

theorem pfld_sampled {f : Field} (hf : f ∉ [Field.PD_POWER_MEAN_1MS, .PD_POWER_PEAK_1US, .PD_SENSE_VIN, .PD_SENSE_IIN]) (s : State)
    (watts mv amps ix : Nat) : (sampled s watts mv amps).pfld f ix = s.pfld f ix := by
  simp only [List.mem_cons, List.not_mem_nil, or_false, not_or] at hf
  obtain ⟨hmean, hpeak, hvin, hiin⟩ := hf
  simp [sampled, hmean, hpeak, hvin, hiin]

/-- What follows a sample: a sprint or the envelope is regulated (R43, R45, R53). -/
def regulated (s : State) (watts mean : Nat) (dies : List Nat) : Out :=
  if s.pfld .PD_SPRINT_STAT_ACTIVE = 1 then .next (if 5000 < watts then capSprint s dies else s)
  else if s.pins.perst ∨ s.pfld .PD_CLASS_ACCEPTED = 0 then .next s
  else if envelope s < mean then .next (throttle s dies)
  else if s.pm.envLow.isEmpty then .next s
  else .next (unthrottle s)

theorem execPowerSample_eq {s : State} (hgood : s.pins.pwrGood = true) (watts mv amps : Nat) (dies : List Nat) :
    execPowerSample watts dies mv amps s =
    regulated (sprintTick (tickSet (tickSet (sampled s watts mv amps) 0) 1)) watts
      ((watts :: s.pm.samples.take 999).foldl (· + ·) 0 / (watts :: s.pm.samples.take 999).length) dies := by
  simp only [execPowerSample, hgood, regulated, sampled, onPm, List.take_succ_cons, List.length_cons]
  simp

/-- With nothing to regulate, a microsecond takes its sample and lets time go on. -/
theorem execPowerSample_of_steady {s : State} (watts mv amps : Nat) (dies : List Nat) (hgood : s.pins.pwrGood = true) (henv : s.pm.envLow = [])
    (hsprint : s.pfld .PD_SPRINT_STAT_ACTIVE = 0) (hcool : s.pfld .PD_SPRINT_STAT_COOL_LEFT = 0) (hidle : ∀ i, circulates s i = false)
    (hmean : (watts :: s.pm.samples.take 999).foldl (· + ·) 0 / (watts :: s.pm.samples.take 999).length ≤ envelope s) :
    execPowerSample watts dies mv amps s = .next (tickSet (tickSet (sampled s watts mv amps) 0) 1) ∧
      TimeOnly (sampled s watts mv amps) (tickSet (tickSet (sampled s watts mv amps) 0) 1) := by
  have htime := ticks_timeOnly (s := sampled s watts mv amps) hidle
  refine ⟨?_, htime⟩
  rw [execPowerSample_eq hgood]
  generalize tickSet (tickSet (sampled s watts mv amps) 0) 1 = t at htime ⊢
  have hpfld {f : Field} (hf : f ∉ [Field.PD_POWER_MEAN_1MS, .PD_POWER_PEAK_1US, .PD_SENSE_VIN, .PD_SENSE_IIN]) : t.pfld f = s.pfld f := by
    rw [State.pfld, htime.regs]
    exact pfld_sampled hf s watts mv amps 0
  have hactive : t.pfld .PD_SPRINT_STAT_ACTIVE = 0 := by rw [hpfld (by simp), hsprint]
  have hcooled : t.pfld .PD_SPRINT_STAT_COOL_LEFT = 0 := by rw [hpfld (by simp), hcool]
  have htick : sprintTick t = t := by
    rw [sprintTick, if_neg (by omega), if_pos hcooled]
  have henvelope : envelope t = envelope s := by
    simp only [envelope, hpfld (f := .PD_CLASS_ACCEPTED) (by simp), hpfld (f := .PD_CLASS_ENV) (by simp), hpfld (f := .PD_ENV_CAP_CAP) (by simp)]
  have hlow : t.pm.envLow = [] := by rw [htime.pm]; exact henv
  rw [htick, regulated, if_neg (by omega), henvelope, if_neg (Nat.not_lt.2 hmean), hlow]
  simp

/-! ## The cap -/

theorem pfld_normalRails (s : State) {f : Field} (h : f ≠ .PD_TEMPOn_VSET) (ix : Nat) : (normalRails s).pfld f ix = s.pfld f ix := by
  refine foldl_keeps (fun s : State => s.pfld f ix) (fun s n => ?_) _ s
  dsimp only
  split
  · rfl
  · exact pfld_freeRail s n _ _ h ix

theorem setsAndOut_normalRails (s : State) : setsAndOut (normalRails s) = setsAndOut s := by
  refine foldl_keeps setsAndOut (fun s n => ?_) _ s
  dsimp only
  split <;> rfl

/-- The cooldown of a sprint, in 10 ms units (R54). -/
def cooldownUnits (s : State) : Nat := (max (3 * (1000 * s.sprintRan + s.pm.sprintUs)) 2000000 + 9999) / 10000

/-- The registers of a sprint that has ended, before the rails go back (R53). -/
def sprintShown (s : State) (cause : Nat) : State :=
  (((s.setPfld .PD_SPRINT_STAT_ACTIVE 0 0).setPfld .PD_SPRINT_STAT_LEFT 0 0).setPfld .PD_SPRINT_STAT_END 0 cause).setPfld
    .PD_SPRINT_STAT_COOL_LEFT 0 (cooldownUnits s)

theorem sprintEnd_of_active {s : State} (h : s.pfld .PD_SPRINT_STAT_ACTIVE ≠ 0) (cause : Nat) : sprintEnd s cause =
    normalRails { sprintShown s cause with sprintRan := 0, pm := { s.pm with
      sprintUs := 0, coolUs := 10000 * cooldownUnits s - max (3 * (1000 * s.sprintRan + s.pm.sprintUs)) 2000000 } } :=
  if_neg h

theorem pfld_sprintEnd_of_active {s : State} (h : s.pfld .PD_SPRINT_STAT_ACTIVE ≠ 0) (cause : Nat) {f : Field} (hf : f ≠ .PD_TEMPOn_VSET)
    (ix : Nat) : (sprintEnd s cause).pfld f ix = (sprintShown s cause).pfld f ix := by
  rw [sprintEnd_of_active h, pfld_normalRails _ hf]
  rfl

/-- The end of a sprint keeps every package register but its own four and the rails. -/
theorem pfld_sprintEnd (s : State) (cause : Nat) {f : Field} (hf : f ∉ [Field.PD_SPRINT_STAT_ACTIVE, .PD_SPRINT_STAT_LEFT, .PD_SPRINT_STAT_END,
    .PD_SPRINT_STAT_COOL_LEFT, .PD_TEMPOn_VSET]) (ix : Nat) : (sprintEnd s cause).pfld f ix = s.pfld f ix := by
  simp only [List.mem_cons, List.not_mem_nil, or_false, not_or] at hf
  obtain ⟨hactive, hleft, hend, hcool, hrail⟩ := hf
  by_cases hrun : s.pfld .PD_SPRINT_STAT_ACTIVE = 0
  · rw [sprintEnd, if_pos hrun]
  · rw [pfld_sprintEnd_of_active hrun cause hrail]
    simp [sprintShown, hactive, hleft, hend, hcool]

theorem setsAndOut_sprintEnd (s : State) (cause : Nat) : setsAndOut (sprintEnd s cause) = setsAndOut s := by
  by_cases hrun : s.pfld .PD_SPRINT_STAT_ACTIVE = 0
  · rw [sprintEnd, if_pos hrun]
  · rw [sprintEnd_of_active hrun, setsAndOut_normalRails]
    rfl

/-- No sprint runs after its end, whose cause shows where one ran. -/
theorem sprintEnd_ends (s : State) {cause : Nat} (hcause : cause < 8) : (sprintEnd s cause).pfld .PD_SPRINT_STAT_ACTIVE = 0 ∧
    (s.pfld .PD_SPRINT_STAT_ACTIVE = 1 → (sprintEnd s cause).pfld .PD_SPRINT_STAT_END = cause) := by
  by_cases hrun : s.pfld .PD_SPRINT_STAT_ACTIVE = 0
  · rw [sprintEnd, if_pos hrun]
    exact ⟨hrun, fun h => absurd h (by omega)⟩
  · have hlen : Field.PD_SPRINT_STAT_END.info.len = 3 := rfl
    rw [pfld_sprintEnd_of_active hrun cause (by simp), pfld_sprintEnd_of_active hrun cause (by simp)]
    simp [sprintShown, hlen, Nat.mod_eq_of_lt hcause]

/-- Settles O1: a steady microsecond takes its sample and lets time go on; a cap ends a sprint, then is taken or refused. -/
theorem envelopeAndCap : Obligations.EnvelopeAndCap := by
  refine ⟨fun s watts mv amps dies hgood henv hsprint hcool hidle hmean => ?_, fun s v hv => ?_⟩
  · obtain ⟨hexec, htime⟩ := execPowerSample_of_steady watts mv amps dies hgood henv hsprint hcool hidle hmean
    have hregs {f : Field} (ix : Nat) : (tickSet (tickSet (sampled s watts mv amps) 0) 1).pfld f ix = (sampled s watts mv amps).pfld f ix := by
      rw [State.pfld, htime.regs, State.pfld]
    have hmeanLen : Field.PD_POWER_MEAN_1MS.info.len = 13 := rfl
    have hpeakLen : Field.PD_POWER_PEAK_1US.info.len = 13 := rfl
    refine ⟨_, hexec, htime.pm, ?_, ?_, fun n => ?_, htime.out, (htime.sets 0).1, (htime.sets 1).1⟩
    · rw [hregs]
      simp [sampled, hmeanLen]
    · rw [hregs]
      simp [sampled, hpeakLen]
    · exact (hregs n).trans (pfld_sampled (by simp) s watts mv amps n)
  · have hexec : exec (.envCapWrite v) s = .next (writeCap s v) := by
      change Host.Outcome.next (writeCap s (v % 512)) = _
      rw [Nat.mod_eq_of_lt hv]
    have hkeep {f : Field} (hf : f ∉ [Field.PD_SPRINT_STAT_ACTIVE, .PD_SPRINT_STAT_LEFT, .PD_SPRINT_STAT_END,
        .PD_SPRINT_STAT_COOL_LEFT, .PD_TEMPOn_VSET]) : (sprintEnd s 3).pfld f = s.pfld f := pfld_sprintEnd s 3 hf 0
    have hplan := hkeep (f := .PD_CLASS_P_PLAN) (by simp)
    have henv := hkeep (f := .PD_CLASS_ENV) (by simp)
    have hcap := hkeep (f := .PD_ENV_CAP_CAP) (by simp)
    have herr := hkeep (f := .PD_ENV_CAP_CAP_ERR) (by simp)
    have hcapLen : Field.PD_ENV_CAP_CAP.info.len = 9 := rfl
    have herrLen : Field.PD_ENV_CAP_CAP_ERR.info.len = 1 := rfl
    obtain ⟨hends, hcause⟩ := sprintEnd_ends s (cause := 3) (by omega)
    have hsets := setsAndOut_sprintEnd s 3
    refine ⟨_, hexec, ?_⟩
    simp only [writeCap, hplan, henv]
    by_cases hout : v < s.pfld .PD_CLASS_P_PLAN ∨ s.pfld .PD_CLASS_ENV < v
    · rw [if_pos hout]
      refine ⟨fun hin => absurd hout (by omega), fun _ => by simp [hcap, herrLen], by simp [hends], fun h => by simp [hcause h], ?_, ?_, ?_⟩
      · exact out_of_setsAndOut hsets
      · exact (congrArg Prod.fst hsets :)
      · exact (congrArg (fun p => p.2.1) hsets :)
    · rw [if_neg hout]
      refine ⟨fun _ => by simp [herr, hcapLen, hv, Nat.mod_eq_of_lt], fun h => absurd h hout, by simp [hends],
        fun h => by simp [hcause h], ?_, ?_, ?_⟩
      · exact out_of_setsAndOut hsets
      · exact (congrArg Prod.fst hsets :)
      · exact (congrArg (fun p => p.2.1) hsets :)

end Sys2Proof.Machine
end

section
/-! PROOF. Junction readings, rail faults, breaches and ageing (R56 to R58, R429). -/

namespace Sys2Proof.Machine

section
variable {s : State} {d : Fin 20} {temp margin : Nat} (hgood : s.pins.pwrGood = true) (hmargin : margin < 1000)
include hgood hmargin

/-- A reading of a link die that is not too hot shows itself (R39, R56). -/
theorem execJunctionSense_of_link (hlow : 16 ≤ d.val) (hhigh : d.val < 18) (htemp : temp < 115)
    (hsprint : temp < 105 ∨ s.pfld .PD_SPRINT_STAT_ACTIVE = 0) : execJunctionSense d temp margin s =
      .next ((s.setPfld .PD_TEMPOn_TJ d.val temp).setPfld .PD_TEMPOn_MARGIN d.val margin) := by
  have hcalm : ¬(105 ≤ temp ∧ s.pfld .PD_SPRINT_STAT_ACTIVE = 1) := by omega
  have hdie : ¬d.val < 16 := by omega
  have hbreach : ¬1000 ≤ margin := by omega
  have hhot : ¬115 ≤ temp := by omega
  simp [execJunctionSense, hgood, hhigh, hlow, hdie, hbreach, hhot, hcalm]

/-- A powered logic die at 115 °C: its sprint ends and its rail is removed (R56). -/
theorem execJunctionSense_of_trip (hhigh : d.val < 18) (htemp : 115 ≤ temp) (hpower : vset s d.val ≠ 0) : execJunctionSense d temp margin s =
    .next (removeRail { sprintEnd ((s.setPfld .PD_TEMPOn_TJ d.val temp).setPfld .PD_TEMPOn_MARGIN d.val margin) 2 with
      pins := { s.pins with thermTrip := true } } d.val .thermTrip) := by
  have hbreach : ¬1000 ≤ margin := by omega
  have hset : vset ((s.setPfld .PD_TEMPOn_TJ d.val temp).setPfld .PD_TEMPOn_MARGIN d.val margin) d.val ≠ 0 := by
    simpa [vset] using hpower
  simp [execJunctionSense, hgood, hhigh, hbreach, htemp, hset]

end

/-- A rail that has failed: the report, and the loss of the die's set or of the package (R429, R431). -/
theorem removeRail_eq (s : State) (n : Nat) (c : FC) : removeRail s n c = if n < 18
    then sprintEnd (loseSet ((reportPkg s { c.fr with sev := 3, action := 8, die := n }).setPfld .PD_TEMPOn_VSET n 0) (dieSet n)) 4
    else losePackage (reportPkg s { c.fr with sev := 4, action := 9, die := n }) := by
  by_cases hn : n < 18 <;> simp [removeRail, hn]

/-- A fault of a floor shows its die and cause, moves no rail and touches no set (R57). -/
theorem floorFault_envelope (s : State) (n : Nat) (hn : n < 32) : (floorFault s n 0).pfld .PD_FLOOR_EVT_ENVELOPE = 1 ∧
    (floorFault s n 0).pfld .PD_FLOOR_EVT_DIE = n ∧ (floorFault s n 0).pfld .PD_FLOOR_EVT_ACTIVE = s.pfld .PD_FLOOR_EVT_ACTIVE ∧
    (∀ m, vset (floorFault s n 0) m = vset s m) := by
  have hdie : Field.PD_FLOOR_EVT_DIE.info.len = 5 := rfl
  have henv : Field.PD_FLOOR_EVT_ENVELOPE.info.len = 1 := rfl
  simp [floorFault, vset, hdie, henv, Nat.mod_eq_of_lt hn]

/-- The bit of a breach's cause (Table 2-13). -/
def floorEvent : Nat → Field
  | 0 => .PD_FLOOR_EVT_ENVELOPE
  | 1 => .PD_FLOOR_EVT_THERMAL
  | 2 => .PD_FLOOR_EVT_AGEING
  | 3 => .PD_FLOOR_EVT_SUPPLY
  | _ => .PD_FLOOR_EVT_UNEXPLAINED

theorem floorEvent_ne_age (cause : Nat) : Field.PD_TEMPOn_AGE ≠ floorEvent cause := by
  unfold floorEvent
  split <;> simp

theorem besidesReports_floorFault (s : State) (n cause : Nat) : besidesReports (floorFault s n cause) =
    besidesReports ((s.setPfld (floorEvent cause) 0 1).setPfld .PD_FLOOR_EVT_DIE 0 n) := by
  unfold floorFault
  dsimp only
  split
  · rw [besidesReports_ringAdd, besidesReports_reportPkg]
    rfl
  · rw [besidesReports_reportPkg]
    rfl

section
variable (s : State) (n cause ix : Nat)

theorem age_floorFault : (floorFault s n cause).pfld .PD_TEMPOn_AGE ix = s.pfld .PD_TEMPOn_AGE ix := by
  rw [pfld_of_besidesReports (besidesReports_floorFault s n cause), State.pfld_setPfld_ne _ _ (by simp),
    State.pfld_setPfld_ne _ _ (by simp [floorEvent_ne_age])]

theorem set0_floorFault : (floorFault s n cause).set0 = s.set0 := by
  rw [set0_of_besidesReports (besidesReports_floorFault s n cause)]
  rfl

theorem set1_floorFault : (floorFault s n cause).set1 = s.set1 := by
  rw [set1_of_besidesReports (besidesReports_floorFault s n cause)]
  rfl

theorem showFloor_keeps : (showFloor s n).pfld .PD_TEMPOn_AGE ix = s.pfld .PD_TEMPOn_AGE ix ∧ (showFloor s n).set0 = s.set0 ∧
    (showFloor s n).set1 = s.set1 := by
  unfold showFloor
  dsimp only
  split <;> simp

end

/-- A step of a die's guard is kept and shown (R58). -/
theorem execAgeingStep_effect (d : Fin 16) (s : State) : ∃ t, execAgeingStep d s = .next t ∧
    t.pfld .PD_TEMPOn_AGE d.val = min 255 (s.pfld .PD_TEMPOn_AGE d.val + 1) ∧ t.set0 = s.set0 ∧ t.set1 = s.set1 := by
  let a := min 255 (s.pfld .PD_TEMPOn_AGE d.val + 1)
  let u := promptWrite ((s.setPfld .PD_TEMPOn_AGE d.val a).setAlm (8920 + d.val) 1 a) 2 (leBytes 1 d.val ++ leBytes 1 a)
  have hkept : besidesReports u = besidesReports (s.setPfld .PD_TEMPOn_AGE d.val a) := (besidesReports_promptWrite ..).trans rfl
  have hlen : Field.PD_TEMPOn_AGE.info.len = 8 := rfl
  have hage : u.pfld .PD_TEMPOn_AGE d.val = a := by
    rw [pfld_of_besidesReports hkept, State.pfld_setPfld_same, hlen]
    exact Nat.mod_eq_of_lt (Nat.lt_of_le_of_lt (Nat.min_le_left ..) (by omega))
  have hset0 : u.set0 = s.set0 := (set0_of_besidesReports hkept).trans rfl
  have hset1 : u.set1 = s.set1 := (set1_of_besidesReports hkept).trans rfl
  obtain ⟨hage', hset0', hset1'⟩ := showFloor_keeps u d.val d.val
  refine ⟨_, rfl, ?_⟩
  change (ite _ (floorFault (showFloor u d.val) d.val 2) (showFloor u d.val)).pfld .PD_TEMPOn_AGE d.val = a ∧
    (ite _ (floorFault (showFloor u d.val) d.val 2) (showFloor u d.val)).set0 = s.set0 ∧
    (ite _ (floorFault (showFloor u d.val) d.val 2) (showFloor u d.val)).set1 = s.set1
  split
  · rw [age_floorFault, set0_floorFault, set1_floorFault, hage', hset0', hset1']
    exact ⟨hage, hset0, hset1⟩
  · rw [hage', hset0', hset1']
    exact ⟨hage, hset0, hset1⟩

/-- A breach of a die held below V_f by the envelope (R57). -/
theorem execFloorBreach_of_envelope {s : State} (d : Fin 18) {margin : Nat} (hmargin : margin < 1000) (henv : s.pm.envLow.contains d.val = true) :
    ∃ t, execFloorBreach d margin s = .next t ∧ t.pfld .PD_FLOOR_EVT_ENVELOPE = 1 ∧ t.pfld .PD_FLOOR_EVT_DIE = d.val ∧
      t.pfld .PD_FLOOR_EVT_ACTIVE = 1 ∧ (∀ n, vset t n = vset s n) ∧ t.set0 = s.set0 ∧ t.set1 = s.set1 := by
  let u := onPm (s.setPfld .PD_TEMPOn_MARGIN d.val margin) fun p => { p with
    breach := if p.breach.contains d.val then p.breach else p.breach ++ [d.val] }
  have hbreach : u.pm.breach ≠ [] := by
    change (if s.pm.breach.contains d.val then s.pm.breach else s.pm.breach ++ [d.val]) ≠ []
    split
    · rintro h
      simp_all
    · simp
  have hshown : (showBreach u).pfld .PD_FLOOR_EVT_ACTIVE = 1 := by
    have hlen : Field.PD_FLOOR_EVT_ACTIVE.info.len = 1 := rfl
    simp [showBreach, hbreach, bitOf, hlen]
  have hexec : execFloorBreach d margin s = .next (floorFault (showBreach u) d.val 0) := by
    have hcause : breachCause u d.val = 0 := if_pos henv
    rw [execFloorBreach]
    dsimp only
    rw [if_neg (by omega)]
    exact congrArg (fun c => Host.Outcome.next (floorFault (showBreach u) d.val c)) hcause
  obtain ⟨henvelope, hdie, hactive, hrails⟩ := floorFault_envelope (showBreach u) d.val (by omega)
  refine ⟨_, hexec, henvelope, hdie, hactive.trans hshown, fun n => ?_, (set0_floorFault ..).trans rfl, (set1_floorFault ..).trans rfl⟩
  rw [hrails]
  simp [vset, showBreach, u]

/-- Settles O4: a reading by its branches, a failed rail by `removeRail_eq`, a breach and a step of the guard by what a floor fault leaves. -/
theorem heatRailsFloors : Obligations.HeatRailsFloors := by
  refine ⟨fun s d temp margin hlow hhigh hgood htemp hsprint hmargin => ?_, fun s d temp margin hhigh hgood htemp hmargin hpower => ?_,
    fun s d => ?_, fun s d margin hmargin henv => ?_, fun s d => ?_⟩
  · exact execJunctionSense_of_link hgood hmargin hlow hhigh htemp hsprint
  · exact execJunctionSense_of_trip hgood hmargin hhigh htemp hpower
  · change Host.Outcome.next (removeRail s d.val .rail) = _
    rw [removeRail_eq]
  · exact execFloorBreach_of_envelope d hmargin henv
  · exact execAgeingStep_effect d s

end Sys2Proof.Machine
end

section
/-! PROOF. What a store leaves whatever words it meets: the units of both sets and the package's registers (R409 to R412, R437). -/

namespace Sys2Proof.Machine

/-- A set but for its registers, its memory and what the end of a step or of a job makes of bad words. -/
def SetSt.units (t : SetSt) : SetSt :=
  { t with regs := [], mem := [], chk := [], maskedAt := [], stepBad := false, badWords := [], restart := [], endDue := [] }

/-- A state but for the sets' memories and registers and for what reports change. -/
def besidesStore (s : State) : State :=
  let u := besidesReports s
  { u with set0 := u.set0.units, set1 := u.set1.units }

theorem besidesStore_of_besidesReports {s t : State} (h : besidesReports t = besidesReports s) : besidesStore t = besidesStore s := by
  rw [besidesStore, h, besidesStore]

theorem besidesStore_onSet (s : State) (i : SetId) {f : SetSt → SetSt} (hf : ∀ t, (f t).units = t.units) :
    besidesStore (s.onSet i f) = besidesStore s := by
  have h0 : { besidesStore s with set0 := (f s.set0).units } = besidesStore s := by rw [hf]; rfl
  have h1 : { besidesStore s with set1 := (f s.set1).units } = besidesStore s := by rw [hf]; rfl
  fin_cases i
  · exact h0
  · exact h1

section
variable (s : State) (i : SetId)

@[simp] theorem besidesStore_setFld (f : Field) (ix v : Nat) : besidesStore (s.setFld i f ix v) = besidesStore s :=
  besidesStore_onSet s i (by intro; rfl)

@[simp] theorem besidesStore_addFld (f : Field) (ix n : Nat) : besidesStore (s.addFld i f ix n) = besidesStore s := besidesStore_setFld ..

@[simp] theorem besidesStore_satFld (f : Field) (ix n : Nat) : besidesStore (s.satFld i f ix n) = besidesStore s := besidesStore_setFld ..

@[simp] theorem besidesStore_addAlm (off n v : Nat) : besidesStore (s.addAlm off n v) = besidesStore s := rfl

@[simp] theorem besidesStore_deliver (r : FRec) : besidesStore (deliver s i r) = besidesStore s :=
  besidesStore_of_besidesReports (besidesReports_deliver s i r)

/-! ## Reports of a set -/

@[simp] theorem besidesStore_logRecord (r : FRec) : besidesStore (logRecord s i r) = besidesStore s := by
  have hwords : besidesStore ((List.range 4).foldl (fun t w =>
      t.setFld i .SET_FLOGe_w_REC (4 * s.fld i .SET_FLOG_PTR_HEAD + w) (leAt (r.bytes i) (8 * w) 8)) s) = besidesStore s :=
    foldl_keeps besidesStore (fun t w => besidesStore_setFld ..) _ s
  simp [logRecord, apply_ite besidesStore, hwords]

@[simp] theorem besidesStore_report (r : FRec) : besidesStore (report s i r) = besidesStore s := by
  have hqueue (t : State) (q : List (Nat × FRec)) : besidesStore { t with mpQueue := q } = besidesStore t := rfl
  have hmasked (k v : Nat) : besidesStore (s.onSet i fun t => { t with maskedAt := SMap.put 0 t.maskedAt k v }) = besidesStore s :=
    besidesStore_onSet s i (by intro; rfl)
  simp only [report, apply_ite besidesStore, besidesStore_deliver, besidesStore_logRecord, besidesStore_setFld, hqueue, hmasked, ite_self]

/-! ## Words -/

@[simp] theorem besidesStore_storePiece (a : Nat) (d : List Byte) : besidesStore (storePiece s i a d) = besidesStore s := by
  unfold storePiece
  split
  · rfl
  · exact besidesStore_onSet s i (by intro; rfl)

@[simp] theorem besidesStore_storeRaw (a : Nat) (d : List Byte) : besidesStore (storeRaw s i a d) = besidesStore s := by simp [storeRaw]

@[simp] theorem besidesStore_zeroPiece (a n : Nat) : besidesStore (zeroPiece s i a n) = besidesStore s := by
  unfold zeroPiece
  split
  · rfl
  · exact besidesStore_onSet s i (by intro; rfl)

@[simp] theorem besidesStore_zeroFill (a n : Nat) : besidesStore (zeroFill s i a n) = besidesStore s := by
  unfold zeroFill
  split
  · exact foldl_keeps besidesStore (fun t k => besidesStore_zeroPiece ..) _ s
  · exact besidesStore_zeroPiece ..

@[simp] theorem besidesStore_countCorr (a : Nat) : besidesStore (countCorr s i a) = besidesStore s := by
  unfold countCorr
  dsimp only
  split <;> simp

@[simp] theorem besidesStore_countUncorr (a : Nat) (poison : Bool) : besidesStore (countUncorr s i a poison) = besidesStore s := by
  unfold countUncorr
  dsimp only
  split <;> simp

@[simp] theorem besidesStore_markErr (a : Nat) : besidesStore (markErr s i a) = besidesStore s := by
  unfold markErr
  split <;> simp

@[simp] theorem besidesStore_mseErr (f : Field) (st n layer tag : Nat) : besidesStore (mseErr s i f st n layer tag) = besidesStore s := by
  simp [mseErr]

@[simp] theorem besidesStore_restoreRegion (r : Rgn) : besidesStore (restoreRegion s i r) = besidesStore s := by
  refine (foldl_keeps besidesStore (fun t p => ?_) _ _).trans (besidesStore_zeroFill ..)
  dsimp only
  split
  · exact besidesStore_storeRaw ..
  · rfl

@[simp] theorem besidesStore_readWord (a : Nat) : besidesStore (readWord s i a).2.2 = besidesStore s := by
  unfold readWord
  dsimp only
  split
  · exact besidesStore_countUncorr ..
  split
  · rfl
  · dsimp only
    split <;> simp
  · exact besidesStore_countUncorr ..

@[simp] theorem besidesStore_operandBad (job tag a : Nat) : besidesStore (operandBad s i job tag a).1 = besidesStore s := by
  have hstep (t : State) : besidesStore (t.onSet i fun t => { t with stepBad := true }) = besidesStore t :=
    besidesStore_onSet t i (by intro; rfl)
  have hword (t : State) : besidesStore (t.onSet i fun t => { t with stepBad := true, badWords := t.badWords ++ [a] }) = besidesStore t :=
    besidesStore_onSet t i (by intro; rfl)
  have hrestart (t : State) (j : Nat) :
      besidesStore (t.onSet i fun t => { t with restart := if t.restart.contains j then t.restart else t.restart ++ [j] }) = besidesStore t :=
    besidesStore_onSet t i (by intro; rfl)
  unfold operandBad
  dsimp only
  split
  · simp
  · simp
  · simp [hword]
  · rw [hstep]
    split
    · exact (hrestart _ _).trans (by simp)
    · simp
  · simp [hstep]

@[simp] theorem besidesStore_storePart (a : Nat) (d : List Byte) : besidesStore (storePart s i a d) = besidesStore s := by
  have hend (t : State) (j : Nat) (ends : Bool) :
      besidesStore (if ends then t.onSet i fun t => { t with endDue := t.endDue ++ [j] } else t) = besidesStore t := by
    split
    · exact besidesStore_onSet t i (by intro; rfl)
    · rfl
  have hread := besidesStore_readWord s i (a / 32 * 32)
  unfold storePart
  dsimp only
  split
  · rfl
  split
  · exact (hend _ _ _).trans ((besidesStore_operandBad ..).trans hread)
  · exact (besidesStore_storeRaw ..).trans hread

@[simp] theorem besidesStore_store (a : Nat) (d : List Byte) : besidesStore (store s i a d) = besidesStore s := by simp [store]

@[simp] theorem besidesStore_poisonWord (a : Nat) : besidesStore (poisonWord s i a) = besidesStore s := by
  unfold poisonWord
  split
  · rfl
  · exact besidesStore_onSet s i (by intro; rfl)

end

/-! ## What stands therefore -/

section
variable {s t : State} (h : besidesStore t = besidesStore s)
include h

theorem units_of_besidesStore (i : SetId) : (t.st i).units = (s.st i).units := by
  have h0 : t.set0.units = s.set0.units := (congrArg State.set0 h :)
  have h1 : t.set1.units = s.set1.units := (congrArg State.set1 h :)
  fin_cases i
  · exact h0
  · exact h1

theorem regs_of_besidesStore : t.regs = s.regs := (congrArg State.regs h :)

theorem core_of_besidesStore (i : SetId) (k : Nat) : t.core i k = s.core i k :=
  (congrArg (fun u : SetSt => SMap.get {} u.cores k) (units_of_besidesStore h i) :)

theorem circ_of_besidesStore (i : SetId) : circ t i = circ s i := (congrArg SetSt.circ (units_of_besidesStore h i) :)

theorem lost_of_besidesStore (i : SetId) : (t.st i).lost = (s.st i).lost := (congrArg SetSt.lost (units_of_besidesStore h i) :)

end

@[simp] theorem core_store (s : State) (i : SetId) (a : Nat) (d : List Byte) (j : SetId) (k : Nat) : (store s i a d).core j k = s.core j k :=
  core_of_besidesStore (besidesStore_store s i a d) j k

@[simp] theorem circ_store (s : State) (i : SetId) (a : Nat) (d : List Byte) (j : SetId) : circ (store s i a d) j = circ s j :=
  circ_of_besidesStore (besidesStore_store s i a d) j

@[simp] theorem regs_store (s : State) (i : SetId) (a : Nat) (d : List Byte) : (store s i a d).regs = s.regs :=
  regs_of_besidesStore (besidesStore_store s i a d)

end Sys2Proof.Machine
end

section
/-! PROOF. A core's prefetch, its slot map, its arrays and its queues (R68, R83, R84, R179). -/

namespace Sys2Proof.Machine

/-! ## Descriptor fetch and slot map (R68, R179) -/

/-- Valid words of an unfenced stack are read as they stand. -/
theorem readOperand_of_clean {s : State} {i : SetId} {a n : Nat} (h : cleanRange s i a n = true) (job tag : Nat) :
    readOperand s i job tag a (n + 1) = (readMem (s.st i).mem a (32 * (n + 1)), false, false, s) := by
  simp [readOperand, readWords, h, zeroBad]

theorem execDescriptorFetch_of_clean {s : State} {i : SetId} {k : CoreId} {n : SlotId} (hidle : slotState s i k.val n.val ≠ 0)
    (hhalt : slotState s i k.val n.val ≠ 6) (hrun : (s.core i k.val).stopped = false) (hroom : (s.slot i k.val n.val).prefetch.length < 8)
    (hmay : fetchOk s i k.val n.val (fetchAddr s i k.val n.val) = true) (hclean : cleanRange s i (fetchAddr s i k.val n.val) 1 = true) :
    execDescriptorFetch i k n s = .next (s.onSlot i k.val n.val fun t => { t with
      prefetch := t.prefetch ++ [(fetchAddr s i k.val n.val, readMem (s.st i).mem (fetchAddr s i k.val n.val) 64)] }) := by
  simp [execDescriptorFetch, hidle, hhalt, hrun, Nat.not_le.2 hroom, hmay, readOperand_of_clean hclean]

/-- The sixteen bits of a slot map come back from its four fields. -/
theorem slotMapWritten_writeSlotMap (s : State) (i : SetId) (k : Nat) {v : Nat} (hv : v < 2 ^ 16) :
    slotMapWritten (writeSlotMap s i k v) i k = v := by
  have h0 : Field.CORE_SLOT_MAP_MAP0.info.len = 4 := rfl
  have h1 : Field.CORE_SLOT_MAP_MAP1.info.len = 4 := rfl
  have h2 : Field.CORE_SLOT_MAP_MAP2.info.len = 4 := rfl
  have h3 : Field.CORE_SLOT_MAP_MAP3.info.len = 4 := rfl
  simp [slotMapWritten, writeSlotMap, h0, h1, h2, h3, bits]
  omega

theorem pending_writeSlotMap (s : State) (i : SetId) (k v : Nat) : (writeSlotMap s i k v).fld i .CORE_SLOT_MAP_SLOT_MAP_PENDING k = 1 := by
  have hlen : Field.CORE_SLOT_MAP_SLOT_MAP_PENDING.info.len = 1 := rfl
  simp [writeSlotMap, hlen]

/-- Settles O10: a clean fetch appends what it read, a written map waits, and it comes into force once nothing needs the old one. -/
theorem fetchAndSlotMap : Obligations.FetchAndSlotMap := by
  refine ⟨fun s i k n hidle hhalt hrun hroom hmay hclean => ?_, fun s i k v hv => ?_, fun s i k hpending hfree => ?_⟩
  · exact execDescriptorFetch_of_clean hidle hhalt hrun hroom hmay hclean
  · exact ⟨_, rfl, slotMapWritten_writeSlotMap s i k.val hv, pending_writeSlotMap s i k.val v, by simp [writeSlotMap], by simp [writeSlotMap],
      by simp [writeSlotMap]⟩
  · have hnone : (s.core i k.val).arrayQ.any (fun e => opxEndOf s i k.val e ≠ 0) = false := by
      simpa using hfree
    change execSlotMapApply i k s = _
    rw [execSlotMapApply, if_pos ⟨hpending, by rw [hnone]; rfl⟩]

/-! ## Arrays and completion (R66, R83, R84, R88) -/

section
variable {s : State} {i : SetId} {k : CoreId} {e : QEnt} {r : TileRun} {t : Tile} (hhead : arrayHead s i k.val = some e)
  (hruns : arraysRun s i k.val = true) (htile : (s.core i k.val).tile = some r) (hof : tileOf e r.stage = some t)
include hhead hruns htile hof

theorem execArrayStep_of_tile (hsteps : r.steps < t.steps) : execArrayStep i k none s =
    .next (s.onCore i k.val fun c => { c with tile := some (tileStep s i k.val e t r none) }) := by
  simp [execArrayStep, hhead, hruns, htile, hof, hsteps]

omit hhead hruns htile hof in
@[simp] theorem failed_drainTile (u : State) (e : QEnt) (t : Tile) (r : TileRun) :
    ((drainTile u i k.val e t r).core i k.val).failed = (u.core i k.val).failed := by
  have hstores : ((drainRows e t r).foldl (fun s x => store s i x.1 x.2) u).core i k.val = u.core i k.val :=
    foldl_keeps (fun s : State => s.core i k.val) (fun s x => core_store ..) _ u
  unfold drainTile latchTouch
  dsimp only
  split
  · rw [hstores]
  · rw [core_onCore_same, hstores]

omit hhead hruns htile hof in
/-- A drain without a bad row reports nothing. -/
@[simp] theorem checkReport_nil (u : State) (e : QEnt) : checkReport u i k.val e [] = u := by
  simp [checkReport, List.range_succ]

/-- A drain of a tile whose rows match writes the tile and marks its descriptor done. -/
theorem execTileDrain_of_match (hsteps : t.steps ≤ r.steps) (hstage : r.stage ≠ 1) (hrows : badRows s i k.val t r = [])
    (hfailed : (s.core i k.val).failed = false) : execTileDrain i k s =
    .next (settle (markDone (drainTile (s.onCore i k.val fun c => { c with tile := none }) i k.val e t r) i k.val 0 e.id) i) := by
  simp [execTileDrain, hhead, hruns, htile, hof, Nat.not_lt.2 hsteps, hstage, hrows, hfailed]

end

/-- Completion takes the entry out of its queue (R66). -/
theorem queue_complete (s : State) (i : SetId) (k u : Nat) (e : QEnt) :
    ((complete s i k u e).core i k).queue u = ((s.core i k).queue u).filter fun x => x.id != e.id := by
  have howe (t : State) : (oweDone t i k e.slot e.job e.pc e.raw).core i k = t.core i k := by
    unfold oweDone
    split
    · simp [State.core]
    · rfl
  rw [complete, howe, releaseSb, core_showSb, core_onCore_same, core_onCore_same]
  exact Core.queue_setQueue_same (s.core i k) u _

/-- Settles O9: one equation for a step, one for a drain, and what completion leaves in the queue. -/
theorem arraysAndCompletion : Obligations.ArraysAndCompletion := by
  refine ⟨fun s i k e r t hhead hruns htile hof hsteps => ?_, fun s i k e r t hhead hruns htile hof hsteps hstage hrows hfailed => ?_,
    fun s i k u pos e hat hdone hfront => ⟨?_, fun f hf => ?_⟩⟩
  · exact execArrayStep_of_tile hhead hruns htile hof hsteps
  · exact execTileDrain_of_match hhead hruns htile hof hsteps hstage hrows hfailed
  · have hready : completable s i k.val u.val pos = some e := by
      rw [completable, hat]
      exact if_pos ⟨hdone, hfront⟩
    change execDescriptorComplete i k u pos s = _
    simp only [execDescriptorComplete, hready]
  · rw [queue_complete] at hf
    simpa using (List.mem_filter.1 hf).2

end Sys2Proof.Machine
end

section
/-! PROOF. Debug holds, releases and steps (R449, R450). -/

namespace Sys2Proof.Machine

/-! ## Bits of a HOLD mask -/

/-- Taking the bits of `b` out of `a` clears exactly those. -/
theorem bit_sub_and (n : Nat) : ∀ a b : Nat, bit (a - (a &&& b)) n = (bit a n && !bit b n) := by
  induction n with
  | zero =>
    intro a b
    have hmod : (a &&& b) % 2 = a % 2 * (b % 2) := by
      rw [Nat.and_mod_two_pow (n := 1)]
      rcases Nat.mod_two_eq_zero_or_one a with ha | ha <;> rcases Nat.mod_two_eq_zero_or_one b with hb | hb <;> simp [ha, hb]
    have hle : a &&& b ≤ a := Nat.and_le_left
    generalize a &&& b = c at hmod hle ⊢
    rcases Nat.mod_two_eq_zero_or_one a with ha | ha <;> rcases Nat.mod_two_eq_zero_or_one b with hb | hb <;>
      simp only [bit, pow_zero, Nat.div_one, ha, hb] at hmod ⊢ <;> simp <;> omega
  | succ n ih =>
    intro a b
    have hhalf : (a - (a &&& b)) / 2 = a / 2 - (a / 2 &&& b / 2) := by
      have hdiv : (a &&& b) / 2 = a / 2 &&& b / 2 := Nat.and_div_two_pow (n := 1)
      have hmod : (a &&& b) % 2 ≤ a % 2 := by
        rw [Nat.and_mod_two_pow (n := 1)]
        exact Nat.and_le_left
      rw [← hdiv]
      omega
    have hbit (w : Nat) : bit w (n + 1) = bit (w / 2) n := by
      rw [bit, bit, Nat.pow_succ', ← Nat.div_div_eq_div_mul]
    rw [hbit, hbit, hbit, hhalf, ih]

theorem bit_or (a b n : Nat) : bit (a ||| b) n = (bit a n || bit b n) := by
  have hbit (w : Nat) : bit w n = w.testBit n := by
    rw [bit, Nat.testBit_eq_decide_div_mod_eq]
    rfl
  rw [hbit, hbit, hbit, Nat.testBit_or]

/-! ## Slot states -/

section
variable (s : State) (i : SetId) (k : Nat)

theorem slotState_setSlotState_same (n : Nat) {v : Nat} (hv : v < 8) : slotState (setSlotState s i k n v) i k n = v := by
  have hlen : Field.CORE_SLOTn_STAT_STATE.info.len = 3 := rfl
  simp [slotState, setSlotState, hlen, Nat.mod_eq_of_lt hv]

theorem slotState_setSlotState_ne {m n : Nat} (v : Nat) (h : n ≠ m) : slotState (setSlotState s i k m v) i k n = slotState s i k n := by
  simp [slotState, setSlotState, slotIx, h]

/-- What holds and releases leave: the HOLD bits, DEBUG_OK, the core's units, memory and messages. -/
def holdFrame : Nat × Nat × Core × SMap Byte × List Event :=
  (s.fld i .CORE_DBG_HOLD k, s.pfld .ALM_CFG_DEBUG_OK, s.core i k, (s.st i).mem, s.out)

theorem holdFrame_setSlotState (n v : Nat) : holdFrame (setSlotState s i k n v) i k = holdFrame s i k := by
  simp [holdFrame, setSlotState]

theorem holdFrame_seen : holdFrame (s.setPfld .SEC_STAT_HOLD_SEEN 0 1) i k = holdFrame s i k := by
  have hok : (s.setPfld .SEC_STAT_HOLD_SEEN 0 1).pfld .ALM_CFG_DEBUG_OK = s.pfld .ALM_CFG_DEBUG_OK := by simp
  rw [holdFrame, hok]
  rfl

theorem slotState_seen (n : Nat) : slotState (s.setPfld .SEC_STAT_HOLD_SEEN 0 1) i k n = slotState s i k n := rfl

theorem holdFrame_holdSlot (n : Nat) : holdFrame (holdSlot s i k n) i k = holdFrame s i k := by
  unfold holdSlot
  dsimp only
  split
  · split
    · rw [holdFrame_setSlotState, holdFrame_seen]
    · exact holdFrame_seen ..
  · rfl

theorem slotState_holdSlot_ne {m n : Nat} (h : n ≠ m) : slotState (holdSlot s i k m) i k n = slotState s i k n := by
  unfold holdSlot
  dsimp only
  split
  · split
    · rw [slotState_setSlotState_ne _ _ _ _ h, slotState_seen]
    · rfl
  · rfl

theorem holdFrame_releaseSlot (n : Nat) : holdFrame (releaseSlot s i k n) i k = holdFrame s i k := by
  unfold releaseSlot
  split
  · exact holdFrame_setSlotState ..
  · rfl

theorem slotState_releaseSlot_ne {m n : Nat} (h : n ≠ m) : slotState (releaseSlot s i k m) i k n = slotState s i k n := by
  unfold releaseSlot
  split
  · exact slotState_setSlotState_ne _ _ _ _ h
  · rfl

end

/-! ## A write of HOLD -/

/-- One slot of a write of HOLD. -/
def holdOne (i : SetId) (k old v : Nat) (s : State) (n : Nat) : State :=
  if bit v n then holdSlot s i k n else if bit old n then releaseSlot s i k n else s

section
variable (i : SetId) (k old v : Nat)

theorem holdFrame_holdOne (s : State) (n : Nat) : holdFrame (holdOne i k old v s n) i k = holdFrame s i k := by
  unfold holdOne
  split
  · exact holdFrame_holdSlot ..
  split
  · exact holdFrame_releaseSlot ..
  · rfl

theorem slotState_holdOne_ne (s : State) {m n : Nat} (h : n ≠ m) : slotState (holdOne i k old v s m) i k n = slotState s i k n := by
  unfold holdOne
  split
  · exact slotState_holdSlot_ne _ _ _ h
  split
  · exact slotState_releaseSlot_ne _ _ _ h
  · rfl

theorem writeHold_eq (s : State) : writeHold s i k v =
    (List.range 8).foldl (holdOne i k (s.fld i .CORE_DBG_HOLD k) v) (s.setFld i .CORE_DBG_HOLD k v) := rfl

theorem holdFrame_writeHold (s : State) :
    holdFrame (writeHold s i k v) i k = holdFrame (s.setFld i .CORE_DBG_HOLD k v) i k := by
  rw [writeHold_eq]
  exact foldl_keeps (holdFrame · i k) (fun s n => holdFrame_holdOne i k _ v s n) _ _

/-- A slot's state after a write of HOLD is that which its own turn gives it. -/
theorem slotState_writeHold (s : State) {n : Nat} (hn : n < 8) : ∃ u, slotState u i k n = slotState s i k n ∧
    holdFrame u i k = holdFrame (s.setFld i .CORE_DBG_HOLD k v) i k ∧
    slotState (writeHold s i k v) i k n = slotState (holdOne i k (s.fld i .CORE_DBG_HOLD k) v u n) i k n := by
  obtain ⟨l, r, hsplit⟩ := List.append_of_mem (List.mem_range.2 hn)
  have hnodup : (l ++ n :: r).Nodup := hsplit ▸ List.nodup_range
  have hl : n ∉ l := fun h => (List.nodup_append.1 hnodup).2.2 n h n List.mem_cons_self rfl
  have hr : n ∉ r := (List.nodup_cons.1 (List.nodup_append.1 hnodup).2.1).1
  have hskip (q : List Nat) : n ∉ q → ∀ t, slotState (q.foldl (holdOne i k (s.fld i .CORE_DBG_HOLD k) v) t) i k n = slotState t i k n := by
    induction q with
    | nil => exact fun _ _ => rfl
    | cons m q ih =>
      intro hq t
      rw [List.foldl_cons, ih (fun h => hq (List.mem_cons_of_mem _ h)), slotState_holdOne_ne]
      exact fun h => hq (h ▸ List.mem_cons_self)
  refine ⟨l.foldl (holdOne i k (s.fld i .CORE_DBG_HOLD k) v) (s.setFld i .CORE_DBG_HOLD k v), ?_, ?_, ?_⟩
  · rw [hskip l hl]
    simp [slotState]
  · exact foldl_keeps (holdFrame · i k) (fun s n => holdFrame_holdOne i k _ v s n) _ _
  · rw [writeHold_eq, hsplit, List.foldl_append, List.foldl_cons, hskip r hr]

theorem hold_writeHold (s : State) {v : Nat} (hv : v < 256) : (writeHold s i k v).fld i .CORE_DBG_HOLD k = v := by
  have hlen : Field.CORE_DBG_HOLD.info.len = 8 := rfl
  have hframe : (writeHold s i k v).fld i .CORE_DBG_HOLD k = (s.setFld i .CORE_DBG_HOLD k v).fld i .CORE_DBG_HOLD k :=
    congrArg Prod.fst (holdFrame_writeHold i k v s)
  rw [hframe, State.fld_setFld_same, hlen]
  exact Nat.mod_eq_of_lt hv

theorem mem_writeHold (s : State) : ((writeHold s i k v).st i).mem = (s.st i).mem := by
  have hframe : ((writeHold s i k v).st i).mem = ((s.setFld i .CORE_DBG_HOLD k v).st i).mem :=
    congrArg (fun x => x.2.2.2.1) (holdFrame_writeHold i k v s)
  simpa using hframe

theorem out_writeHold (s : State) : (writeHold s i k v).out = s.out := by
  have hframe : (writeHold s i k v).out = (s.setFld i .CORE_DBG_HOLD k v).out :=
    congrArg (fun x => x.2.2.2.2) (holdFrame_writeHold i k v s)
  simpa using hframe

end

section
variable {s : State} {i : SetId} {k : Nat}

/-- Without DEBUG_OK a write that sets HOLD bits moves no slot. -/
theorem slotState_writeHold_of_closed {v : Nat} (hclosed : s.pfld .ALM_CFG_DEBUG_OK = 0)
    (hover : ∀ n, bit (s.fld i .CORE_DBG_HOLD k) n = true → bit v n = true) (n : Nat) :
    slotState (writeHold s i k v) i k n = slotState s i k n := by
  have hframe (l : List Nat) : ∀ t, t.pfld .ALM_CFG_DEBUG_OK = 0 → l.foldl (holdOne i k (s.fld i .CORE_DBG_HOLD k) v) t = t := by
    induction l with
    | nil => exact fun _ _ => rfl
    | cons m l ih =>
      intro t ht
      have hone : holdOne i k (s.fld i .CORE_DBG_HOLD k) v t m = t := by
        unfold holdOne
        by_cases hv : bit v m = true
        · simp [hv, holdSlot, holdOn, ht]
        · rw [if_neg hv, if_neg fun h => hv (hover m h)]
      rw [List.foldl_cons, hone, ih t ht]
  rw [writeHold_eq, hframe _ _ (by simpa using hclosed)]
  simp [slotState]

/-- Under DEBUG_OK a slot that waits for its unit is held at once. -/
theorem slotState_writeHold_of_held {v n : Nat} (hopen : s.pfld .ALM_CFG_DEBUG_OK = 1) (hv : v < 256) (hn : n < 8) (hbit : bit v n = true)
    (hstate : slotState s i k n = 3) : slotState (writeHold s i k v) i k n = 7 := by
  have hlen : Field.CORE_DBG_HOLD.info.len = 8 := rfl
  obtain ⟨u, hu, hframe, hwrite⟩ := slotState_writeHold i k v s hn
  obtain ⟨hhold, hok, -⟩ := Prod.ext_iff.1 hframe |>.imp_right Prod.ext_iff.1
  have hon : holdOn u i k n = true := by
    have hok' : u.pfld .ALM_CFG_DEBUG_OK = 1 := by rw [← hopen]; simpa [holdFrame] using hok
    have hhold' : u.fld i .CORE_DBG_HOLD k = v := by simpa [holdFrame, hlen, Nat.mod_eq_of_lt hv] using hhold
    simp [holdOn, hok', hhold', hbit]
  rw [hwrite, holdOne, if_pos hbit, holdSlot, if_pos hon, hu]
  dsimp only
  rw [if_pos (.inr (.inl hstate)), slotState_setSlotState_same _ _ _ _ (by omega)]

/-- A held slot that waits in no FENCE issues again once its HOLD bit is cleared. -/
theorem slotState_writeHold_of_released {v n : Nat} (hn : n < 8) (hbit : bit v n = false) (hold : bit (s.fld i .CORE_DBG_HOLD k) n = true)
    (hstate : slotState s i k n = 7) (hfence : (s.slot i k n).fence = none) : slotState (writeHold s i k v) i k n = 1 := by
  obtain ⟨u, hu, hframe, hwrite⟩ := slotState_writeHold i k v s hn
  have hcore : u.core i k = (s.setFld i .CORE_DBG_HOLD k v).core i k := congrArg (fun x => x.2.2.1) hframe
  have hslot : (u.slot i k n).fence = none := by
    rw [State.slot, hcore, core_setFld]
    exact hfence
  rw [hwrite, holdOne, if_neg (by simp [hbit]), if_pos hold, releaseSlot, hu, if_pos hstate, hslot, Option.isSome_none, if_neg Bool.false_ne_true]
  exact slotState_setSlotState_same _ _ _ _ (by omega)

end

/-! ## Steps -/

section
variable {s : State} {i : SetId} {k : Nat}

theorem writeStep_of_none_held {m : Nat} (h : ∀ n < 8, bit m n = true → slotState s i k n ≠ 7) : writeStep s i k m = s := by
  have hskip (l : List Nat) : (∀ n ∈ l, n < 8) → l.foldl (fun s n => if bit m n then stepSlot s i k n else s) s = s := by
    induction l with
    | nil => exact fun _ => rfl
    | cons n l ih =>
      intro hl
      have hone : (if bit m n then stepSlot s i k n else s) = s := by
        split
        · rw [stepSlot, if_pos (h n (hl n List.mem_cons_self) ‹_›)]
        · rfl
      rw [List.foldl_cons, hone, ih fun x hx => hl x (List.mem_cons_of_mem _ hx)]
  exact hskip _ fun n hn => List.mem_range.1 hn

theorem writeStep_of_one {n : Nat} (hn : n < 8) : writeStep s i k (2 ^ n) = stepSlot s i k n := by
  interval_cases n <;> simp [writeStep, List.range_succ, bit]

/-- A slot that has issued in a step: its TAG shows, and it is held again where it goes on. -/
def steppedSlot (s : State) (i : SetId) (k n : Nat) (d : List Byte) : State :=
  let s := s.setFld i .CORE_DBG_LAST_TAG k (dTag d)
  if slotState s i k n = 6 ∨ slotState s i k n = 0 ∨ slotState s i k n = 4 then s else setSlotState s i k n 7

/-- A held slot with a descriptor that may issue issues it, starts it, and is held again (R450). -/
theorem stepSlot_of_ready {n pc : Nat} {d : List Byte} {q : List (Nat × List Byte)} {t : DType} {u : State} {e : Option QEnt}
    (hstate : slotState s i k n = 7) (hfence : (s.slot i k n).fence = none) (hfetched : (s.slot i k n).prefetch = (pc, d) :: q)
    (htype : dtype d = some t)
    (hmay : ∀ w, issueCheck (setSlotState s i k n 1) i k n ((setSlotState s i k n 1).fld i .CORE_SLOTn_PC_JOB (slotIx k n)) t d ≠ .waits w)
    (hissue : issueFrom (setSlotState s i k n 1) i k n pc t d = (u, e)) (hidle : slotState u i k n ≠ 0) (hwait : slotState u i k n ≠ 4)
    (hhalt : slotState u i k n ≠ 6) :
    stepSlot s i k n = match (generalizing := false) e with
      | some e => startEntry (setSlotState (u.setFld i .CORE_DBG_LAST_TAG k (leAt d 6 2)) i k n 7) i k t e
      | none => setSlotState (u.setFld i .CORE_DBG_LAST_TAG k (leAt d 6 2)) i k n 7 := by
  have htagged : slotState (u.setFld i .CORE_DBG_LAST_TAG k (dTag d)) i k n = slotState u i k n := by simp [slotState]
  have hback : ¬(slotState (u.setFld i .CORE_DBG_LAST_TAG k (dTag d)) i k n = 6 ∨ slotState (u.setFld i .CORE_DBG_LAST_TAG k (dTag d)) i k n = 0 ∨
      slotState (u.setFld i .CORE_DBG_LAST_TAG k (dTag d)) i k n = 4) := by
    rw [htagged]
    tauto
  have started (e : Option QEnt) : (match (u, e) with
      | (s, some e) => startEntry (steppedSlot s i k n d) i k t e
      | (s, none) => steppedSlot s i k n d) =
      match (generalizing := false) e with
      | some e => startEntry (setSlotState (u.setFld i .CORE_DBG_LAST_TAG k (leAt d 6 2)) i k n 7) i k t e
      | none => setSlotState (u.setFld i .CORE_DBG_LAST_TAG k (leAt d 6 2)) i k n 7 := by
    cases e with
    | some e => exact congrArg (startEntry · i k t e) (if_neg hback)
    | none => exact if_neg hback
  unfold stepSlot
  rw [if_neg (by simp [hstate])]
  simp only [hfence, hfetched, htype, hissue, Option.isSome_none, Bool.false_eq_true, if_false]
  generalize hcheck : issueCheck (setSlotState s i k n 1) i k n _ t d = c at hmay ⊢
  cases c with
  | waits w => exact absurd rfl (hmay w)
  | bad _ _ => exact started e
  | go _ => exact started e

end

/-- Settles O51: HOLD by the turn of each slot, a step by the one slot that it names. -/
theorem debugHolds : Obligations.DebugHolds := by
  intro s i k hinv hopen
  have hmask : s.fld i .CORE_DBG_HOLD k.val < 256 := by
    have hset : regsOk (s.st i).regs := by
      fin_cases i
      · exact hinv.set0.reg
      · exact hinv.set1.reg
    exact getField_lt_of_regsOk hset .CORE_DBG_HOLD k.val
  refine ⟨fun m => ⟨writeHold s i k.val (s.fld i .CORE_DBG_HOLD k.val ||| m.val), ?_, ?_, mem_writeHold .., out_writeHold .., fun hclosed => ?_,
    fun hok n hn hbit hstate => ?_⟩, fun m => ⟨writeHold s i k.val (s.fld i .CORE_DBG_HOLD k.val - (s.fld i .CORE_DBG_HOLD k.val &&& m.val)), ?_,
    mem_writeHold .., out_writeHold .., fun n hn => ?_, fun n hn hbit hold hstate hfence => ?_⟩, fun m => ⟨fun hnone => ?_, ?_⟩⟩
  · change Host.Outcome.next _ = _
    rw [if_pos hopen]
  · exact hold_writeHold i k.val s (Nat.or_lt_two_pow (n := 8) hmask m.isLt)
  · exact slotState_writeHold_of_closed hclosed fun n hn => by rw [bit_or, hn, Bool.true_or]
  · exact slotState_writeHold_of_held hok (Nat.or_lt_two_pow (n := 8) hmask m.isLt) hn (by rw [bit_or, hbit, Bool.or_true]) hstate
  · change Host.Outcome.next _ = _
    rw [if_pos hopen]
  · rw [hold_writeHold i k.val s (by omega), bit_sub_and]
  · exact slotState_writeHold_of_released hn (by rw [bit_sub_and, hbit]; simp) hold hstate hfence
  · change Host.Outcome.next _ = _
    rw [if_pos hopen, writeStep_of_none_held hnone]
  · intro n pc d q t hn hm hstate hfence hfetched htype ready r held hmay hidle hwait hhalt
    change Host.Outcome.next _ = _
    rw [if_pos hopen, hm, writeStep_of_one hn]
    exact next_settle_congr (stepSlot_of_ready hstate hfence hfetched htype hmay (rfl : _ = (r.1, r.2)) hidle hwait hhalt) i

end Sys2Proof.Machine
end

section
/-! PROOF. The host link, IDE and failed device accesses (R350, R353 to R355). -/

namespace Sys2Proof.Machine

/-! ## Held traffic -/

/-- A state but for host memory, the writes held and what reports and vectors change. -/
def besidesHeld (s : State) : State :=
  let u := besidesReports s
  { u with hostMem := [], hostHeld := [] }

theorem besidesHeld_of_besidesReports {s t : State} (h : besidesReports t = besidesReports s) : besidesHeld t = besidesHeld s := by
  rw [besidesHeld, h, besidesHeld]

theorem besidesHeld_hostWrite (s : State) (a : Nat) (d : List Byte) : besidesHeld (hostWrite s a d) = besidesHeld s := by
  unfold hostWrite
  split
  · rfl
  split <;> rfl

theorem besidesReports_flushVectors (s : State) : besidesReports (flushVectors s) = besidesReports s := by
  unfold flushVectors
  split
  · exact foldl_keeps besidesReports (fun s n => besidesReports_raiseVector s n) _ _
  · rfl

/-- What is shown of held traffic is HELD; the rest is what held writes and vectors do. -/
theorem besidesHeld_showHeld (s : State) : ∃ v, besidesHeld (showHeld s) = besidesHeld (s.setPfld .HB_HOST_STAT_HELD 0 v) := by
  unfold showHeld
  dsimp only
  split
  · exact ⟨_, rfl⟩
  · exact ⟨_, (besidesHeld_of_besidesReports (besidesReports_flushVectors _)).trans
      (foldl_keeps besidesHeld (fun s (w : Nat × List Byte) => besidesHeld_hostWrite s w.1 w.2) _ _)⟩

section
variable {s t : State} (h : besidesHeld t = besidesHeld s)
include h

theorem pfld_of_besidesHeld (f : Field) (ix : Nat) : t.pfld f ix = s.pfld f ix := (congrArg (State.pfld · f ix) h :)

theorem set0_of_besidesHeld : t.set0 = s.set0 := (congrArg State.set0 h :)

theorem set1_of_besidesHeld : t.set1 = s.set1 := (congrArg State.set1 h :)

theorem heldReqs_of_besidesHeld : t.heldReqs = s.heldReqs := (congrArg State.heldReqs h :)

theorem busMaster_of_besidesHeld : t.busMaster = s.busMaster := (congrArg State.busMaster h :)

theorem msixOn_of_besidesHeld : t.msixOn = s.msixOn := (congrArg State.msixOn h :)

end

/-! ## The link comes up (R350) -/

/-- The registers of a link that is up. -/
def linkShown (s : State) (m : Fin 6) (w : Nat) (c e : Bool) : State :=
  (((s.setPfld .HB_CAP_MODE 0 (m.val + 1)).setPfld .HB_CAP_WIDTH 0 w).setPfld .HB_CAP_CACHE 0 (bitOf (c && m.val + 1 ≤ 3))).setPfld
    .HB_CAP_MEM 0 (bitOf (e && m.val + 1 ≤ 3))

theorem execHostLinkUp_of_ready {s : State} (m : Fin 6) (w : Nat) (c e b x : Bool) (hgood : s.pins.pwrGood = true) (hreset : s.pins.perst = false)
    (hlost : s.pkgLost = false) : execHostLinkUp m w c e b x s =
    .next (drainHost (flushVectors (showHeld { linkShown s m w c e with busMaster := b, msixOn := x }))) := by
  rw [execHostLinkUp, if_neg (by simp [hgood, hreset, hlost])]
  rfl

/-- What the link's coming up leaves for the accesses that waited. -/
theorem linkUp_effect (s : State) (m : Fin 6) (w : Nat) (c e b x : Bool) :
    let t := flushVectors (showHeld { linkShown s m w c e with busMaster := b, msixOn := x })
    t.pfld .HB_CAP_MODE = m.val + 1 ∧ t.busMaster = b ∧ t.msixOn = x ∧ t.pfld .HB_CAP_WIDTH = w % 2 ^ Field.HB_CAP_WIDTH.info.len ∧
      t.heldReqs = s.heldReqs ∧ t.set0 = s.set0 ∧ t.set1 = s.set1 := by
  intro t
  obtain ⟨v, hshown⟩ := besidesHeld_showHeld { linkShown s m w c e with busMaster := b, msixOn := x }
  have h : besidesHeld t = besidesHeld ({ linkShown s m w c e with busMaster := b, msixOn := x }.setPfld .HB_HOST_STAT_HELD 0 v) :=
    (besidesHeld_of_besidesReports (besidesReports_flushVectors _)).trans hshown
  have hregs {f : Field} (hf : f ≠ .HB_HOST_STAT_HELD) : t.pfld f = (linkShown s m w c e).pfld f :=
    (pfld_of_besidesHeld h f 0).trans (State.pfld_setPfld_ne _ _ (by simp [hf]))
  have hlen : Field.HB_CAP_MODE.info.len = 3 := rfl
  have hmode : (m.val + 1) % 8 = m.val + 1 := Nat.mod_eq_of_lt (by omega)
  refine ⟨?_, busMaster_of_besidesHeld h, msixOn_of_besidesHeld h, ?_, (heldReqs_of_besidesHeld h).trans rfl,
    (set0_of_besidesHeld h).trans rfl, (set1_of_besidesHeld h).trans rfl⟩
  · rw [hregs (by simp)]
    simp [linkShown, hlen, hmode]
  · rw [hregs (by simp)]
    simp [linkShown]

/-! ## Pages lose ENABLE (R354) -/

/-- One page loses ENABLE with its link. -/
def dropPage (s : State) (t : Nat) : State := (disableRing s (pageSet s t) t).setPfld .HB_PAGE_ERR_LINKDOWN t 1

/-- Of a set, all but its session unit's queues. -/
def besidesSessions (t : SetSt) : SetSt := { t with su := {} }

/-- What the drop of a page leaves of the package and the sets. -/
def dropFrame (s : State) : Bool × List Event × SetSt × SetSt := (s.busMaster, s.out, besidesSessions s.set0, besidesSessions s.set1)

theorem dropFrame_onSu (s : State) (i : SetId) (f : SessUnit → SessUnit) : dropFrame (onSu s i f) = dropFrame s := by
  fin_cases i <;> rfl

theorem dropFrame_disableRing (s : State) (i : SetId) (t : Nat) : dropFrame (disableRing s i t) = dropFrame s := dropFrame_onSu ..

theorem pfld_disableRing (s : State) (i : SetId) (t : Nat) (f : Field) (ix : Nat) :
    (disableRing s i t).pfld f ix = (s.setPfld .SESS_RING_ENABLE t 0).pfld f ix := pfld_onSu ..

theorem enable_dropPage (s : State) (t p : Nat) :
    (dropPage s t).pfld .SESS_RING_ENABLE p = if p = t then 0 else s.pfld .SESS_RING_ENABLE p := by
  rw [dropPage, State.pfld_setPfld_ne _ _ (by simp), pfld_disableRing]
  split
  · rename_i hp
    rw [hp, State.pfld_setPfld_same, Nat.zero_mod]
  · rw [State.pfld_setPfld_ne _ _ (by simp_all)]

theorem pfld_dropPage (s : State) (t : Nat) {f : Field} (henable : f ≠ .SESS_RING_ENABLE) (hdown : f ≠ .HB_PAGE_ERR_LINKDOWN) (ix : Nat) :
    (dropPage s t).pfld f ix = s.pfld f ix := by
  rw [dropPage, State.pfld_setPfld_ne _ _ (by simp [hdown]), pfld_disableRing, State.pfld_setPfld_ne _ _ (by simp [henable])]

theorem enable_foldl_dropPage (p : Nat) : ∀ (l : List Nat) (s : State), (p ∉ l → s.pfld .SESS_RING_ENABLE p = 0) →
    (l.foldl dropPage s).pfld .SESS_RING_ENABLE p = 0
  | [], _, h => h List.not_mem_nil
  | t :: l, s, h => enable_foldl_dropPage p l (dropPage s t) fun hl => by
    rw [enable_dropPage]
    split
    · rfl
    · rename_i hne
      exact h (by simp [hne, hl])

theorem dropPages_eq (s : State) : dropPages s = (fieldIndices s.regs .SESS_RING_ENABLE).foldl dropPage s := rfl

/-- A field that stands at no index of the register file holds its reset value. -/
theorem getField_of_not_mem {m : SMap Nat} {f : Field} {ix : Nat} (h : ix ∉ fieldIndices m f) : getField m f ix = f.info.rst := by
  refine SMap.get_of_not_mem fun e he hkey => h (List.mem_map.2 ⟨e, List.mem_filter.2 ⟨he, ?_⟩, ?_⟩)
  · have hcode := f.code_lt
    unfold Field.key at hkey
    rw [beq_iff_eq]
    omega
  · have hcode := f.code_lt
    unfold Field.key at hkey
    omega

/-- After a loss of traffic no page is enabled. -/
theorem enable_dropPages (s : State) (p : Nat) : (dropPages s).pfld .SESS_RING_ENABLE p = 0 := by
  rw [dropPages_eq]
  exact enable_foldl_dropPage p _ _ getField_of_not_mem

theorem pfld_dropPages (s : State) {f : Field} (henable : f ≠ .SESS_RING_ENABLE) (hdown : f ≠ .HB_PAGE_ERR_LINKDOWN) (ix : Nat) :
    (dropPages s).pfld f ix = s.pfld f ix :=
  foldl_keeps (fun s : State => s.pfld f ix) (fun s t => pfld_dropPage s t henable hdown ix) _ _

theorem dropFrame_dropPage (s : State) (t : Nat) : dropFrame (dropPage s t) = dropFrame s := dropFrame_disableRing s (pageSet s t) t

theorem dropFrame_dropPages (s : State) : dropFrame (dropPages s) = dropFrame s := by
  rw [dropPages_eq]
  exact foldl_keeps dropFrame dropFrame_dropPage _ _

/-! ## The link is lost (R354) -/

/-- The registers of a link that is lost; a loss of Bus Master Enable alone leaves the link's own. -/
def linkCleared (s : State) (cause : Nat) : State :=
  let s : State := { s with busMaster := false, hostHeld := [], heldReqs := [] }
  if cause = 2 then s
  else
    let s := (({ s with cfg := {} }.setPfld .HB_CAP_MODE 0 0).setPfld .HB_CAP_WIDTH 0 0).setPfld .HB_CAP_CACHE 0 0
    let s := ((s.setPfld .HB_CAP_MEM 0 0).setPfld .HB_CAP_IDE_IO 0 0).setPfld .HB_CAP_IDE_CM 0 0
    (s.setPfld .HB_HOST_STAT_HELD 0 0).satPfld .HB_HOST_STAT_LINKDOWNS 0 1

theorem loseHost_eq (s : State) (cause : Nat) : loseHost s cause =
    reportPkg ((dropPages (linkCleared s cause)).setPfld .HB_HOST_STAT_LINK 0 1) { FC.hostLink.fr with die := 18, cause := cause } := rfl

theorem linkCleared_keeps (s : State) (cause : Nat) : (linkCleared s cause).set0 = s.set0 ∧ (linkCleared s cause).set1 = s.set1 ∧
    (linkCleared s cause).busMaster = false ∧ (cause ≠ 2 → (linkCleared s cause).pfld .HB_CAP_MODE = 0) := by
  unfold linkCleared
  dsimp only
  split
  · exact ⟨rfl, rfl, rfl, fun h => absurd ‹_› h⟩
  · refine ⟨by simp [State.satPfld], by simp [State.satPfld], by simp [State.satPfld], fun _ => by simp [State.satPfld]⟩

theorem besidesSessions_dropPages (s : State) (i : SetId) : besidesSessions ((dropPages s).st i) = besidesSessions (s.st i) := by
  have hframe := dropFrame_dropPages s
  have h0 : besidesSessions (dropPages s).set0 = besidesSessions s.set0 := (congrArg (fun x => x.2.2.1) hframe :)
  have h1 : besidesSessions (dropPages s).set1 = besidesSessions s.set1 := (congrArg (fun x => x.2.2.2) hframe :)
  fin_cases i
  · exact h0
  · exact h1

theorem loseHost_effect (s : State) (cause : Nat) : (loseHost s cause).busMaster = false ∧
    (∀ p, (loseHost s cause).pfld .SESS_RING_ENABLE p = 0) ∧ (cause ≠ 2 → (loseHost s cause).pfld .HB_CAP_MODE = 0) ∧
    (loseHost s cause).pfld .HB_HOST_STAT_LINK = 1 ∧ ∀ i, besidesSessions ((loseHost s cause).st i) = besidesSessions (s.st i) := by
  obtain ⟨hset0, hset1, hmaster, hmode⟩ := linkCleared_keeps s cause
  rw [loseHost_eq]
  have hreport := besidesReports_reportPkg ((dropPages (linkCleared s cause)).setPfld .HB_HOST_STAT_LINK 0 1)
    { FC.hostLink.fr with die := 18, cause := cause }
  refine ⟨?_, fun p => ?_, fun hcause => ?_, ?_, fun i => ?_⟩
  · have hdrop : (dropPages (linkCleared s cause)).busMaster = (linkCleared s cause).busMaster := (congrArg Prod.fst (dropFrame_dropPages _) :)
    exact ((congrArg State.busMaster hreport :)).trans (hdrop.trans hmaster)
  · rw [pfld_reportPkg, State.pfld_setPfld_ne _ _ (by simp), enable_dropPages]
  · rw [pfld_reportPkg, State.pfld_setPfld_ne _ _ (by simp), pfld_dropPages _ (by simp) (by simp), hmode hcause]
  · rw [pfld_reportPkg, State.pfld_setPfld_same]
    rfl
  · have hcleared : (linkCleared s cause).st i = s.st i := by
      unfold State.st
      rw [hset0, hset1]
    rw [st_reportPkg]
    exact (besidesSessions_dropPages _ i).trans (congrArg _ hcleared)

/-! ## Failed accesses (R353) -/

/-- A page whose ring could not be read loses ENABLE and shows the failure. -/
def ringDropped (s : State) (t : Nat) : State :=
  ((disableRing (countDma s) (pageSet (countDma s) t) t).setPfld .HB_PAGE_ERR_HOSTERR t 1).setPfld .HB_HOST_STAT_DMA 0 1

theorem pfld_countDma (s : State) {f : Field} (h : f ≠ .HB_HOST_STAT_DMAERRS) (ix : Nat) : (countDma s).pfld f ix = s.pfld f ix :=
  State.pfld_setPfld_ne _ _ (by simp [h])

theorem ringDropped_effect (s : State) (t : Nat) : (ringDropped s t).pfld .SESS_RING_ENABLE t = 0 ∧
    (ringDropped s t).pfld .HB_PAGE_ERR_HOSTERR t = 1 ∧ (ringDropped s t).pfld .HB_HOST_STAT_DMA = 1 ∧
    (ringDropped s t).pfld .HB_HOST_STAT_DMAERRS = (s.pfld .HB_HOST_STAT_DMAERRS + 1) % 2 ^ 32 ∧ (ringDropped s t).out = s.out := by
  have herrs : Field.HB_HOST_STAT_DMAERRS.info.len = 32 := rfl
  have hdma : Field.HB_HOST_STAT_DMA.info.len = 1 := rfl
  have hhost : Field.HB_PAGE_ERR_HOSTERR.info.len = 1 := rfl
  refine ⟨?_, ?_, ?_, ?_, ?_⟩
  · simp [ringDropped, pfld_disableRing]
  · simp [ringDropped, hhost]
  · simp [ringDropped, hdma]
  · simp [ringDropped, pfld_disableRing, countDma, herrs]
  · exact (congrArg (fun x => x.2.1) (dropFrame_disableRing (countDma s) (pageSet (countDma s) t) t) :)

theorem execHostDmaFail_of_ring {s : State} {p : PageId} (henable : s.pfld .SESS_RING_ENABLE p.val = 1) : execHostDmaFail (.ring p) s =
    .next (reportPkg (ringDropped s p.val) { FC.hostDma.fr with die := 18, job := s.pfld .HB_PAGEt_CFG_JOB p.val, detail := p.val }) := by
  have hjob : ((disableRing (countDma s) (pageSet s p.val) p.val).setPfld .HB_PAGE_ERR_HOSTERR p.val 1).pfld .HB_PAGEt_CFG_JOB p.val =
      s.pfld .HB_PAGEt_CFG_JOB p.val := by
    rw [State.pfld_setPfld_ne _ _ (by simp), pfld_disableRing, State.pfld_setPfld_ne _ _ (by simp), pfld_countDma _ (by simp)]
  have hset : pageSet (countDma s) p.val = pageSet s p.val := by
    rw [pageSet, pfld_countDma _ (by simp), pageSet]
  rw [execHostDmaFail, ringDropped, hset]
  simp only [henable, ne_eq, not_true_eq_false, if_false, hjob]

@[simp] theorem time_countDma (s : State) (i : SetId) : (countDma s).time i = s.time i := rfl

@[simp] theorem circ_countDma (s : State) (i : SetId) : circ (countDma s) i = circ s i := rfl

/-- A change of IDE state: a stream that is lost is shown and reported (R355). -/
theorem execIdeStateChange_eq {s : State} (hup : s.pfld .HB_CAP_MODE ≠ 0) (io cm : Bool) : execIdeStateChange io cm s =
    let u := showHeld ((s.setPfld .HB_CAP_IDE_IO 0 (bitOf io)).setPfld .HB_CAP_IDE_CM 0 (bitOf cm))
    .next (drainHost (if (s.pfld .HB_CAP_IDE_IO == 1 && !io) || (s.pfld .HB_CAP_IDE_CM == 1 && !cm)
      then reportPkg (u.setPfld .HB_HOST_STAT_IDE 0 1) { FC.hostIde.fr with die := 18 } else u)) :=
  if_neg hup

section
variable {s : State} {i : SetId}

theorem execHostDmaFail_of_load {p v : Nat} {q : List (Nat × Nat)} {e : CatEnt} {w : Nat} (hfetch : (circ s i).fetch = (p, v) :: q)
    (hentry : loadEntry (countDma s) i p v = some (e, w)) (htries : (pieceSt (countDma s) i e).tries < 3) :
    execHostDmaFail (.load i) s = .next (onPiece ((countDma s).satFld i .CIRC_LOAD_RETRIES 0 1) i e fun x =>
      { x with tries := (pieceSt (countDma s) i e).tries + 1 }) := by
  simp only [execHostDmaFail, fetchFailed, hfetch, hentry, if_pos htries]

/-- The failed read of a staged piece is reported at most once in a second (R353). -/
theorem execHostDmaFail_of_tier : execHostDmaFail (.tier i) s =
    if (circ s i).tierFail.any (fun t => s.time i < t + 1_000_000_000) then .next (countDma s)
    else .next (reportPkg (onCirc ((countDma s).setPfld .HB_HOST_STAT_DMA 0 1) i fun c => { c with tierFail := some (s.time i) })
      { FC.hostDma.fr with action := 0, die := 18, unit := i.val }) := rfl

theorem tierFail_quiet (h : ∀ t, (circ s i).tierFail = some t → t + 1_000_000_000 ≤ s.time i) :
    (circ s i).tierFail.any (fun t => s.time i < t + 1_000_000_000) = false := by
  cases hfail : (circ s i).tierFail with
  | none => rfl
  | some t =>
    rw [Option.any_some]
    exact decide_eq_false (Nat.not_lt.2 (h t hfail))

theorem tierFail_recent {t : Nat} (h : (circ s i).tierFail = some t) (hrecent : s.time i < t + 1_000_000_000) :
    (circ s i).tierFail.any (fun t => s.time i < t + 1_000_000_000) = true := by
  rw [h, Option.any_some]
  exact decide_eq_true hrecent

end

/-- Settles O39: one equation or one account of the effect for each command. -/
theorem hostLinkEvents : Obligations.HostLinkEvents := by
  refine ⟨⟨fun s m w c e b x hgood hreset hlost => ?_, fun s io cm hup => ?_, fun s => ⟨fun i cmd => rfl, ?_, fun i => ⟨fun hfirst => ?_,
    fun t ht hrecent => ?_⟩, fun p henable => ?_⟩⟩, fun s c _ hup => ?_⟩
  · exact ⟨_, execHostLinkUp_of_ready m w c e b x hgood hreset hlost, linkUp_effect s m w c e b x⟩
  · refine ⟨fun hio hcm => (execIdeStateChange_eq hup io cm).trans ?_, fun hlost => (execIdeStateChange_eq hup io cm).trans ?_⟩
    · have hkept : ((s.pfld .HB_CAP_IDE_IO == 1 && !io) || (s.pfld .HB_CAP_IDE_CM == 1 && !cm)) = false := by
        cases io <;> cases cm <;> simp_all
      dsimp only
      rw [hkept, if_neg Bool.false_ne_true]
    · have hgone : ((s.pfld .HB_CAP_IDE_IO == 1 && !io) || (s.pfld .HB_CAP_IDE_CM == 1 && !cm)) = true := by
        simpa using hlost
      dsimp only
      rw [hgone, if_pos rfl]
  · exact fun i p v q e w hfetch hentry htries => execHostDmaFail_of_load hfetch hentry htries
  · exact execHostDmaFail_of_tier.trans (if_neg (by rw [tierFail_quiet hfirst]; exact Bool.false_ne_true))
  · exact execHostDmaFail_of_tier.trans (if_pos (tierFail_recent ht hrecent))
  · exact ⟨_, execHostDmaFail_of_ring henable, ringDropped_effect s p.val⟩
  · obtain ⟨hmaster, henable, hmode, hlink, hsets⟩ := loseHost_effect s c.val
    refine ⟨_, congrArg Host.Outcome.next (if_neg hup), hmaster, fun p _ => henable p, fun hc => hmode fun h => hc (Fin.ext h), hlink, fun i => ?_⟩
    have hset := hsets i
    exact ⟨(congrArg SetSt.regs hset :), (congrArg SetSt.mem hset :), (congrArg SetSt.cores hset :), (congrArg SetSt.circ hset :),
      (congrArg SetSt.waiters hset :), (congrArg SetSt.lost hset :)⟩

end Sys2Proof.Machine
end

section
/-! PROOF. Weeding, repair, staging, settling and promenade switches (R213, R214, R216, R224). -/

namespace Sys2Proof.Machine

theorem onCirc_congr {s : State} {i : SetId} {f g : CircUnit → CircUnit} (h : f (circ s i) = g (circ s i)) : onCirc s i f = onCirc s i g := by
  rw [onCirc, onCirc, State.onSet, State.onSet]
  exact congrArg _ (congrArg (fun c => { s.st i with circ := c }) h)

/-- Whole words at a word's address are stored without a read. -/
theorem store_of_aligned (s : State) (i : SetId) {a : Nat} {d : List Byte} (ha : a % 32 = 0) (hd : d.length % 32 = 0) :
    store s i a d = storeRaw s i a d := by
  have hwhole : d.length / 32 * 32 = d.length := by omega
  simp [store, ha, hwhole, storePart]

section
variable {s : State} {i : SetId}

/-! ## Weeding (R213) -/

theorem execWeedPassStart_of_free (hoff : (circ s i).weedOn = false) (hlist : weedList s i ≠ []) : execWeedPassStart i s =
    .next (onCirc s i fun c => { c with weed := weedList s i, weedOn := true, weedDue := false }) := by
  simp [execWeedPassStart, hoff, startWeed, hlist]

theorem execWeedPieceDone_of_next {p q : Nat × Nat} {e : CatEnt} {l : List (Nat × Nat)} (hweed : (circ s i).weed = p :: q :: l)
    (hmay : weedable s i p = true) (hentry : entryOf s i p.1 = some e) (hfree : fenced s i (stackOf (pieceAddr s i e p.2)) = false)
    (hkept : (circ (weedPiece s i p.1 p.2 e) i).weed = p :: q :: l) :
    execWeedPieceDone i s = .next (onCirc (weedPiece s i p.1 p.2 e) i fun c => { c with weed := q :: l }) := by
  have hfind : (circ s i).weed.find? (weedable s i) = some p := by simp [hweed, hmay]
  have herase : onCirc (weedPiece s i p.1 p.2 e) i (fun c => { c with weed := c.weed.erase p }) =
      onCirc (weedPiece s i p.1 p.2 e) i fun c => { c with weed := q :: l } := onCirc_congr (by simp [hkept])
  simp only [execWeedPieceDone, hfind, hentry, hfree, Bool.false_eq_true, if_false]
  rw [herase, if_neg (by simp)]

/-! ## Repair (R214) -/

theorem execRepairTransfer_of_clean {p v b : Nat} {e : CatEnt} {d : List Byte}
    (hasked : (circ s i).repair.find? (fun r => r.1 = p + 2 ^ 32 * v) = some (p + 2 ^ 32 * v, b))
    (hentry : entryOf s i (p + 2 ^ 32 * v) = some e) (hdigest : sha256 (slice d 0 (32 * e.len)) = e.digest) : execRepairTransfer i p v d s =
    .next (onCirc (store s i (pieceAddr s i e b) (slice d 0 (32 * e.len))) i fun c => { c with
      repair := c.repair.erase (p + 2 ^ 32 * v, b)
      lastClean := SMap.put 0 c.lastClean (p + 2 ^ 32 * v) ((store s i (pieceAddr s i e b) (slice d 0 (32 * e.len))).fld i .CIRC_REV_REV) }) := by
  simp only [execRepairTransfer, hasked, hentry, hdigest, if_true]

/-- A repair that does not digest clean at most asks again. -/
theorem execRepairTransfer_of_bad {p v : Nat} {d : List Byte} (hbad : ∀ r e, (circ s i).repair.find? (fun r => r.1 = p + 2 ^ 32 * v) = some r →
    entryOf s i r.1 = some e → sha256 (slice d 0 (32 * e.len)) ≠ e.digest) :
    execRepairTransfer i p v d s = .next s ∨ ∃ args, execRepairTransfer i p v d s = .next (s.emit .circCtl i.val args) := by
  unfold execRepairTransfer
  cases hasked : (circ s i).repair.find? fun r => r.1 = p + 2 ^ 32 * v with
  | none => exact .inl rfl
  | some r =>
    cases hentry : entryOf s i r.1 with
    | none => exact .inl (by simp only [hentry])
    | some e =>
      refine .inr ⟨[14, (circ s i).reader, p, v, s.place i, 1], ?_⟩
      simp only [hentry, if_neg (hbad r e hasked hentry)]

/-! ## Staging (R216) -/

/-- A staged piece that counts as clean: it is stored in its half, and the reader's mark is set. -/
def pieceStaged (s : State) (i : SetId) (e : CatEnt) (a m : Nat) (d : List Byte) : State :=
  let s := store (onCirc (s.satFld i .CIRC_ERR_LATE_MS 0 m) i fun c => { c with tierFail := none }) i a d
  onCirc (onPiece s i e fun p => { p with clean := true }) i fun c => { c with
    tierSeen := if c.tierSeen.contains (e.piece, e.version) then c.tierSeen else c.tierSeen ++ [(e.piece, e.version)] }

theorem fld_pieceStaged_bank (e : CatEnt) {a : Nat} (m : Nat) {d : List Byte} (ha : a % 32 = 0) (hd : d.length % 32 = 0) :
    (pieceStaged s i e a m d).fld i .CIRC_STAT_BANK = s.fld i .CIRC_STAT_BANK := by
  have hstore := (storeRaw_keeps (onCirc (s.satFld i .CIRC_ERR_LATE_MS 0 m) i fun c => { c with tierFail := none }) i a d).setRegs
  have hfld : (storeRaw (onCirc (s.satFld i .CIRC_ERR_LATE_MS 0 m) i fun c => { c with tierFail := none }) i a d).fld i .CIRC_STAT_BANK =
      (onCirc (s.satFld i .CIRC_ERR_LATE_MS 0 m) i fun c => { c with tierFail := none }).fld i .CIRC_STAT_BANK := by
    rw [State.fld, hstore, State.fld]
  rw [pieceStaged, fld_onCirc, onPiece, fld_onCirc, store_of_aligned _ _ ha hd, hfld, fld_onCirc, State.satFld, State.fld_setFld_ne _ _ (by simp)]

theorem circ_onPiece (u : State) (e : CatEnt) (f : PieceSt → PieceSt) :
    circ (onPiece u i e f) i = { circ u i with load := SMap.upd {} (circ u i).load (pieceKey e) f } := circ_onCirc_same ..

theorem pieceStaged_effect (e : CatEnt) {a : Nat} (m : Nat) {d : List Byte} (ha : a % 32 = 0) (hd : d.length % 32 = 0) :
    ((pieceStaged s i e a m d).st i).mem =
        ((store (onCirc (s.satFld i .CIRC_ERR_LATE_MS 0 m) i fun c => { c with tierFail := none }) i a d).st i).mem ∧
      (pieceStaged s i e a m d).out = s.out ∧ (circ (pieceStaged s i e a m d) i).tierFail = none ∧
      (circ (pieceStaged s i e a m d) i).tierSeen.contains (e.piece, e.version) = true := by
  refine ⟨?_, ?_, ?_, ?_⟩
  · simp [pieceStaged, onPiece, onCirc]
  · have hout := (storeRaw_keeps (onCirc (s.satFld i .CIRC_ERR_LATE_MS 0 m) i fun c => { c with tierFail := none }) i a d).out
    rw [pieceStaged, out_onCirc, onPiece, out_onCirc, store_of_aligned _ _ ha hd, hout, out_onCirc, State.satFld, State.setFld_out]
  · simp [pieceStaged, circ_onPiece]
  · have hseen (l : List (Nat × Nat)) (x : Nat × Nat) : (if l.contains x then l else l ++ [x]).contains x = true := by
      split
      · assumption
      · simp
    rw [pieceStaged, circ_onCirc_same]
    exact hseen _ _

theorem execTierPieceStaged_of_clean {p v b : Nat} (m : Nat) {e : CatEnt} (half : Bool) {d : List Byte} (hentry : loadEntry s i p v = some (e, b))
    (htier : bit e.flags 1 = true) (hon : s.fld i .CIRC_AUX_TIER_EN = 1) (hlive : (s.st i).lost = false) (hshare : hostShare s i ≠ 0)
    (hbank : b = s.fld i .CIRC_STAT_BANK)
    (hclean : (circ s i).tierSeen.contains (e.piece, e.version) = true ∨ sha256 (slice d 0 (32 * e.len)) = e.digest)
    (ha : (tierAddr s i e + b * (s.fld i .CIRC_BANKOFS_OFS * 4096) + if half then Config.tierHalf else 0) % 32 = 0) :
    let u := pieceStaged s i e (tierAddr s i e + b * (s.fld i .CIRC_BANKOFS_OFS * 4096) + if half then Config.tierHalf else 0) m
      (slice d 0 (32 * e.len))
    execTierPieceStaged i ⟨p, v, half⟩ d [] m s =
      .next (settle (unitSignal u i (linkDie i) 0 (u.fld i .CIRC_CFG_JOB) (u.fld i .CIRC_AUX_TIER_CTR) 1) i) := by
  intro u
  have hshown : u.fld i .CIRC_STAT_BANK = b := (fld_pieceStaged_bank e m ha (by simp)).trans hbank.symm
  have hcirc (a : Nat) (x : List Byte) : (circ (store (onCirc (s.satFld i .CIRC_ERR_LATE_MS 0 m) i fun c => { c with tierFail := none }) i a x)
      i).tierSeen = (circ s i).tierSeen := by
    simp [State.satFld]
  have hblocked : ¬((!bit e.flags 1) = true ∨ s.fld i .CIRC_AUX_TIER_EN ≠ 1 ∨ (s.st i).lost = true ∨ hostShare s i = 0) := by
    simp [htier, hon, hlive, hshare]
  rw [execTierPieceStaged, hentry]
  dsimp only
  rw [if_neg hblocked, List.foldl_nil, if_pos (by rw [hcirc]; exact hclean)]
  exact congrArg _ (if_pos hshown.symm)

/-! ## Settling and promenade switches (R224) -/

theorem execResidentSettle_of_clean {p : Nat} {e : CatEnt} (hfind : (residents s i).find? (fun e => e.piece = p) = some e)
    (hnew : (circ s i).settled.contains p = false) (hclean : (pieceSt s i e).clean = true) (hmore : allSettled (settlePiece s i e) i = false) :
    execResidentSettle i p s = .next (settlePiece s i e) := by
  simp only [execResidentSettle, hfind, hnew, hclean, hmore, Bool.not_true, Bool.false_eq_true, or_self, if_false]

theorem execPromenadeSwitch_of_confirmed {c : Change} (hchg : (circ s i).chg = some c) (hprom : promenade s i = true) (hconf : c.confirmed = true)
    (hkind : c.kind = 0) (hpasses : (s.st i).su.passes = []) (hmay : mayChange s i = true) :
    let u := onCirc ((applyChange s i c).setFld i .CIRC_REV_VERSION 0 c.ver) i fun x => { x with settled := [] }
    execPromenadeSwitch i s = .next (((residents u i).foldl (fun s e => settlePiece s i e) u).addFld i .CIRC_REV_REV 0 1) := by
  have hall : promenade s i = true ∧ c.confirmed = true ∧ c.kind = 0 ∧ (s.st i).su.passes.isEmpty = true ∧ mayChange s i = true :=
    ⟨hprom, hconf, hkind, by rw [hpasses]; rfl, hmay⟩
  intro u
  simp only [execPromenadeSwitch, hchg, if_pos hall, u]

end

/-- Settles O22: an equation per command; a repair that does not digest clean leaves the state but for a message. -/
theorem weedRepairSettle : Obligations.WeedRepairSettle := by
  refine ⟨⟨fun s i hoff hlist => ?_, fun s i p q e l hweed hmay hentry hfree hkept => ?_, fun s i p v b e d hasked hentry hdigest => ?_,
    fun s i p v b m e half d hentry htier hon hlive hshare hbank hclean => ?_, fun s i p e hfind hnew hclean hmore => ?_,
    fun s i c hchg hprom hconf hkind hpasses hmay => ?_⟩, fun s t i p v d hbad hnext => ?_⟩
  · exact execWeedPassStart_of_free hoff hlist
  · exact execWeedPieceDone_of_next hweed hmay hentry hfree hkept
  · exact execRepairTransfer_of_clean hasked hentry hdigest
  · intro a ha
    exact ⟨_, execTierPieceStaged_of_clean m half hentry htier hon hlive hshare hbank hclean ha, pieceStaged_effect e m ha (by simp)⟩
  · exact execResidentSettle_of_clean hfind hnew hclean hmore
  · exact execPromenadeSwitch_of_confirmed hchg hprom hconf hkind hpasses hmay
  · change execRepairTransfer i p v d s = .next t at hnext
    obtain hsame | ⟨args, hasked⟩ := execRepairTransfer_of_bad hbad
    · obtain rfl : s = t := by simpa [hsame] using hnext
      exact ⟨rfl, rfl, rfl, rfl⟩
    · obtain rfl : s.emit .circCtl i.val args = t := by simpa [hasked] using hnext
      exact ⟨rfl, rfl, rfl, rfl⟩

end Sys2Proof.Machine
end

section
/-! PROOF. Frames, turns and stop notices of a circle in service (R192, R195, R200, R201, R217). -/

namespace Sys2Proof.Machine

theorem laterEpoch_self (e : Nat) : laterEpoch e e = false := by simp [laterEpoch]

/-- Poisoned words leave a set's circulation. -/
theorem circ_poisonWords (i : SetId) (f : Nat → Nat) (xs : List Nat) (s : State) :
    circ (xs.foldl (fun s x => poisonWord s i (f x)) s) i = circ s i :=
  foldl_keeps (fun s => circ s i) (fun s x => circ_of_besidesStore (besidesStore_poisonWord s i (f x)) i) xs s

/-- With no stream set a frame has no reserved place, and stands last in the receive buffer. -/
theorem bufferFrame_of_no_line {s : State} {i : SetId} (hline : (circ s i).line = []) (f : Frame) :
    bufferFrame s i f = onCirc s i fun c => { c with buf := c.buf ++ [f] } := by
  simp [bufferFrame, hline]

/-- A frame stands last in the receive buffer, at a reserved place or at none. -/
theorem buf_bufferFrame (s : State) (i : SetId) {f : Frame} (hsaved : f.saved = none) :
    ∃ a, (circ (bufferFrame s i f) i).buf = (circ s i).buf ++ [{ f with saved := a }] := by
  unfold bufferFrame
  dsimp only
  split
  case h_1 =>
    refine ⟨none, ?_⟩
    rw [circ_onCirc_same, ← hsaved]
  case h_2 a _ =>
    refine ⟨some a, ?_⟩
    rw [circ_onCirc_same, circ_poisonWords, circ_store]

/-- The next turn of the epoch in force, of a revolution not yet in force, is kept with its port. -/
theorem turnArrives_of_next {s : State} {i : SetId} {p : Nat} {h : FHdr} (hepoch : h.epoch = s.fld i .CIRC_STAT_EPOCH)
    (hrev : h.rev = nextRev s i p) (hahead : h.rev ≠ s.fld i .CIRC_REV_REV) :
    turnArrives s i p h = onPort (s.setFld i .CIRC_STAT_EPOCH 0 h.epoch) i p fun c =>
      let t : Turn := { rev := h.rev, ver := h.version, epoch := h.epoch, switch := bit h.flags 1 }
      { c with last := some t, turns := c.turns ++ [t] } := by
  unfold turnArrives
  simp [← hepoch, laterEpoch_self, ← hrev, hahead]

theorem execTurnHandle_of_due {s : State} {i : SetId} (hcirc : circulates s i = true) (hready : turnReady s i (turnDue s i) = true)
    (hver : ∀ p < 2, ∀ t ∈ (cport s i p).turns, t.rev = turnDue s i → t.ver = verAt s i (turnDue s i)) :
    execTurnHandle i s = .next (settle (circPump (takeTurn s i (turnDue s i) (verAt s i (turnDue s i))) i) i) := by
  have agree : (([0, 1].filterMap fun p => (cport s i p).turns.find? fun t => t.rev = turnDue s i).find? fun t =>
      t.ver ≠ verAt s i (turnDue s i)) = none := by
    rw [List.find?_eq_none]
    intro t ht
    obtain ⟨p, hp, hfind⟩ := List.mem_filterMap.1 ht
    have hp : p < 2 := by simp at hp; omega
    have hrev : t.rev = turnDue s i := by simpa using List.find?_some hfind
    simpa using hver p hp t (List.mem_of_find?_eq_some hfind) hrev
  unfold execTurnHandle
  dsimp only
  rw [if_pos ⟨hcirc, hready⟩, agree]

/-- Settles O16: each command passes the tests of its rule in turn. -/
theorem circulationFrames : Obligations.CirculationFrames := by
  refine ⟨fun s i p raw bad t hcirc hok hkind hlast hepoch hrev hver => ?tile, fun s i p raw hcirc hok hkind hepoch hrev hahead => ?turn,
    fun s i p n hcirc hfirst hrev hsent hlive hheld hkeys => ?send, fun s i hcirc hready hver => execTurnHandle_of_due hcirc hready hver,
    fun s i p hstate hlost => ?stop⟩
  case tile =>
    intro f
    refine ⟨?_, buf_bufferFrame s i rfl, fun hline => bufferFrame_of_no_line hline f⟩
    change execTileFrame i p raw bad s = _
    rw [execTileFrame_of_circulates hcirc hok hkind, tileArrives, hlast]
    dsimp only
    rw [if_neg (not_not.2 hepoch), if_neg (not_not.2 hrev), if_neg (not_not.2 hver)]
  case turn =>
    have hkind' : (fhdr raw).kind = 2 := hkind
    change execTurnFrame i p raw s = _
    rw [execTurnFrame, if_neg (by omega), frameArrives_of_circulates hcirc hok, if_neg (by omega), if_pos hkind',
      turnArrives_of_next hepoch hrev hahead]
  case send =>
    obtain rfl := hsent
    exact if_pos ⟨hcirc, hfirst, hrev, hlive, by simp [hheld], by simp [hkeys]⟩
  case stop =>
    exact if_neg (by simp [hstate, hlost])

end Sys2Proof.Machine
end

section
/-! PROOF. Signals, replies and waits that come from outside a set, and barrier messages at a node of the tree (R303, R304, R308 to R312). -/

namespace Sys2Proof.Machine

/-! ## Host signals and host waits (R310 to R312) -/

theorem pageSet_setPfld (s : State) {f : Field} (h : f ≠ .HB_PAGEt_CFG_SET) (ix v t : Nat) : pageSet (s.setPfld f ix v) t = pageSet s t := by
  rw [pageSet, State.pfld_setPfld_ne _ _ (by simp [h.symm]), pageSet]

theorem ctrOf_setPfld (s : State) (f : Field) (ix v : Nat) (i : SetId) (j n : Nat) : ctrOf (s.setPfld f ix v) i j n = ctrOf s i j n :=
  rfl

/-- Whether a host signal or wait is refused does not depend on the registers that show it. -/
theorem hostRefuse_setPfld (s : State) {f : Field} (hset : f ≠ .HB_PAGEt_CFG_SET) (hjob : f ≠ .HB_PAGEt_CFG_JOB) (ix w t v n : Nat) (add : Bool) :
    hostRefuse (s.setPfld f ix w) t v n add = hostRefuse s t v n add := by
  have hsame : (s.setPfld f ix w).pfld .HB_PAGEt_CFG_JOB t = s.pfld .HB_PAGEt_CFG_JOB t := s.pfld_setPfld_ne w (by simp [hjob.symm])
  simp [hostRefuse, pageSet_setPfld s hset, ctrOf_setPfld, hsame, addCheck]

theorem dropHostWait_of_no_waiters {s : State} {t : Nat} (h : (s.st (pageSet s t)).waiters = []) (w : Nat) : dropHostWait s t w = s := by
  simp [dropHostWait, h]

theorem hostSignal_of_taken {s : State} {t v n p : Nat} (htaken : hostRefuse s t v n true = 0)
    (hctr : ctrOf s (pageSet s t) (s.pfld .HB_PAGEt_CFG_JOB t) v = some p) :
    hostSignal s t v n = addApply s (pageSet s t) p n (.host t) := by
  simp only [hostSignal, htaken, hctr]

theorem hostArm_of_taken {s : State} {t v n p : Nat} (w vec : Nat) (msix : Bool) (hfree : (s.st (pageSet s t)).waiters = [])
    (htaken : hostRefuse s t v n false = 0) (hctr : ctrOf s (pageSet s t) (s.pfld .HB_PAGEt_CFG_JOB t) v = some p) :
    hostArm s t w v n msix vec = enqueue
      (((((s.setPfld .SYNC_HWAITw_VID (64 * t + w) v).setPfld .SYNC_HWAITw_N (64 * t + w) n).setPfld .SYNC_HWAITw_MSIX (64 * t + w)
        (bitOf msix)).setPfld .SYNC_HWAITw_VEC (64 * t + w) vec).setPfld .SYNC_HWAITw_ARM (64 * t + w) 1) (pageSet s t) p (.host t w n) := by
  simp [hostArm, dropHostWait_of_no_waiters hfree, hostRefuse_setPfld, ctrOf_setPfld, htaken, hctr]

/-! ## Remote signals (R303, R304) -/

theorem execRemoteSignal_of_accepted {s : State} {i : SetId} {x : Fin 4096} {who n p : Nat} (hctr : s.fld i .SYNC_EXPe_CTR x.val = p)
    (hvalid : s.fld i .SYNC_EXPe_VALID x.val = 1) (hwho : s.fld i .SYNC_EXPe_ANY x.val = 1 ∨ s.fld i .SYNC_EXPe_SENDER x.val = who)
    (hjob : s.fld i .MEM_JOBj_STATE (s.fld i .SYNC_CTRp_0_JOB p) = 1) (hkind : s.fld i .SYNC_CTRp_0_KIND p = 0)
    (hroom : s.fld i .SYNC_CTRp_1_VALUE p + n < 2 ^ 31) :
    execRemoteSignal i who x n s = .next (addApply (s.emit .remoteReply i.val [who, 0]) i p n (.remote who)) := by
  have hadd : addCheck s i p n = 0 := by
    have hfits : ¬2147483647 < s.fld i .SYNC_CTRp_1_VALUE p + n := by omega
    simp [addCheck, hkind, hfits]
  have hsender : ¬(s.fld i .SYNC_EXPe_ANY x.val ≠ 1 ∧ s.fld i .SYNC_EXPe_SENDER x.val ≠ who) := by tauto
  have hkinds : ¬(2 ≤ s.fld i .SYNC_CTRp_0_KIND p ∨ addCheck s i p n = 2) := by omega
  have cause : (if 2 ≤ s.fld i .SYNC_CTRp_0_KIND p ∨ addCheck s i p n = 2 then 4 else if addCheck s i p n = 1 then 5 else 0) = 0 := by
    rw [if_neg hkinds, if_neg (by omega)]
  simp only [execRemoteSignal, hctr, hvalid, hjob, if_neg hsender, cause, ne_eq, not_true_eq_false, if_false, if_true]

theorem remoteReply_of_done {s : State} {i : SetId} {k n : Nat} {r : RemoteOut} {q : List RemoteOut} (h : (s.slot i k n).remote = r :: q) :
    remoteReply s i k n 0 = s.onSlot i k n fun t => { t with remote := q } := by
  simp [remoteReply, h]

/-- Settles O31: nothing refuses the signal, the wait or the report, and each takes its effect. -/
theorem syncFromOutside : Obligations.SyncFromOutside := by
  refine ⟨⟨fun s i x who n p hctr hvalid hwho hjob hkind hroom => execRemoteSignal_of_accepted hctr hvalid hwho hjob hkind hroom,
    fun s i x who n hinvalid => ?invalid, fun s i k n r q hout => ?reply, fun s t v n p hv hn hlive htaken hctr => ?signal,
    fun s t w v n vec p msix hv hn hvec hlive hfree htaken hctr => ?arm⟩,
    fun s i c x pl cc hnode hwhole => ⟨fun hfirst => ?arrive, ?release, ?broken⟩⟩
  case invalid =>
    change execRemoteSignal i who x n s = _
    simp [execRemoteSignal, hinvalid]
  case reply =>
    change execRemoteSignalReply i k n 0 s = _
    rw [execRemoteSignalReply, remoteReply_of_done hout]
  case signal =>
    change execHostSignal t v n s = _
    rw [execHostSignal, if_pos hlive, Nat.mod_eq_of_lt hv, Nat.mod_eq_of_lt hn, hostSignal_of_taken htaken hctr]
  case arm =>
    intro x
    change execHostWaitArm t w v n msix vec s = _
    rw [execHostWaitArm, if_pos hlive, Nat.mod_eq_of_lt hv, Nat.mod_eq_of_lt hn, Nat.mod_eq_of_lt hvec,
      hostArm_of_taken _ _ _ hfree htaken hctr]
  case arrive =>
    change execBarrierArrive i c pl cc s = _
    simp [execBarrierArrive, hnode, hwhole, hfirst]
  case release =>
    change execBarrierRelease i c s = _
    simp [execBarrierRelease, hnode, hwhole]
  case broken =>
    change execBarrierBroken i c pl cc s = _
    simp [execBarrierBroken, hnode]

end Sys2Proof.Machine
end

section
/-! PROOF. Channel messages and what their senders hear of them (R314, R315, R318, R326). -/

namespace Sys2Proof.Machine

section Expected

variable {s : State} {i : SetId} {k : CoreId} {c : Fin 64} {m : ChanMsg} (hset : (s.st i).lost = false)
  (haccepts : rxAccepts s i (chanIx k.val c.val) m = true) (hopen : s.fld i .CHAN_RXk_c_2_OPEN (chanIx k.val c.val) = 1)
  (hseq : (SMap.get {} (s.st i).rx (chanIx k.val c.val)).expect = some m.seq)
include hset haccepts hopen hseq

theorem execChanMessage_of_full
    (hplace : ringPlace (s.fld i .CHAN_RXk_c_1_SIZE (chanIx k.val c.val)) (s.fld i .CHAN_RXk_c_2_HEAD (chanIx k.val c.val))
      (s.fld i .CHAN_RXk_c_2_TAIL (chanIx k.val c.val)) (ringUsed (SMap.get {} (s.st i).rx (chanIx k.val c.val)))
      (m.body.length / 32 + 1) = none) :
    execChanMessage i k c m s = .next (chanReply s i m 1) := by
  simp [execChanMessage, hset, haccepts, hopen, hseq, hplace]

theorem execChanMessage_of_room {pad off : Nat}
    (hplace : ringPlace (s.fld i .CHAN_RXk_c_1_SIZE (chanIx k.val c.val)) (s.fld i .CHAN_RXk_c_2_HEAD (chanIx k.val c.val))
      (s.fld i .CHAN_RXk_c_2_TAIL (chanIx k.val c.val)) (ringUsed (SMap.get {} (s.st i).rx (chanIx k.val c.val)))
      (m.body.length / 32 + 1) = some (pad, off))
    (hpass : isPassEnd (chanReply (placeMsg s i (chanIx k.val c.val) m pad off) i m 0) i (chanIx k.val c.val) = false) :
    execChanMessage i k c m s = .next (settle (chanReply (placeMsg s i (chanIx k.val c.val) m pad off) i m 0) i) := by
  simp [execChanMessage, hset, haccepts, hopen, hseq, hplace, hpass]

end Expected

/-- Settles O32: each command finds its endpoint or its SEND in the state that the rule names. -/
theorem channelMessages : Obligations.ChannelMessages := by
  refine ⟨fun s i k c m hset haccepts hopen hseq r hplace => ?message, fun s i k c m hset hvalid hopen => ?closed,
    fun s i k c e hsend => ⟨?ack, fun r hreason htries => ?nack, ?noroute⟩, fun s i k c e hsend => ?retry⟩
  case message =>
    cases r with
    | none => exact execChanMessage_of_full hset haccepts hopen hseq hplace
    | some place => exact fun hpass => execChanMessage_of_room hset haccepts hopen hseq hplace hpass
  case closed =>
    change execChanMessage i k c m s = _
    simp [execChanMessage, hset, hvalid, hopen, chanReply]
  case ack =>
    change execChanAck i k c s = _
    simp [execChanAck, hsend]
  case nack =>
    change execChanNack i k c r s = _
    simp [execChanNack, hsend, hreason, htries]
  case noroute =>
    change execNorouteTimeout i (.send k c) s = _
    simp [execNorouteTimeout, hsend]
  case retry =>
    change execChanRetry i k c s = _
    simp [execChanRetry, hsend]

end Sys2Proof.Machine
end

section
/-! PROOF. A set that is lost stays lost through what its loss ends; heartbeats, the watchdog and fault records (R67, R421, R431, R432, R437). -/

namespace Sys2Proof.Machine

/-! ## Which sets are lost -/

def lostSets (s : State) : Bool × Bool := (s.set0.lost, s.set1.lost)

theorem lost_of_lostSets {s t : State} (h : lostSets t = lostSets s) (i : SetId) : (t.st i).lost = (s.st i).lost := by
  have h0 : t.set0.lost = s.set0.lost := (congrArg Prod.fst h :)
  have h1 : t.set1.lost = s.set1.lost := (congrArg Prod.snd h :)
  fin_cases i
  · exact h0
  · exact h1

theorem lostSets_of_setsAndOut {s t : State} (h : setsAndOut t = setsAndOut s) : lostSets t = lostSets s := by
  have h0 : t.set0 = s.set0 := (congrArg Prod.fst h :)
  have h1 : t.set1 = s.set1 := (congrArg (fun p => p.2.1) h :)
  rw [lostSets, h0, h1, lostSets]

theorem lostSets_of_besidesReports {s t : State} (h : besidesReports t = besidesReports s) : lostSets t = lostSets s := by
  rw [lostSets, set0_of_besidesReports h, set1_of_besidesReports h, lostSets]

theorem lostSets_onSet (s : State) (i : SetId) {f : SetSt → SetSt} (hf : ∀ t, (f t).lost = t.lost) : lostSets (s.onSet i f) = lostSets s := by
  have h0 : ((f s.set0).lost, s.set1.lost) = lostSets s := by rw [hf, lostSets]
  have h1 : (s.set0.lost, (f s.set1).lost) = lostSets s := by rw [hf, lostSets]
  fin_cases i
  · exact h0
  · exact h1

section
variable (s : State) (i : SetId)

@[simp] theorem lostSets_setFld (f : Field) (ix v : Nat) : lostSets (s.setFld i f ix v) = lostSets s := lostSets_onSet s i (by intro; rfl)

@[simp] theorem lostSets_onCore (k : Nat) (f : Core → Core) : lostSets (s.onCore i k f) = lostSets s := lostSets_onSet s i (by intro; rfl)

@[simp] theorem lostSets_onSlot (k n : Nat) (f : Slot → Slot) : lostSets (s.onSlot i k n f) = lostSets s := lostSets_onCore ..

@[simp] theorem lostSets_onSu (f : SessUnit → SessUnit) : lostSets (onSu s i f) = lostSets s := lostSets_onSet s i (by intro; rfl)

@[simp] theorem lostSets_emit (k : EvKind) (n : Nat) (a : List Nat) (d : List Byte) : lostSets (s.emit k n a d) = lostSets s := rfl

@[simp] theorem lostSets_spend : lostSets s.spend = lostSets s := rfl

@[simp] theorem lostSets_setPfld (f : Field) (ix v : Nat) : lostSets (s.setPfld f ix v) = lostSets s := rfl

@[simp] theorem lostSets_raiseVector (n : Nat) : lostSets (raiseVector s n) = lostSets s :=
  lostSets_of_besidesReports (besidesReports_raiseVector s n)

@[simp] theorem lostSets_setSlotState (k n v : Nat) : lostSets (setSlotState s i k n v) = lostSets s := by simp [setSlotState]

@[simp] theorem lostSets_showWaiters (p : Nat) : lostSets (showWaiters s i p) = lostSets s := by
  obtain ⟨c, n, h, heq⟩ := showWaiters_eq s i p
  simp [heq]

@[simp] theorem lostSets_setWaiters (p : Nat) (q : List Waiter) : lostSets (setWaiters s i p q) = lostSets s := by
  rw [setWaiters, lostSets_showWaiters]
  exact lostSets_onSet s i (by intro; rfl)

@[simp] theorem lostSets_unwait (k n : Nat) : lostSets (unwait s i k n) = lostSets s := by
  refine foldl_keeps lostSets (fun s e => ?_) _ s
  simp [apply_ite lostSets]

@[simp] theorem lostSets_stopSlot (k n : Nat) : lostSets (stopSlot s i k n) = lostSets s := by simp [stopSlot, dropHold]

@[simp] theorem lostSets_dropQueues (k : Nat) : lostSets (dropQueues s i k) = lostSets s := by simp [dropQueues, showSb, apply_ite lostSets]

@[simp] theorem lostSets_setChanStat (x v : Nat) : lostSets (setChanStat s i x v) = lostSets s := by simp [setChanStat]

@[simp] theorem lostSets_sendDown : lostSets (sendDown s i) = lostSets s := by
  unfold sendDown
  split
  · rfl
  · refine foldl_keeps lostSets (fun s p => ?_) _ s
    split <;> rfl

theorem lostSets_hostWrite (a : Nat) (d : List Byte) : lostSets (hostWrite s a d) = lostSets s := by
  unfold hostWrite
  split_ifs <;> rfl

theorem lostSets_writeRec (t : Nat) (r : List Byte) : lostSets (writeRec s i t r) = lostSets s := by
  simp only [writeRec, lostSets_onSu, apply_ite lostSets]
  split <;> exact lostSets_hostWrite ..

@[simp] theorem lostSets_postRec (t : Nat) (r : List Byte) : lostSets (postRec s i t r) = lostSets s := by
  simp only [postRec, apply_ite lostSets, lostSets_onSu, lostSets_writeRec, ite_self]

@[simp] theorem lostSets_pageLost (t : Nat) : lostSets (pageLost s i t) = lostSets s := by
  rw [pageLost, freeEvent]
  exact lostSets_postRec _ i t _

end

theorem setsAndOut_revokeLoans (s : State) (gone : Loan → Bool) : setsAndOut (revokeLoans s gone) = setsAndOut s := by
  refine foldl_keeps setsAndOut (fun s n => ?_) _ _
  extract_lets
  split <;> rfl

theorem setsAndOut_withdraw (s : State) (i : SetId) : setsAndOut (withdraw s i) = setsAndOut s := by
  have hpm (t : State) (f : PowerMgr → PowerMgr) : setsAndOut (onPm t f) = setsAndOut t := rfl
  simp only [withdraw, apply_ite setsAndOut, setsAndOut_lendShare, hpm, setsAndOut_revokeLoans, ite_self]

/-- What a set's loss ends does not bring it back. -/
theorem lost_loseSet (s : State) (i : SetId) : ((loseSet s i).st i).lost = true := by
  by_cases hlost : (s.st i).lost = true
  · rw [loseSet, if_pos hlost, hlost]
  · rw [loseSet, if_neg hlost]
    refine (lost_of_lostSets (s := s.onSet i fun t => { t with lost := true }) ?_ i).trans (by simp)
    dsimp only
    rw [lostSets_raiseVector, foldl_keeps lostSets fun s t => lostSets_pageLost s i t, lostSets_onSu, lostSets_sendDown,
      foldl_keeps lostSets fun s x => by simp, foldl_keeps lostSets fun s k => lostSets_dropQueues s i k,
      foldl_keeps lostSets fun s p => by simp [apply_ite lostSets], lostSets_of_setsAndOut (setsAndOut_withdraw ..)]

/-! ## Heartbeats and the watchdog -/

theorem execMpWatchdog_of_first {s : State} (h : s.mg.watchdogAt = 0 ∨ s.mg.watchdogAt + 1000000000 ≤ s.time 0) : execMpWatchdog s =
    .next { s with
      mpDown := true
      mg := { s.mg with watchdogAt := s.time 0 + 1, image := [], imageLen := 0, supp := [], suppLen := 0 }
      mpQueue := s.mpQueue ++ [(0, { FC.mpReset.fr with die := 18, place := s.place 0, time := s.time 0 })] } := by
  have hfirst : ¬(s.mg.watchdogAt ≠ 0 ∧ s.time 0 + 1 ≤ s.mg.watchdogAt + 1000000000) := by omega
  exact if_neg hfirst

/-- Settles O34: each report meets its unit in the state that its rule names. -/
theorem heartbeatsAndReports : Obligations.HeartbeatsAndReports := by
  refine ⟨fun s i k hcore => ⟨?beat, fun hset => ?timeout⟩, fun s i => ?linkDie, fun s => ⟨fun hfirst => ?restart, fun hran hsoon => ?package,
    fun hdown => ?done⟩, fun s i rec => ?record⟩
  case beat =>
    change execCoreHeartbeat i k s = _
    simp [execCoreHeartbeat, hcore]
  case timeout =>
    change execHeartbeatTimeout i k s = _
    simp [execHeartbeatTimeout, pruneCore, hcore, hset]
  case linkDie =>
    refine ⟨_, rfl, ?_, (sprintEnd_ends _ (by omega)).1⟩
    rw [st_of_setsAndOut (setsAndOut_sprintEnd ..), lost_loseSet]
  case restart => exact ⟨_, execMpWatchdog_of_first hfirst, rfl, rfl, rfl, rfl, rfl, rfl, rfl, rfl, rfl⟩
  case package =>
    have hagain : s.mg.watchdogAt ≠ 0 ∧ s.time 0 + 1 ≤ s.mg.watchdogAt + 1000000000 := ⟨hran, hsoon⟩
    exact if_pos hagain
  case done => exact if_neg (by simp [hdown])
  case record =>
    intro r t
    exact ⟨fun hsev => congrArg Host.Outcome.next (if_neg (Nat.not_le.2 hsev)), fun hsev => congrArg Host.Outcome.next (if_pos hsev)⟩

end Sys2Proof.Machine
end

section
/-! PROOF. Ports that retrain (R325, R331, R333 to R335). -/

namespace Sys2Proof.Machine

/-! ## Writing STATE of a port -/

theorem portsSettled_congr {s t : State} {i : SetId} (h : ∀ f x, t.fld i f x = s.fld i f x) : portsSettled t i = portsSettled s i := by
  have each (p : Nat) : portSettled t i p = portSettled s i p := by rw [portSettled, portState, h, h, portSettled, portState]
  exact congrArg (List.range 5).all (funext each)

theorem tooFew_congr {s t : State} {i : SetId} (h : ∀ f x, t.fld i f x = s.fld i f x) (p : Nat) : tooFew t i p = tooFew s i p := by
  have hcount : bundleCount t i p = bundleCount s i p := by rw [bundleCount, h, bundleCount]
  have hstate : portState t i p = portState s i p := h ..
  have hfeat : featOn t i p 2 = featOn s i p 2 := by rw [featOn, h, featOn]
  rw [tooFew, hcount, hstate, hfeat, h, tooFew]

section
variable (s : State) (i : SetId) (p : Nat)

/-- The stage that the ports show is one package register. -/
theorem showStage_eq : ∃ v, showStage s = s ∨ showStage s = s.setPfld .HB_BOOT_STAGE 0 v := by
  unfold showStage
  dsimp only
  split
  · exact ⟨0, .inl rfl⟩
  · split
    · exact ⟨_, .inr rfl⟩
    · exact ⟨_, .inr rfl⟩
    · exact ⟨_, .inr rfl⟩
    · exact ⟨0, .inl rfl⟩

@[simp] theorem st_showStage (j : SetId) : (showStage s).st j = s.st j := by
  obtain ⟨v, h | h⟩ := showStage_eq s <;> simp [h]

@[simp] theorem fld_showStage (j : SetId) (f : Field) (x : Nat) : (showStage s).fld j f x = s.fld j f x := by
  rw [State.fld, st_showStage, State.fld]

@[simp] theorem out_showStage : (showStage s).out = s.out := by
  obtain ⟨v, h | h⟩ := showStage_eq s <;> simp [h]

@[simp] theorem st_reportTable (old : State) (j : SetId) : (reportTable old s i).st j = s.st j := by
  unfold reportTable
  split <;> rfl

@[simp] theorem fld_reportTable (old : State) (j : SetId) (f : Field) (x : Nat) : (reportTable old s i).fld j f x = s.fld j f x := by
  rw [State.fld, st_reportTable, State.fld]

@[simp] theorem st_setPort (v : Nat) (j : SetId) : (setPort s i p v).st j = (s.setFld i .LINK_PORTp_STAT_0_STATE p v).st j := by
  rw [setPort, st_reportTable, st_showStage]

@[simp] theorem fld_setPort (v : Nat) (f : Field) (x : Nat) :
    (setPort s i p v).fld i f x = (s.setFld i .LINK_PORTp_STAT_0_STATE p v).fld i f x := by
  rw [State.fld, st_setPort, State.fld]

@[simp] theorem lport_setPort (v : Nat) : lport (setPort s i p v) i p = lport s i p := by
  rw [lport, st_setPort, ← lport, lport_setFld]

theorem portState_setPort {v : Nat} (hv : v < 16) : portState (setPort s i p v) i p = v := by
  have hlen : Field.LINK_PORTp_STAT_0_STATE.info.len = 4 := rfl
  rw [portState, fld_setPort, State.fld_setFld_same, hlen]
  exact Nat.mod_eq_of_lt hv

/-- A port that goes from one settled state to another leaves the ports of its set settled or not, as they were. -/
theorem portsSettled_setFld {v : Nat} (hold : portState s i p ∈ [0, 1, 7, 8, 9]) (hv : v ∈ [0, 1, 7, 8, 9]) :
    portsSettled (s.setFld i .LINK_PORTp_STAT_0_STATE p v) i = portsSettled s i := by
  have hfits : v % 2 ^ Field.LINK_PORTp_STAT_0_STATE.info.len = v := Nat.mod_eq_of_lt (show v < 16 by simp at hv; omega)
  have each (q : Nat) : portSettled (s.setFld i .LINK_PORTp_STAT_0_STATE p v) i q = portSettled s i q := by
    by_cases hq : q = p
    · subst hq
      have hnew : portState (s.setFld i .LINK_PORTp_STAT_0_STATE q v) i q = v := by rw [portState, State.fld_setFld_same, hfits]
      rw [portSettled, portSettled, hnew, List.contains_iff_mem.2 hold, List.contains_iff_mem.2 hv, Bool.true_or, Bool.true_or]
    · simp [portSettled, portState, hq]
  exact congrArg (List.range 5).all (funext each)

/-- Such a port sends no table. -/
theorem out_setPort {v : Nat} (hold : portState s i p ∈ [0, 1, 7, 8, 9]) (hv : v ∈ [0, 1, 7, 8, 9]) : (setPort s i p v).out = s.out := by
  have hsettled : portsSettled (showStage (s.setFld i .LINK_PORTp_STAT_0_STATE p v)) i = portsSettled s i := by
    rw [← portsSettled_setFld s i p hold hv]
    exact portsSettled_congr fun f x => fld_showStage ..
  have hquiet : reportTable s (showStage (s.setFld i .LINK_PORTp_STAT_0_STATE p v)) i = showStage (s.setFld i .LINK_PORTp_STAT_0_STATE p v) := by
    rw [reportTable, hsettled]
    exact if_pos (by cases portsSettled s i <;> simp)
  rw [setPort, hquiet, out_showStage, State.setFld_out]

end

/-! ## Retraining -/

/-- A fold whose steps leave the start as it is. -/
theorem foldl_of_fixed {σ α : Type} {f : σ → α → σ} {s : σ} {l : List α} (h : ∀ a ∈ l, f s a = s) : l.foldl f s = s := by
  induction l with
  | nil => rfl
  | cons a l ih => rw [List.foldl_cons, h a (List.mem_cons_self ..), ih fun b hb => h b (List.mem_cons_of_mem _ hb)]

section
variable {s : State} {i : SetId} {p : Nat}

/-- What a retrain that starts leaves of a port. -/
structure Retrains (s t : State) (i : SetId) (p : Nat) : Prop where
  state : portState t i p = 8
  port : lport t i p = { lport s i p with exch := none, nakCount := 0 }
  count : t.fld i .LINK_PORTp_CNT_1_RETRAINS p = min (s.fld i .LINK_PORTp_CNT_1_RETRAINS p + 1) 65535
  bundles : t.fld i .LINK_PORTp_STAT_0_BUNDLES p = s.fld i .LINK_PORTp_STAT_0_BUNDLES p
  mem : (t.st i).mem = (s.st i).mem
  out : t.out = s.out

theorem triggerRetrain_of_fast (hstate : portState s i p = 7) (hfeat : featOn s i p 4 = true) : Retrains s (triggerRetrain s i p) i p := by
  have hlen : Field.LINK_PORTp_CNT_1_RETRAINS.info.len = 16 := rfl
  have halm (t : State) (j : SetId) (f : Field) (x : Nat) : (almLink t i p 8 4).fld j f x = t.fld j f x := rfl
  have hst (t : State) (j : SetId) : (almLink t i p 8 4).st j = t.st j := rfl
  have hout (t : State) : (almLink t i p 8 4).out = t.out := rfl
  have hport := portState_setPort s i p (v := 8) (by omega)
  unfold triggerRetrain
  rw [if_neg (not_not.2 hstate), if_neg (by simp [hfeat])]
  constructor
  case state => simpa [portState, State.satFld, halm] using hport
  case port =>
    rw [lport_onLink_same]
    simp [State.satFld, lport, hst]
  case count => simp [State.satFld, halm, hlen]
  case bundles => simp [State.satFld, halm]
  case mem => simp [State.satFld, hst, onLink]
  case out => simp [State.satFld, hout, out_setPort s i p (v := 8) (by simp [hstate]) (by simp)]

theorem triggerRetrain_of_slow (hstate : portState s i p = 7) (hfeat : featOn s i p 4 = false) : triggerRetrain s i p = loseLink s i p := by
  rw [triggerRetrain, if_neg (not_not.2 hstate), if_pos (by simp [hfeat])]

theorem triggerRetrain_of_retraining (hstate : portState s i p = 8) : triggerRetrain s i p = s := if_pos (by omega)

end

theorem onLink_self {s : State} {i : SetId} {p : Nat} {f : LinkPort → LinkPort} (hf : f (lport s i p) = lport s i p) :
    lport (onLink s i p f) i p = lport s i p := by rw [lport_onLink_same, hf]

/-- Settles O35: a retrain that starts keeps the port, one that may not is a loss, and one that succeeds sends what the port holds. -/
theorem linkRetrain : Obligations.LinkRetrain := by
  refine ⟨fun s i st hset href => ?stack, fun s i p => ⟨fun hstate hfeat => ⟨?silence, ?asked, fun b hbundle hfirst henough => ?align⟩,
    fun hstate hfeat => ?slow, fun hstate => ⟨?timeout, fun bundles hall hasked henough => ?done⟩⟩⟩
  case stack => exact congrArg Host.Outcome.next (if_neg (by simp [hset, href]))
  case silence =>
    have hkept := triggerRetrain_of_fast hstate hfeat
    exact ⟨_, rfl, hkept.state, hkept.port, hkept.count, hkept.mem, hkept.out⟩
  case asked =>
    have hfld (f : Field) (x : Nat) : (onLink s i p.val fun l => { l with asked := true }).fld i f x = s.fld i f x := fld_onLink ..
    have hkept := triggerRetrain_of_fast (s := onLink s i p.val fun l => { l with asked := true }) ((hfld ..).trans hstate)
      (by rw [featOn, hfld, ← featOn, hfeat])
    have hexec : exec (.portRetrain i p) s = .next (settle (triggerRetrain (onLink s i p.val fun l => { l with asked := true }) i p.val) i) := by
      change Host.Outcome.next (settle (askRetrain s i p.val) i) = _
      rw [askRetrain, if_neg (not_not.2 hstate)]
    exact ⟨_, hexec, hkept.state, by rw [hkept.port, lport_onLink_same], hkept.out.trans (out_onLink ..)⟩
  case align =>
    have hfld (f : Field) (x : Nat) : (onLink s i p.val fun l => { l with alignAt := SMap.put 0 l.alignAt b.val (s.time i + 1) }).fld i f x =
      s.fld i f x := fld_onLink ..
    have hkept := triggerRetrain_of_fast (s := onLink s i p.val fun l => { l with alignAt := SMap.put 0 l.alignAt b.val (s.time i + 1) })
      ((hfld ..).trans hstate) (by rw [featOn, hfld, ← featOn, hfeat])
    have hexec : exec (.fecAlignLoss i p b) s = .next (settle (triggerRetrain
        (onLink s i p.val fun l => { l with alignAt := SMap.put 0 l.alignAt b.val (s.time i + 1) }) i p.val) i) := by
      change execFecAlignLoss i p b s = _
      simp [execFecAlignLoss, hstate, hbundle, hfirst, tooFew_congr hfld, henough]
    refine ⟨_, hexec, hkept.state, ?_, ?_, hkept.bundles.trans (hfld ..), hkept.out.trans (out_onLink ..)⟩
    · rw [hkept.port, lport_onLink_same]
      simp
    · rw [hkept.port, lport_onLink_same]
  case slow =>
    change Host.Outcome.next (settle (triggerRetrain s i p.val) i) = _
    rw [triggerRetrain_of_slow hstate hfeat]
  case timeout => exact congrArg Host.Outcome.next (if_pos hstate)
  case done =>
    have hfld (f : Field) (x : Nat) : (onLink s i p.val fun l => { l with asked := false }).fld i f x = s.fld i f x := fld_onLink ..
    have hkeeps : (List.range (bundlesOf p.val)).foldl (fun s b => if bit bundles b then s else excludeBundle s i p.val b)
        (onLink s i p.val fun l => { l with asked := false }) = onLink s i p.val fun l => { l with asked := false } := by
      exact foldl_of_fixed fun b hb => if_pos (hall b (List.mem_range.1 hb))
    have hexec : exec (.retrain i p bundles) s = .next (settle (sendFlits (replayAll
        (setPort (onLink s i p.val fun l => { l with asked := false }) i p.val 7) i p.val) i p.val) i) := by
      change execRetrain i p bundles s = _
      simp [execRetrain, triggerRetrain_of_retraining hstate, hstate, hasked, hkeeps, tooFew_congr hfld, henough]
    refine ⟨_, hexec, portState_setPort _ i p.val (by omega), ?_, ?_⟩
    · rw [lport_setPort, onLink_self (by rw [← hasked])]
    · rw [out_setPort _ i p.val (by rw [portState, hfld, ← portState, hstate]; simp) (by simp), out_onLink]

end Sys2Proof.Machine
end

section
/-! PROOF. Lost sets, the table of a circle's ports and the flits that a port receives (R326 to R331, R335, R340, R431). -/

namespace Sys2Proof.Machine

/-! ## Reports write only the registers of the fault log -/

def logFields : List Field := [.SET_FLOGe_w_REC, .SET_FLOG_PTR_HEAD, .SET_FLOG_PTR_WRAPPED, .SET_FSTAT_MASKED, .SET_FSTAT_SESSION, .SET_FSTAT_JOB,
  .SET_FSTAT_LOST, .SET_FSTAT_PRUNE, .SET_FSTAT_LAST, .SET_FSTAT_COUNT]

theorem State.fld_ite (c : Prop) [Decidable c] (s t : State) (j : SetId) (f : Field) (x : Nat) :
    (if c then s else t).fld j f x = if c then s.fld j f x else t.fld j f x := apply_ite (fun u : State => u.fld j f x) c s t

section
variable (s : State) (i : SetId) {f : Field}

theorem fld_logRecord (hf : f ∉ logFields) (r : FRec) (j : SetId) (x : Nat) : (logRecord s i r).fld j f x = s.fld j f x := by
  simp only [logFields, List.mem_cons, List.not_mem_nil, or_false, not_or] at hf
  obtain ⟨hrec, hhead, hwrapped, hmasked, hsession, hjob, hlost, hprune, hlast, hcount⟩ := hf
  have hwords (l : List Nat) (g v : Nat → Nat) :
      (l.foldl (fun t w => t.setFld i .SET_FLOGe_w_REC (g w) (v w)) s).fld j f x = s.fld j f x :=
    foldl_keeps (fun t => t.fld j f x) (fun t w => by simp [hrec]) l s
  simp [logRecord, State.addFld, State.fld_ite, *]

theorem fld_report (hf : f ∉ logFields) (r : FRec) (j : SetId) (x : Nat) : (report s i r).fld j f x = s.fld j f x := by
  have hmasked : f ≠ .SET_FSTAT_MASKED := fun h => hf (by simp [h, logFields])
  have hdeliver (t : State) (r : FRec) : (deliver t i r).fld j f x = t.fld j f x := fld_of_besidesReports (besidesReports_deliver ..) ..
  have hqueue (t : State) (q : List (Nat × FRec)) : { t with mpQueue := q }.fld j f x = t.fld j f x := rfl
  have hseen (t : State) (k v : Nat) : (t.onSet i fun t => { t with maskedAt := SMap.put 0 t.maskedAt k v }).fld j f x = t.fld j f x :=
    fld_onSet_of_regs t i (by intro; rfl) ..
  simp [report, State.fld_ite, hmasked, hdeliver, hqueue, fld_logRecord _ _ hf, hseen]

end

/-! ## A link that is lost in a lost set (R335) -/

section
variable (s : State) (i : SetId) (p : Nat)

/-- What a link drops leaves every register of the sets. -/
@[simp] theorem fld_dropLink (j : SetId) (f : Field) (x : Nat) : (dropLink s i p).fld j f x = s.fld j f x := by
  have hdiscard (t : State) (c src : Nat) : (discardFrame t i c src).fld j f x = t.fld j f x := by
    unfold discardFrame
    split <;> rfl
  simp [dropLink, foldl_keeps (fun t : State => t.fld j f x) (fun t (e : Nat × Nat) => hdiscard t e.1 e.2),
    foldl_keeps (fun t : State => t.fld j f x) (fun t (d : List Byte) => hdiscard t (leAt d 0 1 % 8) (leAt d 12 4)), onFrames]

@[simp] theorem lostSets_dropLink : lostSets (dropLink s i p) = lostSets s := by
  have hdiscard (t : State) (c src : Nat) : lostSets (discardFrame t i c src) = lostSets t := by
    unfold discardFrame
    split <;> rfl
  have hlink (f : LinkPort → LinkPort) : lostSets (onLink s i p f) = lostSets s := lostSets_onSet s i (by intro; rfl)
  have hframes (t : State) (g : Frame → Bool) (f : Frame → Frame) : lostSets (onFrames t i g f) = lostSets t :=
    lostSets_onSet t i (by intro; rfl)
  simp only [dropLink, foldl_keeps lostSets (fun t (e : Nat × Nat) => hdiscard t e.1 e.2), hframes, hlink,
    foldl_keeps lostSets (fun t (d : List Byte) => hdiscard t (leAt d 0 1 % 8) (leAt d 12 4))]

theorem lostSets_of_lost {s t : State} (h : ∀ i, (t.st i).lost = (s.st i).lost) : lostSets t = lostSets s := Prod.ext (h 0) (h 1)

theorem lostSets_report (r : FRec) : lostSets (report s i r) = lostSets s :=
  lostSets_of_lost (lost_of_besidesStore (besidesStore_report s i r))

theorem lostSets_setPort (v : Nat) : lostSets (setPort s i p v) = lostSets s := by
  rw [← lostSets_setFld s i .LINK_PORTp_STAT_0_STATE p v]
  exact lostSets_of_lost fun j => by rw [st_setPort]

theorem portState_holdover (q : Nat) : portState (holdover s i p) i q = portState s i q := by
  simp [portState, holdover, holdoverReport, State.fld_ite, fld_report, logFields]

theorem lostSets_holdover : lostSets (holdover s i p) = lostSets s := by
  simp [holdover, holdoverReport, apply_ite lostSets, lostSets_report]

theorem portState_setPort_ne {q : Nat} (v : Nat) (h : q ≠ p) : portState (setPort s i p v) i q = portState s i q := by
  rw [portState, fld_setPort, State.fld_setFld_ne _ _ (by simp [h]), portState]

end

/-- A lost link before its circle folds: reported, counted, its port down and what it carried dropped. -/
def linkDropped (s : State) (i : SetId) (p : Nat) : State :=
  let t := almLink (report (s.setFld i .LINK_PORTp_EVT_LOST p 1) i { FC.linkLost.fr with
    action := if dirOf s i (logPort s i p) < 2 then 6 else 0, die := linkDie i, unit := p, detail := linkDetail s i p }) i p 12 4
  dropLink (setPort t i p (if t.fld i .LINK_PORTp_CTL_DISABLE p = 1 ∨ (t.st i).lost then 0 else 2)) i p

/-- The loss of a link whose far end was in use ends the holdover of a parent, and folds the circle in a set that is not lost. -/
theorem loseLink_eq (s : State) (i : SetId) (p : Nat) : loseLink s i p =
    if portState s i p < 3 ∨ portState s i p = 9 then s
    else
      let u := if portState s i p = 7 ∨ portState s i p = 8 then holdover (linkDropped s i p) i p else linkDropped s i p
      if (portState s i p = 7 ∨ portState s i p = 8) ∧ dirOf u i (logPort u i p) < 2 ∧ !(u.st i).lost then
        if lineEnd u i (neighbour u i (dirOf u i (logPort u i p))) then setGone u i (neighbour u i (dirOf u i (logPort u i p)))
        else beginFold u i { cuts := (circDirs u i (logPort u i p)).map (circleLink u i), gone := [], stand := [] }
      else u :=
  rfl

theorem lostSets_linkDropped (s : State) (i : SetId) (p : Nat) : lostSets (linkDropped s i p) = lostSets s := by
  have halm (t : State) : lostSets (almLink t i p 12 4) = lostSets t := rfl
  rw [linkDropped, lostSets_dropLink, lostSets_setPort, halm, lostSets_report, lostSets_setFld]

theorem portState_linkDropped (s : State) (i : SetId) {p q : Nat} (h : q ≠ p) : portState (linkDropped s i p) i q = portState s i q := by
  have halm (t : State) : portState (almLink t i p 12 4) i q = portState t i q := rfl
  rw [linkDropped, portState, fld_dropLink, ← portState, portState_setPort_ne _ _ _ _ h, halm, portState, fld_report _ _ (by simp [logFields]),
    State.fld_setFld_ne _ _ (by simp), portState]

/-- In a lost set no fold follows the loss of a link. -/
theorem loseLink_of_lost {s : State} {i : SetId} (hlost : (s.st i).lost = true) (p : Nat) :
    lostSets (loseLink s i p) = lostSets s ∧ ∀ q ≠ p, portState (loseLink s i p) i q = portState s i q := by
  rw [loseLink_eq]
  split
  · exact ⟨rfl, fun _ _ => rfl⟩
  · extract_lets u
    have hsame : lostSets u = lostSets s := by
      rw [apply_ite lostSets, lostSets_holdover, ite_self, lostSets_linkDropped]
    have hstates (q : Nat) (hq : q ≠ p) : portState u i q = portState s i q := by
      rw [apply_ite (portState · i q), portState_holdover, ite_self, portState_linkDropped s i hq]
    rw [if_neg (by simp [lost_of_lostSets hsame i, hlost])]
    exact ⟨hsame, hstates⟩

/-- One port of a lost set after DOWN: its link is lost and it stands DISABLED. -/
def portDark (i : SetId) (s : State) (p : Nat) : State :=
  if portState (loseLink s i p) i p = 0 then loseLink s i p else (setPort (loseLink s i p) i p 0).emit .linkOff i.val [p]

theorem portDark_of_lost {s : State} {i : SetId} (hlost : (s.st i).lost = true) (p : Nat) :
    lostSets (portDark i s p) = lostSets s ∧ portState (portDark i s p) i p = 0 ∧ ∀ q ≠ p, portState (portDark i s p) i q = portState s i q := by
  obtain ⟨hsame, hstates⟩ := loseLink_of_lost hlost p
  have hemit (t : State) (q : Nat) : portState (t.emit .linkOff i.val [p]) i q = portState t i q := rfl
  unfold portDark
  split
  · exact ⟨hsame, ‹_›, hstates⟩
  · rw [lostSets_emit, lostSets_setPort, hemit, portState_setPort _ _ _ (by omega)]
    exact ⟨hsame, rfl, fun q hq => by rw [hemit, portState_setPort_ne _ _ _ _ hq, hstates q hq]⟩

theorem portState_portsDark {s : State} {i : SetId} (hlost : (s.st i).lost = true) (l : List Nat) (q : Nat) :
    portState (l.foldl (portDark i) s) i q = if q ∈ l then 0 else portState s i q := by
  induction l generalizing s with
  | nil => rfl
  | cons p l ih =>
    obtain ⟨hsame, hdark, hstates⟩ := portDark_of_lost hlost p
    rw [List.foldl_cons, ih ((lost_of_lostSets hsame i).trans hlost)]
    by_cases hq : q = p
    · simp [hq, hdark]
    · simp [hq, hstates]

theorem fld_cutRails (s : State) (i j : SetId) (f : Field) (x : Nat) : (cutRails s i).fld j f x = s.fld j f x := by
  have hrails (l : List Nat) : (l.foldl (fun s n => s.setPfld .PD_TEMPOn_VSET n 0) s).fld j f x = s.fld j f x :=
    foldl_keeps (fun t : State => t.fld j f x) (fun t n => by simp) l s
  unfold cutRails
  dsimp only
  split
  · exact hrails _
  · exact hrails _

/-! ## Tables and flits -/

theorem onCirc_onCirc (s : State) (i : SetId) (f g : CircUnit → CircUnit) :
    onCirc (onCirc s i f) i g = onCirc s i fun c => g (f c) := by
  fin_cases i <;> rfl

theorem execPortTableReport_eq (s : State) (i : SetId) {q loc : Nat} (up : Fin 4) (hloc : loc < 2 ^ 19) {twice : Bool}
    (htwice : ((circ s i).tables.any fun e => e.1 != q && (match e.2 with | some t => t.1 == loc | none => false)) = twice) :
    execPortTableReport i q loc up s = .next
      (let t := onCirc s i fun c => { c with tables := SMap.put none c.tables q (some (loc, up.val)), dup := c.dup || twice }
      if twice then report t i { FC.strapDup.fr with die := linkDie i, detail := loc } else t) := by
  subst htwice
  rw [execPortTableReport, Nat.mod_eq_of_lt hloc] <;> rfl

/-- Settles O37: each report and each flit meets the state that its rule names. -/
theorem lossesTablesFlits : Obligations.LossesTablesFlits := by
  refine ⟨fun s i q hset => ⟨?confirm, fun hplace hother hnew => ?gone, fun hknown => ?known⟩, fun s i hlost => ?down,
    fun s i q loc up hloc => ⟨fun honce => ?once, fun r x hentry hr => ?twice⟩, fun s i p d hlen hset hup hretrain =>
      ⟨fun hcrc => ?crc, fun hcrc hseq => ?order, fun hcrc hseq hidle hdown t ht hactive => ?payload⟩⟩
  case confirm => exact congrArg Host.Outcome.next (if_neg (by simp [hset]))
  case gone => exact if_neg (by simpa [hother, hplace] using hnew)
  case known => exact if_pos (.inl hknown)
  case down =>
    refine ⟨_, congrArg Host.Outcome.next (if_pos hlost), fun p hp => ?_⟩
    have hdark : portState ((List.range 5).foldl (portDark i) s) i p = 0 := by
      rw [portState_portsDark hlost, if_pos (List.mem_range.2 hp)]
    change portState (if _ then cutRails ((List.range 5).foldl (portDark i) s) i else (List.range 5).foldl (portDark i) s) i p = 0
    rw [portState, State.fld_ite, fld_cutRails, ite_self]
    exact hdark
  case once =>
    have hexec := execPortTableReport_eq s i up hloc (q := q) (twice := false) (by
      rw [List.any_eq_false]
      intro e he
      cases hx : e.2 with
      | none => simp
      | some x => simpa [hx] using fun hq => honce e he hq x hx)
    exact hexec.trans (by simp)
  case twice =>
    have hexec := execPortTableReport_eq s i up hloc (q := q) (twice := true) (by
      rw [List.any_eq_true]
      exact ⟨_, hentry, by simp [hr]⟩)
    exact hexec.trans (by simp [onCirc_onCirc])
  all_goals
    have hwhole : slice d 0 512 = d := by simp [slice, ← hlen]
    have hlive : ¬((s.st i).lost = true ∨ portState s i p.val < 5 ∨ portState s i p.val = 8) := by simp [hset]; omega
    change execFlitReceive i p d s = _
  case crc => simp only [execFlitReceive, hwhole, if_neg hlive, if_pos hcrc]
  case order => simp only [execFlitReceive, hwhole, if_neg hlive, if_neg (not_not.2 hcrc), if_pos hseq]
  case payload =>
    have hkept : ¬(portState (sendFlits t i p.val) i p.val < 5 ∨ portState (sendFlits t i p.val) i p.val = 8) := by omega
    simp only [execFlitReceive, hwhole, if_neg hlive, if_neg (not_not.2 hcrc), if_neg (not_not.2 hseq), hidle, if_false, hdown,
      Bool.false_eq_true, false_and, ht, false_or, if_neg hkept]

end Sys2Proof.Machine
end

section
/-! PROOF. The HDM window and the apertures of the host (R357, R361, R420). -/

namespace Sys2Proof.Machine

theorem readMem_append (m : SMap Byte) (a n k : Nat) : readMem m a n ++ readMem m (a + n) k = readMem m a (n + k) := by
  simp [readMem, List.range_add, Nat.add_assoc]

theorem take_drop_readMem (m : SMap Byte) (a : Nat) {k n l : Nat} (h : k + n ≤ l) : ((readMem m a l).drop k).take n = readMem m (a + k) n := by
  refine List.ext_getElem (by simp; omega) fun x _ _ => ?_
  simp [readMem, Nat.add_assoc]

section
variable {s : State} {i : SetId} (hvalid : (s.st i).chk = []) (hfree : ∀ n, fenced s i n = false)
include hvalid hfree

/-- With every stored word valid and no stack fenced the host reads words as they stand. -/
theorem hostWords_of_clean (a n : Nat) : hostWords i s a n = (readMem (s.st i).mem a (32 * n), false, s) := by
  have word (a : Nat) : hostWord s i a = (readMem (s.st i).mem a 32, false, s) := by
    simp [hostWord, onFenced_of_unfenced hfree, chkOf_of_nil hvalid, decodeDiff]
  induction n generalizing a with
  | zero => simp [hostWords, readMem]
  | succ n ih => simp [hostWords, word, ih, readMem_append, Nat.mul_succ, Nat.add_comm (32 * n)]

/-- It takes the bytes that it asks for out of them. -/
theorem hostBytes_of_clean (a n : Nat) : hostBytes s i a n = (readMem (s.st i).mem a n, false, s) := by
  rw [hostBytes, hostWords_of_clean hvalid hfree]
  dsimp only
  rw [take_drop_readMem _ _ (by omega), show a / 32 * 32 + (a - a / 32 * 32) = a by omega]

end

theorem hostWrite_of_clean {s : State} {i : SetId} (hvalid : (s.st i).chk = []) (hfree : ∀ n, fenced s i n = false) (hdue : (s.st i).endDue = [])
    (x : Nat) (d : List Byte) : endDueJobs (store s i x d) i = store s i x d := by
  have hnone : ((store s i x d).st i).endDue = [] := (store_writes_of_clean hvalid hfree x d).endDue.trans hdue
  rw [endDueJobs, hnone]
  rfl

/-! ## The HDM window (R357) -/

section
variable {s : State} {i : SetId} {off x : Nat}

theorem hdmWrite_of_open {d : List Byte} (hat : hdmAt s i off d.length = some x) (hopen : hdmOpen s i x = true) :
    hdmWrite s i off d = endDueJobs (store s i x d) i := by
  simp [hdmWrite, hat, hopen]

theorem hdmWrite_of_closed {d : List Byte} (hat : hdmAt s i off d.length = some x) (hclosed : hdmOpen s i x = false) :
    hdmWrite s i off d = s.setPfld .HB_HDMs_HDM_ERR i.val 1 := by
  simp [hdmWrite, hat, hclosed]

theorem hdmRead_of_open {n : Nat} (hat : hdmAt s i off n = some x) (hopen : hdmOpen s i x = true) (hvalid : (s.st i).chk = [])
    (hfree : ∀ n, fenced s i n = false) : hdmRead s i off n = hostAnswer s 0 (readMem (s.st i).mem x n) := by
  simp [hdmRead, hat, hopen, hostBytes_of_clean hvalid hfree, bitOf]

theorem hdmRead_of_closed {n : Nat} (hat : hdmAt s i off n = some x) (hclosed : hdmOpen s i x = false) :
    hdmRead s i off n = hostAnswer (s.setPfld .HB_HDMs_HDM_ERR i.val 1) 1 (List.replicate n 0) := by
  simp [hdmRead, hat, hclosed]

end

/-! ## The apertures (R361) -/

section
variable {s : State} {a off n : Nat}

theorem aperRead_of_misfit (hfits : aperFits off n = false) : aperRead s a off n = hostAnswer s 2 := by
  rw [aperRead, hfits]
  rfl

section
variable {i : SetId} {x : Nat} (hfits : aperFits off n = true) (hen : s.pfld .HB_APERa_EN a = 1) (hat : aperAt s a off = (i, x))
include hfits hen hat

theorem aperRead_of_open (hopen : aperOpen s i x n = true) (hvalid : (s.st i).chk = []) (hfree : ∀ n, fenced s i n = false) :
    aperRead s a off n = hostAnswer s 0 (readMem (s.st i).mem x n) := by
  rw [aperRead, if_neg (by simp [hfits]), if_neg (by simp [hen]), hat]
  simp [hopen, hostBytes_of_clean hvalid hfree]

theorem aperRead_of_closed (hclosed : aperOpen s i x n = false) :
    aperRead s a off n = hostAnswer (s.setPfld .HB_APERa_RD_ERR a 1) 0 (List.replicate n 0) := by
  rw [aperRead, if_neg (by simp [hfits]), if_neg (by simp [hen]), hat]
  simp [hclosed]

end

variable {d : List Byte} (hfits : aperFits off d.length = true) (hen : s.pfld .HB_APERa_EN a = 1)
include hfits hen

theorem aperWrite_of_closed (hclosed : aperOpen s (aperAt s a off).1 (aperAt s a off).2 d.length = false ∨
    mayPoke s (aperAt s a off).1 (aperAt s a off).2 = false) : aperWrite s a off d = s.setPfld .HB_APERa_WR_DROP a 1 := by
  have hdrop : ¬(aperOpen s (aperAt s a off).1 (aperAt s a off).2 d.length = true ∧ mayPoke s (aperAt s a off).1 (aperAt s a off).2 = true) := by
    rintro ⟨ho, hp⟩
    simp [ho, hp] at hclosed
  simp [aperWrite, hfits, hen, if_neg hdrop]

theorem aperWrite_of_open (hopen : aperOpen s (aperAt s a off).1 (aperAt s a off).2 d.length = true)
    (hpoke : mayPoke s (aperAt s a off).1 (aperAt s a off).2 = true) :
    aperWrite s a off d = endDueJobs (store s (aperAt s a off).1 (aperAt s a off).2 d) (aperAt s a off).1 := by
  simp [aperWrite, hfits, hen, hopen, hpoke]

end

theorem next_hostAccess {s : State} (h : Claims.hostOpen s) {q : HostReq} {t : State} (ht : hostDo s q = t) :
    (Host.Outcome.next (hostAccess s q) : Out) = .next t := by
  rw [hostAccess_of_open h, ht]

/-- Settles O40: each access is done at once, and its address and rights choose its answer. -/
theorem hostMemory : Obligations.HostMemory := by
  intro s hopen
  refine ⟨fun i off len x d => ⟨fun hat => ⟨fun hmay => next_hostAccess hopen (hdmWrite_of_open hat hmay),
    fun hmay => next_hostAccess hopen (hdmWrite_of_closed hat hmay)⟩, fun hat =>
      ⟨fun hmay hvalid hfree => next_hostAccess hopen (hdmRead_of_open hat hmay hvalid hfree),
        fun hmay => next_hostAccess hopen (hdmRead_of_closed hat hmay)⟩⟩, fun a off len d hen =>
    ⟨fun hfits => next_hostAccess hopen (aperRead_of_misfit hfits), fun hfits =>
      ⟨fun hmay hvalid hfree => next_hostAccess hopen (aperRead_of_open hfits hen Prod.mk.eta.symm hmay hvalid hfree),
        fun hmay => next_hostAccess hopen (aperRead_of_closed hfits hen Prod.mk.eta.symm hmay)⟩, fun hfits =>
      ⟨fun hmay => next_hostAccess hopen (aperWrite_of_closed hfits hen hmay), fun hmay hpoke hvalid hfree hdue => ?_⟩⟩⟩
  have writes := store_writes_of_clean hvalid hfree (aperAt s a.val off).2 d
  refine ⟨_, next_hostAccess hopen ((aperWrite_of_open hfits hen hmay hpoke).trans (hostWrite_of_clean hvalid hfree hdue _ d)),
    writes.keeps.regs, writes.keeps.out, writes.keeps.others, writes.keeps.setRegs, writes.mem⟩

end Sys2Proof.Machine
end

section
/-! PROOF. CXL mailbox commands, SPDM, measurements and MCTP control messages (R369 to R375, R382, R393, R394). -/

namespace Sys2Proof.Machine

theorem fromStep4_of_stage {s : State} (h : 2 ≤ stage s) : fromStep4 s = true := decide_eq_true h

/-- In RECOVERY the mailbox carries out the four commands that mend it. -/
theorem boxCmd_of_recovery {s : State} (hrec : stage s = 1) (hlost : s.pkgLost = false) (hmp : s.mpDown = false) {op : Nat}
    (hop : [0x0001, 0x0200, 0x0201, 0x0202].contains op = true) (run : State → State) : boxCmd s op run = run s := by
  have hmends : ¬(stage s = 1 ∧ ¬[0x0001, 0x0200, 0x0201, 0x0202].contains op) := fun h => h.2 hop
  rw [boxCmd, if_neg (by simp [hrec, hlost]), if_neg (by simp [hrec, hmp]), if_neg hmends]

theorem spdmCmd_of_ready {s : State} (hlow : 2 ≤ stage s) (hlost : s.pkgLost = false) (hmp : s.mpDown = false)
    (hready : s.pfld .SEC_STAT_ALIAS_READY = 1) (run : State → State) : spdmCmd s run = run s := by
  simp [spdmCmd, fromStep4_of_stage hlow, hlost, hmp, hready]

theorem spdmCmd_of_unready {s : State} (hlow : 2 ≤ stage s) (hlost : s.pkgLost = false) (hunready : s.pfld .SEC_STAT_ALIAS_READY = 0)
    (run : State → State) : spdmCmd s run = spdmError s 3 := by
  simp [spdmCmd, fromStep4_of_stage hlow, hlost, hunready]

theorem execMctpControl_setEid {s : State} (hlow : 2 ≤ stage s) (hlost : s.pkgLost = false) (hmp : s.mpDown = false) (b : Fin 2) {e : Nat}
    (hpos : 1 ≤ e) (hlt : e < 255) : execMctpControl b (.setEid e) s =
      .next (mctpAnswer (onMg s fun m => { m with eids := SMap.put 0 m.eids b.val e }) b 1 0 (leBytes 1 0 ++ leBytes 1 e ++ leBytes 1 0)) := by
  have he : e % 256 = e := Nat.mod_eq_of_lt (by omega)
  have hvalid : ¬(e = 0 ∨ e = 255) := by omega
  simp [execMctpControl, fromStep4_of_stage hlow, hlost, hmp, he, if_neg hvalid]

/-- A field one bit wide that is set shows its bit. -/
theorem bit_putBits_one_same (w n : Nat) : bit (putBits w n 1 1) n = true := by
  have hpos : 0 < 2 ^ n := by positivity
  simp only [bit, putBits, bits, beq_iff_eq, pow_one, Nat.one_mod, Nat.one_mul]
  rcases Nat.mod_two_eq_zero_or_one (w / 2 ^ n) with h0 | h1
  · rw [h0, Nat.zero_mul, Nat.sub_zero, Nat.add_div_right _ hpos]
    omega
  · have hle : 2 ^ n ≤ w := by
      by_contra hlt
      rw [Nat.div_eq_of_lt (by omega)] at h1
      omega
    rw [h1, Nat.one_mul, Nat.sub_add_cancel hle, h1]

theorem bit_mod_two_pow (w : Nat) {n m : Nat} (h : n < m) : bit (w % 2 ^ m) n = bit w n := by
  have heq (v : Nat) : bit v n = v.testBit n := by simp [bit, Nat.testBit_eq_decide_div_mod_eq, beq_eq_decide]
  rw [heq, heq, Nat.testBit_mod_two_pow, decide_eq_true h, Bool.true_and]

/-- Settles O48: each command is accepted at its stage, and answers as its row says. -/
theorem managementCommands : Obligations.ManagementCommands := by
  refine ⟨⟨fun s hlow hrestart hlost hmp => ?box, fun s hrec hcause hlost hmp => ?recovery⟩, fun s hlow hlost hmp =>
    ⟨fun hready => ⟨?version, ?exchange, fun x hsessions => ?key, ?count, fun n hzero hall hhave => ?block⟩, fun hunready => ?unready,
      fun b e hpos hlt => ?eid⟩⟩
  case box =>
    have run (op : Nat) (f : State → State) : (Host.Outcome.next (boxCmd s op f) : Out) = .next (f s) := by
      rw [boxCmd_of_open hlow hrestart hlost hmp]
    refine ⟨(run ..).trans ?_, run .., run .., fun l => run .., fun t => run ..⟩
    have hrec : stage s ≠ 1 := by omega
    simp [nvmDead_of_step4 hlow, hrec]
  case recovery =>
    change Host.Outcome.next (boxCmd s 0x0202 _) = _
    rw [boxCmd_of_recovery hrec hlost hmp (by decide)]
    simp [nvmDead, hrec, hcause]
  case version =>
    change Host.Outcome.next (spdmCmd s _) = _
    rw [spdmCmd_of_ready hlow hlost hmp hready]
    rfl
  case exchange =>
    change Host.Outcome.next (spdmCmd s _) = _
    rw [spdmCmd_of_ready hlow hlost hmp hready]
    rfl
  case key =>
    have hlen : Field.SEC_STAT_IDE_KEYED.info.len = 3 := rfl
    have hexec : exec (.spdmRequest (.keyProg x)) s = .next (spdmAnswer
        (s.setPfld .SEC_STAT_IDE_KEYED 0 (putBits (s.pfld .SEC_STAT_IDE_KEYED) x.val 1 1)) [0x7E, x.val]) := by
      change Host.Outcome.next (spdmCmd s _) = _
      rw [spdmCmd_of_ready hlow hlost hmp hready]
      exact congrArg Host.Outcome.next (if_neg hsessions)
    refine ⟨_, hexec, ?_, rfl, rfl⟩
    rw [spdmAnswer, State.pfld_emit, State.pfld_setPfld_same, hlen, bit_mod_two_pow _ x.isLt, bit_putBits_one_same]
  case count =>
    change Host.Outcome.next (spdmCmd s _) = _
    rw [spdmCmd_of_ready hlow hlost hmp hready]
    rfl
  case block =>
    change Host.Outcome.next (spdmCmd s _) = _
    rw [spdmCmd_of_ready hlow hlost hmp hready]
    simp [hzero, hall, hhave, spdmAnswer]
  case unready =>
    change Host.Outcome.next (spdmCmd s _) = _
    rw [spdmCmd_of_unready hlow hlost hunready]
    rfl
  case eid =>
    refine ⟨_, execMctpControl_setEid hlow hlost hmp b hpos hlt, SMap.get_put_same .., fun x hx => ?_, rfl, rfl⟩
    exact SMap.get_put_ne (fun h => hx (Fin.ext h))

end Sys2Proof.Machine
end

section
/-! PROOF. Vendor commands that the mailbox carries out (R376 to R379, R384 to R389). -/

namespace Sys2Proof.Machine

section
variable {s : State} {v : Via} (h : Claims.atMailbox s v)
include h

theorem fromStep4_of_atMailbox : fromStep4 s = true := decide_eq_true h.2.1

theorem running_of_atMailbox (hdown : stage s ≠ 12) : running s = true := by
  obtain ⟨_, hlow, hrestart, _, _⟩ := h
  simp [running, hlow, hrestart, hdown]

/-- A command that needs authority on every path asks for it, then is carried out or refused. -/
theorem vendorCmd_of_owner {g : Gate} (hstage : g.stageOk = true) (howner : g.owner = true) (payload : List Byte) (run : State → State) :
    vendorCmd s v g payload run =
      if (takeAuth s v g.op payload).2 then run (takeAuth s v g.op payload).1 else answer (takeAuth s v g.op payload).1 v g.op 3 := by
  obtain ⟨hmctp, hlow, hrestart, hlost, hmp⟩ := h
  have hoff : stage s ≠ 0 := by omega
  simp [vendorCmd, hmctp, hrestart, hlost, hmp, hstage, howner, hoff]

end

theorem ownerSlot_of_fuses {s t : State} (h : t.fuses = s.fuses) : ownerSlot t = ownerSlot s := by
  unfold ownerSlot enrolled
  rw [h]

/-- Settles O45: at the mailbox each command that its stage accepts runs. -/
theorem vendorCommands : Obligations.VendorCommands := by
  intro s v hbox
  have run (g : Gate) (payload : List Byte) (f : State → State) (hstage : g.stageOk = true) (howner : g.owner = false) :
      (Host.Outcome.next (vendorCmd s v g payload f) : Out) = .next (f s) := by
    rw [vendorCmd_of_atMailbox hbox hstage howner]
  refine ⟨run _ _ _ rfl rfl, run _ _ _ (fromStep4_of_atMailbox hbox) rfl, rfl, fun off d hcard hlen hend => ?cardWrite,
    fun f hcard => ?cardCheck, fun hserving => ⟨fun off d hend => ?suppWrite, fun n k hn hmagic hver hfits hhave hkey =>
      ⟨fun hbad => ?unsigned, fun hdigest hall hbanks => ?commit⟩⟩, fun hdown => ⟨?restart, ?shutdown⟩, fun n howner => ?release, fun op => ?unknown⟩
  case cardWrite =>
    refine ⟨s.nvmWrite (0x100_0000 + off) d, (run _ _ _ hcard rfl).trans ?_, rfl, rfl, rfl, rfl, fun a => get_nvmWrite ..⟩
    rw [if_neg (by omega)]
  case cardCheck =>
    refine (run _ _ _ hcard rfl).trans ?_
    cases checkCard s (cardCopy s) f <;> rfl
  case suppWrite =>
    refine (run _ _ _ (by simp [hserving]) rfl).trans ?_
    rw [if_neg (by omega)]
  case unsigned =>
    refine (run _ _ _ (by simp [hserving]) rfl).trans ?_
    subst hn
    rw [if_neg (by omega)]
    simp [hkey, hbad]
  case commit =>
    refine (run _ _ _ (by simp [hserving]) rfl).trans ?_
    have hready : ((servingSets s).any fun i => s.fld i .CIRC_CFG_BANKS == 0) = false := by simpa using hbanks
    subst hn
    rw [if_neg (by omega)]
    simp only [hkey, hdigest, hall, hready]
    cases pssVerify 384 (leNat k) 65537 (readMem s.mg.supp 0 (64 + 80 * leAt (readMem s.mg.supp 0 64) 8 4))
      (readMem s.mg.supp (64 + 80 * leAt (readMem s.mg.supp 0 64) 8 4) 384) <;> simp
  case restart => exact run _ _ _ (running_of_atMailbox hbox hdown) rfl
  case shutdown =>
    refine ⟨_, run _ _ _ (running_of_atMailbox hbox hdown) rfl, ?_, ?_, ?_⟩
    · exact State.pfld_setPfld_same ..
    · rfl
    · rfl
  case release =>
    intro r
    have hfuses : (takeAuth s v 0xC00A []).1.fuses = s.fuses := (takeAuth_keepsPackage s v 0xC00A []).fuses
    change Host.Outcome.next (vendorCmd s v _ [] _) = _
    rw [vendorCmd_of_owner hbox (fromStep4_of_atMailbox hbox) rfl]
    refine congrArg Host.Outcome.next (if_congr Iff.rfl ?_ rfl)
    simp only [ownerSlot_of_fuses hfuses, howner, hfuses, r]
  case unknown =>
    obtain ⟨hmctp, hlow, hrestart, hlost, hmp⟩ := hbox
    change execVendorUnknown v op s = _
    simp [execVendorUnknown, hmctp, hrestart, hlost, hmp, show stage s ≠ 0 by omega]

end Sys2Proof.Machine
end

section
/-! PROOF. The steps that overwrite the calibration block (R446 to R448). -/

namespace Sys2Proof.Machine

/-- A check of authority takes a nonce out at most. -/
theorem takeAuth_eq (s : State) (v : Via) (op : Nat) (payload : List Byte) :
    ∃ nonces, (takeAuth s v op payload).1 = onMg s fun m => { m with nonces := nonces } := by
  unfold takeAuth
  split
  · exact ⟨s.mg.nonces, rfl⟩
  · split
    · dsimp only
      split <;> exact ⟨_, rfl⟩
    · exact ⟨s.mg.nonces, rfl⟩

section
variable {s : State}

/-- What a code that comes late, or is wrong, or is the one armed makes of the steps (R448). -/
def calTried (s : State) (late : Prop) [Decidable late] (c code : List Byte) : State :=
  let t := onMg s fun m => { m with calCode := none }
  if late ∨ c ≠ code then t
  else onMg ((t.setPfld .ALM_STAT_CAL_UNLOCKED 0 1).setPfld .SEC_STAT_CAL_UNLOCK_SEEN 0 1) fun m => { m with calStage := s.cal }

theorem execCalConfirm_of_armed {v : Via} (hbox : Claims.atMailbox s v) (hdown : stage s ≠ 12) {c : List Byte} (hcode : s.mg.calCode = some c)
    (code : List Byte) : execCalConfirm v code s = .next
      (if (takeAuth s v 0xC015 code).2 then
        answer (calTried (takeAuth s v 0xC015 code).1 (s.mg.calAt + 10000000000 < s.time 0) c code) v 0xC015
          (if s.mg.calAt + 10000000000 < s.time 0 then 2 else if c ≠ code then 4 else 0)
      else answer (takeAuth s v 0xC015 code).1 v 0xC015 3) := by
  obtain ⟨nonces, hmg⟩ := takeAuth_eq s v 0xC015 code
  have hcode' : (takeAuth s v 0xC015 code).1.mg.calCode = some c := by rw [hmg]; exact hcode
  have hat : (takeAuth s v 0xC015 code).1.mg.calAt = s.mg.calAt := by rw [hmg]; rfl
  have htime : (takeAuth s v 0xC015 code).1.time 0 = s.time 0 := by rw [hmg]; rfl
  rw [execCalConfirm, vendorCmd_of_owner hbox (running_of_atMailbox hbox hdown) rfl]
  refine congrArg Host.Outcome.next (if_congr Iff.rfl ?_ rfl)
  simp only [hcode', hat, htime]
  by_cases hlate : s.mg.calAt + 10000000000 < s.time 0
  · simp only [calTried, hlate, if_true, true_or]
  · by_cases hc : c = code
    · simp only [calTried, hlate, hc, ne_eq, not_true, or_self, if_false]
      rfl
    · simp only [calTried, hlate, hc, ne_eq, not_false_eq_true, or_true, if_false, if_true]

/-- A code that is late or wrong unlocks nothing. -/
theorem calTried_of_refused {late : Prop} [Decidable late] {c code : List Byte} (h : late ∨ c ≠ code) :
    calTried s late c code = onMg s fun m => { m with calCode := none } := if_pos h

/-- The code armed, in time, unlocks the block (R448). -/
theorem calTried_of_taken {late : Prop} [Decidable late] {c code : List Byte} (hlate : ¬late) (hcode : c = code) :
    (calTried s late c code).nvm = s.nvm ∧ (calTried s late c code).mg.calCode = none ∧ calUnlocked (calTried s late c code) = true ∧
      (calTried s late c code).mg.calStage = s.cal ∧ (calTried s late c code).pfld .SEC_STAT_CAL_UNLOCK_SEEN = 1 := by
  have heq : calTried s late c code = onMg (((onMg s fun m => { m with calCode := none }).setPfld .ALM_STAT_CAL_UNLOCKED 0 1).setPfld
      .SEC_STAT_CAL_UNLOCK_SEEN 0 1) fun m => { m with calStage := s.cal } := if_neg (by simp [hlate, hcode])
  have hpfld (t : State) (f : Mgmt → Mgmt) (g : Field) (x : Nat) : (onMg t f).pfld g x = t.pfld g x := rfl
  rw [heq]
  refine ⟨rfl, rfl, ?_, rfl, ?_⟩
  · rw [calUnlocked, hpfld, State.pfld_setPfld_ne _ _ (by simp), State.pfld_setPfld_same]
    rfl
  · rw [hpfld, State.pfld_setPfld_same]
    rfl

/-! ## The commit (R447) -/

/-- The block that a commit programs: ORIGIN 1, one sequence further, with its digest. -/
def calMarked (m : SMap Byte) : SMap Byte :=
  let m := writeMem m 6 [1#8]
  let m := writeMem m 12 (leBytes 4 (leNat (readMem m 12 4) + 1))
  writeMem m 32 (sha256 (readMem m 64 52960))

def calCommitted (s : State) : State :=
  { (s.nvmErase calBase 0x10_0000).nvmWrite calBase (readMem (calMarked s.mg.calStage) 0 53024) with calOver := true }.setPfld
    .ALM_STAT_CAL_UNLOCKED 0 0

theorem get_calMarked (m : SMap Byte) : SMap.get 0 (calMarked m) 6 = 1#8 := by
  rw [calMarked, get_writeMem, if_neg (by omega), get_writeMem, if_neg (by omega), get_writeMem, if_pos (by simp)]
  rfl

theorem nvm_calCommitted (s : State) :
    (calCommitted s).nvm = ((s.nvmErase calBase 0x10_0000).nvmWrite calBase (readMem (calMarked s.mg.calStage) 0 53024)).nvm := rfl

theorem origin_calCommitted (s : State) : leNat ((calCommitted s).nvmBytes (calBase + 6) 1) = 1 := by
  have hbytes : (calCommitted s).nvmBytes (calBase + 6) 1 =
      ((readMem (calMarked s.mg.calStage) 0 53024).drop (calBase + 6 - calBase)).take 1 :=
    nvmBytes_nvmWrite (s.nvmErase calBase 0x10_0000) (by omega) (by rw [length_readMem]; omega)
  rw [hbytes, Nat.add_sub_cancel_left, take_drop_readMem _ _ (by omega)]
  have hbyte : readMem (calMarked s.mg.calStage) (0 + 6) 1 = [1#8] := by
    rw [← get_calMarked s.mg.calStage]
    rfl
  rw [hbyte]
  rfl

/-- A commit leaves every byte outside its region. -/
theorem get_calCommitted (s : State) {a : Nat} (ha : a < calBase ∨ calBase + 0x10_0000 ≤ a) :
    SMap.get 0xFF (calCommitted s).nvm a = SMap.get 0xFF s.nvm a := by
  rw [nvm_calCommitted, get_nvmWrite, length_readMem, if_neg (by omega), get_nvmErase, if_neg (by omega)]

end

/-- Settles O50: a try uses the code up, and only one in time with the code armed unlocks; a commit programs the block and locks. -/
theorem calibrationSteps : Obligations.CalibrationSteps := by
  intro s v hbox
  have run (g : Gate) (payload : List Byte) (f : State → State) (hstage : g.stageOk = true) (howner : g.owner = false) :
      (Host.Outcome.next (vendorCmd s v g payload f) : Out) = .next (f s) := by
    rw [vendorCmd_of_atMailbox hbox hstage howner]
  have hlow := fromStep4_of_atMailbox hbox
  refine ⟨fun off len hend => ?read, fun hdown => ⟨run _ _ _ (running_of_atMailbox hbox hdown) rfl, fun code c hcode => ?confirm⟩,
    fun hopen => ⟨fun off d hend => ?write, fun hform => ?commit⟩, rfl⟩
  case read =>
    refine (run _ _ _ hlow rfl).trans ?_
    rw [if_neg (by omega)]
  case write =>
    refine (run _ _ _ (by simp [hlow, hopen]) rfl).trans ?_
    rw [if_neg (by omega)]
  case commit =>
    refine ⟨calCommitted s, (run _ _ _ (by simp [hlow, hopen]) rfl).trans ?_, ?_, rfl, origin_calCommitted s, fun a ha => get_calCommitted s ha⟩
    · rw [if_neg (by simp [hform])]
      rfl
    · rw [calUnlocked, calCommitted, State.pfld_setPfld_same]
      rfl
  case confirm =>
    intro auth late
    obtain ⟨nonces, hmg⟩ := takeAuth_eq s v 0xC015 code
    have hexec := execCalConfirm_of_armed hbox hdown hcode code
    have hkept := takeAuth_keepsPackage s v 0xC015 code
    have hunlocked : calUnlocked (takeAuth s v 0xC015 code).1 = calUnlocked s := by rw [hmg]; rfl
    by_cases hauth : (takeAuth s v 0xC015 code).2 = true
    · have hauth' : auth = true := hauth
      rw [if_pos hauth] at hexec
      refine ⟨calTried (takeAuth s v 0xC015 code).1 late c code, hexec.trans ?_, ?_⟩
      · rw [if_neg (c := (!auth) = true) (by simp [hauth'])]
      by_cases hgood : ¬late ∧ c = code
      · obtain ⟨hnvm, hnone, hopen, hstage, hseen⟩ := calTried_of_taken (s := (takeAuth s v 0xC015 code).1) hgood.1 hgood.2
        rw [if_pos hauth', if_pos ⟨hauth', hgood⟩]
        exact ⟨hnvm.trans hkept.nvm, hnone, hopen, hstage.trans (by rw [hmg]; rfl), hseen⟩
      · rw [calTried_of_refused (by tauto), if_pos hauth', if_neg (fun h => hgood h.2)]
        exact ⟨hkept.nvm, rfl, hunlocked, by rw [hmg]; rfl⟩
    · have hauth' : auth = false := by simpa using hauth
      rw [if_neg hauth] at hexec
      refine ⟨_, hexec.trans (by simp [hauth']), hkept.nvm, ?_, ?_⟩
      · simp [hauth', hmg, hcode, onMg]
      · rw [if_neg (by simp [hauth'])]
        exact ⟨hunlocked, by rw [hmg]; rfl⟩

end Sys2Proof.Machine
end

section
/-! PROOF. Power, PERST_N, REFCLK, the TAP and the first steps of a start (R390, R393, R459, R474 to R481). -/

namespace Sys2Proof.Machine

/-! ## Pins and rails -/

theorem pins_railsAt (s : State) (ns : List Nat) (mv : Nat) : (railsAt s ns mv).pins = s.pins :=
  foldl_keeps State.pins (fun t n => t.setPfld_pins .PD_TEMPOn_VSET n mv) ns s

theorem pins_keepArrays (t s : State) : (keepArrays t s).pins = t.pins := by
  have hcaps (i : SetId) (t : State) :
      ((List.range 80).foldl (fun t k => t.setFld i .CORE_CAP_ARRAYS k (s.fld i .CORE_CAP_ARRAYS k)) t).pins = t.pins :=
    foldl_keeps State.pins (fun _ _ => State.setFld_pins ..) _ t
  refine (foldl_keeps State.pins (fun t i => hcaps i t) _ _).trans ?_
  exact foldl_keeps State.pins (fun t m => t.setPfld_pins .ARR_MAPm_EN m _) _ t

/-- With no almanac write in progress a reset of every die spoils no copy. -/
theorem coldReset_of_idle {s : State} (h : s.almBusy = none) : coldReset s = { State.reset with
    pending := s.pending, out := s.out, freeCtr := s.freeCtr, hostMem := s.hostMem, nvm := s.nvm, fuses := s.fuses, pins := s.pins
    sec := s.sec } := by
  rw [coldReset, h]

theorem pins_coldReset {s : State} (h : s.almBusy = none) : (coldReset s).pins = s.pins := by rw [coldReset_of_idle h]

theorem execVinFault_of_fault {s : State} {mv : Nat} (hgood : s.pins.pwrGood = true) (hbad : mv < 10200 ∨ 14000 < mv) :
    execVinFault mv s = .next { railsAt (coldReset s) (List.range 18) 0 with
      pins := { (coldReset s).pins with pwrGood := false, fell := decide (mv < 9000), refOk := false, tap := 3 } } := by
  have hrange : ¬(10200 ≤ mv ∧ mv ≤ 14000) := by omega
  rw [← pins_railsAt (coldReset s) (List.range 18) 0]
  exact if_neg (by simp [hgood, hrange])

theorem execPerstAssert_of_long {s : State} {us : Nat} (hlong : 100 ≤ us) : execPerstAssert us s = .next
    { railsAt (keepArrays (coldReset s) s) (if s.pins.pwrGood then coreDies else List.range 18) 0 with
      pins := { (coldReset s).pins with perst := true, thermTrip := false } } := by
  rw [← pins_keepArrays (coldReset s) s, ← pins_railsAt (keepArrays (coldReset s) s) (if s.pins.pwrGood then coreDies else List.range 18) 0]
  exact if_neg (by omega)

/-! ## The loss of the package -/

theorem pkgLost_sprintEnd (s : State) (cause : Nat) : (sprintEnd s cause).pkgLost = s.pkgLost := by
  have hrails (t : State) : (normalRails t).pkgLost = t.pkgLost := by
    refine foldl_keeps State.pkgLost (fun t n => ?_) _ t
    dsimp only
    split <;> rfl
  by_cases hrun : s.pfld .PD_SPRINT_STAT_ACTIVE = 0
  · rw [sprintEnd, if_pos hrun]
  · rw [sprintEnd_of_active hrun, hrails]
    rfl

theorem pkgLost_cutRails (s : State) (i : SetId) : (cutRails s i).pkgLost = s.pkgLost := by
  have hrails (l : List Nat) : (l.foldl (fun s n => s.setPfld .PD_TEMPOn_VSET n 0) s).pkgLost = s.pkgLost :=
    foldl_keeps State.pkgLost (fun t n => t.setPfld_pkgLost .PD_TEMPOn_VSET n 0) l s
  unfold cutRails
  dsimp only
  split
  · exact hrails _
  · exact hrails _

theorem pkgLost_losePackage (s : State) : (losePackage s).pkgLost = true := by
  refine (foldl_keeps State.pkgLost (fun t i => ?_) _ _).trans (pkgLost_sprintEnd ..)
  split
  · exact pkgLost_cutRails ..
  · rfl

/-! ## The first steps of a start -/

/-- The fuses and the NVM, which no step of a start before FIRMWARE writes. -/
def fusesAndNvm (s : State) : Fuses × SMap Byte := (s.fuses, s.nvm)

theorem of_fusesAndNvm {s t : State} (h : fusesAndNvm t = fusesAndNvm s) : t.fuses = s.fuses ∧ t.nvm = s.nvm := Prod.mk.inj h

theorem fusesAndNvm_setPfld (s : State) (f : Field) (ix v : Nat) : fusesAndNvm (s.setPfld f ix v) = fusesAndNvm s := rfl

theorem fusesAndNvm_setFld (s : State) (i : SetId) (f : Field) (ix v : Nat) : fusesAndNvm (s.setFld i f ix v) = fusesAndNvm s := by
  simp [fusesAndNvm]

theorem fusesAndNvm_showCoreArrays (s : State) (i : SetId) : fusesAndNvm (showCoreArrays s i) = fusesAndNvm s :=
  foldl_keeps fusesAndNvm (fun _ _ => fusesAndNvm_setFld ..) _ s

theorem fusesAndNvm_showArrays (s : State) : fusesAndNvm (showArrays s) = fusesAndNvm s := by
  rw [showArrays, fusesAndNvm_showCoreArrays, fusesAndNvm_showCoreArrays]
  exact foldl_keeps fusesAndNvm (fun t m => fusesAndNvm_setPfld t .ARR_MAPm_EN m _) _ s

theorem fusesAndNvm_showStrap {strap : Nat} (hstrap : strap % 2 ^ 18 ≠ 0x3_FFFF) (s : State) (i : SetId) :
    fusesAndNvm (showStrap s i strap) = fusesAndNvm s := by
  rw [showStrap, if_neg hstrap, fusesAndNvm_setFld, fusesAndNvm_setFld]

theorem fusesAndNvm_bootAt (s : State) (st cause : Nat) : fusesAndNvm (bootAt s st cause) = fusesAndNvm s := rfl

/-- The state in which a start with a valid strap takes step 3. -/
def strapped (s : State) (strap : Nat) : State :=
  let t := { s with pins := { s.pins with perst := false, tap := if s.pins.tap = 3 then 3 else 0 } }
  measTaken (measTaken (showStrap (showStrap (showOwner (showArrays (railsAt t coreDies 780))) 0 strap) 1 strap) 1) 8

theorem exec_coldStart_of_reset {s : State} (hgood : s.pins.pwrGood = true) (hperst : s.pins.perst = true) (strap : Nat) (ok : Bool) :
    exec (.coldStart strap ok) s = .next (step3 (strapped s strap) ok) :=
  if_neg (by simp [hgood, hperst])

theorem fusesAndNvm_strapped {strap : Nat} (hstrap : strap % 2 ^ 18 ≠ 0x3_FFFF) (s : State) : fusesAndNvm (strapped s strap) = fusesAndNvm s := by
  have hmeas (t : State) (n : Nat) : fusesAndNvm (measTaken t n) = fusesAndNvm t := rfl
  have howner (t : State) : fusesAndNvm (showOwner t) = fusesAndNvm t := rfl
  have hrails (t : State) : fusesAndNvm (railsAt t coreDies 780) = fusesAndNvm t :=
    foldl_keeps fusesAndNvm (fun t n => fusesAndNvm_setPfld t .PD_TEMPOn_VSET n 780) _ t
  rw [strapped, hmeas, hmeas, fusesAndNvm_showStrap hstrap, fusesAndNvm_showStrap hstrap, howner, fusesAndNvm_showArrays, hrails]
  rfl

theorem fwOk_congr {s t : State} (h : t.fuses = s.fuses) (rd : Nat → Nat → List Byte) : fwOk t rd = fwOk s rd := by
  rw [fwOk, h, fwOk]

/-- The stage, its cause and the version of the firmware. -/
def bootShown (s : State) : Nat × Nat × Nat := (s.pfld .HB_BOOT_STAGE, s.pfld .HB_BOOT_CAUSE, s.fwVer)

theorem of_bootShown {s : State} {st cause ver : Nat} (h : bootShown s = (st, cause, ver)) :
    s.pfld .HB_BOOT_STAGE = st ∧ s.pfld .HB_BOOT_CAUSE = cause ∧ s.fwVer = ver := by
  simpa [bootShown] using h

theorem bootShown_congr {s t : State} (hregs : t.regs = s.regs) (hver : t.fwVer = s.fwVer) : bootShown t = bootShown s := by
  rw [bootShown, State.pfld, State.pfld, hregs, hver, bootShown, State.pfld, State.pfld]

theorem bootShown_setPfld (s : State) {f : Field} (hstage : f ≠ .HB_BOOT_STAGE) (hcause : f ≠ .HB_BOOT_CAUSE) (ix v : Nat) :
    bootShown (s.setPfld f ix v) = bootShown s := by
  rw [bootShown, State.pfld_setPfld_ne _ _ (by simp [hstage.symm]), State.pfld_setPfld_ne _ _ (by simp [hcause.symm]), bootShown]
  rfl

theorem bootShown_showAlm (s : State) : bootShown (showAlm s) = bootShown s := by
  have hlife (t : State) : bootShown (showLife t) = bootShown t := by
    unfold showLife
    split
    · exact bootShown_setPfld _ (by simp) (by simp) ..
    · rfl
  have hages (t : State) : bootShown ((List.range 16).foldl (fun s n => s.setPfld .PD_TEMPOn_AGE n (s.alm (8920 + n) 1)) t) = bootShown t :=
    foldl_keeps bootShown (fun t n => bootShown_setPfld t (f := .PD_TEMPOn_AGE) (by simp) (by simp) ..) _ t
  rw [showAlm, hlife, showHours, bootShown_setPfld _ (by simp) (by simp), bootShown_setPfld _ (by simp) (by simp), hages,
    bootShown_setPfld _ (by simp) (by simp)]

theorem bootShown_promptApply (seq : Nat) (s : State) (k : Nat) : bootShown (promptApply seq s k) = bootShown s := by
  unfold promptApply
  dsimp only
  split
  · rfl
  · split <;> rfl

/-- Reading the almanac back leaves the stage and the version. -/
theorem bootShown_almRestore (s : State) : bootShown (almRestore s) = bootShown s := by
  unfold almRestore
  dsimp only
  split
  · rw [bootShown_showAlm, bootShown_setPfld _ (by simp) (by simp), bootShown_setPfld _ (by simp) (by simp),
      bootShown_setPfld _ (by simp) (by simp)]
    rfl
  · rw [bootShown_showAlm, bootShown_setPfld _ (by simp) (by simp), bootShown_setPfld _ (by simp) (by simp), apply_ite bootShown]
    have hadd (t : State) (off n v : Nat) : bootShown (t.addAlm off n v) = bootShown t := rfl
    simp only [hadd, ite_self]
    exact (foldl_keeps bootShown (fun _ _ => bootShown_promptApply ..) _ _).trans (bootShown_congr rfl rfl)

theorem bootShown_bootAt (s : State) {st cause : Nat} (hst : st < 16) (hcause : cause < 256) :
    bootShown (bootAt s st cause) = (st, cause, s.fwVer) := by
  have hstage : Field.HB_BOOT_STAGE.info.len = 4 := rfl
  have hlen : Field.HB_BOOT_CAUSE.info.len = 8 := rfl
  simp [bootShown, bootAt, toStage, hstage, hlen, Nat.mod_eq_of_lt hst, Nat.mod_eq_of_lt hcause]

/-- Step 4 shows FIRMWARE and the version of the image. -/
theorem bootShown_step4 (s : State) : bootShown (step4 s) = (2, 0, leAt (s.nvmBytes 0 1024) 12 4) := by
  have hmeas (t : State) (n : Nat) : bootShown (measTaken t n) = bootShown t := bootShown_setPfld t (by simp) (by simp) ..
  rw [step4, bootShown_almRestore, hmeas, hmeas, hmeas, bootShown_bootAt _ (by omega) (by omega), fwTake]

theorem step3_of_read (s : State) : step3 s true = if fwOk s s.nvmBytes then step4 s else bootAt s 1 1 := by simp [step3]

section
variable {s u : State} (hfuses : u.fuses = s.fuses) (hbytes : u.nvmBytes = s.nvmBytes)
include hfuses hbytes

theorem boot_step3_of_ok (hok : fwOk s s.nvmBytes = true) : (step3 u true).pfld .HB_BOOT_STAGE = 2 ∧
    (step3 u true).pfld .HB_BOOT_CAUSE = 0 ∧ (step3 u true).fwVer = leAt (s.nvmBytes 0 1024) 12 4 := by
  rw [step3_of_read, fwOk_congr hfuses, hbytes, if_pos hok, ← hbytes]
  exact of_bootShown (bootShown_step4 u)

theorem boot_step3_of_bad (hbad : fwOk s s.nvmBytes = false) : (step3 u true).pfld .HB_BOOT_STAGE = 1 ∧
    (step3 u true).pfld .HB_BOOT_CAUSE = 1 := by
  rw [step3_of_read, fwOk_congr hfuses, hbytes, if_neg (by simp [hbad])]
  obtain ⟨hstage, hcause, -⟩ := of_bootShown (bootShown_bootAt u (st := 1) (cause := 1) (by omega) (by omega))
  exact ⟨hstage, hcause⟩

end

/-- Settles O42: each event meets the pins in the state that its rule names, and a start's first steps write neither fuses nor NVM. -/
theorem powerAndReset : Obligations.PowerAndReset := by
  refine ⟨fun s low mv a hoff hlow hhigh => ?rise, fun s hidle => ⟨fun mv hgood hbad => ?fault, fun us hlong => ?perst⟩,
    fun s => ⟨fun us hshort => if_pos hshort, rfl, fun h0 h1 => ?quiet, fun hrun => ?loss, fun lands hgood => ⟨?ident, ?bypass,
      fun hperst ir hir => ?boundary⟩⟩, fun s strap hgood hperst hstrap => ⟨?recovery, ?start⟩⟩
  case rise =>
    have hreleased : ¬(s.pins.pwrGood = true ∨ (!(s.pins.fell = true ∨ low < 9000 : Bool)) = true ∨ mv < 10800) := by
      simp [hoff, hlow]
      omega
    exact if_neg hreleased
  case fault =>
    have hexec := execVinFault_of_fault hgood hbad
    rw [pins_coldReset hidle, coldReset_of_idle hidle] at hexec
    exact hexec
  case perst =>
    have hexec := execPerstAssert_of_long (s := s) hlong
    rw [pins_coldReset hidle, coldReset_of_idle hidle] at hexec
    exact hexec
  case quiet =>
    change Host.Outcome.next (if _ then losePackage _ else _) = _
    rw [if_neg (by simp [h0, h1])]
  case loss =>
    refine ⟨_, congrArg Host.Outcome.next (if_pos (by simpa using hrun)), pkgLost_losePackage _⟩
  case ident =>
    change execTapInstruction 3 lands s = _
    simp [execTapInstruction, hgood]
  case bypass =>
    change execTapInstruction 0 lands s = _
    simp [execTapInstruction, hgood]
  case boundary =>
    change execTapInstruction ir lands s = _
    rcases hir with rfl | rfl <;> simp [execTapInstruction, hgood, hperst]
  case recovery =>
    obtain ⟨hfuses, hnvm⟩ := of_fusesAndNvm ((fusesAndNvm_bootAt (strapped s strap) 1 16).trans (fusesAndNvm_strapped hstrap s))
    obtain ⟨hstage, hcause, -⟩ := of_bootShown (bootShown_bootAt (strapped s strap) (st := 1) (cause := 16) (by omega) (by omega))
    exact ⟨bootAt (strapped s strap) 1 16, exec_coldStart_of_reset hgood hperst strap false, hstage, hcause, hfuses, hnvm⟩
  case start =>
    obtain ⟨hfuses, hnvm⟩ := of_fusesAndNvm (fusesAndNvm_strapped hstrap s)
    have hbytes : (strapped s strap).nvmBytes = s.nvmBytes := by
      funext a n
      rw [State.nvmBytes, hnvm, State.nvmBytes]
    refine ⟨_, exec_coldStart_of_reset hgood hperst strap true, ?_⟩
    cases hok : fwOk s s.nvmBytes with
    | true =>
      rw [if_pos rfl]
      exact boot_step3_of_ok hfuses hbytes hok
    | false =>
      rw [if_neg Bool.false_ne_true]
      exact boot_step3_of_bad hfuses hbytes hok

end Sys2Proof.Machine
end

section
/-! PROOF. The later steps of a start, and the promotion (R395 to R403). -/

namespace Sys2Proof.Machine

/-! ## The stacks after training (R397) -/

/-- A set whose stacks have trained: they hold zeros, all of them valid, and refresh again. -/
def trainedSet (t : SetSt) : SetSt := { t with
  selfRef := false, mem := zeroMem t.mem 0 0x090_0000_0000, chk := SMap.keep (fun k => 0x090_0000_0000 / 32 ≤ k) t.chk }

theorem execHbmTrainDone_of_waiting {s : State} (hstage : stage s = 5) (hfresh : s.mg.trained = []) (hidle : loopbackRuns s = false) :
    execHbmTrainDone [] s = .next (onMg ((s.onSet 0 trainedSet).onSet 1 trainedSet) fun m => { m with trained := [0, 1] }) :=
  if_neg (by simp [hstage, hfresh, hidle])

theorem st_trained (s : State) (i : SetId) : (onMg ((s.onSet 0 trainedSet).onSet 1 trainedSet) fun m => { m with trained := [0, 1] }).st i =
    trainedSet (s.st i) := by
  fin_cases i <;> rfl

/-- Settles O43: each step finds its stage, and the set its load, as the rule names them. -/
theorem startUp : Obligations.StartUp := by
  refine ⟨fun s f hstage href => ⟨fun howner => ?enrol, fun howner => ?verify⟩, fun s hstage hfresh hidle => ?train,
    fun s ms hstage hcard htrained hidle hsupp => ?lock, fun s i sec hwaits => ⟨fun hseed hclean => ?seedling, fun hseed hclean => ?full⟩,
    fun s i sec hcirc hseed hclean hwaits hleader hchg hreq => ?ask, fun s i sec c hchg hkind hconf hcirc hfirst hrev => ?promote,
    fun s hlow => ?ready⟩
  case enrol =>
    change execCardVerify f s = _
    simp [execCardVerify, hstage, href, howner]
  case verify =>
    change execCardVerify f s = _
    simp [execCardVerify, hstage, href, howner]
  case train =>
    refine ⟨_, execHbmTrainDone_of_waiting hstage hfresh hidle, rfl, fun i a => ?_⟩
    rw [st_trained]
    exact ⟨rfl, (get_zeroMem ..).trans (if_congr (by omega) rfl rfl)⟩
  case lock =>
    intro e l
    have hold : ((s.nvmBytes 0x700_0000 4 != [0xFF#8, 0xFF#8, 0xFF#8, 0xFF#8]) && (suppStored s).isNone) = false := by
      rw [hsupp]
      rfl
    change execSetLock ms s = _
    rw [execSetLock, if_neg (by simp [hstage, hcard, htrained, hidle])]
    simp only [hold, Bool.false_eq_true, if_false]
    rfl
  case seedling => exact if_pos ⟨hwaits, hseed, hclean⟩
  case full =>
    change execFullLoadDone i sec s = _
    simp [execFullLoadDone, hclean, hwaits, hseed]
  case ask =>
    change execFullLoadDone i sec s = _
    simp [execFullLoadDone, hclean, hwaits, hseed, hcirc, hleader, hchg, hreq]
  case promote =>
    intro l k u
    have hdue : c.kind = 2 ∧ c.confirmed = true ∧ circulates s i = true ∧ (circ s i).first.isNone = true ∧ s.fld i .CIRC_REV_REV + 1 = c.s :=
      ⟨hkind, hconf, hcirc, by simp [hfirst], hrev⟩
    change execPromote i sec s = _
    simp only [execPromote, hchg]
    exact if_pos hdue
  case ready => exact congrArg Host.Outcome.next (if_pos hlow)

end Sys2Proof.Machine
end

section
/-! PROOF. Temperatures of stacks, fences, patrol and loopback (R257 to R263, R265 to R270). -/

namespace Sys2Proof.Machine

/-! ## Temperatures (R261) -/

/-- The registers of a stack after a reading (R261). -/
def tempShown (s : State) (i : SetId) (x : Nat) (temps : List Nat) : State :=
  ((s.setFld i .MEM_HBM_TEMPs_TMAX x (temps.foldl max 0)).setFld i .MEM_HBM_TEMPs_DIE x (temps.idxOf (temps.foldl max 0))).setFld i
    .MEM_HBM_TEMPs_PEAK x (max (temps.foldl max 0) (s.fld i .MEM_HBM_TEMPs_PEAK x))

theorem execStackTempRead_eq (s : State) (i : SetId) (st : StackId) (temps : List Nat) {n : Nat} (hlevel : tempLevel (temps.foldl max 0) = n) :
    execStackTempRead i st temps s =
      if n ≤ s.fld i .MEM_HBM_TEMPs_LEVEL st.val then .next (tempShown s i st.val temps)
      else
        let u := enterLevel (tempShown s i st.val temps) i st.val (s.fld i .MEM_HBM_TEMPs_LEVEL st.val) n
        if n = 3 then .next (settle (fenceStack u i st.val 1) i)
        else .next (report (u.setFld i .MEM_HBM_TEMPs_LEVEL st.val n) i
          { FC.hbmTemp.fr with die := stackDie i st.val, unit := st.val, cause := n }) := by
  subst hlevel
  simp [execStackTempRead, tempShown]

/-- Settles O26: the highest threshold passed is the level, and each level passed is entered. -/
theorem stackTemperature : Obligations.StackTemperature := by
  intro s i st temps x t s0 l
  have hread {n : Nat} (hn : tempLevel t = n) := execStackTempRead_eq s i st temps hn
  refine ⟨fun hcool => ?cool, fun hlow hhigh hl => ?warm, fun hlow hhigh hl => ?hot, fun hlow hl => ?fence, fun hl hexit => ?leaveHot,
    fun hl hexit => ?leaveWarm⟩
  case cool =>
    have hlevel : tempLevel t = 0 := by unfold tempLevel; split_ifs <;> omega
    exact (hread hlevel).trans (if_pos (Nat.zero_le _))
  case warm =>
    have hlevel : tempLevel t = 1 := by unfold tempLevel; split_ifs <;> omega
    refine (hread hlevel).trans ?_
    rw [show s.fld i .MEM_HBM_TEMPs_LEVEL st.val = 0 from hl]
    rfl
  case hot =>
    have hlevel : tempLevel t = 2 := by unfold tempLevel; split_ifs <;> omega
    refine (hread hlevel).trans ?_
    rw [show s.fld i .MEM_HBM_TEMPs_LEVEL st.val = 1 from hl]
    rfl
  case fence =>
    have hlevel : tempLevel t = 3 := by unfold tempLevel; split_ifs <;> omega
    exact (hread hlevel).trans (if_neg (Nat.not_le.2 hl))
  case leaveHot => exact if_pos ⟨hl, hexit⟩
  case leaveWarm =>
    have hnothot : ¬(s.fld i .MEM_HBM_TEMPs_LEVEL st.val = 2 ∧ s.fld i .MEM_HBM_TEMPs_TMAX st.val ≤ 92) := fun h => by
      have hwarm : s.fld i .MEM_HBM_TEMPs_LEVEL st.val = 1 := hl
      omega
    exact (if_neg hnothot).trans (if_pos ⟨hl, hexit⟩)

/-! ## Fences (R262, R264) -/

/-- A set but for its cores, and the messages. -/
def besidesCores (i : SetId) (s : State) : SetSt × List Event := ({ s.st i with cores := [] }, s.out)

theorem besidesCores_onEnt (s : State) (i : SetId) (k u id : Nat) (f : QEnt → QEnt) : besidesCores i (onEnt s i k u id f) = besidesCores i s := by
  simp [besidesCores, onEnt, State.onCore]

/-- What goes with the shares of a stack: nothing of its set but shares, engines and what cores wait for. -/
structure SharesDropped (s t : State) (i : SetId) (x : Nat) : Prop where
  regs : (t.st i).regs = (s.st i).regs
  mem : (t.st i).mem = (s.st i).mem
  circ : (t.st i).circ = (s.st i).circ
  shares : ∀ sh ∈ (t.st i).su.shares, sh.stack ≠ x
  out : t.out = s.out

theorem dropShares_dropped (s : State) (i : SetId) (x : Nat) : SharesDropped s (dropShares s i x) i x := by
  have hcore (t : State) (k : Nat) : besidesCores i (((t.core i k).requestQ.filter fun e => dtype e.raw == some .attn && bit e.waits x).foldl
      (fun s e => onEnt s i k 4 e.id fun e =>
        { e with waits := putBits e.waits x 1 0, phase := if putBits e.waits x 1 0 = 0 then .done else e.phase }) t) = besidesCores i t :=
    foldl_keeps (besidesCores i) (fun _ _ => besidesCores_onEnt ..) _ t
  obtain ⟨hset, hout⟩ := Prod.mk.inj (foldl_keeps (besidesCores i) hcore (List.range 80) s)
  refine ⟨?regs, ?mem, ?circ, ?shares, (State.onSet_out ..).trans hout⟩
  all_goals rw [dropShares, onSu, State.st_onSet_same]
  case regs => exact (congrArg SetSt.regs hset :)
  case mem => exact (congrArg SetSt.mem hset :)
  case circ => exact (congrArg SetSt.circ hset :)
  case shares =>
    intro sh hsh
    obtain ⟨hin, hout⟩ := List.mem_filter.1 hsh
    rw [(congrArg SetSt.su hset :)] at hin
    intro hx
    simp [hin, hx] at hout

/-- The registers of a stack that is fenced. -/
def fenceShown (s : State) (i : SetId) (x cause : Nat) : State :=
  let s := s.setFld i .MEM_HBM_TEMPs_FENCED x 1
  let s := s.setFld i .MEM_HBM_TEMPs_FENCE x 1
  let s := s.setFld i .MEM_HBM_TEMPs_FCAUSE x cause
  let s := s.setFld i .MEM_HBM_TEMPs_LEVEL x 3
  let s := s.setFld i .MEM_HBM_TEMPs_DBLREF x 1
  let s := s.setFld i .MSE_STKs_1_HALVED x 1
  s.setFld i .MSE_STKs_1_FENCED x 1

/-- A stack that is fenced: shown, its shares and its patrol at an end. -/
def fencedQuiet (s : State) (i : SetId) (x cause : Nat) : State := setPatrol (dropShares (fenceShown s i x cause) i x) i x {}

/-- With nothing of the set on a stack its fence is shown and reported, and nothing folds. -/
theorem fenceStack_of_unused {s : State} {i : SetId} {x : Nat} (hopen : fenced s i x = false) (haction : fenceAction s i x = 0)
    (howned : ownedOn s i x = []) (hsessions : sessionsOn s i x = []) (cause : Nat) :
    fenceStack s i x cause = report (fencedQuiet s i x cause) i { FC.hbmFence.fr with
      die := stackDie i x, unit := x, cause := cause, detail := lostCopy (fencedQuiet s i x cause) i x } := by
  unfold fenceStack
  rw [hopen, haction, howned, hsessions]
  rfl

section
variable (s : State) (i : SetId) (x cause : Nat)

theorem fld_fencedQuiet (f : Field) (y : Nat) : (fencedQuiet s i x cause).fld i f y = (fenceShown s i x cause).fld i f y := by
  rw [fencedQuiet, setPatrol, fld_onSet_of_regs _ _ (by intro; rfl), State.fld, (dropShares_dropped ..).regs, State.fld]

theorem patrolOf_fencedQuiet : patrolOf (fencedQuiet s i x cause) i x = {} := by simp [patrolOf, fencedQuiet, setPatrol]

theorem mem_fencedQuiet : ((fencedQuiet s i x cause).st i).mem = (s.st i).mem := by
  rw [fencedQuiet, setPatrol, State.st_onSet_same, (dropShares_dropped ..).mem]
  simp [fenceShown]

theorem circ_fencedQuiet : circ (fencedQuiet s i x cause) i = circ s i := by
  rw [fencedQuiet, setPatrol, circ, State.st_onSet_same, (dropShares_dropped ..).circ]
  simp [fenceShown, circ]

theorem shares_fencedQuiet : ∀ sh ∈ ((fencedQuiet s i x cause).st i).su.shares, sh.stack ≠ x := by
  rw [fencedQuiet, setPatrol, State.st_onSet_same]
  exact (dropShares_dropped ..).shares

theorem out_fencedQuiet : (fencedQuiet s i x cause).out = s.out := by
  rw [fencedQuiet, setPatrol, State.onSet_out, (dropShares_dropped ..).out]
  simp [fenceShown]

/-- The copy that a fence loses does not depend on the stack's registers. -/
theorem lostCopy_fencedQuiet : lostCopy (fencedQuiet s i x cause) i x = lostCopy s i x := by
  have hplace : myPlace (fencedQuiet s i x cause) i = myPlace s i := by rw [myPlace, fld_fencedQuiet]; simp [fenceShown, myPlace]
  have hbank (a : Nat) : inBank (fencedQuiet s i x cause) i a = inBank s i a := by
    rw [inBank, fld_fencedQuiet, fld_fencedQuiet]
    simp [fenceShown, inBank]
  have hpiece (e : CatEnt) : pieceOn (fencedQuiet s i x cause) i x e = pieceOn s i x e := by simp only [pieceOn, hplace, hbank]
  simp only [lostCopy, circ_fencedQuiet, hplace, hpiece]

end

/-! ## Patrol (R266, R267) -/

section
variable {s : State} {i : SetId} {st : StackId}

theorem stackQuiet_of_busy_free (href : (s.st i).selfRef = false) (hidle : s.fld i .MEM_HBM_LBs_BUSY st.val ≠ 1) :
    stackQuiet s i (st.val * 0x18_0000_0000) = false := by
  have hstack : stackOf (st.val * 0x18_0000_0000) = st.val := Nat.mul_div_cancel _ (by omega)
  simp [stackQuiet, href, hstack, hidle]

/-- A line whose words are valid is read and left. -/
theorem patrolLine_of_valid {a : Nat} (hvalid : ∀ j < 8, chkOf s i (a + 32 * j) = 0) (x : Nat) : patrolLine s i x a = s :=
  foldl_of_fixed fun j hj => if_pos (hvalid j (List.mem_range.1 hj))

theorem execPatrolRead_of_valid {a : Nat} (hopen : fenced s i st.val = false) (href : (s.st i).selfRef = false)
    (hnext : (patrolOf s i st.val).next = some a) (hcool : s.fld i .MEM_HBM_TEMPs_LEVEL st.val = 0)
    (hidle : s.fld i .MEM_HBM_LBs_BUSY st.val ≠ 1) (hvalid : ∀ j < 8, chkOf s i (a + 32 * j) = 0) :
    execPatrolRead i st s =
      if a + 256 < (st.val + 1) * 0x18_0000_0000 then
        .next (settle (setPatrol s i st.val { patrolOf s i st.val with next := some (a + 256) }) i)
      else .next (settle (setPatrol (s.addFld i .MEM_HBM_PATROL_PASSES 0 1) i st.val
        { next := if (patrolOf s i st.val).due then some (st.val * 0x18_0000_0000) else none, due := false }) i) := by
  simp only [execPatrolRead, hnext, hopen, hcool, stackQuiet_of_busy_free href hidle, patrolLine_of_valid hvalid, ite_self, ne_eq,
    not_true_eq_false, Bool.false_eq_true, or_self, if_false]

end

/-! ## Loopback (R268 to R270) -/

section
variable {s : State} {i : SetId} {x : Nat}

theorem startLoopback_of_legal (hpos : s.fld i .MEM_HBM_LBs_DUR_MS x ≠ 0) (hmax : s.fld i .MEM_HBM_LBs_DUR_MS x ≤ 10000)
    (hfenced : fenced s i x = true) (href : (s.st i).selfRef = false) (hmode : s.fld i .MEM_HBM_LBs_MODE x ≠ 0)
    (hidle : s.fld i .MEM_HBM_LBs_BUSY x = 0) : startLoopback s i x =
      (((s.setFld i .MEM_HBM_LBs_RESULT x 0).setFld i .MEM_HBM_LBs_ERRCNT x 0).setFld i .MEM_HBM_LBs_LANE x 0).setFld i .MEM_HBM_LBs_BUSY x 1 :=
  if_neg (by simp [hpos, hmax, hfenced, href, hmode, hidle])

theorem startLoopback_of_illegal (hdur : s.fld i .MEM_HBM_LBs_DUR_MS x = 0 ∨ 10000 < s.fld i .MEM_HBM_LBs_DUR_MS x) :
    startLoopback s i x = s.setFld i .MEM_HBM_LBs_RESULT x 3 :=
  if_pos (hdur.imp_right Or.inl)

/-- Whatever its command asks, a loopback that starts or is refused writes registers of its stack only. -/
theorem startLoopback_keeps (s : State) (i : SetId) (x : Nat) : ((startLoopback s i x).st i).mem = (s.st i).mem ∧
    (startLoopback s i x).out = s.out := by
  unfold startLoopback
  dsimp only
  split <;> simp

end

/-- Settles O27: a fence of a stack without work is shown and reported; patrol and loopback take the branch that their registers choose. -/
theorem fencePatrolLoopback : Obligations.FencePatrolLoopback := by
  refine ⟨⟨fun s i st hopen => ?fence, fun s i st => rfl, fun s i st hopen href => ⟨fun hnone => ?start, fun a hnext =>
    ⟨?late, fun hcool hidle hvalid => ⟨fun hmore => ?read, fun hlast => ?pass⟩⟩⟩⟩, fun s i st m c d hd hidle => ?go,
    fun s i st e l hl hbusy => ?done⟩
  case fence =>
    refine ⟨fencedQuiet s i st.val 4, _, rfl, rfl, fun haction howned hsessions => ⟨?_, ?_, ?_, mem_fencedQuiet .., out_fencedQuiet ..,
      patrolOf_fencedQuiet .., shares_fencedQuiet s i st.val 4⟩⟩
    · rw [fenceStack_of_unused hopen haction howned hsessions, lostCopy_fencedQuiet]
    · have hlen : Field.MEM_HBM_TEMPs_FENCED.info.len = 1 := rfl
      rw [fenced, fld_fencedQuiet]
      simp [fenceShown, hlen]
    · have hlen : Field.MEM_HBM_TEMPs_FCAUSE.info.len = 3 := rfl
      rw [fld_fencedQuiet]
      simp [fenceShown, hlen]
  case start =>
    change execPatrolPassStart i st s = _
    simp [execPatrolPassStart, hopen, href, hnone]
  case late =>
    change execPatrolPassStart i st s = _
    simp [execPatrolPassStart, hopen, href, hnext]
  case read => exact (execPatrolRead_of_valid hopen href hnext hcool hidle hvalid).trans (if_pos hmore)
  case pass => exact (execPatrolRead_of_valid hopen href hnext hcool hidle hvalid).trans (if_neg (Nat.not_lt.2 hlast))
  case go =>
    obtain ⟨hmem, hout⟩ := startLoopback_keeps (((s.setFld i .MEM_HBM_LBs_MODE st.val m.val).setFld i .MEM_HBM_LBs_CHAN st.val c.val).setFld i
      .MEM_HBM_LBs_DUR_MS st.val d) i st.val
    have hmodeLen : Field.MEM_HBM_LBs_MODE.info.len = 2 := rfl
    have hdurLen : Field.MEM_HBM_LBs_DUR_MS.info.len = 14 := rfl
    have hbusyLen : Field.MEM_HBM_LBs_BUSY.info.len = 1 := rfl
    have hresultLen : Field.MEM_HBM_LBs_RESULT.info.len = 2 := rfl
    refine ⟨_, rfl, hmem.trans (by simp), hout.trans (by simp), fun hm hpos hmax hfenced href => ?_, fun hdur => ?_⟩
    · have hm : m.val ≠ 0 := fun h => hm (Fin.ext h)
      rw [startLoopback_of_legal]
      · simp [hbusyLen]
      all_goals simp_all [fenced, Nat.mod_eq_of_lt]
      all_goals omega
    · rw [startLoopback_of_illegal]
      · simp [hidle, hresultLen]
      · simpa [hdurLen, Nat.mod_eq_of_lt (show d < 16384 from hd)] using hdur
  case done =>
    have herrLen : Field.MEM_HBM_LBs_ERRCNT.info.len = 16 := rfl
    have hlaneLen : Field.MEM_HBM_LBs_LANE.info.len = 8 := rfl
    have hresultLen : Field.MEM_HBM_LBs_RESULT.info.len = 2 := rfl
    refine ⟨_, if_neg (not_not.2 hbusy), ?_, ?_, ?_, fun he => ?_, ?_, ?_⟩
    · simp
    · simp [herrLen]
    · simp [hresultLen]
      split <;> omega
    · simp [he, hlaneLen]
      omega
    · simp
    · simp

end Sys2Proof.Machine
end

section
/-! PROOF. Scheduled changes of a circle, and folding (R203 to R206, R218 to R221). -/

namespace Sys2Proof.Machine

section
variable {s : State} {i : SetId}

/-- What is asked of a request in hand is asked of its value. -/
theorem onCirc_req {r : Request} (hreq : (circ s i).req = some r) (g : Request → Request) :
    onCirc s i (fun u => { u with req := u.req.map g }) = onCirc s i fun u => { u with req := some (g r) } :=
  onCirc_congr (by rw [hreq, Option.map_some])

theorem requestChange_of_free (hchg : (circ s i).chg = none) (hreq : (circ s i).req = none) (ver : Nat) : requestChange s i 0 ver =
    tryCommit (toOthers (onCirc (setResult s i 0) i fun u => { u with req := some { kind := 0, ver := ver, ready := [], acks := [] } }) i 6
      [0, ver]) i :=
  (if_neg (by simp [hchg, hreq])).trans (if_neg (by simp))

/-! ## A commit held (R204) -/

theorem circ_holdChange (s : State) (i : SetId) (c : Change) : circ (holdChange s i c) i = { circ s i with chg := some c } := by
  simp [holdChange, setResult, circ, onCirc]

theorem st_holdChange_mem (s : State) (i : SetId) (c : Change) : ((holdChange s i c).st i).mem = (s.st i).mem := by
  simp [holdChange, setResult, onCirc]

theorem out_holdChange (s : State) (i : SetId) (c : Change) : (holdChange s i c).out = s.out := by
  simp [holdChange, setResult]

theorem fld_holdChange (s : State) (i : SetId) (c : Change) {f : Field} (x : Nat) (hstate : f ≠ .CIRC_SWITCH_STAT_STATE)
    (hresult : f ≠ .CIRC_SWITCH_STAT_RESULT) (htarget : f ≠ .CIRC_SWITCH_STAT_TARGET) :
    (holdChange s i c).fld i f x = s.fld i f x := by
  simp [holdChange, setResult, hstate, hresult, htarget]

theorem state_holdChange (s : State) (i : SetId) (c : Change) : (holdChange s i c).fld i .CIRC_SWITCH_STAT_STATE = 1 := by
  have hlen : Field.CIRC_SWITCH_STAT_STATE.info.len = 2 := rfl
  simp [holdChange, setResult, hlen]

theorem result_holdChange (s : State) (i : SetId) (c : Change) : (holdChange s i c).fld i .CIRC_SWITCH_STAT_RESULT = 0 := by
  simp [holdChange, setResult]

theorem livePlaces_holdChange (s : State) (i : SetId) (c : Change) : livePlaces (holdChange s i c) i = livePlaces s i := by
  simp [livePlaces, circ_holdChange, places, fld_holdChange]

end

/-- Settles O19: each notice finds the request, the commit or the fold that it belongs to, and does what the rule gives. -/
theorem changesAndFolding : Obligations.ChangesAndFolding := by
  refine ⟨⟨fun s i ver u hmay hleader => ?switch, fun s i ver hmay hleader hchg hreq => ?request, fun s i ver u hmay => ?query,
    fun s i q r hreq hchg => ⟨?reply, ?timeout⟩, fun s i k ver m e hver he hmay => ?commit, fun s i q r hreq => ?ack,
    fun s i c hchg hopen => ⟨fun r hreq => ?ackTimeout, ?confirm, ?abort⟩⟩, fun s i p e l => rfl,
    fun s i p e l hstate hlost hfold _ hlater hgone => ?stale, fun s i q r f hfold => ?foldAck, fun s i m line l f hfold => ?refold⟩
  case switch =>
    change execCircSwitch i ver u true s = _
    simp [execCircSwitch, writeSwitch, hmay, hleader]
  case request =>
    change execChangeRequest i false ver s = _
    rw [execChangeRequest, if_pos ⟨hmay, hleader⟩]
    exact congrArg Host.Outcome.next (requestChange_of_free hchg hreq ver)
  case query =>
    change execReadinessQuery i u ver s = _
    rw [execReadinessQuery, if_pos hmay]
  case reply =>
    change execReadinessReply i q true s = _
    rw [execReadinessReply, if_pos (by simp [hreq, hchg]), onCirc_req hreq]
  case timeout =>
    change execReadinessTimeout i s = _
    rw [execReadinessTimeout, if_pos (by simp [hreq, hchg]), setResult]
  case commit =>
    let c : Change := { kind := k.val, ver := ver, s := m, ep := e, confirmed := false }
    have hleader : leaderOf (holdChange s i c) i = leaderOf s i := by rw [leaderOf, livePlaces_holdChange, leaderOf]
    have hplace : myPlace (holdChange s i c) i = myPlace s i := fld_holdChange s i c 0 (by decide) (by decide) (by decide)
    refine ⟨(holdChange s i c).emit .circCtl i.val [9, leaderOf s i, myPlace s i], ?_, ?_, ?_, ?_, ?_, ?_⟩
    · change execCommitNotice i k ver m e s = _
      rw [execCommitNotice, if_pos hmay, Nat.mod_eq_of_lt hver, Nat.mod_eq_of_lt he]
    · exact congrArg CircUnit.chg (circ_holdChange s i c)
    · exact state_holdChange s i c
    · exact result_holdChange s i c
    · rw [show leaderOf (State.emit _ _ _ _) i = _ from hleader, show myPlace (State.emit _ _ _ _) i = _ from hplace]
      simp [State.emit, out_holdChange]
    · exact st_holdChange_mem s i c
  case ack =>
    change execCommitAck i q s = _
    rw [execCommitAck, onCirc_req hreq]
  case ackTimeout =>
    change execCommitAckTimeout i s = _
    simp [execCommitAckTimeout, hreq, hchg, hopen]
  case confirm =>
    change execConfirm i s = _
    simp [execConfirm, confirmChange, hchg]
  case abort =>
    change execAbort i s = _
    simp [execAbort, hchg, hopen]
  case stale => simp [foldNotice, hlost, hstate, hfold, hgone, hlater]
  case foldAck =>
    change execFoldAck i q r f.epoch s = _
    simp [execFoldAck, hfold]
  case refold =>
    change execRefold i f.epoch m line l s = _
    simp [execRefold, hfold]

end Sys2Proof.Machine
end

section
/-! PROOF. Announcements, re-requests, LOAD frames, fetches and load timers (R207 to R210). -/

namespace Sys2Proof.Machine

/-- A well-formed LOAD frame at a set that is not lost takes its reader's route. -/
theorem loadArrives_of_load {s : State} {i : SetId} {raw : List Byte} (hlost : (s.st i).lost = false) (hok : hdrOk raw = true)
    (hkind : leAt raw 0 1 = 3) (reader : Nat) (bad : List Nat) : loadArrives s i reader raw bad = loadFrame s i reader raw bad := by
  have hheader : (fhdr raw).kind = 3 := hkind
  simp [loadArrives, hlost, hok, hheader]

/-- What a fetch of a listed piece does with the piece: to the place that it is owed to, or out as LOAD frames. -/
theorem execPieceFetchDone_of_entry {s : State} {i : SetId} {p v b : Nat} {q : List (Nat × Nat)} {e : CatEnt}
    (hfetch : (circ s i).fetch = (p, v) :: q) (hentry : loadEntry s i p v = some (e, b)) (d : List Byte) :
    execPieceFetchDone i (some d) s = .next (nextFetch (match owedFor s i p v with
      | some o => onCirc (s.emit .repairTransfer i.val [o.2.2, p, v] d) i fun c => { c with owed := c.owed.erase o }
      | none => (loadFrames s i e d).foldl (fun s f => loadFrame s i (s.place i) f []) s) i q) := by
  simp only [execPieceFetchDone, hfetch, hentry] <;> rfl

/-- Settles O21: each clause is the branch that the place's part in the load chooses: owner, reader, or holder of the other copy. -/
theorem loading : Obligations.Loading := by
  refine ⟨fun s i o v hnew => ?announce, fun s i p v q hlost hreader => ⟨?again, ?owed⟩, fun s i p v q b e hlost hentry hloads => ?repair,
    fun s i c raw bad hlost hok hkind => ?frame, fun s i p v b q e d hfetch hentry => ⟨fun howed => ?send, fun o howed => ?repaid⟩,
    fun s i o v => rfl⟩
  case announce =>
    exact congrArg Host.Outcome.next (onCirc_congr (if_neg (Bool.eq_false_iff.1 hnew)))
  case again =>
    change execPieceRerequest i ⟨p, v⟩ none s = _
    simp [execPieceRerequest, hlost, hreader, fetchAgain]
  case owed =>
    change execPieceRerequest i ⟨p, v⟩ (some ⟨q, true⟩) s = _
    simp [execPieceRerequest, hlost, hreader, fetchAgain]
  case repair =>
    change execPieceRerequest i ⟨p, v⟩ (some ⟨q, false⟩) s = _
    simp [execPieceRerequest, hlost, hentry, hloads]
  case frame =>
    change execLoadFrame i c raw bad s = _
    rw [execLoadFrame, loadArrives_of_load hlost hok hkind]
  case send =>
    refine (execPieceFetchDone_of_entry hfetch hentry d).trans ?_
    rw [howed]
  case repaid =>
    refine (execPieceFetchDone_of_entry hfetch hentry d).trans ?_
    rw [howed]

end Sys2Proof.Machine
end

section
/-! PROOF. The states of a job (Table 5-6, R149, R152, R153). -/

namespace Sys2Proof.Machine

section
variable {s : State} {i : SetId}

theorem fld_setTeardown (j : Nat) (x : Option Teardown) (f : Field) (y : Nat) : (setTeardown s i j x).fld i f y = s.fld i f y :=
  fld_onSet_of_regs s i (by intro; rfl) i f y

theorem fld_zeroPiece (s : State) (a n : Nat) (f : Field) (y : Nat) : (zeroPiece s i a n).fld i f y = s.fld i f y := by
  unfold zeroPiece
  split
  · rfl
  · exact fld_onSet_of_regs s i (by intro; rfl) i f y

theorem fld_zeroFill (s : State) (a n : Nat) (f : Field) (y : Nat) : (zeroFill s i a n).fld i f y = s.fld i f y := by
  unfold zeroFill
  split
  · exact foldl_keeps (fun t => t.fld i f y) (fun t k => fld_zeroPiece ..) _ s
  · exact fld_zeroPiece ..

/-- Filling regions with zeros writes no register. -/
theorem fld_zeroFills (f : Field) (y : Nat) (rs : List Rgn) : (rs.foldl (fun s r => zeroFill s i r.base r.size) s).fld i f y = s.fld i f y :=
  foldl_keeps (fun t => t.fld i f y) (fun t r => fld_zeroFill t r.base r.size f y) rs s

/-- A teardown whose job holds nothing any more goes on from the state with windows, latches and counters cleared. -/
theorem execTeardownSettled_of_quiet {j : JobId} {x : Teardown} (hteardown : teardownOf s i j.val = some x)
    (hstate : s.fld i .MEM_JOBj_STATE j.val = 2) (hfilling : x.filling = false) (hquiet : jobBusy s i j.val = false) :
    execTeardownSettled i j s =
      let u := clearCtrs (clearLatches (closeWindows s i j.val) i j.val) i j.val
      if u.fld i .MEM_JOBj_PM_HOLD j.val = 1 then .next (settle (setTeardown (u.setFld i .MEM_JOBj_STATE j.val 3) i j.val none) i)
      else .next (settle (fillOnChip u i j.val) i) := by
  simp only [execTeardownSettled, hteardown]
  exact if_neg (by simp [hstate, hfilling, hquiet])

end

/-- Settles O14: the job's state and its teardown choose the branch; a finished fill writes STATE and FILL_LEFT only. -/
theorem jobStates : Obligations.JobStates := by
  refine ⟨fun s i j _ => ⟨rfl, rfl⟩, fun s i j x hteardown hstate hfilling hquiet => ?settled, fun s i j x hteardown hstate hfilling hquiet => ?held,
    fun s i j x hteardown hstate hfilling => ?done, fun s i j hstate => ?release, fun s i j hstate hlost => ?start⟩
  case settled =>
    intro u hhold
    exact (execTeardownSettled_of_quiet hteardown hstate hfilling hquiet).trans (if_neg (by rw [hhold]; decide))
  case held =>
    intro u hhold
    exact (execTeardownSettled_of_quiet hteardown hstate hfilling hquiet).trans (if_pos hhold)
  case done =>
    refine ⟨_, execTeardownFillDone_of_filling hteardown hstate hfilling, ?_, ?_, ?_, fun f y hf => ?_⟩
    · simp [fld_setTeardown]
    · simp [fld_setTeardown]
    · simp [setTeardown, teardownOf]
    · obtain ⟨hf, hleft⟩ := not_or.1 hf
      simp [fld_setTeardown, hf, hleft, fld_zeroFills]
  case release => exact if_pos hstate
  case start => exact if_pos ⟨hstate, by simp [hlost]⟩

end Sys2Proof.Machine
end

section
/-! PROOF. Segment power, window writes, their replies and grants (R132, R137 to R139, R144 to R148). -/

namespace Sys2Proof.Machine

/-! ## Segments -/

/-- A field one bit wide that is cleared shows no bit. -/
theorem bit_putBits_zero_same (w n : Nat) : bit (putBits w n 1 0) n = false := by
  have hpos : 0 < 2 ^ n := by positivity
  simp only [bit, putBits, bits, beq_eq_false_iff_ne, ne_eq, pow_one, Nat.zero_mod, Nat.zero_mul, Nat.add_zero]
  rcases Nat.mod_two_eq_zero_or_one (w / 2 ^ n) with h0 | h1
  · rw [h0, Nat.zero_mul, Nat.sub_zero, h0]
    decide
  · have hle : 2 ^ n ≤ w := by
      by_contra hlt
      rw [Nat.div_eq_of_lt (by omega)] at h1
      omega
    have hdiv := Nat.div_eq_sub_div hpos hle
    rw [h1, Nat.one_mul]
    omega

theorem bit_putBits_bitOf (w n : Nat) (b : Bool) : bit (putBits w n 1 (bitOf b)) n = b := by
  cases b with
  | false => exact bit_putBits_zero_same w n
  | true => exact bit_putBits_one_same w n

section
variable {s : State} {i : SetId} {d : CDie} {g : Fin 9}

theorem segState_setSegOn (b : Bool) : segState (setSegOn s i d.val g.val b) i d.val g.val = segState s i d.val g.val := by
  simp [segState, setSegOn]

theorem segOn_setSegOn (b : Bool) : segOn (setSegOn s i d.val g.val b) i d.val g.val = b := by
  have hlen : Field.MEM_SEGPWRd_ON.info.len = 9 := rfl
  rw [segOn, setSegOn, State.fld_setFld_same, hlen, bit_mod_two_pow _ g.isLt, bit_putBits_bitOf]

theorem segState_setSeg (v : SegState) : segState (setSeg s i d.val g.val v) i d.val g.val = v := by simp [segState, setSeg]

theorem segOn_setSeg (v : SegState) : segOn (setSeg s i d.val g.val v) i d.val g.val = segOn s i d.val g.val := by
  rw [segOn, segOn]
  simp only [setSeg]
  rw [State.fld_setFld_ne _ _ (by simp), State.fld_setFld_ne _ _ (by simp), fld_onSet_of_regs s i (by intro; rfl)]

theorem ready_setSeg (v : SegState) : bit ((setSeg s i d.val g.val v).fld i .MEM_SEGPWRd_READY d.val) g.val = (v == .ready) := by
  have hlen : Field.MEM_SEGPWRd_READY.info.len = 9 := rfl
  simp only [setSeg]
  rw [State.fld_setFld_ne _ _ (by simp), State.fld_setFld_same, hlen, bit_mod_two_pow _ g.isLt, bit_putBits_bitOf]

theorem pending_setSeg (v : SegState) : bit ((setSeg s i d.val g.val v).fld i .MEM_SEGPWRd_PENDING d.val) g.val = (v == .draining) := by
  have hlen : Field.MEM_SEGPWRd_PENDING.info.len = 9 := rfl
  simp only [setSeg]
  rw [State.fld_setFld_same, hlen, bit_mod_two_pow _ g.isLt, bit_putBits_bitOf]

theorem mem_setSeg (v : SegState) : ((setSeg s i d.val g.val v).st i).mem = (s.st i).mem := by simp [setSeg]

theorem out_setSeg (v : SegState) : (setSeg s i d.val g.val v).out = s.out := by simp [setSeg]

/-- A segment lies on its compute die, and so on no stack. -/
theorem spaceOf_segBase (d : CDie) (g : Fin 9) : spaceOf (segBase d.val g.val) ≠ .hbm := by
  rw [ne_eq, spaceOf_hbm_iff, segBase]
  split <;> omega

/-- A segment that is lost reads zeros, and nothing else of the set's memory and of the package moves. -/
theorem loseSeg_zeroes (s : State) (i : SetId) (d : CDie) (g : Fin 9) :
    Zeroes i (fun a => segBase d.val g.val ≤ a ∧ a < segBase d.val g.val + 0x400_0000) s (loseSeg s i d.val g.val) := by
  have hspace := spaceOf_segBase d g
  have heq : loseSeg s i d.val g.val = s.onSet i fun t => { t with
      mem := zeroMem t.mem (segBase d.val g.val) 0x400_0000
      chk := SMap.keep (fun k => k < segBase d.val g.val / 32 || (segBase d.val g.val + 0x400_0000 + 31) / 32 ≤ k) t.chk } := by
    rw [loseSeg, zeroFill, if_neg (by simpa using hspace), zeroPiece, if_neg (by simp [onFenced, hspace])]
  rw [heq]
  refine ⟨fun x hx => ?_, fun x hx => ?_, .onSet fun _ => rfl⟩
  · rw [State.st_onSet_same, get_zeroMem, if_pos hx]
  · rw [State.st_onSet_same, get_zeroMem, if_neg hx]

theorem segOn_loseSeg : segOn (loseSeg s i d.val g.val) i d.val g.val = segOn s i d.val g.val := by
  rw [segOn, loseSeg, fld_zeroFill, segOn]

/-- A segment that is lost on its way to state `v`. -/
theorem setSeg_loseSeg (s : State) (i : SetId) (d : CDie) (g : Fin 9) (v : SegState) :
    let t := setSeg (loseSeg s i d.val g.val) i d.val g.val v
    (∀ a, segBase d.val g.val ≤ a ∧ a < segBase d.val g.val + 0x400_0000 → SMap.get 0 (t.st i).mem a = 0) ∧
      (∀ a, ¬(segBase d.val g.val ≤ a ∧ a < segBase d.val g.val + 0x400_0000) →
        SMap.get 0 (t.st i).mem a = SMap.get 0 (s.st i).mem a) ∧ t.out = s.out := by
  have lost := loseSeg_zeroes s i d g
  intro t
  exact ⟨fun a ha => by rw [mem_setSeg, lost.zero a ha], fun a ha => by rw [mem_setSeg, lost.kept a ha],
    (out_setSeg v).trans lost.keeps.out⟩

end

/-! ## Window writes (R132, R148) -/

section
variable {s : State} {i : SetId}

theorem fld_showSb (k : Nat) {f : Field} (x : Nat) (hf : ¬(f = .CORE_SB_STAT_INUSE ∨ f = .CORE_SB_STAT_PEAK)) :
    (showSb s i k).fld i f x = s.fld i f x := by
  obtain ⟨huse, hpeak⟩ := not_or.1 hf
  simp [showSb, huse, hpeak]

/-- The peak of a scoreboard follows its entries, as far as its width holds them. -/
theorem peak_showSb (k : Nat) : (showSb s i k).fld i .CORE_SB_STAT_PEAK k =
    max (s.core i k).sb.length (s.fld i .CORE_SB_STAT_PEAK k) % 2 ^ 7 := by
  have hlen : Field.CORE_SB_STAT_PEAK.info.len = 7 := rfl
  simp [showSb, hlen]

/-- A window write with its entry in the scoreboard: the entry shown, the bytes stored, the entry given back. -/
def windowStored (s : State) (i : SetId) (k a : Nat) (d : List Byte) : State :=
  store (showSb (s.onCore i k fun c => { c with sb := c.sb ++ [{ lo := a, hi := a + d.length, owner := none }] }) i k) i a d

/-- Whole words are written, and the entry of the write stands in the scoreboard and its peak. -/
theorem windowStored_writes (hfree : ∀ n, fenced s i n = false) (k : Nat) {a : Nat} {d : List Byte} (ha : a % 32 = 0) (hd : d.length % 32 = 0) :
    Writes i a d (showSb (s.onCore i k fun c => { c with sb := c.sb ++ [{ lo := a, hi := a + d.length, owner := none }] }) i k)
      (windowStored s i k a d) := by
  refine store_writes (freeRange_of_unfenced (fun n => ?_) _ _) (.inl ha) (.inl (by omega))
  rw [← hfree n, fenced, fenced, fld_showSb _ _ (by decide), fld_onCore]

theorem fld_windowStored {k a : Nat} {d : List Byte} (h : Writes i a d
    (showSb (s.onCore i k fun c => { c with sb := c.sb ++ [{ lo := a, hi := a + d.length, owner := none }] }) i k) (windowStored s i k a d))
    (f : Field) (x : Nat) : (windowStored s i k a d).fld i f x =
      (showSb (s.onCore i k fun c => { c with sb := c.sb ++ [{ lo := a, hi := a + d.length, owner := none }] }) i k).fld i f x := by
  rw [State.fld, h.keeps.setRegs, State.fld]

/-- An entry that is held and given back leaves the peak at what it was with it. -/
theorem peak_of_entry {l : List SbEnt} {peak : Nat} (hroom : l.length < sbDepth) (hpeak : peak < 2 ^ 7) (e : SbEnt) :
    max (((l ++ [e]).filter fun e => e.owner != none).length) (max (l ++ [e]).length peak % 2 ^ 7) % 2 ^ 7 = max (l.length + 1) peak := by
  have hle := List.length_filter_le (fun e : SbEnt => e.owner != none) (l ++ [e])
  rw [List.length_append, List.length_singleton] at *
  have hroom : l.length < 64 := hroom
  rw [Nat.mod_eq_of_lt (show max (l.length + 1) peak < 2 ^ 7 by omega), Nat.max_eq_right (by omega), Nat.mod_eq_of_lt (by omega)]

theorem acceptWindow_of_clean (k sender a : Nat) (d : List Byte) : acceptWindow s i k sender a d [] =
    (showSb ((windowStored s i k a d).onCore i k fun c => { c with sb := c.sb.filter fun e => e.owner != none }) i k).emit
      .windowReply i.val [sender, 0] := rfl

end

/-- Settles O13: a segment's state chooses what its power does, and the window that takes a write decides its reply. -/
theorem segmentsAndWindows : Obligations.SegmentsAndWindows := by
  refine ⟨fun s i d g => ⟨fun hstate => ?off, fun hstate => ?on, fun hstate huse hon => ?drained, fun hstate hon => ?ready⟩,
    fun s i from_ a w data hw hpower hroom hfree ha hlen => ?stored, fun s i from_ a data bad hnone => ?rejected,
    fun s i k pos e hent hrun => ?acked, fun s i w n hfit => ?granted⟩
  case off =>
    refine ⟨setSeg (setSegOn s i d.val g.val false) i d.val g.val .draining, ?_, segState_setSeg _, ?_, pending_setSeg _, ready_setSeg _, ?_, ?_⟩
    · change execSegmentPowerOff i d g s = _
      rw [execSegmentPowerOff, segState_setSegOn, if_pos hstate]
    · rw [segOn_setSeg, segOn_setSegOn]
    · rw [mem_setSeg]
      simp [setSegOn]
    · rw [out_setSeg]
      simp [setSegOn]
  case on =>
    refine ⟨setSeg (setSegOn s i d.val g.val true) i d.val g.val .powering, ?_, segState_setSeg _, ?_, ready_setSeg _, ?_, ?_⟩
    · change execSegmentPowerOn i d g s = _
      rw [execSegmentPowerOn, segState_setSegOn, if_pos hstate]
    · rw [segOn_setSeg, segOn_setSegOn]
    · rw [mem_setSeg]
      simp [setSegOn]
    · rw [out_setSeg]
      simp [setSegOn]
  case drained =>
    refine ⟨setSeg (loseSeg s i d.val g.val) i d.val g.val .off, ?_, segState_setSeg _, setSeg_loseSeg s i d g .off⟩
    change execSegmentDrainEnd i d g s = _
    simp [execSegmentDrainEnd, hstate, huse, hon, segOn_loseSeg]
  case ready =>
    refine ⟨setSeg (loseSeg s i d.val g.val) i d.val g.val .ready, ?_, segState_setSeg _, ready_setSeg _, setSeg_loseSeg s i d g .ready⟩
    change execSegmentReady i d g s = _
    simp [execSegmentReady, hstate, hon, segOn_loseSeg]
  case stored =>
    intro k
    have hexec : execWindowWrite i from_ a data [] s = .next (acceptWindow s i k from_ a data []) := by
      simp [execWindowWrite, hw, hpower, Nat.not_le.2 hroom, k]
    have writes := windowStored_writes hfree k ha hlen
    have hkeep := writes.keeps
    have hmem : ((acceptWindow s i k from_ a data []).st i).mem = ((windowStored s i k a data).st i).mem := by simp [acceptWindow_of_clean]
    refine ⟨_, hexec, fun x => ?_, ?_, ?_, fun f x hf => ?_, fun hinv => ?_⟩
    · rw [hmem, writes.mem, mem_showSb, mem_onCore]
    all_goals rw [acceptWindow_of_clean]
    · simp [State.emit, hkeep.out]
    · simp [hkeep.regs]
    · simp [fld_showSb _ _ hf, fld_windowStored writes]
    · have hset : regsOk (s.st i).regs := by
        fin_cases i
        · exact hinv.set0.reg
        · exact hinv.set1.reg
      have hpeak : s.fld i .CORE_SB_STAT_PEAK k < 2 ^ 7 := getField_lt_of_regsOk hset .CORE_SB_STAT_PEAK k
      rw [show (State.emit _ _ _ _).fld i _ _ = (showSb _ i k).fld i _ _ from rfl, peak_showSb, fld_onCore, core_onCore_same,
        fld_windowStored writes, peak_showSb, fld_onCore, core_onCore_same, windowStored, core_store, core_showSb, core_onCore_same]
      exact peak_of_entry hroom hpeak _
  case rejected =>
    change execWindowWrite i from_ a data bad s = _
    simp [execWindowWrite, hnone]
  case acked =>
    change execWindowWriteAck i k pos .accepted s = _
    simp [execWindowWriteAck, hent, hrun]
  case granted =>
    intro u
    change execCreditGrant i w n s = _
    simp [execCreditGrant, hfit, Nat.not_lt.2 hfit, u]

end Sys2Proof.Machine
end

section
/-! PROOF. Requests, units and shares of ATTN (R234 to R243). -/

namespace Sys2Proof.Machine

section
variable {s : State} {i : SetId}

/-- A set with every stored word valid and no stack fenced has no word to look at again. -/
theorem suspectWords_of_clean (hvalid : (s.st i).chk = []) (hfree : ∀ n, fenced s i n = false) (rs : List (Nat × Nat)) :
    suspectWords s i rs = [] := by
  have hclean (a n : Nat) : cleanRange s i a n = true := by simp [cleanRange, hvalid, onFenced_of_unfenced hfree]
  simp [suspectWords, hclean]

theorem readQuery_of_clean (hvalid : (s.st i).chk = []) (hfree : ∀ n, fenced s i n = false) (g : KvGeo) (sh : Share) (u : AUnit) :
    readQuery s i g sh u = (false, s) := by
  simp [readQuery, suspectWords_of_clean hvalid hfree]

theorem unitWords_of_clean (hvalid : (s.st i).chk = []) (hfree : ∀ n, fenced s i n = false) (g : KvGeo) (v : BlockView) (lh lo hi : Nat) :
    unitWords s i g v lh lo hi = [] := by
  unfold unitWords
  split <;> exact suspectWords_of_clean hvalid hfree _

/-- A unit whose block decodes is computed, and its partial results are kept (R241, R242). -/
theorem doUnit_of_clean (hvalid : (s.st i).chk = []) (hfree : ∀ n, fenced s i n = false) {st e f : Nat} {key : Nat × Nat} {u : AUnit}
    {sh : Share} (hshare : shareOf s i st key = some sh) (hframe : dirFrame s i (kvGeo s i) st u.slot u.block = some f)
    (hdecodes : (blockView s i (kvGeo s i) st f sh.layer).cause = 0) : doUnit s i st e key u =
      unitFinish s i st e key u (unitParts s i (kvGeo s i) sh u (blockView s i (kvGeo s i) st f sh.layer)) := by
  simp [doUnit, hshare, readQuery_of_clean hvalid hfree, hframe, unitWords_of_clean hvalid hfree, readBad, hdecodes]

end

/-- Settles O23: a request is served when its parameters read and are valid, a unit computed when its block decodes, a share ended when
no unit is left. -/
theorem attentionCommands : Obligations.AttentionCommands := by
  intro s i st
  dsimp only
  refine ⟨fun k e p0 p1 sc b0 b1 b2 s0 s1 s2 hreq h0 h1 h2 hok => ?request, fun e key u sh f hvalid hfree hcur hshare hframe hdecodes => ?unit,
    fun k sh hfind hleft => ?share⟩
  case request =>
    change execAttnRequest i st k s = _
    simp [execAttnRequest, hreq, h0, h1, h2, hok]
  case unit =>
    change execAttnUnitDone i st e false s = _
    simp only [execAttnUnitDone, hcur]
    rw [if_neg (by decide), doUnit_of_clean hvalid hfree hshare hframe hdecodes]
  case share =>
    change execAttnShareDone i st k s = _
    simp only [Bool.decide_and] at hfind
    simp [execAttnShareDone, hfind, hleft]

end Sys2Proof.Machine
end

section
/-! PROOF. What an INPUT sends when its history word is bad (R277, R418). -/

namespace Sys2Proof.Machine

/-- An INPUT of one token, 0, of page 0 to its session 7. -/
def oneTokenInput : SqCmd := { page := 0, cmd := [2, 0, 0, 0, 7, 0, 0, 0, 0, 0, 0, 0, 0, 0, 0, 0, 1, 0, 0, 0, 5, 0, 0, 0], data := some [0, 0, 0, 0] }

/-- A set at a boundary with session 7 IDLE in slot 0, the INPUT fetched, and poison in the word that holds the session's history. -/
def badHistorySet : SetSt := { SetSt.reset 0 with
  chk := [(0, poisonDiff)]
  su := { cmds := [oneTokenInput], five := true, sess := [(0, { ph := .idle, page := 0, sid := 7 })] } }

/-- A promenade set of this kind with a vocabulary of one token, on a package that interrupts its host for each record. -/
def badHistory : State :=
  (({ State.reset with set0 := badHistorySet, ibiOn := true } : State).setFld 0 .CIRC_CFG_MODE 0 1).setFld 0 .SESS_CFG_0_VOCAB 0 1

/-! ## A poisoned word -/

/-- Zeros in front leave a polynomial's value. -/
theorem gfEval_zeros (n : Nat) (c : List Nat) : gfEval (List.replicate n 0 ++ c) 2 = gfEval c 2 := by
  have hstep : gfMul 0 2 ^^^ 0 = 0 := by decide
  have hzeros : (List.replicate n 0).foldl (fun a b => gfMul a 2 ^^^ b) 0 = 0 := by
    induction n with
    | zero => rfl
    | succ n ih => rw [List.replicate_succ, List.foldl_cons, hstep, ih]
  rw [gfEval, List.foldl_append, hzeros, gfEval]

theorem syndromes_ne_zeros {w : List Nat} (h : gfEval w 2 ≠ 0) : syndromes w ≠ [0, 0, 0, 0] := by simp [syndromes, h]

/-- A word with poisoned check bits is bad (R412). -/
theorem decodeDiff_poisonDiff (two : Bool) : decodeDiff two poisonDiff = .bad true := by
  have hsecond : gfEval (List.replicate 32 0 ++ [0xFF, 0xFF, 0xFF, 0xFF]) 2 ≠ 0 := by
    rw [gfEval_zeros]
    decide
  exact (if_neg (by decide)).trans ((if_neg (syndromes_ne_zeros hsecond)).trans (if_pos rfl))

theorem readWord_of_poisoned {s : State} {i : SetId} {a : Nat} (hfree : onFenced s i a = false) (hpoison : chkOf s i a = poisonDiff) :
    readWord s i a = (readMem (s.st i).mem a 32, true, countUncorr s i a true) := by
  simp [readWord, hfree, hpoison, decodeDiff_poisonDiff]

theorem out_showOpens (s : State) (i : SetId) : (showOpens s i).out = s.out :=
  foldl_keeps State.out (fun _ _ => State.setPfld_out ..) _ s

section
variable {s : State} {i : SetId}

theorem out_onSess (n : Nat) (f : Sess → Sess) : (onSess s i n f).out = s.out := s.onSet_out ..

/-- A command of the fetched ones is applied at an open boundary that has come to the commands. -/
theorem applyNext_of_open {x : SqCmd} {q : List SqCmd} {opc : Nat} (hopen : boundaryOpen s i = true) (hcmds : (s.st i).su.cmds = x :: q)
    (hcode : leAt x.cmd 0 1 = opc) (hlate : x.late = false) :
    applyNext i opc s = showOpens (applyCmd (Claims.atCommand s i) i x) i := by
  simp [applyNext, hcmds, hopen, hcode, hlate, Claims.atCommand]

/-- An INPUT of an IDLE session behind which none waits is applied (R277). -/
theorem applyCmd_of_input {x : SqCmd} {n : Nat} (hcode : leAt x.cmd 0 1 = 2) (hreserved : leAt x.cmd 2 2 = 0)
    (hfind : findSess s i x.page (leAt x.cmd 4 4) = some n) (hwaits : sidWaits s i x.page (leAt x.cmd 4 4) = false)
    (hidle : (sessOf s i n).ph = .idle) : applyCmd s i x = applyInput s i n x := by
  simp [applyCmd, hcode, hreserved, hfind, hwaits, hidle]

/-- An INPUT in range sends what the writing of its tokens sends. -/
theorem out_applyInput {x : SqCmd} {n : Nat} {d : List Byte} (hdata : x.data = some d) (hpos : 1 ≤ leAt x.cmd 16 4) (hmax : leAt x.cmd 16 4 ≤ 262144)
    (hvocab : ∀ v ∈ (List.range (leAt x.cmd 16 4)).map fun j => leAt d (4 * j) 4, v < s.fld i .SESS_CFG_0_VOCAB) :
    (applyInput s i n x).out = (addHist (cqFree s x.page 1) i n ((List.range (leAt x.cmd 16 4)).map fun j => leAt d (4 * j) 4)).out := by
  have hrange : ¬(leAt x.cmd 16 4 = 0 ∨ 262144 < leAt x.cmd 16 4) := by omega
  have hfits : ¬((List.range (leAt x.cmd 16 4)).map fun j => leAt d (4 * j) 4).any
      (fun v => (cqFree s x.page 1).fld i .SESS_CFG_0_VOCAB ≤ v) = true := by
    simp only [List.any_eq_true, decide_eq_true_eq, not_exists, not_and, Nat.not_le]
    exact hvocab
  simp only [applyInput, if_neg hrange, hdata, if_neg hfits, out_onSess]

/-- A narrow write into a bad word does what the word's region says, and writes nothing (R123, R418). -/
theorem out_storePart_of_poisoned {a : Nat} {d : List Byte} (hd : d ≠ []) (ha : a % 32 = 0) (hfree : onFenced s i a = false)
    (hpoison : chkOf s i a = poisonDiff) : (storePart s i a d).out = (operandBad (countUncorr s i a true) i
      (match (rgns (countUncorr s i a true) i).find? (·.holds a) with | some r => r.job | none => 0) 0 a).1.out := by
  have hword : a / 32 * 32 = a := by omega
  have hopen : ¬(d.isEmpty = true ∨ onFenced s i a = true) := by simp [hd, hfree]
  simp only [storePart, if_neg hopen, hword, readWord_of_poisoned hfree hpoison, if_true]
  rw [apply_ite State.out]
  simp only [State.onSet_out, ite_self] <;> rfl

/-- A narrow write at the start of a word is one part of it. -/
theorem store_of_narrow {a : Nat} {d : List Byte} (ha : a % 32 = 0) (hd : d.length < 32) : store s i a d = storePart s i a d := by
  simp [store, ha, Nat.div_eq_of_lt hd, storePart_nil, storeRaw, storePiece]
end

/-- The state in which the INPUT's token is written. -/
def inputState : State := cqFree (Claims.atCommand badHistory 0) 0 1

/-- The report of the bad word is an interrupt. -/
theorem operandBad_sends : (operandBad (countUncorr inputState 0 0 true) 0 0 0 0).1.out.length = 1 := by decide

theorem badHistory_sends : (applyNext 0 2 badHistory).out.length = 1 := by
  rw [applyNext_of_open (x := oneTokenInput) (q := []) (by decide) (by decide) (by decide) (by decide), out_showOpens,
    applyCmd_of_input (n := 0) (by decide) (by decide) (by decide) (by decide) (by decide),
    out_applyInput (d := [0, 0, 0, 0]) (by decide) (by decide) (by decide) (by decide)]
  change (addHist inputState 0 0 [0]).out.length = 1
  rw [addHist, List.foldl_cons, List.foldl_nil, out_onSess, store_of_narrow (by decide) (by decide),
    show histAddr inputState 0 0 (sessOf inputState 0 0).hist = 0 by decide,
    out_storePart_of_poisoned (by decide) (by decide) (by decide) (by decide)]
  exact operandBad_sends

/-- Refutes O29: an INPUT whose history word is bad writes its tokens, and reports the word (F_HBM_WORD) by an interrupt that it sends. -/
theorem not_sessionCommands : ¬ Obligations.SessionCommands := by
  intro h
  obtain ⟨_, _, hsess⟩ := h badHistory 0 oneTokenInput [] (by decide) (by decide) (by decide)
  obtain ⟨hinput, _⟩ := hsess 0 (by decide) (by decide)
  obtain ⟨hprefill, _⟩ := hinput (by decide)
  obtain ⟨t, hexec, _, _, _, _, _, _, _, _, hout⟩ := hprefill [0, 0, 0, 0] (by decide) (by decide) (by decide) (by decide) (by decide) (by decide)
  obtain rfl : applyNext 0 2 badHistory = t := Host.Outcome.next.inj hexec
  have hsends := badHistory_sends
  rw [hout] at hsends
  exact absurd hsends (by decide)

end Sys2Proof.Machine
end

section
/-! PROOF. Sealing, gathers, step boundaries and promenade passes (R247, R257, R281, R289 to R294). -/

namespace Sys2Proof.Machine

/-! ## Sealing (R247) -/

section
variable {s : State} {i : SetId}

/-- Layer blocks begin at words. -/
theorem blockAddr_mod (g : KvGeo) (st f layer : Nat) : blockAddr s i g st f layer % 32 = 0 := by
  have hsec : g.headSec % 32 = 0 := by
    unfold KvGeo.headSec
    split <;> omega
  have hblk : layer * g.layerBlk % 32 = 0 := by
    rw [KvGeo.layerBlk, ← Nat.mul_assoc, Nat.mul_mod, hsec, Nat.mul_zero, Nat.zero_mod]
  have hoff : g.sealOff % 32 = 0 := by
    unfold KvGeo.sealOff
    split <;> rfl
  have hframe : frameAddr s i g st f % 32 = 0 := by
    unfold frameAddr
    omega
  unfold blockAddr
  omega

theorem length_padWord_mod (d : List Byte) : (padWord d).length % 32 = 0 := by
  simp only [padWord, List.length_append, List.length_replicate, up32]
  omega

/-- Whole words write no register. -/
theorem frameAddr_store {a : Nat} {d : List Byte} (ha : a % 32 = 0) (hd : d.length % 32 = 0) (g : KvGeo) (st f : Nat) :
    frameAddr (store s i a d) i g st f = frameAddr s i g st f := by
  rw [store_words s i ha hd, frameAddr, State.fld, (storeRaw_keeps s i a d).setRegs, ← State.fld, frameAddr]

end

/-! ## Boundaries (R281) -/

theorem sendReturn_of_ordinary {s : State} {i : SetId} (hmode : promenade s i = false) : sendReturn s i = s := by
  simp [sendReturn, lastPlace, hmode]

/-! ## Passes (R289 to R292) -/

/-- Settles O25: the state of the frame, the boundary or the pass chooses the branch that the rule gives. -/
theorem boundarySealPasses : Obligations.BoundarySealPasses := by
  refine ⟨⟨fun s i st slot frame layer f str => ?sealing, fun s i hgather hlost => ?gather⟩, fun s i =>
    ⟨fun hlost hopen hmode => ?boundary, fun n rows u hmay hpick hrows => ?start, fun r p part hpass hparts => ?back,
      fun h q bound discard hheaders hmode hmay hgate hsettled => ?header⟩⟩
  case sealing =>
    intro g hframe hon hlayer hflag hlen hseal hidle hfree hcool hstream
    refine ⟨?_, _, ?_, rfl⟩
    · simp only [sealStream, Bool.and_eq_true, beq_iff_eq] at hstream
      tauto
    · change execFrameSeal i st slot frame layer str s = _
      simp only [execFrameSeal, show dirFrame s i (kvGeo s i) st.val slot frame = some f from hframe]
      rw [if_pos (by simp_all [g]), frameAddr_store (blockAddr_mod ..) (length_padWord_mod str)]
  case gather => exact if_pos ⟨hgather, by simp [hlost]⟩
  case boundary =>
    intro a b c hafter
    change execStepBoundary i s = _
    have hcare : (if (s.st i).su.five then endKilled s i else sendReturn s i) = if (s.st i).su.five then endKilled s i else s := by
      rw [sendReturn_of_ordinary hmode]
    simp only [execStepBoundary, hlost, hopen, hcare, Bool.not_true, Bool.false_eq_true, if_false]
    rw [if_neg (show ¬promenade _ i = true from fun h => absurd (hafter.symm.trans h) (by decide))]
  case start =>
    change execPassStart ⟨i, n⟩ s = _
    cases rows with
    | nil => exact absurd rfl hrows
    | cons r rows => simp only [execPassStart, hmay, hpick, if_true]
  case back =>
    change execPassReturn i r s = _
    simp only [execPassReturn, hpass]
    rw [List.foldl_ext _ (fun s n => returnPass s i p.rows r.discard (part n)) _ fun s n hn => by rw [hparts n hn, Option.getD_some]]
  case header =>
    intro rows o b w
    change execPassHeader i bound discard s = _
    simp only [execPassHeader, hheaders]
    rw [if_neg (by simp [hmode, hmay, hgate, hsettled])]
    rfl

end Sys2Proof.Machine
end

section
/-! PROOF. No loss of a link writes DISABLE of a port (R335, R338): only the host and the management write it. -/

namespace Sys2Proof.Machine

/-- DISABLE of the ports of both sets. -/
def portControls (s : State) (j : SetId) (p : Nat) : Nat := s.fld j .LINK_PORTp_CTL_DISABLE p

theorem portControls_of_fld {s t : State} (h : ∀ j x, t.fld j .LINK_PORTp_CTL_DISABLE x = s.fld j .LINK_PORTp_CTL_DISABLE x) :
    portControls t = portControls s := funext fun j => funext fun x => h j x

/-- A fold of steps that keep the controls keeps them. -/
@[simp] theorem portControls_foldl {α : Type} {f : State → α → State} (hf : ∀ s a, portControls (f s a) = portControls s) (l : List α) (s : State) :
    portControls (l.foldl f s) = portControls s := foldl_keeps portControls hf l s

section
variable (s : State) (i : SetId)

/-! ## Updates of the state -/

@[simp] theorem portControls_setFld {f : Field} (hf : f ≠ .LINK_PORTp_CTL_DISABLE) (ix v : Nat) :
    portControls (s.setFld i f ix v) = portControls s := portControls_of_fld fun j x => by simp [hf.symm]

@[simp] theorem portControls_addFld {f : Field} (hf : f ≠ .LINK_PORTp_CTL_DISABLE) (ix n : Nat) :
    portControls (s.addFld i f ix n) = portControls s := portControls_setFld s i hf ..

@[simp] theorem portControls_satFld {f : Field} (hf : f ≠ .LINK_PORTp_CTL_DISABLE) (ix n : Nat) :
    portControls (s.satFld i f ix n) = portControls s := portControls_setFld s i hf ..

@[simp] theorem portControls_onSet {f : SetSt → SetSt} (hf : ∀ t, (f t).regs = t.regs) : portControls (s.onSet i f) = portControls s :=
  portControls_of_fld fun j x => fld_onSet_of_regs s i hf j _ x

@[simp] theorem portControls_onCore (k : Nat) (f : Core → Core) : portControls (s.onCore i k f) = portControls s :=
  portControls_onSet s i (by intro; rfl)

@[simp] theorem portControls_onSlot (k n : Nat) (f : Slot → Slot) : portControls (s.onSlot i k n f) = portControls s := portControls_onCore ..

@[simp] theorem portControls_onSu (f : SessUnit → SessUnit) : portControls (onSu s i f) = portControls s := portControls_onSet s i (by intro; rfl)

@[simp] theorem portControls_onSess (n : Nat) (f : Sess → Sess) : portControls (onSess s i n f) = portControls s := portControls_onSu ..

@[simp] theorem portControls_onCirc (f : CircUnit → CircUnit) : portControls (onCirc s i f) = portControls s :=
  portControls_onSet s i (by intro; rfl)

@[simp] theorem portControls_onPort (p : Nat) (f : CPort → CPort) : portControls (onPort s i p f) = portControls s := portControls_onCirc ..

@[simp] theorem portControls_setPfld (f : Field) (ix v : Nat) : portControls (s.setPfld f ix v) = portControls s := rfl

@[simp] theorem portControls_emit (k : EvKind) (n : Nat) (a : List Nat) (d : List Byte) : portControls (s.emit k n a d) = portControls s := rfl

@[simp] theorem portControls_spend : portControls s.spend = portControls s := rfl

@[simp] theorem portControls_cqHold (t n : Nat) : portControls (cqHold s t n) = portControls s := rfl

@[simp] theorem portControls_cqFree (t n : Nat) : portControls (cqFree s t n) = portControls s := rfl

@[simp] theorem portControls_report (r : FRec) : portControls (report s i r) = portControls s :=
  portControls_of_fld (fld_report s i (by simp [logFields]) r)

@[simp] theorem portControls_freeEvent (sid status event : Nat) : portControls (freeEvent s sid status event).2 = portControls s := rfl

@[simp] theorem portControls_showStage : portControls (showStage s) = portControls s := portControls_of_fld fun _ _ => fld_showStage ..

/-! ## Almanac and interrupts -/

@[simp] theorem portControls_almWrite (clean : Bool) : portControls (almWrite s clean) = portControls s := by
  unfold almWrite
  split <;> rfl

@[simp] theorem portControls_promptWrite (type : Nat) (payload : List Byte) : portControls (promptWrite s type payload) = portControls s := by
  have hfull (t : State) : portControls { t with promptFull := true } = portControls t := rfl
  have hnext (t : State) (a n : Nat) (d : List Byte) : portControls { t.nvmWrite a d with promptNext := n } = portControls t := rfl
  simp only [promptWrite, apply_ite portControls, hfull, hnext, portControls_almWrite, ite_self]

@[simp] theorem portControls_raisePageVector (t i : Nat) : portControls (raisePageVector s t i) = portControls s := by
  have hvector (v : Nat) : portControls (raiseVector s v) = portControls s := by
    unfold raiseVector
    dsimp only
    split
    · rfl
    · split <;> rfl
  simp [raisePageVector, apply_ite portControls, hvector]

/-! ## Memory (R121 to R123, R409 to R418) -/

@[simp] theorem portControls_storePiece (a : Nat) (d : List Byte) : portControls (storePiece s i a d) = portControls s := by
  simp [storePiece, apply_ite portControls]

@[simp] theorem portControls_storeRaw (a : Nat) (d : List Byte) : portControls (storeRaw s i a d) = portControls s := by simp [storeRaw]

@[simp] theorem portControls_zeroPiece (a n : Nat) : portControls (zeroPiece s i a n) = portControls s := by simp [zeroPiece, apply_ite portControls]

@[simp] theorem portControls_zeroFill (a n : Nat) : portControls (zeroFill s i a n) = portControls s := by simp [zeroFill, apply_ite portControls]

@[simp] theorem portControls_poisonWord (a : Nat) : portControls (poisonWord s i a) = portControls s := by simp [poisonWord, apply_ite portControls]

@[simp] theorem portControls_countCorr (a : Nat) : portControls (countCorr s i a) = portControls s := by
  have halm (t : State) (off n v : Nat) : portControls (t.addAlm off n v) = portControls t := rfl
  unfold countCorr
  dsimp only
  split <;> simp [halm]

@[simp] theorem portControls_countUncorr (a : Nat) (poison : Bool) : portControls (countUncorr s i a poison) = portControls s := by
  have halm (t : State) (off n v : Nat) : portControls (t.addAlm off n v) = portControls t := rfl
  unfold countUncorr
  dsimp only
  split <;> simp [halm]

@[simp] theorem portControls_readWord (a : Nat) : portControls (readWord s i a).2.2 = portControls s := by
  unfold readWord
  dsimp only
  split
  · simp
  · split <;> simp [apply_ite portControls]

@[simp] theorem portControls_restoreRegion (r : Rgn) : portControls (restoreRegion s i r) = portControls s := by
  simp [restoreRegion, apply_ite portControls]

@[simp] theorem portControls_mseErr {f : Field} (hf : f ≠ .LINK_PORTp_CTL_DISABLE) (st n layer tag : Nat) :
    portControls (mseErr s i f st n layer tag) = portControls s := by
  simp [mseErr, hf]

@[simp] theorem portControls_markErr (a : Nat) : portControls (markErr s i a) = portControls s := by
  unfold markErr
  split <;> simp

@[simp] theorem portControls_operandBad (job tag a : Nat) : portControls (operandBad s i job tag a).1 = portControls s := by
  unfold operandBad
  dsimp only
  split
  · simp
  · simp
  · simp
  · split <;> simp
  · simp

@[simp] theorem portControls_storePart (a : Nat) (d : List Byte) : portControls (storePart s i a d) = portControls s := by
  simp [storePart, apply_ite portControls]

@[simp] theorem portControls_store (a : Nat) (d : List Byte) : portControls (store s i a d) = portControls s := by simp [store]

/-! ## Slots, waiters and jobs -/

@[simp] theorem portControls_setSlotState (k n v : Nat) : portControls (setSlotState s i k n v) = portControls s := by simp [setSlotState]

@[simp] theorem portControls_resumeSlot (k n : Nat) : portControls (resumeSlot s i k n) = portControls s := by simp [resumeSlot]

@[simp] theorem portControls_startSlot (k n pc : Nat) : portControls (startSlot s i k n pc) = portControls s := by simp [startSlot]

@[simp] theorem portControls_showWaiters (p : Nat) : portControls (showWaiters s i p) = portControls s := by simp [showWaiters]

@[simp] theorem portControls_setWaiters (p : Nat) (q : List Waiter) : portControls (setWaiters s i p q) = portControls s := by simp [setWaiters]

@[simp] theorem portControls_unwait (k n : Nat) : portControls (unwait s i k n) = portControls s := by simp [unwait, apply_ite portControls]

@[simp] theorem portControls_dropHold (k n : Nat) : portControls (dropHold s i k n) = portControls s := by simp [dropHold]

@[simp] theorem portControls_stopSlot (k n : Nat) : portControls (stopSlot s i k n) = portControls s := by simp [stopSlot]

@[simp] theorem portControls_showSb (k : Nat) : portControls (showSb s i k) = portControls s := by simp [showSb]

@[simp] theorem portControls_releaseSb (k id : Nat) : portControls (releaseSb s i k id) = portControls s := by simp [releaseSb]

@[simp] theorem portControls_discardJob (k j : Nat) : portControls (discardJob s i k j) = portControls s := by
  simp [discardJob, apply_ite portControls]

@[simp] theorem portControls_setChanStat (x v : Nat) : portControls (setChanStat s i x v) = portControls s := by simp [setChanStat]

@[simp] theorem portControls_clearLatches (j : Nat) : portControls (clearLatches s i j) = portControls s := by
  simp [clearLatches, apply_ite portControls]

@[simp] theorem portControls_closeWindows (j : Nat) : portControls (closeWindows s i j) = portControls s := by
  simp [closeWindows, apply_ite portControls]

@[simp] theorem portControls_leaveJob (j : Nat) (exit : JobExit) : portControls (leaveJob s i j exit) = portControls s := by
  simp [leaveJob, apply_ite portControls]

@[simp] theorem portControls_haltSlotWith (k n : Nat) (pc tag : Nat) (r : FRec) :
    portControls (haltSlotWith s i k n pc tag r) = portControls s := by
  simp [haltSlotWith]

@[simp] theorem portControls_haltSlot (k n : Nat) (code : FC) (pc tag : Nat) (cause detail : Nat) :
    portControls (haltSlot s i k n code pc tag cause detail) = portControls s := by
  simp [haltSlot]

@[simp] theorem portControls_oweDone (k n j pc : Nat) (d : List Byte) : portControls (oweDone s i k n j pc d) = portControls s := by
  simp [oweDone, apply_ite portControls]

@[simp] theorem portControls_adoptRows : portControls (adoptRows s i) = portControls s := portControls_onSet s i fun t => by
  split <;> rfl

@[simp] theorem portControls_waitDone (k n p : Nat) : portControls (waitDone s i k n p) = portControls s := by
  unfold waitDone
  dsimp only
  split <;> simp [apply_ite portControls]

@[simp] theorem portControls_hostWrite (a : Nat) (d : List Byte) : portControls (hostWrite s a d) = portControls s := by
  unfold hostWrite
  split
  · rfl
  · split <;> rfl

@[simp] theorem portControls_hostWaitDone (t w status value : Nat) : portControls (hostWaitDone s t w status value) = portControls s := by
  have hseq (q : SMap Nat) : portControls { s with cueSeq := q } = portControls s := rfl
  simp [hostWaitDone, apply_ite portControls, hseq]

@[simp] theorem portControls_satisfy (p : Nat) (w : Waiter) : portControls (satisfy s i p w) = portControls s := by
  unfold satisfy
  split <;> simp

@[simp] theorem portControls_serveList (p : Nat) (l : List Waiter) : portControls (serveList s i p l) = portControls s := by
  induction l generalizing s with
  | nil => simp [serveList]
  | cons w l ih => simp [serveList, apply_ite portControls, ih]

@[simp] theorem portControls_serve (p : Nat) : portControls (serve s i p) = portControls s := by simp [serve]

@[simp] theorem portControls_haltWait (k n p : Nat) : portControls (haltWait s i k n p) = portControls s := by simp [haltWait]

@[simp] theorem portControls_breakNode (x p : Nat) (origin : Option (Nat × Nat)) : portControls (breakNode s i x p origin) = portControls s := by
  unfold breakNode
  split
  · rfl
  · refine (portControls_foldl (fun t c => ?_) _ _).trans ((portControls_foldl (fun t w => ?_) _ _).trans ?_)
    · simp [apply_ite portControls]
    · split <;> simp
    · simp

@[simp] theorem portControls_initCtrs (j : Nat) : portControls (initCtrs s i j) = portControls s := by
  refine portControls_foldl (fun t p => ?_) _ s
  dsimp only
  split <;> simp

/-! ## Session rings -/

@[simp] theorem portControls_writeRec (t : Nat) (r : List Byte) : portControls (writeRec s i t r) = portControls s := by
  unfold writeRec
  dsimp only
  split
  · exact (portControls_onSu ..).trans (portControls_hostWrite ..)
  · exact (portControls_onSu ..).trans (portControls_hostWrite ..)

@[simp] theorem portControls_postRec (t : Nat) (r : List Byte) : portControls (postRec s i t r) = portControls s := by
  simp [postRec, apply_ite portControls]

@[simp] theorem portControls_raiseCq : portControls (raiseCq s i) = portControls s := by simp [raiseCq, apply_ite portControls]

@[simp] theorem portControls_showOpen (t : Nat) : portControls (showOpen s i t) = portControls s := by simp [showOpen]

@[simp] theorem portControls_showOpens : portControls (showOpens s i) = portControls s := by simp [showOpens]

@[simp] theorem portControls_discardStep : portControls (discardStep s i) = portControls s := by simp [discardStep]

/-! ## Restarts -/

@[simp] theorem portControls_openChans (j : Nat) : portControls (openChans s i j) = portControls s := by simp [openChans, apply_ite portControls]

@[simp] theorem portControls_restartSeq (j : Nat) : portControls (restartSeq s i j) = portControls s :=
  portControls_foldl (fun _ _ => portControls_foldl (fun _ _ => portControls_setFld _ _ (by decide) ..) ..) _ s

@[simp] theorem portControls_resetHeaders (j : Nat) : portControls (resetHeaders s i j) = portControls s := by
  simp [resetHeaders, apply_ite portControls]

@[simp] theorem portControls_dropHolds (j : Nat) : portControls (dropHolds s i j) = portControls s := by simp [dropHolds]

@[simp] theorem portControls_startSlots (j : Nat) : portControls (startSlots s i j) = portControls s := by simp [startSlots, apply_ite portControls]

/-! ## Sessions -/

@[simp] theorem portControls_addRec (t n : Nat) (r : List Byte) : portControls (addRec s i t n r) = portControls s := by
  simp [addRec, apply_ite portControls]

@[simp] theorem portControls_postRecs : portControls (postRecs s i) = portControls s := by simp [postRecs]

@[simp] theorem portControls_refuse (t sid : Nat) (n : Option Nat) (c : FC) : portControls (refuse s i t sid n c) = portControls s := by
  unfold refuse
  dsimp only
  split <;> simp

@[simp] theorem portControls_dropInputs (n : Nat) : portControls (dropInputs s i n) = portControls s := by simp [dropInputs]

@[simp] theorem portControls_unreserve (n : Nat) : portControls (unreserve s i n) = portControls s := by simp [unreserve]

@[simp] theorem portControls_countEntry (st rsv : Nat) (opens : Bool) : portControls (countEntry s i st rsv opens) = portControls s := by
  simp [countEntry]

@[simp] theorem portControls_closeDir (n : Nat) : portControls (closeDir s i n) = portControls s := by simp [closeDir, apply_ite portControls]

@[simp] theorem portControls_freeSlot (n : Nat) : portControls (freeSlot s i n) = portControls s := by simp [freeSlot, apply_ite portControls]

@[simp] theorem portControls_finishSess (n status event : Nat) : portControls (finishSess s i n status event) = portControls s := by simp [finishSess]

@[simp] theorem portControls_endSessions (ok : Nat → Bool) (status event : Nat) :
    portControls (endSessions s i ok status event) = portControls s := by
  simp [endSessions]

/-! ## Frames and turns -/

@[simp] theorem portControls_stopHere : portControls (stopHere s i) = portControls s := by simp [stopHere]

@[simp] theorem portControls_sendStop (p : Nat) : portControls (sendStop s i p) = portControls s := by simp [sendStop]

@[simp] theorem portControls_stopCircle : portControls (stopCircle s i) = portControls s := by simp [stopCircle, apply_ite portControls]

@[simp] theorem portControls_circFault (c : FC) (h : FHdr) : portControls (circFault s i c h) = portControls s := by
  have herr : (if c = .circSeq then Field.CIRC_ERR_SEQ else if c = .circRev then .CIRC_ERR_REVN else .CIRC_ERR_VERS) ≠
      .LINK_PORTp_CTL_DISABLE := by
    split
    · decide
    · split <;> decide
  simp [circFault, herr]

@[simp] theorem portControls_bufferFrame (f : Frame) : portControls (bufferFrame s i f) = portControls s := by
  unfold bufferFrame
  dsimp only
  split <;> simp

@[simp] theorem portControls_tileArrives (p : Nat) (h : FHdr) (d : List Byte) (bad : List Nat) (via : Option Nat) :
    portControls (tileArrives s i p h d bad via) = portControls s := by
  unfold tileArrives
  split
  · rfl
  · simp [apply_ite portControls]

@[simp] theorem portControls_turnArrives (p : Nat) (h : FHdr) : portControls (turnArrives s i p h) = portControls s := by
  simp [turnArrives, apply_ite portControls]

@[simp] theorem portControls_frameArrives (p : Nat) (raw : List Byte) (bad : List Nat) (via : Option Nat) :
    portControls (frameArrives s i p raw bad via) = portControls s := by
  simp [frameArrives, apply_ite portControls]

@[simp] theorem portControls_replayHeld : portControls (replayHeld s i) = portControls s := by simp [replayHeld]

@[simp] theorem portControls_sendTurn (p n : Nat) : portControls (sendTurn s i p n) = portControls s := by simp [sendTurn]

@[simp] theorem portControls_enterService (m : Nat) : portControls (enterService s i m) = portControls s := by simp [enterService]

/-! ## Changes (R203 to R206) -/

@[simp] theorem portControls_setResult (r : Nat) : portControls (setResult s i r) = portControls s := by simp [setResult]

@[simp] theorem portControls_dropChange : portControls (dropChange s i) = portControls s := by
  unfold dropChange
  split <;> simp

/-! ## Folding (R218 to R222) -/

@[simp] theorem portControls_foldChange : portControls (foldChange s i) = portControls s := by
  unfold foldChange
  dsimp only
  split
  · split <;> split <;> simp
  · split <;> simp

@[simp] theorem portControls_dropPasses : portControls (dropPasses s i) = portControls s := by simp [dropPasses]

@[simp] theorem portControls_leaveService : portControls (leaveService s i) = portControls s := by simp [leaveService, apply_ite portControls]

@[simp] theorem portControls_passNotice (from_ : Option Nat) (epoch : Nat) (l : FoldLoss) :
    portControls (passNotice s i from_ epoch l) = portControls s :=
  portControls_foldl (fun _ _ => portControls_emit ..) _ s

@[simp] theorem portControls_ackFold (epoch : Nat) (l : FoldLoss) : portControls (ackFold s i epoch l) = portControls s := by
  simp [ackFold, apply_ite portControls]

@[simp] theorem portControls_dropSlotWaits (j : Nat) : portControls (dropSlotWaits s i j) = portControls s := by
  simp [dropSlotWaits, apply_ite portControls]

@[simp] theorem portControls_restartJob : portControls (restartJob s i) = portControls s := by simp [restartJob, apply_ite portControls]

@[simp] theorem portControls_takeFold (epoch : Nat) (line : List Nat) (l : FoldLoss) :
    portControls (takeFold s i epoch line l) = portControls s := by
  simp [takeFold]

@[simp] theorem portControls_refold (epoch m : Nat) (line : List Nat) (l : FoldLoss) :
    portControls (refold s i epoch m line l) = portControls s := by
  simp [refold, apply_ite portControls]

@[simp] theorem portControls_sendRefold (epoch m : Nat) (line : List Nat) (stand : List StandIn) :
    portControls (sendRefold s i epoch m line stand) = portControls s :=
  portControls_foldl (fun _ _ => portControls_emit ..) _ s

@[simp] theorem portControls_tryRefold : portControls (tryRefold s i) = portControls s := by
  unfold tryRefold
  split
  · rfl
  · split
    · rfl
    · simp [apply_ite portControls]

@[simp] theorem portControls_breakLost (q : Nat) : portControls (breakLost s i q) = portControls s := by simp [breakLost, apply_ite portControls]

@[simp] theorem portControls_notedGone (q : Nat) : portControls (notedGone s i q) = portControls s := by simp [notedGone, apply_ite portControls]

@[simp] theorem portControls_foldNotice (from_ : Option Nat) (epoch : Nat) (l : FoldLoss) :
    portControls (foldNotice s i from_ epoch l) = portControls s := by
  simp [foldNotice, apply_ite portControls]

@[simp] theorem portControls_beginFold (l : FoldLoss) : portControls (beginFold s i l) = portControls s := by
  unfold beginFold
  split <;> simp

@[simp] theorem portControls_setGone (q : Nat) : portControls (setGone s i q) = portControls s := by simp [setGone, apply_ite portControls]

/-! ## The loss of a link (R335) -/

@[simp] theorem portControls_setPort (p v : Nat) : portControls (setPort s i p v) = portControls s :=
  (portControls_of_fld fun j x => by rw [State.fld, st_setPort, State.fld]).trans
    (portControls_setFld s i (f := .LINK_PORTp_STAT_0_STATE) (by decide) p v)

@[simp] theorem portControls_dropLink (p : Nat) : portControls (dropLink s i p) = portControls s := portControls_of_fld fun _ _ => fld_dropLink ..

theorem portControls_holdover (p : Nat) : portControls (holdover s i p) = portControls s := by
  simp [holdover, holdoverReport, apply_ite portControls]

theorem portControls_linkDropped (p : Nat) : portControls (linkDropped s i p) = portControls s := by
  have halm (t : State) : portControls (almLink t i p 12 4) = portControls t := rfl
  simp [linkDropped, halm]

/-- A link that is lost leaves the controls of every port. -/
theorem portControls_loseLink (p : Nat) : portControls (loseLink s i p) = portControls s := by
  rw [loseLink_eq]
  simp only [apply_ite portControls, portControls_setGone, portControls_beginFold, portControls_holdover, portControls_linkDropped, ite_self]

end

end Sys2Proof.Machine
end

section
/-! PROOF. The training states of a port (Table 12-7, R338). -/

namespace Sys2Proof.Machine

section
variable {s : State} {i : SetId} {p : Nat}

/-! ## States of training -/

/-- With every bundle there and enough of them a trained port goes on. -/
theorem trained_of_all {bundles : Nat} (hall : ∀ b < bundlesOf p, bit bundles b = true) (henough : tooFew s i p = false) (next : Nat) :
    trained s i p bundles next = setPort s i p next := by
  have hkeeps : (List.range (bundlesOf p)).foldl (fun s b => if bit bundles b then s else excludeBundle s i p b) s = s :=
    foldl_of_fixed fun b hb => if_pos (hall b (List.mem_range.1 hb))
  simp [trained, hkeeps, henough]

/-- The ports of a set are not settled while one of them trains. -/
theorem portsSettled_of_training (hp : p < 5) (hstate : portState s i p = 4 ∨ portState s i p = 5) : portsSettled s i = false := by
  refine List.all_eq_false.2 ⟨p, List.mem_range.2 hp, ?_⟩
  rcases hstate with h | h <;> simp [portSettled, h]

/-- A port that goes on with its training sends no table. -/
theorem out_setPort_of_training (hp : p < 5) : (setPort s i p 5).out = s.out := by
  have hstate : portState (showStage (s.setFld i .LINK_PORTp_STAT_0_STATE p 5)) i p = 5 := by
    rw [portState, fld_showStage, State.fld_setFld_same]
    rfl
  rw [setPort, reportTable, portsSettled_of_training hp (.inr hstate), if_pos (by simp), out_showStage, State.setFld_out]

/-- The identification that a port sends holds nothing of its state. -/
theorem identBytes_setPort (v : Nat) : identBytes (setPort s i p v) i p (setPort s i p v).cardDigest = identBytes s i p s.cardDigest := by
  have hpackage : (setPort s i p v).fwVer = s.fwVer ∧ (setPort s i p v).cardDigest = s.cardDigest := by
    obtain ⟨w, h | h⟩ := showStage_eq (s.setFld i .LINK_PORTp_STAT_0_STATE p v) <;>
      · rw [setPort, reportTable, h]
        split <;> simp
  obtain ⟨hfw, hdigest⟩ := hpackage
  simp [identBytes, hfw, hdigest]

/-! ## Identification -/

/-- The port shows the record. -/
def identShown (s : State) (i : SetId) (p : Nat) (rec : List Byte) : State :=
  let s := onLink s i p fun l => { l with ident := some rec }
  let s := s.setFld i .LINK_PORTp_STAT_1_PEER_LOC p (leAt rec 4 4)
  let s := s.setFld i .LINK_PORTp_STAT_1_PEER_SET p (leAt rec 4 4 / 2 ^ 18)
  let s := s.setFld i .LINK_PORTp_STAT_1_PEER_PORT p (leAt rec 3 1)
  let s := s.setFld i .LINK_PORTp_STAT_1_PEER_FW p (leAt rec 8 4)
  let s := s.setFld i .LINK_PORTp_STAT_1_PEER_3400 p (bitOf (leAt rec 0 2 = 0x3400))
  s.setFld i .LINK_PORTp_STAT_1_FEAT p (commonFeat s i rec)

/-- What the record leads to: a refusal, the next state of training, or nothing yet. -/
def identJudged (s : State) (i : SetId) (p : Nat) (rec : List Byte) : State :=
  if !bit (leAt rec 4 4) 19 ∨ s.fld i .LINK_IDENT_STRAP_VALID = 0 then refusePort s i p .strapInvalid none
  else if commonVer s i rec = 0 then refusePort s i p .linkVersion (some .LINK_PORTp_EVT_VERSION)
  else if leAt rec 0 2 = 0x3400 ∧ s.fld i .LINK_PORTp_CFG_0_PEER_3400 p = 0 then refusePort s i p .linkCrossed (some .LINK_PORTp_EVT_CROSSED)
  else if leAt rec 0 2 = 0x4820 ∧ slice rec 24 8 ≠ slice s.cardDigest 0 8 then refusePort s i p .linkPlan (some .LINK_PORTp_EVT_PLAN)
  else if recPeer rec = planPeer s i p ∧ leAt rec 3 1 % 8 = s.fld i .LINK_PORTp_CFG_0_PEER_PORT p then toConfig s i p rec
  else s

/-- The first record of a port that waits for one is shown and judged. -/
theorem identArrives_of_first (hstate : portState s i p = 5) (hnone : (lport s i p).ident = none) (rec : List Byte) :
    identArrives s i p rec = settleKind (identJudged (identShown s i p rec) i p rec) i p :=
  if_neg (by simp [hstate, hnone])

/-- Showing the record writes the peer's fields only. -/
theorem fld_identShown {f : Field} (hf : f ∉ [Field.LINK_PORTp_STAT_1_PEER_LOC, .LINK_PORTp_STAT_1_PEER_SET, .LINK_PORTp_STAT_1_PEER_PORT,
    .LINK_PORTp_STAT_1_PEER_FW, .LINK_PORTp_STAT_1_PEER_3400, .LINK_PORTp_STAT_1_FEAT]) (x : Nat) (rec : List Byte) :
    (identShown s i p rec).fld i f x = s.fld i f x := by
  simp only [List.mem_cons, List.not_mem_nil, or_false, not_or] at hf
  simp [identShown, hf]

/-- What an identification record leaves at its port, whatever the record leads to. -/
structure IdentKept (i : SetId) (p : Nat) (t u : State) : Prop where
  port : lport u i p = lport t i p
  loc : u.fld i .LINK_PORTp_STAT_1_PEER_LOC p = t.fld i .LINK_PORTp_STAT_1_PEER_LOC p
  feat : u.fld i .LINK_PORTp_STAT_1_FEAT p = t.fld i .LINK_PORTp_STAT_1_FEAT p

theorem lport_report (s : State) (i : SetId) (r : FRec) (p : Nat) : lport (report s i r) i p = lport s i p :=
  (congrArg (fun t : SetSt => SMap.get {} t.links p) (units_of_besidesStore (besidesStore_report s i r) i) :)

theorem refusePort_kept (s : State) (i : SetId) (p : Nat) (c : FC) {ev : Option Field} (hev : ev = none ∨ ∃ f, ev = some f ∧
    f ≠ .LINK_PORTp_STAT_1_PEER_LOC ∧ f ≠ .LINK_PORTp_STAT_1_FEAT) : IdentKept i p s (refusePort s i p c ev) := by
  obtain rfl | ⟨f, rfl, hloc, hfeat⟩ := hev
  · exact ⟨by simp [refusePort, linkFault, lport_report], by simp [refusePort, linkFault, fld_report, logFields],
      by simp [refusePort, linkFault, fld_report, logFields]⟩
  · exact ⟨by simp [refusePort, linkFault, lport_report], by simp [refusePort, linkFault, fld_report, logFields, hloc.symm],
      by simp [refusePort, linkFault, fld_report, logFields, hfeat.symm]⟩

theorem toConfig_kept (s : State) (i : SetId) (p : Nat) (rec : List Byte) : IdentKept i p s (toConfig s i p rec) := by
  have hemit (t : State) (a : List Nat) (f : Field) : (t.emit .linkConfig i.val a).fld i f p = t.fld i f p := rfl
  have hport (t : State) (a : List Nat) : lport (t.emit .linkConfig i.val a) i p = lport t i p := rfl
  exact ⟨by rw [toConfig, hport, lport_setPort], by rw [toConfig, hemit]; simp, by rw [toConfig, hemit]; simp⟩

theorem identJudged_kept (s : State) (i : SetId) (p : Nat) (rec : List Byte) : IdentKept i p s (identJudged s i p rec) := by
  unfold identJudged
  split
  · exact refusePort_kept s i p .strapInvalid (.inl rfl)
  split
  · exact refusePort_kept s i p .linkVersion (.inr ⟨_, rfl, by decide, by decide⟩)
  split
  · exact refusePort_kept s i p .linkCrossed (.inr ⟨_, rfl, by decide, by decide⟩)
  split
  · exact refusePort_kept s i p .linkPlan (.inr ⟨_, rfl, by decide, by decide⟩)
  split
  · exact toConfig_kept s i p rec
  · exact ⟨rfl, rfl, rfl⟩

theorem portState_refusePort (s : State) (i : SetId) (p : Nat) (c : FC) (ev : Option Field) : portState (refusePort s i p c ev) i p = 9 :=
  portState_setPort _ i p (by omega)

end

/-- Settles O36: each step of training asks the port's state, and goes on, refuses or reports. -/
theorem linkTraining : Obligations.LinkTraining := by
  refine fun s i p => ⟨fun hstate => ⟨?detect, ?missing⟩, fun hstate => ?extra, fun bundles hall henough => ⟨fun hstate => ?equalise,
    fun hstate => ?align⟩, fun rec hlen hstate hnone => ?ident, fun lp tof rec hstate hrec hpeer hfw hmin hmax => ?config, ?disable,
    fun hactive hretrain hon hlost => ?rescan⟩
  case detect =>
    change execPortSignalDetect i p s = _
    simp [execPortSignalDetect, hstate]
  case missing => exact if_neg (not_not.2 hstate)
  case extra =>
    change execPortSignalDetect i p s = _
    simp [execPortSignalDetect, hstate]
  case equalise =>
    change execPortEqualiseDone i p bundles s = _
    rw [execPortEqualiseDone, if_pos hstate, trained_of_all hall henough]
  case align =>
    have hnext := portState_setPort s i p.val (v := 5) (by omega)
    refine ⟨(setPort s i p.val 5).emit .linkIdent i.val [p.val] (identBytes (setPort s i p.val 5) i p.val (setPort s i p.val 5).cardDigest),
      ?_, hnext, ?_⟩
    · change execPortAlignDone i p bundles s = _
      simp [execPortAlignDone, hstate, trained_of_all hall henough, hnext]
    · rw [identBytes_setPort, State.emit, out_setPort_of_training p.isLt, State.emit]
  case ident =>
    have hloc : Field.LINK_PORTp_STAT_1_PEER_LOC.info.len = 18 := rfl
    have hevent : Field.LINK_PORTp_EVT_VERSION.info.len = 1 := rfl
    have hkept := identJudged_kept (identShown s i p.val rec) i p.val rec
    have hslice : slice rec 0 64 = rec := by simp [slice, ← hlen]
    refine ⟨identJudged (identShown s i p.val rec) i p.val rec, ?_, ?_, ?_, ?_, ?_, ?_⟩
    · change Host.Outcome.next (identArrives s i p.val (slice rec 0 64)) = _
      rw [hslice, identArrives_of_first hstate hnone]
    · rw [hkept.port]
      simp [identShown]
    · rw [hkept.loc]
      simp [identShown, hloc]
    · rw [hkept.feat]
      simp [identShown, commonFeat, commonVer]
    · intro hunstrapped
      rw [identJudged, if_pos (by simp [hunstrapped]), portState_refusePort]
    · intro hstrapped hvalid hversion
      have hshown : (identShown s i p.val rec).fld i .LINK_IDENT_STRAP_VALID = 1 := by rw [fld_identShown (by decide), hvalid]
      have hcommon : commonVer (identShown s i p.val rec) i rec = 0 := by rw [commonVer, fld_identShown (by decide), ← commonVer, hversion]
      rw [identJudged, if_neg (by simp [hstrapped, hshown]), if_pos hcommon]
      exact ⟨portState_refusePort .., by simp [refusePort, linkFault, fld_report, logFields, hevent]⟩
  case config =>
    change execConfigRecord i p lp false tof s = _
    simp [execConfigRecord, hrec, hstate, hpeer, hfw, Nat.not_lt.2 hmin, Nat.not_lt.2 hmax]
  case disable =>
    have hlen : Field.LINK_PORTp_CTL_DISABLE.info.len = 1 := rfl
    refine ⟨_, rfl, portState_setPort _ i p.val (by omega), ?_⟩
    have hkept := congrFun (congrFun (portControls_loseLink (s.setFld i .LINK_PORTp_CTL_DISABLE p.val 1) i p.val) i) p.val
    rw [show writeDisable s i p.val true = setPort (loseLink (s.setFld i .LINK_PORTp_CTL_DISABLE p.val 1) i p.val) i p.val 0 from rfl,
      fld_setPort, State.fld_setFld_ne _ _ (by simp)]
    exact hkept.trans (by simp [portControls, hlen])
  case rescan =>
    refine ⟨startPort s i p.val, ?_, ?_⟩
    · change Host.Outcome.next (settle (rescan s i p.val) i) = _
      simp [rescan, hactive, hretrain, hon, hlost]
    · rw [startPort, portState_setPort _ _ _ (by split <;> [omega; (split <;> omega)])]
      simp [hon]

end Sys2Proof.Machine
end
